-- ==== Sys2Proof/Word.lean ====
section
/-! DEFINITION. The word types of the Rilivo 6480 model and nothing else: the 32-bit register word (R29), the byte, the
40-bit internal address (R162) and the 64-bit quantities of LO/HI pairs (R30). -/

namespace Sys2Proof

/-- One byte of any memory. -/
abbrev Byte := BitVec 8

/-- A register access or syllable word: registers are accessed only by aligned 32-bit reads and writes (R29). -/
abbrev Word := BitVec 32

/-- An address of the 40-bit internal address map (R162). -/
abbrev Addr := BitVec 40

/-- A 64-bit quantity held as a LO/HI pair (R30), and device time in nanoseconds (R394). -/
abbrev DWord := BitVec 64

end Sys2Proof
end

