-- ==== Sys2Proof/Syntax.lean ====
section
/-! DEFINITION. The commands of the block: one constructor of `Instr` for each row of spec/opcode_table.json, in the
table's order, with the operands that the row's rule gives it. A command is a register access, an operation issued by a
core, or an event of the device or of its pins; the table gives no row any bits, so a command is never spelled by a word. -/

namespace Sys2Proof

/-- A requester of R35. Its code is `Requester.code`. -/
inductive Requester where
  | mgmt
  | jtag
  | fn (f : Fin 16)
  | core (n : Fin 6)
  | chan (c : Fin 32)
  | peer (p : Fin 16)
  | strx
  | codec
  | pfe
  | ctlio
  | pacer
  | update
  | sec
  | other
  deriving DecidableEq, Repr

/-- The processor that issues an operation: one of the six Ulurik cores (R81) or the management processor (R125). -/
inductive Proc where
  | core (n : Fin 6)
  | mgmt
  deriving DecidableEq, Repr

/-- The slots of R83. -/
inductive Slot where
  | s | a | l0 | l1 | v0 | v1 | x
  deriving DecidableEq, Repr

/-- The slots in which a scalar word access may stand: LDW and STW are listed for A, L0 and L1 (R92). -/
inductive WordSlot where
  | a | l0 | l1
  deriving DecidableEq, Repr

/-- The optional extension syllable of R85: 28 bits placed above the immediate field. -/
abbrev Ext := Option (BitVec 28)

/-- The operand fields of the MEM format (R86): data register, pointer, mode, and the low ten bits, which hold imm10 in
MODE 1 and the o register number in [9:6] in the modes that use one. -/
structure MemForm where
  r : Fin 32
  p : Fin 16
  mode : BitVec 3
  low : BitVec 10
  deriving DecidableEq, Repr

/-- The operand fields of the V format (R86, R88). -/
structure VForm where
  d : Fin 32
  a : Fin 32
  b : Fin 32
  masked : Bool
  m : Fin 8
  type : BitVec 3
  deriving DecidableEq, Repr

/-- The operand fields of the GS format (R86, R116). -/
structure GsForm where
  d : Fin 32
  p : Fin 16
  idx : Fin 32
  esize : BitVec 2
  scale : BitVec 2
  masked : Bool
  m : Fin 8
  deriving DecidableEq, Repr

/-- Where an issued syllable stands: its processor and whether its END bit closes the bundle (R83, R84). -/
structure At where
  p : Proc
  fin : Bool
  deriving DecidableEq, Repr

/-- The memory in which a parity detection is made, and the reader that made it (R151). -/
inductive ParityPlace where
  | buffers (core : Fin 6) (reader : Requester)  -- ABUF, WBUF, ACCBUF, SBUF and the weight banks (R178)
  | pmem (core : Fin 6) (reader : Requester)
  | cmemOwn (core : Fin 6) (row : Fin 32768) (byPreceding : Bool)
  | cmemNoc (core : Fin 6) (row : Fin 32768) (reader : Requester)
  | shmStep (core : Fin 6) (line : BitVec 18)
  | shmOther (line : BitVec 18) (reader : Requester)
  | mgmtSram (off : BitVec 19) (reader : Requester)
  | carafe (off : BitVec 14)
  deriving DecidableEq, Repr

/-- What finishes in BLOCK_REPORTS_READY (R402): the L3 reset of a page, of a PCIe function, or of the link's functions. -/
inductive ReadyTarget where
  | page (n : Fin 32)
  | fn (f : Fin 16)
  deriving DecidableEq, Repr

/-- The capabilities that R337 names, supported or not. -/
inductive PcieCap where
  | msix | sriov | aer | flr | ptm | aspmL1 | msi | intx | ats | pasid | l0s | resizableBar
  deriving DecidableEq, Repr

/-- What a host configuration request sets, or reads: a function's identity, or whether a capability is there (R337, R338). -/
inductive ConfigRequest where
  | vfEnable (on : Bool) (num : Fin 16)
  | busMaster (f : Fin 16) (on : Bool)
  | msixEnable (f : Fin 16) (on : Bool) (mask : Bool)
  | ptmEnable (on : Bool)
  | identity (f : Fin 16)
  | capability (c : PcieCap)
  deriving DecidableEq, Repr

/-- The ways in which the link is lost (R356). -/
inductive LinkLossKind where
  | perst | hotReset | linkDown
  deriving DecidableEq, Repr

/-- A BAR2 request: its source and what it does (R341, R366). -/
inductive Bar2Source where
  | host (f : Fin 16)
  | rid (r : BitVec 16)
  deriving DecidableEq, Repr

/-- How the memory answers a request: well, well after the correction of a single-bit error in DRAM (R158), with an uncorrectable
DRAM error (R158), or not within the limit of R160. -/
inductive Answered where
  | good | corrected | uncorrectable | never
  deriving DecidableEq, Repr

/-- A received Ethernet frame (R294, R295): whether the FCS was good, and its bytes as received, the four of the FCS left out. -/
structure RxFrame where
  fcsOk : Bool
  bytes : List Byte
  deriving DecidableEq, Repr

/-- A received CSI-2 packet (R312, R313): virtual channel, data type, the outcome of the header ECC and of the CRC, and
the payload's line of samples. -/
structure CsiPacket where
  vc : BitVec 4
  dt : BitVec 6
  eccFixed : Bool
  eccBad : Bool
  crcBad : Bool
  line : List (BitVec 14)
  deriving DecidableEq, Repr

/-- What an AVSBus poll returned (R389): each of the frames sent (the first and up to three repeats) with its Status and
Voltage, `none` where there was no response or the CRC was bad. -/
structure AvsReply where
  done : Bool
  mv : BitVec 10
  deriving DecidableEq, Repr

/-- The chroma of a decoded picture (R306): 4:2:0, 4:2:2, or none. -/
inductive Chroma where
  | c420 | c422 | grey
  deriving DecidableEq, Repr

/-- What the decoder makes of a frame, by the bitstream formats, which rest on external standards (R306 to R309): whether it is
damaged or a key frame; the picture's size, chroma and depth (10 bits where `deep`); its rows of luma, and of Cb and Cr in turn;
and the bytes that the stream's reference pictures take. -/
structure DecodeResult where
  damaged : Bool
  key : Bool
  width : Nat
  height : Nat
  chroma : Chroma
  deep : Bool
  luma : List (List (BitVec 10))
  cbcr : List (List (BitVec 10))
  refBytes : Nat
  deriving DecidableEq, Repr

/-- The commands: one constructor per row of spec/opcode_table.json, in its order. -/
inductive Instr where
  -- register accesses (R15 to R36); `off` is the offset in the register region, which is a function's BAR0 offset (R339)
  | registerWrite (req : Requester) (off : BitVec 18) (size : Nat) (value : Word)
  | enable (req : Requester) (page : Fin 32) (on : Bool)
  | commit (req : Requester) (page : Fin 32)
  | funcReset (req : Requester) (page : Fin 32)
  | stagedCommitApply (page : Fin 32)
  | blockDrained (page : Fin 32)
  | irqStatClear (req : Requester) (page : Fin 32) (value coincident : Word)
  | irqSet (req : Requester) (page : Fin 32) (value : Word)
  | chSelWrite (req : Requester) (page : Fin 32) (value : Word)
  | errInfoClear (req : Requester) (page : Fin 32) (value : Word)
  | pairLoRead (req : Requester) (off : BitVec 18)
  | pairLoWrite (req : Requester) (off : BitVec 18) (value : Word)
  | detLogRead (req : Requester)
  | satCntRead (req : Requester) (core : Fin 6)
  | csiErrRead (req : Requester)
  | peerErrRead (req : Requester)
  | erasedRead (req : Requester)
  -- the pacer (R37 to R80)
  | classEntryWrite (req : Requester) (off : BitVec 12) (value : Word)
  | admitCmd (req : Requester)
  | revoke (req : Requester) (cls : Fin 64)
  | shrink (req : Requester) (cls : Fin 64)
  | release (req : Requester) (cls : Fin 64)
  | fence (req : Requester) (arg : Fin 64)
  | unfence (req : Requester) (arg : Fin 64)
  | readmit (req : Requester) (cls : Fin 64)
  | nextCommandStart
  | railTimeout
  | jobRelease (job : Nat)
  | jobReady (job : Nat)
  | stepStart (core : Fin 6) (answered : Answered)
  | stepCommit (core : Fin 6)
  | completionHandoff (job : Nat)
  | deadlinePass (job : Nat)
  | overrun (core : Fin 6)
  | parityDetection (place : ParityPlace)
  | carryCopyComplete (job : Nat) (share : Fin 6)
  | fenceHoldEnd (core : Fin 6)
  | paceWindow (core : Fin 6) (busy : Bool) (steps : Nat)
  | sensorReading (readings : Vector (BitVec 12) 7)
  | thermalDrained
  | thermalRetry
  | coreWatchdogExpiry (core : Fin 6)
  -- slot S (R92)
  | nop (at_ : At) (slot : Slot)
  | add (at_ : At) (d a b : Fin 32)
  | addi (at_ : At) (d a : Fin 32) (imm : BitVec 12) (ext : Ext)
  | sub (at_ : At) (d a b : Fin 32)
  | and (at_ : At) (d a b : Fin 32)
  | or (at_ : At) (d a b : Fin 32)
  | xor (at_ : At) (d a b : Fin 32)
  | shl (at_ : At) (d a b : Fin 32) (sub : BitVec 7)
  | shr (at_ : At) (d a b : Fin 32) (sub : BitVec 7)
  | sra (at_ : At) (d a b : Fin 32) (sub : BitVec 7)
  | slt (at_ : At) (d a b : Fin 32)
  | sltu (at_ : At) (d a b : Fin 32)
  | mul (at_ : At) (d a b : Fin 32)
  | mulh (at_ : At) (d a b : Fin 32)
  | movi (at_ : At) (d : Fin 32) (imm : BitVec 17) (ext : Ext)
  | bnz (at_ : At) (a : Fin 32) (off : BitVec 17)
  | bz (at_ : At) (a : Fin 32) (off : BitVec 17)
  | jmp (at_ : At) (off : BitVec 17)
  | call (at_ : At) (off : BitVec 17)
  | jr (at_ : At) (a : Fin 32)
  | reti (at_ : At)
  | resume (at_ : At)
  | repeatOp (at_ : At) (len : Fin 32) (cnt : Fin 1024) (rot reg : Bool) (g : Fin 32)
  | getcr (at_ : At) (d : Fin 32) (sub : BitVec 7)
  | setcr (at_ : At) (a : Fin 32) (sub : BitVec 7)
  | stepend (at_ : At) (last : Bool)
  | evpostOp (at_ : At) (a : Fin 32)
  | mfence (at_ : At)
  | trap (at_ : At) (imm : BitVec 17) (ext : Ext)
  -- slot A (R92)
  | paddi (at_ : At) (d a : Fin 16) (imm : BitVec 12) (ext : Ext)
  | paddo (at_ : At) (d a : Fin 16) (b : Fin 32)
  | pli (at_ : At) (d : Fin 16) (imm : BitVec 17) (ext : Ext)
  | oli (at_ : At) (d : Fin 16) (imm : BitVec 17) (ext : Ext)
  | gtop (at_ : At) (d : Fin 16) (a b : Fin 32)
  | ptog (at_ : At) (d : Fin 32) (a : Fin 16) (sub : BitVec 7)
  | rrot (at_ : At)
  | ldw (at_ : At) (slot : WordSlot) (f : MemForm)
  | ldh (at_ : At) (f : MemForm)
  | ldb (at_ : At) (f : MemForm)
  | stw (at_ : At) (slot : WordSlot) (f : MemForm)
  | sth (at_ : At) (f : MemForm)
  | stb (at_ : At) (f : MemForm)
  | ldf (at_ : At) (f : MemForm)
  | stf (at_ : At) (f : MemForm)
  | faddS (at_ : At) (d a b : Fin 32)
  | fmulS (at_ : At) (d a b : Fin 32)
  | fmaS (at_ : At) (d a b : Fin 32)
  | faddD (at_ : At) (d a b : Fin 32)
  | fmulD (at_ : At) (d a b : Fin 32)
  | fdivS (at_ : At) (d a b : Fin 32)
  | fcvt (at_ : At) (d a : Fin 32) (sub : BitVec 7)
  | fcmp (at_ : At) (d a b : Fin 32) (sub : BitVec 7)
  | gtof (at_ : At) (d a : Fin 32)
  | ftog (at_ : At) (d a : Fin 32)
  | svadd (at_ : At) (d a b : Fin 32) (sub : BitVec 7)
  | svmul (at_ : At) (d a b : Fin 32) (sub : BitVec 7)
  | svfma (at_ : At) (d a b : Fin 32) (sub : BitVec 7)
  -- slots L0 and L1; `l1` names the slot
  | vld (at_ : At) (l1 : Bool) (f : MemForm)
  | vst (at_ : At) (l1 : Bool) (f : MemForm)
  | vldb (at_ : At) (l1 : Bool) (f : MemForm)
  | gather (at_ : At) (l1 : Bool) (f : GsForm)
  | scatter (at_ : At) (l1 : Bool) (f : GsForm)
  -- slots V0 and V1; `v1` names the slot
  | vadd (at_ : At) (v1 : Bool) (f : VForm)
  | vsub (at_ : At) (v1 : Bool) (f : VForm)
  | vadds (at_ : At) (v1 : Bool) (f : VForm)
  | vsubs (at_ : At) (v1 : Bool) (f : VForm)
  | vmul (at_ : At) (v1 : Bool) (f : VForm)
  | vmulh (at_ : At) (v1 : Bool) (f : VForm)
  | vmin (at_ : At) (v1 : Bool) (f : VForm)
  | vmax (at_ : At) (v1 : Bool) (f : VForm)
  | vabsd (at_ : At) (v1 : Bool) (f : VForm)
  | vand (at_ : At) (v1 : Bool) (f : VForm)
  | vor (at_ : At) (v1 : Bool) (f : VForm)
  | vxor (at_ : At) (v1 : Bool) (f : VForm)
  | vshl (at_ : At) (v1 : Bool) (f : VForm)
  | vshr (at_ : At) (v1 : Bool) (f : VForm)
  | vavg (at_ : At) (v1 : Bool) (f : VForm)
  | vcmpeq (at_ : At) (v1 : Bool) (f : VForm)
  | vcmplt (at_ : At) (v1 : Bool) (f : VForm)
  | vcmple (at_ : At) (v1 : Bool) (f : VForm)
  | vsel (at_ : At) (v1 : Bool) (f : VForm)
  | vperm (at_ : At) (v1 : Bool) (f : VForm)
  | vbcast (at_ : At) (v1 : Bool) (f : VForm)
  | vmac (at_ : At) (v1 : Bool) (f : VForm)
  | vmsu (at_ : At) (v1 : Bool) (f : VForm)
  | vacclr (at_ : At) (v1 : Bool) (f : VForm)
  | vmova (at_ : At) (v1 : Bool) (f : VForm)
  | vnarrow (at_ : At) (v1 : Bool) (f : VForm)
  | vwiden (at_ : At) (v1 : Bool) (f : VForm)
  | vfadd (at_ : At) (v1 : Bool) (f : VForm)
  | vfmul (at_ : At) (v1 : Bool) (f : VForm)
  | vfma (at_ : At) (v1 : Bool) (f : VForm)
  | vcvt (at_ : At) (v1 : Bool) (f : VForm)
  | vred (at_ : At) (v1 : Bool) (f : VForm)
  | vrange (at_ : At) (v1 : Bool) (f : VForm)
  | vscale (at_ : At) (v1 : Bool) (f : VForm)
  | vquant (at_ : At) (v1 : Bool) (f : VForm)
  | vdeq (at_ : At) (v1 : Bool) (f : VForm)
  | vgquant (at_ : At) (v1 : Bool) (f : VForm)
  | vmoment (at_ : At) (v1 : Bool) (f : VForm)
  | vcbfit (at_ : At) (v1 : Bool) (f : VForm)
  | vmwupd (at_ : At) (v1 : Bool) (f : VForm)
  -- slot X
  | naq (at_ : At) (v : Fin 32) (q : Fin 4)
  | nawait (at_ : At) (n : BitVec 5)
  | dmakick (at_ : At) (g : Fin 32)
  | dmawait (at_ : At) (g : Fin 32)
  -- events of the processors
  | waitRelease (p : Proc) (steps : Nat)
  | remoteAccessComplete (p : Proc) (answered : Answered)
  | interruptEntry (p : Proc)
  | wdtKick (req : Requester) (value : Word)
  | mgmtWatchdogExpiry
  -- the neural array of a core (R166 to R208)
  | loadw (core : Fin 6)
  | convPass (core : Fin 6)
  | wino (core : Fin 6)
  | matmul (core : Fin 6)
  | epilog (core : Fin 6)
  | argmax (core : Fin 6)
  | sync (core : Fin 6)
  | trainmode (core : Fin 6)
  | arrayCommandComplete (core : Fin 6) (index : Fin 16)
  -- memories (R131 to R165)
  | goldenRestoreComplete (line : BitVec 18) (dramOk : Bool)
  | restoreWaitEnd (line : BitVec 18)
  | sliceDrained (n : Fin 4)
  | slicePowerTimeout (n : Fin 4)
  | semPost (req : Requester) (k : Fin 4) (value : Word)
  | semWaitThreshold (req : Requester) (k : Fin 4) (value : Word)
  | semWait (req : Requester) (k : Fin 4)
  | semWaitTimeout (req : Requester)
  | semTake (req : Requester) (k : Fin 4)
  | semSet (req : Requester) (k : Fin 4) (value : Word)
  | scrubStart (req : Requester) (value : Word)
  | scrubDone
  | patrolPass (corrected : Nat)
  | nocTimeout (p : Proc)
  -- the transfer engine (R265 to R293); the channel is the one the requester's CH_SEL names
  | kick (req : Requester)
  | disarm (req : Requester) (handoverPending : Bool)
  | clear (req : Requester)
  | shadowArm (req : Requester)
  | channelDisable (req : Requester)
  | channelEnable (req : Requester)
  | descriptorFetch (ch : Fin 32) (answered : Answered)
  | moverGrant (ch : Fin 32) (mover : Fin 4) (beats corrected : Nat)
  | transferEnd (ch : Fin 32)
  | writebackComplete (ch : Fin 32)
  | transferHalt (ch : Fin 32) (code : Byte) (addr : Addr)
  -- streams, codec, sensors (R294 to R316)
  | ethFrameRx (port : Fin 2) (frame : RxFrame)
  | ethTx (port : Fin 2) (answered : Answered)
  | ethLinkChange (port : Fin 2) (up : Bool)
  | reorderTimeout (entry : Fin 512)
  | frameTimeout (entry : Fin 512)
  | streamEntryWrite (req : Requester) (k : Fin 8) (value : Word)
  | qcmdDiscard (req : Requester)
  | qcmdNext (req : Requester)
  | outRelease (req : Requester) (k : Fin 8) (value : Word)
  | decodeStart (answered : Answered)
  | decodeDone (res : DecodeResult)
  | outputBufferTimeout
  | encodeStart (answered : Answered)
  | encodeDone (key : Bool) (bits : List Byte)
  | doutRelease (req : Requester) (value : Word)
  | csiPacket (input : Fin 4) (pkt : CsiPacket)
  | csiFrameEnd (input : Fin 4)
  | pfeFrameWritten (input : Fin 4) (out : Fin 4)
  | bufRelease (req : Requester) (out : Fin 4) (value : Word)
  -- control I/O (R317 to R336)
  | inputPinChange (pin : Fin 16) (level : Bool)
  | debounceExpiry (pin : Fin 16)
  | outSet (req : Requester) (value : Word)
  | outClr (req : Requester) (value : Word)
  | pwmPeriodBoundary (p : Fin 4)
  | uartDataWrite (req : Requester) (u : Fin 2) (value : Word)
  | uartDataRead (req : Requester) (u : Fin 2)
  | uartRxByte (u : Fin 2) (data : Byte) (perr ferr : Bool)
  | uartTxByte (u : Fin 2)
  | evPost (req : Requester) (value : Word)
  | rulePass
  | ruleTimerExpiry (t : Fin 8)
  | pulseEnd (out : Fin 8)
  | windowExpiry (rule : Fin 64) (condB : Bool)
  | templateTx (port : Fin 2)
  -- host interface (R337 to R359)
  | sqDoorbell (req : Requester) (q : Fin 4) (value : Word)
  | cqDoorbell (req : Requester) (q : Fin 4) (value : Word)
  | queueEnable (req : Requester) (value : Word)
  | sqEntryFetch (q : Fin 68) (answered : Answered)
  | jobEntry (answered : Answered)
  | abortEntry
  | irqAggTimeout (q : Fin 68)
  | flr (f : Fin 16)
  | fnReset (req : Requester) (f : Fin 16)
  | linkLoss (kind : LinkLossKind)
  | linkTrainingStart
  | bar2Access (src : Bar2Source) (off : BitVec 36) (write : Option (List Byte)) (len : Nat) (answered : Answered)
  | ptmDialogue (ok : Bool) (master : DWord) (delay : BitVec 16)
  | classGive (req : Requester) (cls : Fin 64) (owner : Byte)
  -- herds and the link fault injector (R360 to R381)
  | statusRecordSend (refused : Option Byte)
  | statusRecordRx (rid : BitVec 16) (record : Vector Word 16)
  | peerMiss (peer : Fin 16)
  | mbxSend (req : Requester) (value : Word)
  | messageRx (rid : BitVec 16) (sender : Fin 16) (slot : Nat) (aligned : Bool) (message : Vector Word 16)
  | gapTimeout (peer : Fin 16)
  | rxDone (req : Requester) (value : Word)
  | lfiEnable (req : Requester) (value : Word)
  | lfiReorderTimeout (ch : Fin 4)
  -- power, reset and time (R382 to R417)
  | powerDomainRequest (req : Requester) (n : Fin 20) (value : Word)
  | domainStateReached (n : Fin 20)
  | dramTrained (gib : Fin 65) (channels : BitVec 16)
  | railPoll (replies : List (Option AvsReply))
  | resetSourceAssert (src : Fin 14)
  | resetSourceRelease (src : Fin 14)
  | resetStretchEnd (src : Fin 14)
  | deferralEnd
  | swrst (req : Requester) (value : Word)
  | recover (req : Requester) (value : Word)
  | serviceDeclare (req : Requester) (value : Word)
  | fuseReadComplete
  | crystalStart
  | timeSet (req : Requester) (lo : Word)
  | ppsPulse
  | dripModeWrite (req : Requester) (value : Word)
  | i2cGo (req : Requester) (m : Fin 2) (value : Word)
  | i2cDone (m : Fin 2) (nack : Bool) (data : DWord)
  -- trust and update (R418 to R438)
  | provision (req : Requester) (arg : Fin 4) (key : BitVec 16)
  | deploy (req : Requester) (key : BitVec 16)
  | returnLc (req : Requester) (key : BitVec 16)
  | revokeOwnerHash (req : Requester) (arg : Fin 4) (key : BitVec 16)
  | tamper
  | secureBoot
  | debugRequest (req : Requester) (value : Word)
  | dbgSubmit (req : Requester)
  | challengeExpiry
  | load (req : Requester)
  | loadDone (answered : Answered)
  | arm (req : Requester)
  | updateDisarm (req : Requester)
  | confirm (req : Requester)
  | abandon (req : Requester)
  | activationStop
  | activationTime
  | activationReset
  | sstoreWrite (req : Requester) (value : Word)
  | sstoreWriteDone
  -- the rows that follow in the table
  | registerRead (req : Requester) (off : BitVec 18) (size : Nat)
  | gpioPinChange (pin : Fin 8) (level : Bool)
  | pcieLinkUp (speed : BitVec 3) (width : BitVec 4)
  | configurationRequest (r : ConfigRequest)
  | csiSyncChange (input : Fin 4) (sync : Bool)
  | ppsWidthEnd
  | blockReportsReady (target : ReadyTarget)
  | tapInstruction (code : BitVec 5)
  | tapReset
  deriving DecidableEq, Repr

end Sys2Proof
end

