-- ==== Sys2Proof/Decode.lean ====
section
/-! DEFINITION. The syllables of program memory: the command that a word spells, by the layout of R83, the formats of R86 and the
opcodes of R92, and the word that spells a command. The opcode table gives its rows no bits; a word is read by those rules alone.
A syllable with SLOT 7 is no command of its own: it extends the one before it (R85). -/

namespace Sys2Proof

/-- Field of a syllable, by its least bit. -/
def field (w : Word) (lo len : Nat) : BitVec len := w.extractLsb' lo len

/-- A field that names one of 32, 16 or 8 registers, or of 4 quarters. A field wider than the file gives its low bits. -/
def reg32 (w : Word) (lo : Nat) : Fin 32 := (field w lo 5).toFin
def reg16 (w : Word) (lo : Nat) : Fin 16 := (field w lo 4).toFin
def reg8 (w : Word) (lo : Nat) : Fin 8 := (field w lo 3).toFin
def reg4 (w : Word) (lo : Nat) : Fin 4 := (field w lo 2).toFin

/-- The MEM, V and GS formats. -/
def memForm (w : Word) : MemForm := { r := reg32 w 17, p := reg16 w 13, mode := field w 10 3, low := field w 0 10 }

def vForm (w : Word) : VForm :=
  { d := reg32 w 17, a := reg32 w 12, b := reg32 w 7, masked := w.getLsbD 6, m := reg8 w 3, type := field w 0 3 }

def gsForm (w : Word) : GsForm :=
  { d := reg32 w 17, p := reg16 w 13, idx := reg32 w 8, esize := field w 6 2, scale := field w 4 2, masked := w.getLsbD 3
    m := reg8 w 0 }

/-- Slot S. -/
def decodeS (a : At) (w : Word) (x : Ext) : Option Instr :=
  let d := reg32 w 17
  let ra := reg32 w 12
  let rb := reg32 w 7
  let sub : BitVec 7 := field w 0 7
  let off : BitVec 17 := field w 0 17
  match (field w 22 6).toNat with
  | 0x00 => some (.nop a .s)
  | 0x01 => some (.add a d ra rb)
  | 0x02 => some (.addi a d ra (field w 0 12) x)
  | 0x03 => some (.sub a d ra rb)
  | 0x04 => some (.and a d ra rb)
  | 0x05 => some (.or a d ra rb)
  | 0x06 => some (.xor a d ra rb)
  | 0x07 => some (.shl a d ra rb sub)
  | 0x08 => some (.shr a d ra rb sub)
  | 0x09 => some (.sra a d ra rb sub)
  | 0x0A => some (.slt a d ra rb)
  | 0x0B => some (.sltu a d ra rb)
  | 0x0C => some (.mul a d ra rb)
  | 0x0D => some (.mulh a d ra rb)
  | 0x0E => some (.movi a d off x)
  | 0x10 => some (.bnz a d off)
  | 0x11 => some (.bz a d off)
  | 0x12 => some (.jmp a off)
  | 0x13 => some (.call a off)
  | 0x14 => some (.jr a ra)
  | 0x15 => some (.reti a)
  | 0x16 => some (.resume a)
  | 0x18 => some (.repeatOp a d (field w 7 10).toFin (w.getLsbD 6) (w.getLsbD 5) (reg32 w 0))
  | 0x1A => some (.getcr a d sub)
  | 0x1B => some (.setcr a ra sub)
  | 0x1C => some (.stepend a (w.getLsbD 0))
  | 0x1D => some (.evpostOp a ra)
  | 0x1E => some (.mfence a)
  | 0x1F => some (.trap a off x)
  | _ => none

/-- Slot A. -/
def decodeA (a : At) (w : Word) (x : Ext) : Option Instr :=
  let d := reg32 w 17
  let ra := reg32 w 12
  let rb := reg32 w 7
  let sub : BitVec 7 := field w 0 7
  match (field w 22 6).toNat with
  | 0x00 => some (.nop a .a)
  | 0x01 => some (.paddi a (reg16 w 17) (reg16 w 12) (field w 0 12) x)
  | 0x02 => some (.paddo a (reg16 w 17) (reg16 w 12) rb)
  | 0x03 => some (.pli a (reg16 w 17) (field w 0 17) x)
  | 0x04 => some (.oli a (reg16 w 17) (field w 0 17) x)
  | 0x05 => some (.gtop a (reg16 w 17) ra rb)
  | 0x06 => some (.ptog a d (reg16 w 12) sub)
  | 0x07 => some (.rrot a)
  | 0x08 => some (.ldw a .a (memForm w))
  | 0x09 => some (.ldh a (memForm w))
  | 0x0A => some (.ldb a (memForm w))
  | 0x0B => some (.stw a .a (memForm w))
  | 0x0C => some (.sth a (memForm w))
  | 0x0D => some (.stb a (memForm w))
  | 0x0E => some (.ldf a (memForm w))
  | 0x0F => some (.stf a (memForm w))
  | 0x10 => some (.faddS a d ra rb)
  | 0x11 => some (.fmulS a d ra rb)
  | 0x12 => some (.fmaS a d ra rb)
  | 0x13 => some (.faddD a d ra rb)
  | 0x14 => some (.fmulD a d ra rb)
  | 0x15 => some (.fdivS a d ra rb)
  | 0x16 => some (.fcvt a d ra sub)
  | 0x17 => some (.fcmp a d ra rb sub)
  | 0x18 => some (.gtof a d ra)
  | 0x19 => some (.ftog a d ra)
  | 0x20 => some (.svadd a d ra rb sub)
  | 0x21 => some (.svmul a d ra rb sub)
  | 0x22 => some (.svfma a d ra rb sub)
  | _ => none

/-- Slots L0 and L1. -/
def decodeL (a : At) (l1 : Bool) (w : Word) : Option Instr :=
  match (field w 22 6).toNat with
  | 0x00 => some (.nop a (if l1 then .l1 else .l0))
  | 0x01 => some (.vld a l1 (memForm w))
  | 0x02 => some (.vst a l1 (memForm w))
  | 0x03 => some (.vldb a l1 (memForm w))
  | 0x04 => some (.ldw a (if l1 then .l1 else .l0) (memForm w))
  | 0x05 => some (.stw a (if l1 then .l1 else .l0) (memForm w))
  | 0x08 => some (.gather a l1 (gsForm w))
  | 0x09 => some (.scatter a l1 (gsForm w))
  | _ => none

/-- Slots V0 and V1. -/
def decodeV (a : At) (v1 : Bool) (w : Word) : Option Instr :=
  let f := vForm w
  match (field w 22 6).toNat with
  | 0x00 => some (.nop a (if v1 then .v1 else .v0))
  | 0x01 => some (.vadd a v1 f)
  | 0x02 => some (.vsub a v1 f)
  | 0x03 => some (.vadds a v1 f)
  | 0x04 => some (.vsubs a v1 f)
  | 0x05 => some (.vmul a v1 f)
  | 0x06 => some (.vmulh a v1 f)
  | 0x07 => some (.vmin a v1 f)
  | 0x08 => some (.vmax a v1 f)
  | 0x09 => some (.vabsd a v1 f)
  | 0x0A => some (.vand a v1 f)
  | 0x0B => some (.vor a v1 f)
  | 0x0C => some (.vxor a v1 f)
  | 0x0D => some (.vshl a v1 f)
  | 0x0E => some (.vshr a v1 f)
  | 0x0F => some (.vavg a v1 f)
  | 0x10 => some (.vcmpeq a v1 f)
  | 0x11 => some (.vcmplt a v1 f)
  | 0x12 => some (.vcmple a v1 f)
  | 0x13 => some (.vsel a v1 f)
  | 0x14 => some (.vperm a v1 f)
  | 0x15 => some (.vbcast a v1 f)
  | 0x16 => some (.vmac a v1 f)
  | 0x17 => some (.vmsu a v1 f)
  | 0x18 => some (.vacclr a v1 f)
  | 0x19 => some (.vmova a v1 f)
  | 0x1A => some (.vnarrow a v1 f)
  | 0x1B => some (.vwiden a v1 f)
  | 0x1C => some (.vfadd a v1 f)
  | 0x1D => some (.vfmul a v1 f)
  | 0x1E => some (.vfma a v1 f)
  | 0x1F => some (.vcvt a v1 f)
  | 0x20 => some (.vred a v1 f)
  | 0x28 => some (.vrange a v1 f)
  | 0x29 => some (.vscale a v1 f)
  | 0x2A => some (.vquant a v1 f)
  | 0x2B => some (.vdeq a v1 f)
  | 0x30 => some (.vgquant a v1 f)
  | 0x31 => some (.vmoment a v1 f)
  | 0x32 => some (.vcbfit a v1 f)
  | 0x33 => some (.vmwupd a v1 f)
  | _ => none

/-- Slot X. -/
def decodeX (a : At) (w : Word) : Option Instr :=
  match (field w 22 6).toNat with
  | 0x00 => some (.nop a .x)
  | 0x01 => some (.naq a (reg32 w 17) (reg4 w 15))
  | 0x02 => some (.nawait a (field w 0 5))
  | 0x08 => some (.dmakick a (reg32 w 17))
  | 0x09 => some (.dmawait a (reg32 w 17))
  | _ => none

/-- A format that an extension may follow: RI or I17 (R84, R92). -/
def extends_ (w : Word) : Bool :=
  let op := (field w 22 6).toNat
  match (field w 28 3).toNat with
  | 0 => op == 0x02 || op == 0x0E || op == 0x1F
  | 1 => op == 0x01 || op == 0x03 || op == 0x04
  | _ => false

/-- The operation that a syllable spells, given its extension's 28 bits: none for an OPCODE that is not listed for its slot (R92),
and for SLOT 7. -/
def decodeWord (a : At) (w : Word) (x : Ext) : Option Instr :=
  match (field w 28 3).toNat with
  | 0 => decodeS a w x
  | 1 => decodeA a w x
  | 2 => decodeL a false w
  | 3 => decodeL a true w
  | 4 => decodeV a false w
  | 5 => decodeV a true w
  | 6 => decodeX a w
  | _ => none

/-- The command that a syllable and its extension, where it has one, spell for a processor (R83 to R86, R92). END stands in the
last of the two. -/
def decodeSyllable (p : Proc) (w : Word) (x : Option Word) : Option Instr :=
  match x with
  | none => decodeWord { p := p, fin := w.getLsbD 31 } w none
  | some e =>
    if extends_ w && !w.getLsbD 31 && field e 28 3 == 7 then
      decodeWord { p := p, fin := e.getLsbD 31 } w (some (field e 0 28))
    else none

/-! ### The words of a command -/

/-- A syllable: END, SLOT, OPCODE and operands (R83). -/
def syllable (fin : Bool) (slot op : Nat) (operands : BitVec 22) : Word :=
  BitVec.ofBool fin ++ (BitVec.ofNat 3 slot ++ (BitVec.ofNat 6 op ++ operands))

def num32 (r : Fin 32) : BitVec 5 := BitVec.ofFin r
def num16 (r : Fin 16) : BitVec 4 := BitVec.ofFin r
def num8 (r : Fin 8) : BitVec 3 := BitVec.ofFin r
def num4 (r : Fin 4) : BitVec 2 := BitVec.ofFin r

/-- The formats of R86, from their fields. -/
def encR3 (d a b : Fin 32) (sub : BitVec 7) : BitVec 22 := num32 d ++ (num32 a ++ (num32 b ++ sub))
def encR3p (d a : Fin 16) (b : Fin 32) : BitVec 22 := 0#1 ++ (num16 d ++ (0#1 ++ (num16 a ++ (num32 b ++ 0#7))))
def encRi (d a : Fin 32) (imm : BitVec 12) : BitVec 22 := num32 d ++ (num32 a ++ imm)
def encI17 (d : Fin 32) (imm : BitVec 17) : BitVec 22 := num32 d ++ imm

def encMem (f : MemForm) : BitVec 22 := num32 f.r ++ (num16 f.p ++ (f.mode ++ f.low))

def encV (f : VForm) : BitVec 22 :=
  num32 f.d ++ (num32 f.a ++ (num32 f.b ++ (BitVec.ofBool f.masked ++ (num8 f.m ++ f.type))))

def encGs (f : GsForm) : BitVec 22 :=
  num32 f.d ++ (num16 f.p ++ (num32 f.idx ++ (f.esize ++ (f.scale ++ (BitVec.ofBool f.masked ++ num8 f.m)))))

/-- A syllable without an extension. -/
def plain (a : At) (slot op : Nat) (x : BitVec 22) : Option (Proc × Word × Option Word) := some (a.p, syllable a.fin slot op x, none)

/-- A syllable that an extension may follow; END stands in the last of the two. -/
def extended (a : At) (slot op : Nat) (x : BitVec 22) (e : Ext) : Option (Proc × Word × Option Word) :=
  match e with
  | none => plain a slot op x
  | some bits => some (a.p, syllable false slot op x, some (BitVec.ofBool a.fin ++ (7#3 ++ bits)))

/-- The number of a slot (R83). -/
def slotNum : Slot → Nat
  | .s => 0
  | .a => 1
  | .l0 => 2
  | .l1 => 3
  | .v0 => 4
  | .v1 => 5
  | .x => 6

/-- LDW and STW stand in three slots, under two opcodes each (R92). -/
def wordAccess (a : At) (slot : WordSlot) (inA inL : Nat) (f : MemForm) : Option (Proc × Word × Option Word) :=
  match slot with
  | .a => plain a 1 inA (encMem f)
  | .l0 => plain a 2 inL (encMem f)
  | .l1 => plain a 3 inL (encMem f)

def lSlot (l1 : Bool) : Nat := if l1 then 3 else 2
def vSlot (v1 : Bool) : Nat := if v1 then 5 else 4

/-- The processor and the words of a command that a syllable spells; none for every other command. Operand bits that the
operation does not use are 0. -/
def encode : Instr → Option (Proc × Word × Option Word)
  | .nop a slot => plain a (slotNum slot) 0x00 0
  | .add a d x y => plain a 0 0x01 (encR3 d x y 0)
  | .addi a d x imm e => extended a 0 0x02 (encRi d x imm) e
  | .sub a d x y => plain a 0 0x03 (encR3 d x y 0)
  | .and a d x y => plain a 0 0x04 (encR3 d x y 0)
  | .or a d x y => plain a 0 0x05 (encR3 d x y 0)
  | .xor a d x y => plain a 0 0x06 (encR3 d x y 0)
  | .shl a d x y sub => plain a 0 0x07 (encR3 d x y sub)
  | .shr a d x y sub => plain a 0 0x08 (encR3 d x y sub)
  | .sra a d x y sub => plain a 0 0x09 (encR3 d x y sub)
  | .slt a d x y => plain a 0 0x0A (encR3 d x y 0)
  | .sltu a d x y => plain a 0 0x0B (encR3 d x y 0)
  | .mul a d x y => plain a 0 0x0C (encR3 d x y 0)
  | .mulh a d x y => plain a 0 0x0D (encR3 d x y 0)
  | .movi a d imm e => extended a 0 0x0E (encI17 d imm) e
  | .bnz a x off => plain a 0 0x10 (encI17 x off)
  | .bz a x off => plain a 0 0x11 (encI17 x off)
  | .jmp a off => plain a 0 0x12 (encI17 0 off)
  | .call a off => plain a 0 0x13 (encI17 0 off)
  | .jr a x => plain a 0 0x14 (encR3 0 x 0 0)
  | .reti a => plain a 0 0x15 0
  | .resume a => plain a 0 0x16 0
  | .repeatOp a len cnt rot reg g =>
    plain a 0 0x18 (num32 len ++ ((BitVec.ofFin cnt : BitVec 10) ++ (BitVec.ofBool rot ++ (BitVec.ofBool reg ++ num32 g))))
  | .getcr a d sub => plain a 0 0x1A (encR3 d 0 0 sub)
  | .setcr a x sub => plain a 0 0x1B (encR3 0 x 0 sub)
  | .stepend a last => plain a 0 0x1C (0#21 ++ BitVec.ofBool last)
  | .evpostOp a x => plain a 0 0x1D (encR3 0 x 0 0)
  | .mfence a => plain a 0 0x1E 0
  | .trap a imm e => extended a 0 0x1F (encI17 0 imm) e
  | .paddi a d x imm e => extended a 1 0x01 (0#1 ++ (num16 d ++ (0#1 ++ (num16 x ++ imm)))) e
  | .paddo a d x b => plain a 1 0x02 (encR3p d x b)
  | .pli a d imm e => extended a 1 0x03 (0#1 ++ (num16 d ++ imm)) e
  | .oli a d imm e => extended a 1 0x04 (0#1 ++ (num16 d ++ imm)) e
  | .gtop a d x y => plain a 1 0x05 (0#1 ++ (num16 d ++ (num32 x ++ (num32 y ++ 0#7))))
  | .ptog a d x sub => plain a 1 0x06 (num32 d ++ (0#1 ++ (num16 x ++ (0#5 ++ sub))))
  | .rrot a => plain a 1 0x07 0
  | .ldw a slot f => wordAccess a slot 0x08 0x04 f
  | .ldh a f => plain a 1 0x09 (encMem f)
  | .ldb a f => plain a 1 0x0A (encMem f)
  | .stw a slot f => wordAccess a slot 0x0B 0x05 f
  | .sth a f => plain a 1 0x0C (encMem f)
  | .stb a f => plain a 1 0x0D (encMem f)
  | .ldf a f => plain a 1 0x0E (encMem f)
  | .stf a f => plain a 1 0x0F (encMem f)
  | .faddS a d x y => plain a 1 0x10 (encR3 d x y 0)
  | .fmulS a d x y => plain a 1 0x11 (encR3 d x y 0)
  | .fmaS a d x y => plain a 1 0x12 (encR3 d x y 0)
  | .faddD a d x y => plain a 1 0x13 (encR3 d x y 0)
  | .fmulD a d x y => plain a 1 0x14 (encR3 d x y 0)
  | .fdivS a d x y => plain a 1 0x15 (encR3 d x y 0)
  | .fcvt a d x sub => plain a 1 0x16 (encR3 d x 0 sub)
  | .fcmp a d x y sub => plain a 1 0x17 (encR3 d x y sub)
  | .gtof a d x => plain a 1 0x18 (encR3 d x 0 0)
  | .ftog a d x => plain a 1 0x19 (encR3 d x 0 0)
  | .svadd a d x y sub => plain a 1 0x20 (encR3 d x y sub)
  | .svmul a d x y sub => plain a 1 0x21 (encR3 d x y sub)
  | .svfma a d x y sub => plain a 1 0x22 (encR3 d x y sub)
  | .vld a l1 f => plain a (lSlot l1) 0x01 (encMem f)
  | .vst a l1 f => plain a (lSlot l1) 0x02 (encMem f)
  | .vldb a l1 f => plain a (lSlot l1) 0x03 (encMem f)
  | .gather a l1 f => plain a (lSlot l1) 0x08 (encGs f)
  | .scatter a l1 f => plain a (lSlot l1) 0x09 (encGs f)
  | .vadd a v1 f => plain a (vSlot v1) 0x01 (encV f)
  | .vsub a v1 f => plain a (vSlot v1) 0x02 (encV f)
  | .vadds a v1 f => plain a (vSlot v1) 0x03 (encV f)
  | .vsubs a v1 f => plain a (vSlot v1) 0x04 (encV f)
  | .vmul a v1 f => plain a (vSlot v1) 0x05 (encV f)
  | .vmulh a v1 f => plain a (vSlot v1) 0x06 (encV f)
  | .vmin a v1 f => plain a (vSlot v1) 0x07 (encV f)
  | .vmax a v1 f => plain a (vSlot v1) 0x08 (encV f)
  | .vabsd a v1 f => plain a (vSlot v1) 0x09 (encV f)
  | .vand a v1 f => plain a (vSlot v1) 0x0A (encV f)
  | .vor a v1 f => plain a (vSlot v1) 0x0B (encV f)
  | .vxor a v1 f => plain a (vSlot v1) 0x0C (encV f)
  | .vshl a v1 f => plain a (vSlot v1) 0x0D (encV f)
  | .vshr a v1 f => plain a (vSlot v1) 0x0E (encV f)
  | .vavg a v1 f => plain a (vSlot v1) 0x0F (encV f)
  | .vcmpeq a v1 f => plain a (vSlot v1) 0x10 (encV f)
  | .vcmplt a v1 f => plain a (vSlot v1) 0x11 (encV f)
  | .vcmple a v1 f => plain a (vSlot v1) 0x12 (encV f)
  | .vsel a v1 f => plain a (vSlot v1) 0x13 (encV f)
  | .vperm a v1 f => plain a (vSlot v1) 0x14 (encV f)
  | .vbcast a v1 f => plain a (vSlot v1) 0x15 (encV f)
  | .vmac a v1 f => plain a (vSlot v1) 0x16 (encV f)
  | .vmsu a v1 f => plain a (vSlot v1) 0x17 (encV f)
  | .vacclr a v1 f => plain a (vSlot v1) 0x18 (encV f)
  | .vmova a v1 f => plain a (vSlot v1) 0x19 (encV f)
  | .vnarrow a v1 f => plain a (vSlot v1) 0x1A (encV f)
  | .vwiden a v1 f => plain a (vSlot v1) 0x1B (encV f)
  | .vfadd a v1 f => plain a (vSlot v1) 0x1C (encV f)
  | .vfmul a v1 f => plain a (vSlot v1) 0x1D (encV f)
  | .vfma a v1 f => plain a (vSlot v1) 0x1E (encV f)
  | .vcvt a v1 f => plain a (vSlot v1) 0x1F (encV f)
  | .vred a v1 f => plain a (vSlot v1) 0x20 (encV f)
  | .vrange a v1 f => plain a (vSlot v1) 0x28 (encV f)
  | .vscale a v1 f => plain a (vSlot v1) 0x29 (encV f)
  | .vquant a v1 f => plain a (vSlot v1) 0x2A (encV f)
  | .vdeq a v1 f => plain a (vSlot v1) 0x2B (encV f)
  | .vgquant a v1 f => plain a (vSlot v1) 0x30 (encV f)
  | .vmoment a v1 f => plain a (vSlot v1) 0x31 (encV f)
  | .vcbfit a v1 f => plain a (vSlot v1) 0x32 (encV f)
  | .vmwupd a v1 f => plain a (vSlot v1) 0x33 (encV f)
  | .naq a v q => plain a 6 0x01 (num32 v ++ (num4 q ++ 0#15))
  | .nawait a n => plain a 6 0x02 (0#17 ++ n)
  | .dmakick a g => plain a 6 0x08 (num32 g ++ 0#17)
  | .dmawait a g => plain a 6 0x09 (num32 g ++ 0#17)
  | _ => none

/-- The command that a word spells for core 0: one syllable in 32 bits, a syllable with its extension above it in 64. -/
def decodeTableWord (nbits w : Nat) : Option Instr :=
  match nbits with
  | 32 => decodeSyllable (.core 0) (BitVec.ofNat 32 w) none
  | 64 => decodeSyllable (.core 0) (BitVec.ofNat 32 w) (some (BitVec.ofNat 32 (w / 2 ^ 32)))
  | _ => none

end Sys2Proof
end

