-- ==== Sys2Proof/Config.lean ====
section
/-! DEFINITION. What an implementation fixes and what the spec leaves open. An `opaque` constant has no body, so nothing in
Lean can evaluate it: a statement that holds of the model holds for every value it may have. Constants with a body are the
spec's own figures. -/

namespace Sys2Proof.Config

/-! ### Free values -/

/-- A value the spec leaves open, fresh for each draw: the argument is the model's counter `State.free`. -/
opaque freeBits (w : Nat) : Nat → BitVec w

/-- A byte of a memory that has lost its contents and that nothing has written since (R158, R383, R398): the era of
the memory that the loss began, and the address. -/
opaque lostByte : Nat → Nat → BitVec 8

/-- The contents of the boot ROM, which the spec does not give (R126, R162). -/
opaque romByte : Nat → BitVec 8

/-- The pointer that MODE 4 or 5 writes while the circular buffer's LEN is 0, outside its stated range (R91, R105): base,
pointer, offset. -/
opaque circularZero : Nat → Nat → Int → BitVec 40

/-- MAJOR and MINOR of a page's BLK_ID, which R17 leaves to each block. -/
opaque blkVersion : Nat → BitVec 16

/-- Which of two exactly simultaneous requests an arbiter prefers before it has granted either: the initial order is
unspecified (R268). The argument names the arbiter and the reset that began its present order. -/
opaque arbiterFirst : Nat → Bool

/-- The conversions that FCVT names by SUB[3:0]; R92 gives the set and not the codes. -/
inductive FcvtKind where
  | s2d | d2s | s2i | d2i | i2s | i2d
  deriving DecidableEq, Repr

/-- The conversion that each SUB[3:0] of FCVT selects (R92 gives no code). -/
opaque fcvtKind : BitVec 4 → Option FcvtKind

/-- The sign and the payload of a NaN result, which IEEE 754 leaves to the implementation (R94). -/
opaque nanBits (w : Nat) : List Nat → BitVec w

/-- A result of a floating-point minimum or maximum that the spec does not state: of a NaN operand, or of two zeros (R92). -/
opaque fpOpen (w : Nat) : List Nat → BitVec w

/-- An integer lane result that the spec does not state: a shift by the lane width or more, an absolute difference or an integer
conversion outside the lane's range (R92). Operation, then operands. -/
opaque laneOpen : Nat → Nat → Nat → Nat

/-- Whether FCMP compares FP64 values, by SUB[6:3]: R92 gives its operands no width. -/
opaque fcmpWide : Nat → Bool

/-- The result of a floating-point conversion to INT32 of a NaN or of a value outside INT32, which R92 does not state. -/
opaque fcvtInvalid : Nat → Word

/-- The result of FCMP for the condition codes 4 to 7, which R92 does not name. -/
opaque fcmpOther : Nat → Nat → Nat → Bool

/-- The ES bytes that an RTP payload of AV1 or JPEG adds (R299), which rest on external standards and on the packets before it: the
draw, the format and the payload. -/
opaque esBytes : Nat → Nat → List Byte → List Byte

/-- Whether an RTP payload begins an AV1 key frame (R301), by its external standard. -/
opaque av1Key : List Byte → Bool

/-- The level that the PD0 latch of a pin holds whose owner drives it by ways the spec gives no register for (R405, R406): the pin and the
device time. -/
opaque latchOpen : Nat → Nat → Bool

/-- A sample outside the frame that a scaler tap meets (R315 does not state it): plane, column, row. -/
opaque pfeEdge : Nat → Int → Int → Nat

/-- An interleaved RGB888 byte made from YUV422 input, which R314 does not state: the sample's position and its Y, Cb and Cr. -/
opaque yuvRgb : Nat → Nat → Nat → Nat → Nat

/-- The bytes that the operand buffers show a reader between steps (R139): the spec gives ABUF no layout. -/
opaque abufByte : Nat → Nat → Byte

/-! ### The boot record of SSTORE (R431, R434), whose place, key, schema and layout the spec does not give -/

opaque bootPlace : Nat
opaque bootKey : BitVec 16
opaque bootSchema : BitVec 16

/-- The data word of ACTIVE, TRIAL and TRIES. -/
opaque bootWord : Bool → Bool → BitVec 2 → Word

/-- CRC-32, whose polynomial R434 does not give. -/
opaque crc32 : List Byte → Word

/-! ### Standards outside the spec, taken as functions that nothing is known of (R418 to R430: "it does not teach the
underlying cryptography") -/

/-- SHA-384 of a byte string. -/
opaque sha384 : List Byte → BitVec 384

/-- Verification of an ECDSA P-384 signature: public key, digest, signature. -/
opaque ecdsaVerify : List Byte → BitVec 384 → List Byte → Bool

/-- AES-256-GCM decryption: key, nonce, additional data, ciphertext and tag; `none` when the tag does not verify. -/
opaque gcmOpen : BitVec 256 → BitVec 96 → List Byte → List Byte → BitVec 128 → Option (List Byte)

/-- AES-256-GCM encryption: key, nonce, additional data and plaintext to ciphertext and tag. -/
opaque gcmSeal : BitVec 256 → BitVec 96 → List Byte → List Byte → List Byte × BitVec 128

/-! ### Figures of the spec -/

/-- The minimum GSR of R47 at 500 + 50 i mV, steps per microsecond; the codec test uses it too. -/
def minGsr : List Nat := [430, 520, 700, 850, 1010, 1180, 1290, 1380]

/-- DRAM reservable device-wide, bytes per microsecond (R52). -/
def dramLimit : Nat := 191000

/-- The lowest and highest targets of VDD_CORE, and its step, in millivolts (R388). -/
def railMin : Nat := 500
def railMax : Nat := 850
def railStep : Nat := 5

/-- Entries of the pacer's command queue (R59). -/
def pacerQueue : Nat := 8

/-- Entries of the array queue (R96), of the rule engine's queue (R320) and of the detection log (R164). -/
def arrayQueue : Nat := 16
def eventQueue : Nat := 64
def detLog : Nat := 16

/-- The 25 MHz crystal's period in nanoseconds (R394), and its periods in a millisecond (R130). -/
def crystalNs : Nat := 40
def crystalPerMs : Nat := 25000

/-- Nanoseconds in a microsecond and in a millisecond. -/
def us : Nat := 1000
def ms : Nat := 1000000

end Sys2Proof.Config
end

