-- ==== Sys2Proof/Machine/State.lean ====
section
/-! DEFINITION. The state of the Rilivo 6480, as plain data: every register, memory, queue, counter, mode and pin that the
spec names, the queue of waiting commands, and the few fields of the model's own that are said to be so. A register of a
register page that is not computed from another field is a cell of `Bus.regs`, under its page, channel and offset
(Machine/RegMap.lean names each one with its fields, class and reset value). Times are Nat nanoseconds of device time. -/

namespace Sys2Proof.Machine

/-- Sparse data by key: strictly rising keys, and no entry equal to what an unlisted key reads as (Machine/Ops.lean). -/
abbrev Store (α : Type) := List (Nat × α)

/-- No meaning of this model raises a fault: every failure the spec names is an effect on the state (an ERR_INFO record, a
core fault, a halted channel, a REJECTED completion). The one constructor stands for the empty type that a fault would be.
It is raised by nobody, so it is neither safe nor unsafe. -/
inductive Fault where
  | unreachable
  deriving DecidableEq, Repr

/-- Why a command has no meaning. -/
inductive Refusal where
  /-- The command has no meaning yet: raised by an arm of `exec` alone; safe, because a claim about that command is then
  unprovable, never false. -/
  | notModelled (mnemonic : String)
  deriving DecidableEq, Repr

/-! ### Register pages (R15 to R36) -/

/-- The stored part of a page's common header (R17). FENCED and PSTATE are read from the pacer and the power domain. -/
structure Hdr where
  enable : Bool := false
  busy : Bool := false
  commitPending : Bool := false
  resetBusy : Bool := false
  irqStat : Word := 0
  irqEn : Word := 0
  errValid : Bool := false
  errReq : Byte := 0
  errCode : Byte := 0
  errAddr : Addr := 0
  stageSeq : Word := 0
  deriving DecidableEq, Repr

/-- The register pages as the bus sees them. -/
structure Bus where
  /-- Page headers by page number (R15, R17). -/
  hdrs : Store Hdr := []
  /-- Applied values of the registers of Machine/RegMap.lean, by `regKey`. -/
  regs : Store Word := []
  /-- Staging copies written since the last commit, by `regKey` (R23). -/
  staged : Store (Option Word) := []
  /-- The copies of CH_SEL: one for MGMT, one per function and one per core on each page (R26). -/
  chSel : Store Word := []
  /-- HI halves latched by a read of LO, per requester and pair (R30). -/
  hiLatch : Store Word := []
  /-- HI halves a requester wrote since its previous LO write (R30). -/
  hiWritten : Store (Option Word) := []
  /-- The model's own: the data answered to each requester's last register read, by requester code. -/
  answer : Store Word := []
  deriving DecidableEq, Repr

/-! ### Fuses (R1, R36, R46, R399, R405, R418) -/

/-- The three variants of R1. -/
inductive Variant where
  | rlv6480 | rlv6460 | rlv4440
  deriving DecidableEq, Repr

/-- The lifecycle states of R418 and R436. -/
inductive Lifecycle where
  | blank | provisioned | deployed | returned
  deriving DecidableEq, Repr

/-- The fused values. -/
structure Fuses where
  variant : Variant := .rlv6480
  /-- Silicon step: 0 A0, 1 B0 (R36). -/
  step : BitVec 4 := 1
  dieFp : DWord := 0
  /-- GSRn_i by 8n + i, where it differs from the minimum of R47. -/
  gsr : Store (BitVec 16) := []
  bootMv : BitVec 10 := 750
  /-- RST_MAP (R399). -/
  rstMap : BitVec 28 := 0
  /-- Pin codes by pin index 0 to 47 (R405). -/
  pinCode : Store (BitVec 3) := []
  lifecycle : Lifecycle := .blank
  /-- The device-unique secret, which no register or bus reaches (R418). -/
  secret : BitVec 256 := 0
  vendorHash : BitVec 384 := 0
  ownerHash : Store (BitVec 384) := []
  ownerValid : BitVec 4 := 0
  ownerRevoked : BitVec 4 := 0
  /-- The thermometer code of the security version (R423). -/
  svn : BitVec 128 := 0
  deriving DecidableEq, Repr

/-! ### Processors (R81 to R130) -/

/-- `STATE.RUN_STATE` (R127). -/
inductive RunState where
  | idle | issue | wait | handler | drain
  deriving DecidableEq, Repr

/-- A result on its way to a register (R97): the register and its new bits. A `v` landing writes only the bits of its mask,
since a masked lane keeps its value (R88). -/
inductive Landing where
  | g (n : Fin 32) (w : Word)
  | p (n : Fin 16) (a : Addr)
  | o (n : Fin 16) (w : Word)
  | f (n : Fin 32) (d : DWord)
  /-- The low half alone: the high half stays as it is when the result lands (GTOF). -/
  | fLow (n : Fin 32) (w : Word)
  | v (phys : Fin 32) (bits mask : BitVec 1024)
  | acc (k : Fin 4) (lanes : BitVec 2560)
  | m (n : Fin 8) (bits mask : BitVec 128)
  | cr (n : BitVec 5) (w : Word)
  deriving DecidableEq, Repr

/-- An issued result: the bundle that first sees it, the slot and the bundle of its issue (R97, R98). -/
structure Inflight where
  due : Nat
  slot : Nat
  issued : Nat
  land : Landing
  /-- The chain that the result belongs to (R99, R249): 0 none, 1 VRANGE, 2 VQUANT, 3 VMAC, VMSU and VACCLR, 4 VCBFIT. -/
  chain : Nat := 0
  /-- The result of a gather: a bundle that touches the register waits for it (R116). -/
  gather : Bool := false
  deriving DecidableEq, Repr

/-- The register a load fills. -/
inductive LoadDest where
  | g (n : Fin 32)
  | f (n : Fin 32)
  deriving DecidableEq, Repr

/-- A recorded gather or scatter (R116, R119): its fields, and its physical data and index registers (R115). -/
structure VecOp where
  form : GsForm
  slotL1 : Bool
  scatter : Bool
  deriving DecidableEq, Repr

/-- A memory operation of the bundle under assembly; loads are served before stores when the bundle issues (R102). -/
inductive MemOp where
  | load (slot : Nat) (dest : LoadDest) (size : Nat) (signed : Bool) (addr : Addr)
  | store (slot : Nat) (size : Nat) (value : DWord) (addr : Addr)
  | vload (slot : Nat) (dest : Fin 32) (strip : Bool) (addr : Addr)
  | vbroad (slot : Nat) (dest : Fin 32) (addr : Addr)
  | vstore (slot : Nat) (value : BitVec 1024) (strip : Bool) (addr : Addr)
  | gs (op : VecOp) (firstElem : Nat) (resumed : Bool)
  deriving DecidableEq, Repr

/-- Why a bundle waits (R101). -/
inductive WaitFor where
  | queueRoom (command : List Word)
  | arrayAtMost (n : Nat)
  | channelIdle (ch : Fin 32)
  | storesAcked
  /-- DMAKICK's kick, which follows the core's stores (R271). -/
  | kick (ch : Fin 32)
  | stepDrained (last : Bool)
  | remote (op : MemOp)
  /-- A remote read of SEM_WAIT that has been issued and is parked (R147). -/
  | parkedRead (op : MemOp)
  deriving DecidableEq, Repr

/-- The return that a delay window ends with (R119, R122, R123). -/
inductive ReturnKind where
  | none | reti | resume
  deriving DecidableEq, Repr

/-- A window of delay slots: how many remain, and where issue goes after them (R100). -/
structure DelayWindow where
  left : Nat
  target : Option Nat
  ret : ReturnKind
  deriving DecidableEq, Repr

/-- A running REPEAT (R113, R114; control register 19). -/
structure LoopState where
  start : Nat
  len : Nat
  pos : Nat
  left : Nat
  rot : Bool
  deriving DecidableEq, Repr

/-- The bundle under assembly (R84). -/
structure BundleBuf where
  /-- The least slot number the next syllable may have. -/
  next : Nat := 0
  /-- The bundle has a syllable in L0 (R117). -/
  l0 : Bool := false
  /-- Syllables so far, extensions included. -/
  syls : Nat := 0
  mems : List MemOp := []
  waits : List WaitFor := []
  /-- The control transfer that the bundle makes when it issues. -/
  delay : Option DelayWindow := none
  /-- A REPEAT of the bundle: length of its body, count, ROT (R113). -/
  rep : Option (Nat × Nat × Bool) := none
  /-- The bundle holds a CALL, whose return address needs the bundle's end. -/
  call : Bool := false
  rrot : Bool := false
  /-- Flags that the bundle's operations set when it issues (R110, R112). -/
  accOvf : Bool := false
  movSat : Bool := false
  /-- Steps that the bundle has waited for gathers (R116). -/
  gatherWait : Nat := 0
  deriving DecidableEq, Repr

/-- One processor: a Ulurik core, or the management processor, which uses the scalar part of it (R89, R91, R125). -/
structure ProcState where
  runState : RunState := .idle
  pmemAct : Bool := false
  /-- The job and share whose step runs. -/
  run : Option (Nat × Nat) := none
  g : Store Word := []
  p : Store Addr := []
  o : Store Word := []
  f : Store DWord := []
  v : Store (BitVec 1024) := []
  acc : Store (BitVec 2560) := []
  m : Store (BitVec 128) := []
  -- control registers (R91)
  ie : Bool := false
  inIrq : Bool := false
  inFault : Bool := false
  pie : Bool := false
  epc : Word := 0
  ivec : Word := 0
  fvec : Word := 0
  intStat : BitVec 3 := 0
  intEn : BitVec 3 := 0
  accsh : Word := 0
  accSat : Bool := false
  mvsh : BitVec 5 := 0
  rrb : BitVec 4 := 0
  accOvf : Bool := false
  movSat : Bool := false
  cb0Base : Addr := 0
  cb0Len : Word := 0
  cb1Base : Addr := 0
  cb1Len : Word := 0
  vfaultPc : Word := 0
  vfaultInfo : Word := 0
  stepPc : Nat := 0
  -- issue
  /-- The start of the bundle under assembly. -/
  pc : Nat := 0
  /-- `PC`: the last issued bundle (R127). -/
  lastPc : Nat := 0
  /-- Bundles issued since the step began. -/
  bundle : Nat := 0
  buf : BundleBuf := {}
  inflight : List Inflight := []
  delay : Option DelayWindow := none
  loop : Option LoopState := none
  /-- The loop and the delay window held while a fault handler runs (R119). -/
  savedLoop : Option LoopState := none
  savedDelay : Option DelayWindow := none
  vfaultOp : Option VecOp := none
  -- the running step's outputs (R60, R103, R146)
  /-- Bytes stored by the running step, seen by this core alone until the commit. -/
  stage : Store (Option Byte) := []
  /-- Staged bytes whose parity is wrong (R150, R377). -/
  stageBad : Store Bool := []
  stagedEvents : List (BitVec 16) := []
  stagedPosts : List (Nat × BitVec 16) := []
  stepChans : List (Fin 32) := []
  commitAsked : Option Bool := none
  -- page registers (R127, R129)
  faultValid : Bool := false
  faultSlot : BitVec 3 := 0
  faultCause : Byte := 0
  faultPc : Word := 0
  satCnt : Word := 0
  stepCnt : DWord := 0
  stallCnt : Word := 0
  /-- Busy nanoseconds of device time since the last STEPEND, up to the step that runs, and when that step started (R127). -/
  wdtBusy : Nat := 0
  wdtFrom : Nat := 0
  /-- Device time at which the bundle's first remaining wait began (R160). -/
  waitFrom : Nat := 0
  /-- The management processor stopped by a fault until its watchdog expires (R126). -/
  halted : Bool := false
  deriving DecidableEq, Repr

/-! ### Neural arrays (R166 to R208) -/

/-- A queued array command (R171 to R174). -/
structure ArrayCmd where
  words : List Word
  pc : Word
  started : Bool
  empty : Bool
  /-- Of an array command: the weight sets whose waves have run, and the bank of the set that it loads or computes from (R168). -/
  sets : Nat := 0
  bank : Bool := false
  /-- Of a command in the output stage: the column strips that it has still to write, each with its bytes (R204). -/
  lands : List (List (Nat × Byte)) := []
  deriving DecidableEq, Repr

/-- Running argmax state of an ACCBUF entry (R205): valid bit, value, channel and the OTYPE of the EPILOG that started it. -/
structure Argmax where
  valid : Bool
  value : Int
  index : Nat
  otype : BitVec 2
  deriving DecidableEq, Repr

/-- One neural array. ABUF, WBUF, ACCBUF and SBUF are bytes of the core's window (R163). -/
structure ArrayState where
  queue : List ArrayCmd := []
  /-- The two weight banks: (bank * 16 + entry) * 16384 + k * 128 + n. -/
  banks : Store Byte := []
  /-- The bank that holds the last set of the previous array command (R183). -/
  lastBank : Bool := false
  /-- The activation-sum lane of each ACCBUF entry (R170). -/
  sums : Store Word := []
  argmax : Store (Option Argmax) := []
  ti : Bool := false
  tw : Bool := false
  flip : Bool := false
  lastTag : Byte := 0
  lastOp : BitVec 6 := 0
  lastEmpty : Bool := false
  lastValid : Bool := false
  emptySeen : Bool := false
  accWrap : Bool := false
  badScale : Bool := false
  cmdCnt : Word := 0
  waveCnt : DWord := 0
  deriving DecidableEq, Repr

/-! ### The pacer (R37 to R80) -/

/-- A class entry's state (R77). -/
inductive ClassSt where
  | free | defined | accepted | revoking | shed
  deriving DecidableEq, Repr

/-- The values of a class entry (R43). -/
structure ClassVals where
  prio : BitVec 4 := 0
  spread : BitVec 3 := 1
  link : Bool := false
  cost : Word := 0
  stepMax : BitVec 17 := 0
  period : Word := 0
  deadline : BitVec 20 := 0
  dram : Word := 0
  decPix : Word := 0
  stream : BitVec 9 := 0
  decUs : BitVec 16 := 0
  deriving DecidableEq, Repr

/-- A class entry (R45, R77). -/
structure ClassEntry where
  st : ClassSt := .free
  owner : Byte := 0
  vals : ClassVals := {}
  pend : Option ClassVals := none
  notice : Word := 0
  /-- The core that holds each share (R463). -/
  cores : Store (Option (Fin 6)) := []
  /-- The release time of the class's previous job (R38). -/
  lastRelease : Option Nat := none
  /-- The instant at which a revocation's notice ends (R73). -/
  noticeEnd : Nat := 0
  /-- The SHRINKs whose instants have not been settled: each with its instant, rising, and its values for releases from then
  on (R74). -/
  shrinks : List (Nat × ClassVals) := []
  deriving DecidableEq, Repr

/-- A queued pacer command (R59, R78). -/
structure PacerCmd where
  req : Byte
  op : BitVec 4
  arg : BitVec 6
  deriving DecidableEq, Repr

/-- A placement that a pass has found: the floor, the reserve and the core of each share (class * 8 + share). -/
structure Plan where
  floor : Nat
  reserve : Option (Fin 6)
  places : Store (Option (Fin 6))
  classes : List (Fin 64)
  deriving DecidableEq, Repr

/-- What a write of the rail waits for (R56 to R58, R69). -/
inductive RailUse where
  | none | boot | admitPlan | fall | undo | thermalLow | thermalRestore
  deriving DecidableEq, Repr

/-- Where the thermal path stands (R69). -/
inductive ThermalPhase where
  | none | drain | lowering | hold | restoring | retry
  deriving DecidableEq, Repr

/-- The result of a requester's last pacer command (R76, R79). -/
structure AdmitResult where
  result : Byte := 0
  seq : Byte := 0
  which : BitVec 6 := 0
  done : Bool := false
  deriving DecidableEq, Repr

/-- A core's health (R76). -/
structure Health where
  det : BitVec 16 := 0
  /-- Strikes against the core by job (R61, R76). -/
  strikes : Store (BitVec 4) := []
  /-- The job of the core's last step, whose strikes `HEALTHn.STRIKES` shows. -/
  strikeJob : Option Nat := none
  /-- The pacer has written 0 to the ENABLE of the core's page (R128). -/
  disabled : Bool := false
  fenceCause : BitVec 4 := 0
  paceLow : BitVec 4 := 0
  fenced : Bool := false
  /-- CMEM and NOC port still powered for carry copies (R65). -/
  hold : Bool := false
  deriving DecidableEq, Repr

/-- One entry of a job's input list (R348). -/
inductive JobInput where
  | data (addr : Addr) (len : Word)
  | frame
  | gate (sem : Fin 256) (threshold : BitVec 24) (off : BitVec 26) (len : Word)
  deriving DecidableEq, Repr

/-- Where a share of a job stands. -/
inductive ShareSt where
  | waiting | running | carrying | restoring | done | stopped
  deriving DecidableEq, Repr

/-- One share of a job (R60 to R63, R463). -/
structure ShareRun where
  st : ShareSt := .waiting
  /-- The core on which the next step runs. -/
  core : Fin 6 := 0
  codeAddr : Addr := 0
  codeLen : Word := 0
  carryBase : Nat := 0
  carryRows : Nat := 0
  stepPc : Nat := 0
  prevPc : Nat := 0
  steps : Nat := 0
  committed : Nat := 0
  dets : Nat := 0
  relocated : Bool := false
  /-- The core to which the share returns after a relocated step (R61). -/
  homeCore : Option (Fin 6) := none
  /-- Rerunning the preceding step to restore carried rows (R152). -/
  redoPrev : Bool := false
  /-- The SHM line whose writing ends a failed restore or an unmet halo gate (R155, R222). -/
  line : Option (BitVec 18) := none
  deriving DecidableEq, Repr

/-- Completion status (R351). -/
inductive JobStatus where
  | ok | late | rejected | aborted | fault
  deriving DecidableEq, Repr

/-- The outcome of a completed job: status, cause of R71, detail, end time. -/
structure JobEnd where
  status : JobStatus
  cause : Byte
  detail : Byte
  time : Nat
  deriving DecidableEq, Repr

/-- A job that the pacer has accepted, or whose completion is on its way (R37 to R42). -/
structure Job where
  id : Nat
  cls : Fin 64
  owner : Byte
  queue : Fin 68
  /-- Queue incarnation: a completion of an earlier one is discarded (R354, R356). -/
  epoch : Nat
  tag : BitVec 16
  noIrq : Bool
  prog : Addr
  out : Addr
  outLen : Word
  sqHead : BitVec 12
  inputs : List JobInput
  release : Nat
  deadline : Nat
  released : Bool
  ready : Option Nat
  passed : Bool
  held : Bool
  shares : Store ShareRun
  nShares : Nat
  cost : Nat
  start : Option Nat
  cores : BitVec 6
  reruns : Nat
  /-- Detections by core within the job (R61). -/
  detBy : Store Nat
  lateThermal : Bool
  lateFence : Bool
  lateInput : Bool
  abort : Bool
  /-- The stream entry and closed frame number the job is bound to (R303). -/
  frame : Option (Fin 512 × Option Nat)
  ended : Option JobEnd
  deriving DecidableEq, Repr

/-- A carry copy in progress (R62): job, share, source and target core. -/
structure CarryCopy where
  job : Nat
  share : Nat
  src : Fin 6
  dst : Fin 6
  deriving DecidableEq, Repr

/-- The admission controller. -/
structure Pacer where
  classes : Store ClassEntry := []
  queue : List PacerCmd := []
  running : Option PacerCmd := none
  plan : Option Plan := none
  results : Store AdmitResult := []
  reserve : Option (Fin 6) := none
  floor : Nat := 500
  railMv : BitVec 10 := 0
  settled : Bool := false
  railUse : RailUse := .none
  /-- Load has left since the floor was last set (R58). -/
  fallDue : Bool := false
  /-- Device time of the pacer's last AVSBus write, while its settling is awaited. -/
  railFrom : Nat := 0
  health : Store Health := []
  jobs : List Job := []
  nextJob : Nat := 0
  carries : List CarryCopy := []
  thermal : ThermalPhase := .none
  thermalFrom : Nat := 0
  retryFrom : Nat := 0
  /-- The floor of the accepted classes, while the thermal path holds the present one at 500 mV (R69). -/
  heldFloor : Option Nat := none
  /-- An admission has succeeded since the reset that wrote BOOT_MV (R390). -/
  accepted : Bool := false
  /-- FUNC_RESET waiting for the last accepted job (R80). -/
  resetWait : Bool := false
  deriving DecidableEq, Repr

/-! ### Memories (R131 to R165) -/

/-- A parked semaphore wait (R145, R147). -/
structure Parked where
  req : Requester
  sem : Fin 256
  threshold : BitVec 24
  since : Nat
  deriving DecidableEq, Repr

/-- An entry of SHM.DET_LOG (R164). -/
structure DetEntry where
  restored : Bool
  fail : Bool
  region : BitVec 5
  line : BitVec 18
  deriving DecidableEq, Repr

/-- A shared-memory slice's power-down (R143). SLICE_PENDn is computed: the write packets that have not landed yet. -/
structure Slice where
  refusing : Bool := false
  target : BitVec 2 := 2
  /-- Device time of the request. -/
  since : Nat := 0
  deriving DecidableEq, Repr

/-- A golden restore in progress (R153): the line, its region, and the share that waits. -/
structure Restore where
  line : BitVec 18
  region : Fin 16
  job : Option (Nat × Nat)
  deriving DecidableEq, Repr

/-- Shared memory, its semaphores, its parity log and the DRAM controller. -/
structure Mem where
  /-- The internal address map's bytes (R162, R163), core windows at their global addresses. -/
  bytes : Store Byte := []
  /-- The model's own: each memory's era. Odd eras began with the loss of its contents (R158, R383, R398), even ones with
  power-on or the hardware's clearing (R427). -/
  eras : Store Nat := []
  /-- Bytes whose parity is wrong (R150), left so by an injected fault (R377). -/
  damaged : Store Bool := []
  /-- The host's memory behind the host memory window (R343), by host address. -/
  host : Store Byte := []
  /-- The boot flash (R428). -/
  flash : Store Byte := []
  sems : Store (BitVec 24) := []
  thresholds : Store (BitVec 24) := []
  parked : List Parked := []
  detLog : List DetEntry := []
  detLost : Bool := false
  slices : Store Slice := []
  scrubBusy : Bool := false
  scrubPos : BitVec 27 := 0
  /-- Device time up to which the present pass has used its rate (R156). -/
  scrubFrom : Nat := 0
  restores : List Restore := []
  -- DRAM (R157 to R159, R384)
  trained : Bool := false
  selfRefresh : Bool := false
  chOk : BitVec 16 := 0
  dramGib : Nat := 0
  eccOn : Bool := false
  /-- UE_ADDR holds an address captured since ERR_INFO.VALID was last cleared (R159). -/
  ueSeen : Bool := false
  deriving DecidableEq, Repr

/-! ### The transfer engine (R265 to R293) -/

/-- `CH_STAT.STATE` (R276). -/
inductive ChanSt where
  | disabled | idle | active | preempted | waitOwn | halted
  deriving DecidableEq, Repr

/-- A write-back in progress (R285). -/
structure WriteBack where
  desc : Addr
  ctrl : Word
  status : Word
  stamp : DWord
  halted : Bool
  /-- Writes that have been issued: none, STATUS with TIMESTAMP, CTRL. -/
  issued : Nat := 0
  deriving DecidableEq, Repr

/-- A beat of source bytes in a channel's holding register or segment buffer: its address, its bytes, and whether the injector
corrupted it on its way (R279, R377). -/
structure HeldBeat where
  base : Nat
  bytes : List Byte
  bad : Bool := false
  deriving DecidableEq, Repr

/-- One transfer channel. The sets hold descriptor words 0 to 15 (R273, R277). -/
structure Chan where
  en : Bool := false
  prio : BitVec 2 := 0
  descMode : Bool := false
  st : ChanSt := .disabled
  disarmLate : Bool := false
  done : Bool := false
  result : Byte := 0
  seq : BitVec 16 := 0
  armed : Bool := false
  rows : BitVec 24 := 0
  descPtr : Addr := 0
  descHome : Addr := 0
  actDesc : Addr := 0
  shDesc : Addr := 0
  act : Store Word := []
  shadow : Store Word := []
  /-- The transfer's position, in the order in which the engine writes. -/
  pos : Nat := 0
  /-- The holding register and the segment buffer: the latest source beats of the row (R267, R279). -/
  hold : List HeldBeat := []
  /-- The last destination byte written, and whether the read that confirms the host's writes has been sent (R284). -/
  lastDst : Addr := 0
  flush : Bool := false
  /-- Device time at which the transfer's present beat, and the descriptor fetch, began (R160). -/
  beatFrom : Nat := 0
  fetchFrom : Nat := 0
  /-- A descriptor fetch is under way. -/
  fetching : Bool := false
  /-- A descriptor fetched while a transfer ran had OWN = 0 (R278). -/
  ownZero : Bool := false
  /-- Header address of the first malformed block of the active transfer (R283). -/
  malformed : Option Addr := none
  /-- The active transfer runs in descriptor mode: DESC is sampled at KICK (R293). -/
  descRun : Bool := false
  /-- The armed shadow is a descriptor that the engine has fetched, at `shDesc` (R275, R278). -/
  prefetched : Bool := false
  mover : Option (Fin 4) := none
  /-- The order in which channels began to wait, and in which running ones took their mover (R266). -/
  turn : Nat := 0
  wb : List WriteBack := []
  /-- The DISARM arbiter's order, once a grant has fixed it: true when DISARM stands lower (R268). -/
  disarmLow : Option Bool := none
  deriving DecidableEq, Repr

/-- The transfer engine. Owners are by channel, where they differ from R269. -/
structure Dma where
  chans : Store Chan := []
  owners : Store Byte := []
  turn : Nat := 0
  deriving DecidableEq, Repr

/-! ### Streams, codec and sensors (R294 to R316) -/

/-- An RTP packet as the receiver keeps it (R297, R300). -/
structure RtpPacket where
  src : BitVec 128
  v6 : Bool
  dport : BitVec 16
  ssrc : Word
  pt : BitVec 7
  marker : Bool
  seq : BitVec 16
  stamp : Word
  payload : List Byte
  rxTime : Nat
  /-- When the packet came to its entry's window: its reception, or its leaving the quarantine. -/
  entAt : Nat := 0
  deriving DecidableEq, Repr

/-- A frame in assembly (R301): packets of one timestamp, with those lost before one of them. -/
structure FrameAsm where
  stamp : Word
  firstAt : Nat
  lastAt : Nat
  bytes : List Byte
  lost : Nat
  key : Bool
  gap : Bool
  deriving DecidableEq, Repr

/-- A closed frame that a job may bind or the codec has yet to decode (R301, R303, R307). -/
structure ClosedFrame where
  number : Nat
  esOff : Word
  len : Word
  arrive : Nat
  complete : Bool
  key : Bool
  analysed : Bool
  bound : Bool
  /-- The decoder is done with it; it gives no output (R308, R309). -/
  decoded : Bool
  dropped : Bool
  /-- The output buffer it was decoded into, and the sessions that have yet to encode it (R308, R311). -/
  buf : BitVec 4 := 0
  holders : BitVec 16 := 0
  deriving DecidableEq, Repr

/-- The dynamic part of a stream entry; its registers are cells of `Bus.regs` (R330). -/
structure StreamEnt where
  exp : Option (BitVec 16) := none
  window : List RtpPacket := []
  /-- Packets lost since the last one that joined a frame (R300). -/
  missing : Nat := 0
  /-- Frames in assembly, oldest first, and the timestamps of frames closed by FRAME_MS whose packets may yet be released (R301). -/
  asm : List FrameAsm := []
  late : List Word := []
  /-- Frames closed, and how many had been when VALID was last set (R301, R303). -/
  closed : Nat := 0
  first : Nat := 0
  frames : List ClosedFrame := []
  /-- No output until the next KEY frame (R309). -/
  waitKey : Bool := false
  /-- Decoding stopped because the REF area is too small (R308). -/
  stopped : Bool := false
  deriving DecidableEq, Repr

/-- What a codec pipeline is working on. -/
inductive DecodeItem where
  | stream (entry : Fin 512) (number : Nat)
  | session (s : Fin 32)
  deriving DecidableEq, Repr

/-- An encode in progress (R310, R311). -/
structure EncodeItem where
  session : Fin 16
  fromStream : Option (Fin 512 × Nat)
  /-- The input record of an encode that is not of a stream: its address, and its bytes as the codec has read them. -/
  record : Option (Nat × List Byte)
  deriving DecidableEq, Repr

/-- One CSI-2 input's frame in reception (R312, R313). -/
structure CsiInput where
  sync : Bool := false
  lines : List (List (BitVec 14)) := []
  damaged : Bool := false
  /-- The frame handed to the pixel front end, until every enabled output has taken it. -/
  ready : Option (List (List (BitVec 14)) × Bool) := none
  taken : BitVec 4 := 0
  deriving DecidableEq, Repr

/-- Ethernet, the stream receiver, the codec, the CSI-2 receivers and the pixel front end. -/
structure Media where
  link : BitVec 2 := 0
  quarantine : List RtpPacket := []
  /-- Keys that have waited since NEW_STREAM was raised for them, oldest first. -/
  newKeys : List RtpPacket := []
  keyValid : Bool := false
  /-- Keys whose entry has lost VALID and whose packets have yet to age out (R305). -/
  ageing : List (BitVec 128 × BitVec 16 × Word) := []
  ents : Store StreamEnt := []
  decoding : Option DecodeItem := none
  encoding : Option EncodeItem := none
  lastEncoded : Nat := 0
  /-- Sessions whose next frame is coded as a key frame (R310). -/
  forceKey : BitVec 16 := 0
  /-- Decode sessions that skip to the next key frame (R332). -/
  sesWaitKey : BitVec 32 := 0
  /-- Decode sessions whose unit is decoded for reference only, and the arrival and the FLAGS of the unit that each has taken (R332). -/
  unitDrop : BitVec 32 := 0
  unitAt : Store (Option (Nat × Word)) := []
  csi : Store CsiInput := []
  deriving DecidableEq, Repr

/-! ### Control I/O (R317 to R336) -/

/-- A queued event: code and requester (R320). -/
structure Event where
  code : BitVec 16
  req : Byte
  deriving DecidableEq, Repr

/-- A rule's hold state (R322): when each condition was last true, and the last combined value. -/
structure RuleHold where
  aAt : Option Nat := none
  bAt : Option Nat := none
  prev : Bool := false
  deriving DecidableEq, Repr

/-- A timer (R321): the next expiry, none while it does not count. -/
structure TimerSt where
  due : Option Nat := none
  deriving DecidableEq, Repr

/-- A PWM output's applied and waiting settings (R318). -/
structure PwmSt where
  cfg : Word := 0
  duty : BitVec 16 := 0
  deriving DecidableEq, Repr

/-- A UART's FIFOs, and its line (R319): when the byte at the head begins or began, and until when TRAIL holds the direction pin. -/
structure UartSt where
  tx : List Byte := []
  rx : List Byte := []
  ovr : Bool := false
  perr : Bool := false
  ferr : Bool := false
  lineAt : Nat := 0
  deUntil : Option Nat := none
  deriving DecidableEq, Repr

/-- Control I/O and the rule engine. -/
structure Ctlio where
  /-- Pin levels of the alarm inputs, and their debounced levels. -/
  inPin : BitVec 16 := 0
  inLevel : BitVec 16 := 0
  /-- Since when a pin has held a level other than its debounced one. -/
  changeAt : Store (Option Nat) := []
  /-- Outputs that are active (sinking). -/
  outActive : BitVec 8 := 0
  gpioIn : Byte := 0
  events : List Event := []
  /-- Momentary occurrences that the next pass takes in: input edges and timer expiries. -/
  rises : BitVec 16 := 0
  falls : BitVec 16 := 0
  expiries : BitVec 8 := 0
  hold : Store RuleHold := []
  timers : Store TimerSt := []
  pulses : Store (Option Nat) := []
  pwm : Store PwmSt := []
  uart : Store UartSt := []
  /-- Template frames waiting on each port (R324). -/
  tplQueue : Store (List (List Byte)) := []
  tplDrop : Word := 0
  /-- A condition has changed since the last pass (R325). -/
  passDue : Bool := false
  deriving DecidableEq, Repr

/-! ### Host interface (R337 to R359) -/

/-- A host or firmware queue's dynamic part (R344, R345, R359). -/
structure Queue where
  en : Bool := false
  sqTail : BitVec 12 := 0
  sqHead : BitVec 12 := 0
  outst : BitVec 12 := 0
  cqTail : BitVec 12 := 0
  cqHead : BitVec 12 := 0
  phase : Bool := true
  unsignalled : Nat := 0
  oldest : Nat := 0
  /-- The queue's incarnation, and the incarnation that the last link loss began: completions of jobs of an earlier one are
  discarded (R354, R356). -/
  epoch : Nat := 0
  linkEpoch : Nat := 0
  deriving DecidableEq, Repr

/-- A fetched SQ entry on its way through the queue block (R345, R349). -/
structure FetchedEntry where
  queue : Fin 68
  epoch : Nat
  sqHead : BitVec 12
  words : List Word
  deriving DecidableEq, Repr

/-- A PCIe function (R337 to R343, R354). -/
structure PcieFn where
  bme : Bool := false
  flrBusy : Bool := false
  msixEn : Bool := false
  msixMask : Bool := false
  deriving DecidableEq, Repr

/-- The PCIe endpoint and the host queue block. -/
structure Pcie where
  linkUp : Bool := false
  training : Bool := false
  perst : Bool := false
  speed : BitVec 3 := 0
  width : BitVec 4 := 0
  vfEnable : Bool := false
  numVfs : BitVec 4 := 0
  ptmEnabled : Bool := false
  /-- When the last PTM dialogue took place (R357). -/
  ptmAt : Option Nat := none
  fns : Store PcieFn := []
  /-- MSI-X tables: function * 128 + word, and pending bits by function (R339). -/
  msixTable : Store Word := []
  msixPending : Store Word := []
  queues : Store Queue := []
  fetched : List FetchedEntry := []
  deriving DecidableEq, Repr

/-! ### Herds and the link fault injector (R360 to R381) -/

/-- `HERD.STAT.STATE` (R379). -/
inductive HerdSt where
  | solo | joining | member | bellwether | refused
  deriving DecidableEq, Repr

/-- What is known of a peer (R363, R370, R371, R372). -/
structure Peer where
  up : Bool := false
  state : BitVec 3 := 0
  role : BitVec 2 := 0
  /-- When its last valid record arrived, or since when one has been due (R363). -/
  seenAt : Nat := 0
  /-- The sequence number of the next status record to it (R372). -/
  recSeq : BitVec 16 := 0
  txSeq : BitVec 16 := 0
  rxSeq : BitVec 16 := 0
  rxDone : BitVec 16 := 0
  gapCnt : BitVec 16 := 0
  badCnt : BitVec 16 := 0
  /-- Sequence numbers at or beyond RX_SEQ that have arrived, and when (R371). -/
  got : List (BitVec 16 × Nat) := []
  /-- t1 of the last record received from the peer and its arrival time (R372). -/
  t1 : DWord := 0
  t1At : DWord := 0
  actTime : DWord := 0
  deriving DecidableEq, Repr

/-- The herd block. -/
structure Herd where
  st : HerdSt := .solo
  bellId : BitVec 4 := 0
  code : Byte := 0
  members : BitVec 16 := 0
  hoffset : Int := 0
  errNs : BitVec 16 := 0
  src : BitVec 2 := 0
  locked : Bool := false
  /-- When the last status records went out (R361). -/
  sentAt : Option Nat := none
  peers : Store Peer := []
  /-- Per-requester payload (copy * 16 + i) and result words (R370). -/
  tx : Store Word := []
  result : Store Word := []
  deriving DecidableEq, Repr

/-- One byte of a write packet; `bad` says that its parity is that of other data (R377). -/
structure WriteCell where
  addr : Addr
  byte : Byte
  bad : Bool := false
  deriving DecidableEq, Repr

/-- An item that the link fault injector holds for reordering (R377). A frame keeps the time of its reception (R295). A write packet
names the core whose step may stage it, its requester, and the function of its host-window bytes; a write of a register, its
requester, offset in the register region, size and data. -/
inductive Held where
  | frame (port : Fin 2) (f : RxFrame) (time : Nat)
  | message (rid : BitVec 16) (sender : Fin 16) (slot : Nat) (aligned : Bool) (m : Vector Word 16)
  | record (rid : BitVec 16) (sender : Fin 16) (r : Vector Word 16)
  | sent (bus : DWord) (bytes : List Byte)
  | write (own : Option Nat) (req : Byte) (f : Fin 16) (cells : List WriteCell)
  | regs (req : Requester) (off size : Nat) (value : Word)
  deriving DecidableEq, Repr

/-- A link fault injector channel (R376, R377). -/
structure LfiChan where
  lfsr : Word := 1
  items : Nat := 0
  held : Option Held := none
  heldAt : Nat := 0
  deriving DecidableEq, Repr

/-! ### Power, reset, time, trust -/

/-- A power domain (R382 to R386): 0 OFF, 1 RETAIN, 2 ON. -/
structure Dom where
  target : BitVec 2
  state : BitVec 2
  moving : Bool
  /-- The cause of a fence that waits for the change to complete (R386); 0 when none waits. -/
  fenceWaits : BitVec 4 := 0
  deriving DecidableEq, Repr

/-- The power controller (R382 to R393, R413, R414). -/
structure Power where
  doms : Store Dom := []
  railTarget : BitVec 10 := 0
  railMv : BitVec 10 := 0
  railSettled : Bool := false
  retries : BitVec 16 := 0
  avsFault : Bool := false
  polling : Bool := false
  monMv : BitVec 10 := 0
  temps : Store (BitVec 12) := []
  drip : Bool := false
  i2cBusy : BitVec 2 := 0
  i2cNack : BitVec 2 := 0
  deriving DecidableEq, Repr

/-- The reset controller (R398 to R406, R410, R415, R464). -/
structure ResetCtl where
  cause : BitVec 14 := 1
  causeAcc : BitVec 14 := 1
  lastLevel : BitVec 2 := 0
  epoch : BitVec 16 := 0
  asserted : BitVec 14 := 0
  /-- Sources within the 50 µs stretch, and level sources whose condition has ended meanwhile (R401). -/
  stretch : BitVec 14 := 0
  ended : BitVec 14 := 0
  /-- The L0 to L2 episode under way: its deepest level and the sources seen. -/
  episode : Option (BitVec 2 × BitVec 14) := none
  /-- The level of an exit sequence that has begun and is not complete (R402). -/
  exit : Option (BitVec 2) := some 0
  romStarted : Bool := false
  fusesRead : Bool := false
  recovery : Bool := false
  /-- Sources held off by a non-volatile write pulse (R403). -/
  deferred : BitVec 14 := 0
  /-- The functions whose FLR, source 5, is held off. -/
  flrDeferred : BitVec 16 := 0
  deferCnt : Byte := 0
  history : Store DWord := []
  histNext : BitVec 3 := 0
  histCount : BitVec 4 := 0
  service : BitVec 2 := 0
  deriving DecidableEq, Repr

/-- What a controllable pin does (R405, R406). -/
inductive PinDrive where
  | hiZ | pullDown | pullUp | low | high | sink | pwm
  deriving DecidableEq, Repr

/-- A controllable pin: its present drive, its PD0 latch, and whether its owner has driven it since its reset. -/
structure Pin where
  drive : PinDrive := .hiZ
  latch : Bool := false
  driven : Bool := false
  deriving DecidableEq, Repr

/-- The time base (R394 to R397, R416). -/
structure Time where
  running : Bool := false
  now : DWord := 0
  /-- Fraction of a nanosecond in units of 2^-32 (R394). -/
  frac : Word := 0
  /-- Crystal periods since ROM start restarted the management watchdog (R130). -/
  wdtTicks : Nat := 0
  wdtOn : Bool := false
  far : Bool := false
  errNs : Word := 0
  ppsHigh : Bool := false
  ppsFrom : Nat := 0
  deriving DecidableEq, Repr

/-- Debug access (R426, R436). -/
inductive DebugSt where
  | closed | challenged | armed | opened
  deriving DecidableEq, Repr

/-- Update engine state (R437). -/
inductive UpdateSt where
  | idle | checking | writing | ready | armed | stopping
  deriving DecidableEq, Repr

/-- The boot record of SSTORE (R431). -/
structure BootRecord where
  active : Bool := false
  trial : Bool := false
  tries : BitVec 2 := 0
  deriving DecidableEq, Repr

/-- The security engine, the update engine, SSTORE's port, the carafe and JTAG (R408, R409, R418 to R438, R460). -/
structure Trust where
  keysBlocked : Bool := false
  /-- Key-store slot IMG (R425). -/
  imgKey : Option (BitVec 256) := none
  tamperCnt : Byte := 0
  debug : DebugSt := .closed
  debugResult : Byte := 0
  chalFrom : Nat := 0
  debugOpen : Bool := false
  upd : UpdateSt := .idle
  updResult : Byte := 0
  progress : BitVec 16 := 0
  boot : BootRecord := {}
  /-- SEQ of the boot record's newest copy (R434). -/
  bootSeq : BitVec 16 := 0
  bootFail : Byte := 0
  /-- ACT_TIME of the READY header, the stop instant and Dmax in µs (R432). -/
  actTime : DWord := 0
  stop : DWord := 0
  dmax : Nat := 0
  /-- `HERD.TSYNC.LOCKED` cleared between ARM and the stop instant: the next L2 activates (R433). -/
  nextL2 : Bool := false
  runVer : Word := 0
  runSchema : BitVec 16 := 0
  runSvn : Byte := 0
  bootWait : Bool := false
  /-- The ROM has chosen and checked a slot since it last started (R422, R431). -/
  booted : Bool := false
  sstoreBusy : Bool := false
  sstoreAddr : BitVec 19 := 0
  sstoreData : Word := 0
  /-- Device time at which the present fuse pulse ends (R403, R420). -/
  fuseUntil : Nat := 0
  carafeLock : BitVec 16 := 0
  detOffset : BitVec 14 := 0
  detValid : Bool := false
  erased : Bool := false
  erasedCause : BitVec 3 := 0
  /-- The TAP's instruction as it acts (R461), and the levels in the boundary-scan outputs, by pin index of R405. -/
  tapIr : BitVec 5 := 1
  /-- The boundary-scan chain's latched cells (R457, R461). -/
  tapScan : BitVec 70 := 0
  deriving DecidableEq, Repr

/-! ### The outside -/

/-- What leaves the device: the model's own record of it, newest first. -/
inductive Sent where
  | msix (f : Fin 16) (vec : BitVec 5)
  | hostWrite (f : Fin 16) (addr : DWord) (bytes : List Byte)
  | hostRead (f : Fin 16) (addr : DWord) (len : Nat)
  | peerWrite (bus : DWord) (bytes : List Byte)
  | peerRead (bus : DWord) (len : Nat)
  | configData (words : List Word)
  | unsupported (src : Bar2Source)
  | bar2Data (src : Bar2Source) (bytes : List Byte)
  | ethFrame (port : Fin 2) (bytes : List Byte)
  | uartByte (u : Fin 2) (b : Byte) (parity : Option Bool) (stops : Nat)
  | avsTarget (mv : BitVec 10)
  | i2c (m : Fin 2) (cmd : Word) (data : DWord)
  deriving DecidableEq, Repr

/-- The state of the device, and the queue of waiting commands. -/
structure State where
  /-- Commands that wait, first in first out. -/
  pending : List Instr := []
  bus : Bus := {}
  fuses : Fuses := {}
  /-- The fuses as they stood before the commands whose pulses are under way (R420). -/
  fuseOld : Option Fuses := none
  /-- Processors by number: 0 to 5 the cores, 6 the management processor. -/
  procs : Store ProcState := []
  arrays : Store ArrayState := []
  pacer : Pacer := {}
  mem : Mem := {}
  dma : Dma := {}
  media : Media := {}
  ctlio : Ctlio := {}
  pcie : Pcie := {}
  herd : Herd := {}
  lfi : Store LfiChan := []
  power : Power := {}
  reset_ : ResetCtl := {}
  pins : Store Pin := []
  time : Time := {}
  trust : Trust := {}
  /-- The model's own: what has left the device. -/
  sent : List Sent := []
  /-- The model's own: how many free values have been drawn (Config). -/
  free : Nat := 0
  deriving DecidableEq, Repr

/-- The state at POR release, the instant VDD_AON is good (R410): every field at the reset value of its register, and no
command waiting. Fused values and the choices the spec leaves open are named in the assumption log. -/
def State.reset : State := {}

end Sys2Proof.Machine
end

