-- ==== Sys2Proof/Machine/RegMap.lean ====
section
/-! DEFINITION. The register maps of every page: each row gives a register its name in the manual, its offset, the bits of
each class that a write stores (R22, R23, R25), the bits that software reads but does not write, the bits that a one clears,
and its reset value. `own` marks a register that is computed from other fields of the state, or whose write is a command of
its own: Machine/Views.lean reads it and Machine/Bus.lean writes it. -/

namespace Sys2Proof.Machine

/-- A register's part in a LO/HI pair (R30). -/
inductive PairPart where
  | single | lo | hi
  deriving DecidableEq, Repr

/-- One register, or `n` registers `stride` bytes apart. -/
structure RegRow where
  name : String
  off : Nat
  n : Nat := 1
  stride : Nat := 4
  live : Word := 0
  staged : Word := 0
  frozen : Word := 0
  ro : Word := 0
  w1c : Word := 0
  reset : Word := 0
  own : Bool := false
  pair : PairPart := .single
  deriving DecidableEq, Repr

/-- The page numbers of R15. -/
def pgSys : Nat := 0x00
def pgPacer : Nat := 0x01
def pgPower : Nat := 0x02
def pgReset : Nat := 0x03
def pgFuse : Nat := 0x04
def pgTime : Nat := 0x05
def pgSec : Nat := 0x06
def pgUpdate : Nat := 0x07
def pgDma : Nat := 0x08
def pgNoc : Nat := 0x09
def pgDdr : Nat := 0x0A
def pgPcie : Nat := 0x0B
def pgHostq : Nat := 0x0C
def pgHerd : Nat := 0x0D
def pgEth : Nat := 0x0E
def pgStrx : Nat := 0x0F
def pgCodec : Nat := 0x10
def pgCsi : Nat := 0x11
def pgPfe : Nat := 0x12
def pgCtlio : Nat := 0x13
def pgShm : Nat := 0x14
def pgLfi : Nat := 0x15
def pgCarafe : Nat := 0x16
def pgSstore : Nat := 0x17
def pgCore0 : Nat := 0x18
def pgMgmt : Nat := 0x1E
def pgDebug : Nat := 0x1F

/-- The page of core `n` (R127). -/
def pgCore (n : Nat) : Nat := pgCore0 + n

/-- SYS (R36). -/
def rowsSys : List RegRow :=
  [{ name := "CAP0", off := 0x040, own := true }, { name := "CAP1", off := 0x044, own := true },
   { name := "HW_TYPE", off := 0x048, own := true }, { name := "PCI_VENDOR", off := 0x04C, own := true },
   { name := "DIE_FP_LO", off := 0x050, own := true, pair := .lo }, { name := "DIE_FP_HI", off := 0x054, own := true, pair := .hi },
   { name := "IRQ_SUM", off := 0x058, own := true }, { name := "IRQ_MGMT_EN", off := 0x05C, live := 0xFFFFFFFF },
   { name := "ERR_SUM", off := 0x060, own := true }]

/-- PACER (R76) and its class window (R77). -/
def rowsPacer : List RegRow :=
  [{ name := "CFG", off := 0x040, staged := 1, reset := 1 }, { name := "STAT", off := 0x044, own := true },
   { name := "FLOOR", off := 0x048, own := true }, { name := "DRAM_RES", off := 0x04C, own := true },
   { name := "DEC_RES", off := 0x050, own := true }, { name := "ADMIT_CMD", off := 0x054, own := true },
   { name := "ADMIT_RESULT", off := 0x058, own := true }, { name := "LATE_CNT", off := 0x05C, ro := 0xFFFFFFFF },
   { name := "RERUN_CNT", off := 0x060, ro := 0xFFFFFFFF }, { name := "RELOC_CNT", off := 0x064, ro := 0xFFFFFFFF },
   { name := "REJECT_CNT", off := 0x068, ro := 0xFFFFFFFF }, { name := "LOADn", off := 0x070, n := 6, own := true },
   { name := "HEALTHn", off := 0x090, n := 6, own := true }, { name := "GSRn_i", off := 0x100, n := 48, own := true },
   { name := "CL_CTRL", off := 0x400, own := true }, { name := "CL_COST", off := 0x404, own := true },
   { name := "CL_STEPMAX", off := 0x408, own := true }, { name := "CL_PERIOD", off := 0x40C, own := true },
   { name := "CL_DEADLINE", off := 0x410, own := true }, { name := "CL_DRAM", off := 0x414, own := true },
   { name := "CL_DECPIX", off := 0x418, own := true }, { name := "CL_LINK", off := 0x41C, own := true },
   { name := "CL_NOTICE", off := 0x420, own := true }, { name := "CL_PLACE", off := 0x424, own := true },
   { name := "CL_SHARES", off := 0x428, own := true }]

/-- POWER (R414). -/
def rowsPower : List RegRow :=
  [{ name := "MODE", off := 0x040, own := true }, { name := "RAIL", off := 0x044, own := true },
   { name := "BOOT_MV", off := 0x048, own := true }, { name := "AVS_STAT", off := 0x04C, own := true },
   { name := "MON", off := 0x050, own := true }, { name := "THERM_CFG", off := 0x054, live := 0xFF, reset := 0x64 },
   { name := "THERM_HOT", off := 0x058, own := true }, { name := "THERMs", off := 0x060, n := 7, own := true },
   { name := "PDn_CTRL", off := 0x080, n := 20, own := true },
   { name := "I2Cm_CTRL", off := 0x0E0, n := 2, stride := 0x10, live := 7, own := true },
   { name := "I2Cm_CMD", off := 0x0E4, n := 2, stride := 0x10, live := 0x7FF, own := true },
   { name := "I2Cm_DATA_LO", off := 0x0E8, n := 2, stride := 0x10, live := 0xFFFFFFFF, pair := .lo },
   { name := "I2Cm_DATA_HI", off := 0x0EC, n := 2, stride := 0x10, live := 0xFFFFFFFF, pair := .hi }]

/-- RESET (R415). -/
def rowsReset : List RegRow :=
  [{ name := "CAUSE", off := 0x040, own := true }, { name := "CAUSE_ACC", off := 0x044, own := true },
   { name := "LAST", off := 0x048, own := true }, { name := "ASSERTED", off := 0x04C, own := true },
   { name := "RST_MAP", off := 0x050, own := true }, { name := "SWRST", off := 0x054, own := true },
   { name := "STAT", off := 0x058, own := true }, { name := "RECOVER", off := 0x05C, own := true },
   { name := "HISTi_LO", off := 0x060, n := 8, stride := 8, own := true, pair := .lo },
   { name := "HISTi_HI", off := 0x064, n := 8, stride := 8, own := true, pair := .hi },
   { name := "HIST_IDX", off := 0x0A0, own := true }, { name := "SERVICE", off := 0x0A4, own := true },
   { name := "PIN_CODEk", off := 0x0B0, n := 6, own := true }, { name := "HOLD_LO", off := 0x0C8, own := true, pair := .lo },
   { name := "HOLD_HI", off := 0x0CC, own := true, pair := .hi }]

/-- TIME (R416). -/
def rowsTime : List RegRow :=
  [{ name := "NOW_LO", off := 0x040, own := true, pair := .lo }, { name := "NOW_HI", off := 0x044, own := true, pair := .hi },
   { name := "CFG", off := 0x048, live := 0xFFFF0003, reset := 0x03E80000, own := true },
   { name := "RATE", off := 0x04C, live := 0xFFFFF, own := true },
   { name := "SET_LO", off := 0x050, own := true, pair := .lo }, { name := "SET_HI", off := 0x054, own := true, pair := .hi },
   { name := "STAT", off := 0x058, own := true }, { name := "ERR_NS", off := 0x05C, own := true },
   { name := "PPS", off := 0x060, live := 0xFF01, reset := 0x6400 }]

/-- SEC (R436). -/
def rowsSec : List RegRow :=
  [{ name := "LC", off := 0x040, own := true }, { name := "SVN", off := 0x044, own := true },
   { name := "LC_CMD", off := 0x048, own := true }, { name := "TAMPER", off := 0x04C, own := true },
   { name := "DBG_CTRL", off := 0x050, live := 0x30, own := true }, { name := "DBG_STAT", off := 0x054, own := true },
   { name := "DBG_SUBMIT", off := 0x058, own := true }, { name := "HASH_INi", off := 0x060, n := 12, live := 0xFFFFFFFF },
   { name := "DBG_CHALi", off := 0x0A0, n := 12, ro := 0xFFFFFFFF }, { name := "DBG_RESPi", off := 0x100, n := 24, live := 0xFFFFFFFF },
   { name := "DBG_KEYi", off := 0x180, n := 24, live := 0xFFFFFFFF }]

/-- UPDATE (R437). -/
def rowsUpdate : List RegRow :=
  [{ name := "CMD", off := 0x040, own := true }, { name := "SRC_LO", off := 0x044, live := 0xFFFFFFFF, pair := .lo },
   { name := "SRC_HI", off := 0x048, live := 0xFF, pair := .hi }, { name := "SRC_LEN", off := 0x04C, live := 0xFFFFFFFF },
   { name := "STAT", off := 0x050, own := true }, { name := "SLOT", off := 0x054, own := true },
   { name := "GROUP", off := 0x058, live := 0xFFFF }, { name := "ACT_TIME_LO", off := 0x05C, own := true, pair := .lo },
   { name := "ACT_TIME_HI", off := 0x060, own := true, pair := .hi }, { name := "STOP_LO", off := 0x064, own := true, pair := .lo },
   { name := "STOP_HI", off := 0x068, own := true, pair := .hi }, { name := "RUN_VER", off := 0x06C, own := true },
   { name := "RUN_SCHEMA", off := 0x070, own := true }]

/-- A channel's register set with the descriptor's layout, from `o` on (R277, R293): the addresses and the time are LO/HI pairs. -/
def rowsSet (o : Nat) : List RegRow :=
  [{ name := "CTRL, LEN", off := o, n := 2, own := true },
   { name := "SRC_LO", off := o + 0x08, own := true, pair := .lo }, { name := "SRC_HI", off := o + 0x0C, own := true, pair := .hi },
   { name := "DST_LO", off := o + 0x10, own := true, pair := .lo }, { name := "DST_HI", off := o + 0x14, own := true, pair := .hi },
   { name := "ROWS to PLANE_STRIDE", off := o + 0x18, n := 4, own := true },
   { name := "NEXT_LO", off := o + 0x28, own := true, pair := .lo }, { name := "NEXT_HI", off := o + 0x2C, own := true, pair := .hi },
   { name := "TAG, STATUS", off := o + 0x30, n := 2, own := true },
   { name := "TIMESTAMP_LO", off := o + 0x38, own := true, pair := .lo }, { name := "TIMESTAMP_HI", off := o + 0x3C, own := true, pair := .hi }]

/-- DMA (R292) and its channel window (R293). -/
def rowsDma : List RegRow :=
  [{ name := "DONE_SUM", off := 0x040, own := true }, { name := "HALT_SUM", off := 0x044, own := true },
   { name := "BYTES_LO", off := 0x048, ro := 0xFFFFFFFF, pair := .lo }, { name := "BYTES_HI", off := 0x04C, ro := 0xFFFFFFFF, pair := .hi },
   { name := "PREEMPT_CNT", off := 0x050, ro := 0xFFFFFFFF }, { name := "MOVER_STAT", off := 0x054, own := true },
   { name := "CH_CTRL", off := 0x400, own := true }, { name := "CH_CMD", off := 0x404, own := true },
   { name := "CH_STAT", off := 0x408, own := true }, { name := "SH_CTRL", off := 0x40C, own := true },
   { name := "CH_OWNER", off := 0x410, own := true }, { name := "CH_PROG", off := 0x414, own := true },
   { name := "DESC_PTR_LO", off := 0x418, own := true, pair := .lo }, { name := "DESC_PTR_HI", off := 0x41C, own := true, pair := .hi },
   { name := "DESC_HOME_LO", off := 0x420, own := true, pair := .lo }, { name := "DESC_HOME_HI", off := 0x424, own := true, pair := .hi },
   { name := "ACT_DESC_LO", off := 0x428, own := true, pair := .lo }, { name := "ACT_DESC_HI", off := 0x42C, own := true, pair := .hi }
   ] ++ rowsSet 0x440 ++ rowsSet 0x480

/-- NOC (R161). -/
def rowsNoc : List RegRow :=
  [{ name := "CFG", off := 0x040, live := 0xFFFF, reset := 0x0064, own := true },
   { name := "TIMEOUT_CNT", off := 0x044, ro := 0xFFFFFFFF }, { name := "REFUSE_CNT", off := 0x048, ro := 0xFFFFFFFF }]

/-- DDR (R159). -/
def rowsDdr : List RegRow :=
  [{ name := "CFG", off := 0x040, live := 2, frozen := 1 }, { name := "STAT", off := 0x044, own := true },
   { name := "USABLE", off := 0x048, own := true }, { name := "CE_CNT", off := 0x04C, ro := 0xFFFFFFFF },
   { name := "UE_CNT", off := 0x050, ro := 0xFFFFFFFF }, { name := "UE_ADDR_LO", off := 0x054, ro := 0xFFFFFFFF, pair := .lo },
   { name := "UE_ADDR_HI", off := 0x058, ro := 0xFF, pair := .hi }]

/-- PCIE (R358) and its function window. -/
def rowsPcie : List RegRow :=
  [{ name := "LINK_STAT", off := 0x040, ro := 0xFFFF0000, own := true }, { name := "CFG", off := 0x044, live := 1, reset := 1 },
   { name := "FN_RESET", off := 0x048, own := true }, { name := "NUM_VFS", off := 0x04C, own := true },
   { name := "PTM_CTRL", off := 0x050, live := 0xFF01, reset := 0x0A00 }, { name := "PTM_STAT", off := 0x054, ro := 0x8000FFFF },
   { name := "PTM_LOCAL_LO", off := 0x058, ro := 0xFFFFFFFF, pair := .lo }, { name := "PTM_LOCAL_HI", off := 0x05C, ro := 0xFFFFFFFF, pair := .hi },
   { name := "PTM_MASTER_LO", off := 0x060, ro := 0xFFFFFFFF, pair := .lo }, { name := "PTM_MASTER_HI", off := 0x064, ro := 0xFFFFFFFF, pair := .hi },
   { name := "PTM_DELAY", off := 0x068, ro := 0xFFFF }, { name := "UR_CNT", off := 0x06C, ro := 0xFFFFFFFF },
   { name := "CLASS_GIVE", off := 0x070, own := true }, { name := "IRQ_ROUTEn", off := 0x100, n := 32, live := 0x8000001F },
   { name := "FN_STAT", off := 0x400, own := true }, { name := "HWIN_BASE_LO", off := 0x404, live := 0xFFFFF000, pair := .lo },
   { name := "HWIN_BASE_HI", off := 0x408, live := 0xFFFFFFFF, pair := .hi }, { name := "ERR_VEC", off := 0x40C, live := 0x8000001F },
   { name := "GRANTg_BASE", off := 0x420, n := 8, stride := 8, live := 0xFFFFFF },
   { name := "GRANTg_LEN", off := 0x424, n := 8, stride := 8, live := 0xC0FFFFFF }]

/-- HOSTQ (R359) and its queue window. -/
def rowsHostq : List RegRow :=
  [{ name := "ABORT_MISS", off := 0x040, ro := 0xFFFFFFFF }, { name := "CPL_LOST", off := 0x044, ro := 0xFFFFFFFF },
   { name := "Q_CTRL", off := 0x400, live := 0x0FFF03F0, reset := 0x003F0000, own := true },
   { name := "SQ_BASE_LO", off := 0x404, live := 0xFFFFFFC0, pair := .lo }, { name := "SQ_BASE_HI", off := 0x408, live := 0xFFFFFFFF, pair := .hi },
   { name := "CQ_BASE_LO", off := 0x40C, live := 0xFFFFFFE0, pair := .lo }, { name := "CQ_BASE_HI", off := 0x410, live := 0xFFFFFFFF, pair := .hi },
   { name := "IRQ_AGG", off := 0x414, live := 0xFFFF00FF, reset := 1 }, { name := "Q_STAT", off := 0x418, own := true },
   { name := "CQ_TAIL", off := 0x41C, own := true }, { name := "SQ_DB", off := 0x420, own := true }, { name := "CQ_DB", off := 0x424, own := true }]

/-- HERD (R379) and its peer window (R380). -/
def rowsHerd : List RegRow :=
  [{ name := "CFG", off := 0x040, frozen := 0x1F }, { name := "STAT", off := 0x044, own := true },
   { name := "BELL", off := 0x048, staged := 0xF }, { name := "ROLE", off := 0x04C, staged := 3 },
   { name := "HB", off := 0x050, frozen := 0x00FF0FFF, reset := 0x0005030A },
   { name := "MBX_BASE_LO", off := 0x054, frozen := 0xFFFFFC00, pair := .lo }, { name := "MBX_BASE_HI", off := 0x058, frozen := 0xFF, pair := .hi },
   { name := "MBX_CFG", off := 0x05C, frozen := 7 }, { name := "IN_BASE", off := 0x060, frozen := 0xFFFFFF },
   { name := "IN_LEN", off := 0x064, frozen := 0xC0FFFFFF }, { name := "HOFFSET_LO", off := 0x068, own := true, pair := .lo },
   { name := "HOFFSET_HI", off := 0x06C, own := true, pair := .hi }, { name := "TSYNC", off := 0x070, own := true },
   { name := "REFUSE", off := 0x074, ro := 0xFFFFFF }, { name := "MBX_TXi", off := 0x080, n := 14, own := true },
   { name := "MBX_SEND", off := 0x0B8, own := true }, { name := "MBX_RESULT", off := 0x0BC, own := true },
   { name := "PEER_CTRL", off := 0x400, live := 0xFFFF0001, own := true },
   { name := "PEER_BAR2_LO", off := 0x404, live := 0xFFFFFFFF, own := true, pair := .lo },
   { name := "PEER_BAR2_HI", off := 0x408, live := 0xFFFFFFFF, own := true, pair := .hi },
   { name := "PEER_MBX", off := 0x40C, live := 0x07FFFFFF, own := true }, { name := "PEER_STAT", off := 0x410, own := true },
   { name := "PEER_TX", off := 0x414, own := true }, { name := "PEER_RX", off := 0x418, own := true },
   { name := "RX_DONE", off := 0x41C, own := true }, { name := "PEER_ERR", off := 0x420, own := true }]

/-- ETH (R328). -/
def rowsEth : List RegRow :=
  [{ name := "PORT_CTRL", off := 0x400, frozen := 7 }, { name := "PORT_STAT", off := 0x404, own := true },
   { name := "RXQ_BASE_LO", off := 0x408, frozen := 0xFFFFF800, pair := .lo }, { name := "RXQ_BASE_HI", off := 0x40C, frozen := 0xFF, pair := .hi },
   { name := "RXQ_LEN", off := 0x410, frozen := 0xFFFF }, { name := "RXQ_WR", off := 0x414, ro := 0xFFFF },
   { name := "RXQ_RD", off := 0x418, live := 0xFFFF }, { name := "TXQ_BASE_LO", off := 0x41C, frozen := 0xFFFFFFF0, pair := .lo },
   { name := "TXQ_BASE_HI", off := 0x420, frozen := 0xFF, pair := .hi }, { name := "TXQ_LEN", off := 0x424, frozen := 0xFFFF },
   { name := "TXQ_WR", off := 0x428, live := 0xFFFF }, { name := "TXQ_RD", off := 0x42C, ro := 0xFFFF },
   { name := "RX_FRAMES", off := 0x430, ro := 0xFFFFFFFF }, { name := "RX_DROP", off := 0x434, ro := 0xFFFFFFFF }]

/-- STRX (R329) and its stream entries (R330): entry k of the window at 0x400 + 0x80 k. -/
def rowsStrx : List RegRow :=
  [{ name := "CFG", off := 0x040, frozen := 0xFFFFFFFF }, { name := "QSTAT", off := 0x044, own := true },
   { name := "QKEY_SRC0-3", off := 0x048, n := 4, ro := 0xFFFFFFFF }, { name := "QKEY_PORT", off := 0x058, ro := 0x807FFFFF },
   { name := "QKEY_SSRC", off := 0x05C, ro := 0xFFFFFFFF }, { name := "QCMD", off := 0x060, own := true },
   { name := "DROP_FULL", off := 0x064, ro := 0xFFFFFFFF }, { name := "QUAR_DROP", off := 0x068, ro := 0xFFFFFFFF },
   { name := "FREE_ENTRIES", off := 0x06C, own := true },
   { name := "ENT_CTRL", off := 0x400, n := 8, stride := 0x80, live := 0x03F0003F, own := true },
   { name := "SRC0", off := 0x404, n := 8, stride := 0x80, live := 0xFFFFFFFF }, { name := "SRC1", off := 0x408, n := 8, stride := 0x80, live := 0xFFFFFFFF },
   { name := "SRC2", off := 0x40C, n := 8, stride := 0x80, live := 0xFFFFFFFF }, { name := "SRC3", off := 0x410, n := 8, stride := 0x80, live := 0xFFFFFFFF },
   { name := "ENT_PORT", off := 0x414, n := 8, stride := 0x80, live := 0x0F7FFFFF }, { name := "SSRC", off := 0x418, n := 8, stride := 0x80, live := 0xFFFFFFFF },
   { name := "ES_BASE_LO", off := 0x41C, n := 8, stride := 0x80, live := 0xFFFFF000, pair := .lo },
   { name := "ES_BASE_HI", off := 0x420, n := 8, stride := 0x80, live := 0xFF, pair := .hi },
   { name := "ES_LEN", off := 0x424, n := 8, stride := 0x80, live := 0xFFFFF000 }, { name := "ES_WR", off := 0x428, n := 8, stride := 0x80, ro := 0xFFFFFFFF },
   { name := "ES_RD", off := 0x42C, n := 8, stride := 0x80, live := 0xFFFFFFFF },
   { name := "FR_BASE_LO", off := 0x430, n := 8, stride := 0x80, live := 0xFFFFFFFF, pair := .lo },
   { name := "FR_BASE_HI", off := 0x434, n := 8, stride := 0x80, live := 0xFF, pair := .hi },
   { name := "FR_STAT", off := 0x438, n := 8, stride := 0x80, ro := 0xFFFF003F },
   { name := "ENT_TMO", off := 0x43C, n := 8, stride := 0x80, live := 0xFFFFFFFF, reset := 0x00C807D0 },
   { name := "OUT_BASE_LO", off := 0x440, n := 8, stride := 0x80, live := 0xFFFFFFFF, pair := .lo },
   { name := "OUT_BASE_HI", off := 0x444, n := 8, stride := 0x80, live := 0xFF, pair := .hi },
   { name := "OUT_CFG", off := 0x448, n := 8, stride := 0x80, live := 0xFFFF001F },
   { name := "OUT_FREE", off := 0x44C, n := 8, stride := 0x80, ro := 0xFFFF, reset := 0xFFFF },
   { name := "OUT_RELEASE", off := 0x450, n := 8, stride := 0x80, own := true },
   { name := "REF_BASE_LO", off := 0x454, n := 8, stride := 0x80, live := 0xFFFFFFFF, pair := .lo },
   { name := "REF_BASE_HI", off := 0x458, n := 8, stride := 0x80, live := 0xFFFFFFFF, pair := .hi },
   { name := "REF_LEN", off := 0x45C, n := 8, stride := 0x80, live := 0xFFFFFFFF },
   { name := "PKT_CNT", off := 0x460, n := 8, stride := 0x80, ro := 0xFFFFFFFF }, { name := "LOST_CNT", off := 0x464, n := 8, stride := 0x80, ro := 0xFFFFFFFF },
   { name := "DISCARD_CNT", off := 0x468, n := 8, stride := 0x80, ro := 0xFFFFFFFF }, { name := "FRAME_CNT", off := 0x46C, n := 8, stride := 0x80, ro := 0xFFFFFFFF },
   { name := "DAMAGED_CNT", off := 0x470, n := 8, stride := 0x80, ro := 0xFFFFFFFF }, { name := "OVF_CNT", off := 0x474, n := 8, stride := 0x80, ro := 0xFFFFFFFF }]

/-- CODEC (R331). -/
def rowsCodec : List RegRow :=
  [{ name := "CFG", off := 0x040, live := 0xFFFF, reset := 0x64 }, { name := "DEC_FRAMES", off := 0x044, ro := 0xFFFFFFFF },
   { name := "ENC_FRAMES", off := 0x048, ro := 0xFFFFFFFF }, { name := "ENC_SKIP", off := 0x04C, ro := 0xFFFFFFFF },
   { name := "SES_CTRL", off := 0x400, frozen := 0x0100007F, staged := 0x00FF3F00 },
   { name := "SES_SIZE", off := 0x404, frozen := 0x1FFF1FFF }, { name := "SES_RATE", off := 0x408, staged := 0x000FFFFF, frozen := 0x1FF00000 },
   { name := "IN_BASE_LO", off := 0x40C, frozen := 0xFFFFFFFF, pair := .lo }, { name := "IN_BASE_HI", off := 0x410, frozen := 0xFF, pair := .hi },
   { name := "IN_PTR", off := 0x414, live := 0x1F, ro := 0x1F00 },
   { name := "OUT_BASE_LO", off := 0x418, frozen := 0xFFFFFFFF, pair := .lo }, { name := "OUT_BASE_HI", off := 0x41C, frozen := 0xFFFFFFFF, pair := .hi },
   { name := "OUT_LEN", off := 0x420, frozen := 0xFFFFFFFF }, { name := "OUT_WR", off := 0x424, ro := 0xFFFFFFFF },
   { name := "OUT_RD", off := 0x428, live := 0xFFFFFFFF }, { name := "REF_BASE_LO", off := 0x42C, frozen := 0xFFFFFFFF, pair := .lo },
   { name := "REF_BASE_HI", off := 0x430, frozen := 0xFFFFFFFF, pair := .hi }, { name := "REF_LEN", off := 0x434, frozen := 0xFFFFFFFF },
   { name := "DOUT_CFG", off := 0x438, frozen := 0xFFFF001F }, { name := "DOUT_FREE", off := 0x43C, ro := 0xFFFF, reset := 0xFFFF },
   { name := "DOUT_RELEASE", off := 0x440, own := true }]

/-- CSI (R333). -/
def rowsCsi : List RegRow :=
  [{ name := "CSI_CTRL", off := 0x400, frozen := 0xFFF7 }, { name := "CSI_SIZE", off := 0x404, frozen := 0x1FFF1FFF },
   { name := "CSI_STAT", off := 0x408, ro := 0xFFFF0000, own := true }, { name := "CSI_ERR", off := 0x40C, ro := 0xFFFFFFFF, own := true }]

/-- PFE (R334): output k at 0x480 + 0x40 k. GAMMA_DATA and COEF_DATA reach tables of their own. -/
def rowsPfe : List RegRow :=
  [{ name := "PFE_CTRL", off := 0x400, staged := 1 }, { name := "BL01", off := 0x404, staged := 0x3FFF3FFF },
   { name := "BL23", off := 0x408, staged := 0x3FFF3FFF }, { name := "WB01", off := 0x40C, staged := 0x0FFF0FFF, reset := 0x01000100 },
   { name := "WB23", off := 0x410, staged := 0x0FFF0FFF, reset := 0x01000100 },
   { name := "CCM0", off := 0x414, staged := 0x0FFF0FFF, reset := 0x00000100 }, { name := "CCM1", off := 0x418, staged := 0x0FFF0FFF },
   { name := "CCM2", off := 0x41C, staged := 0x0FFF0FFF, reset := 0x00000100 }, { name := "CCM3", off := 0x420, staged := 0x0FFF0FFF },
   { name := "CCM4", off := 0x424, staged := 0x0FFF0FFF, reset := 0x00000100 },
   { name := "GAMMA_IDX", off := 0x428, staged := 0x7FF }, { name := "GAMMA_DATA", off := 0x42C, own := true },
   { name := "CSC", off := 0x430, staged := 3 }, { name := "FRAMES", off := 0x434, ro := 0xFFFFFFFF }, { name := "DROPS", off := 0x438, ro := 0xFFFFFFFF },
   { name := "OUT_CTRL", off := 0x480, n := 4, stride := 0x40, staged := 0xF7 }, { name := "CROP_XY", off := 0x484, n := 4, stride := 0x40, staged := 0x1FFF1FFF },
   { name := "CROP_WH", off := 0x488, n := 4, stride := 0x40, staged := 0x1FFF1FFF }, { name := "OUT_WH", off := 0x48C, n := 4, stride := 0x40, staged := 0x1FFF1FFF },
   { name := "BUF_BASE_LO", off := 0x490, n := 4, stride := 0x40, staged := 0xFFFFFFFF, pair := .lo },
   { name := "BUF_BASE_HI", off := 0x494, n := 4, stride := 0x40, staged := 0xFFFFFFFF, pair := .hi },
   { name := "BUF_STRIDE", off := 0x498, n := 4, stride := 0x40, staged := 0xFFFFFFFF }, { name := "BUF_SIZE", off := 0x49C, n := 4, stride := 0x40, staged := 0xFFFFF000 },
   { name := "BUF_FREE", off := 0x4A0, n := 4, stride := 0x40, ro := 0xFFFF, reset := 0xFFFF }, { name := "BUF_RELEASE", off := 0x4A4, n := 4, stride := 0x40, own := true },
   { name := "LAST", off := 0x4A8, n := 4, stride := 0x40, ro := 0xFFFF001F }, { name := "COEF_IDX", off := 0x4AC, n := 4, stride := 0x40, staged := 0x1FF },
   { name := "COEF_DATA", off := 0x4B0, n := 4, stride := 0x40, own := true }]

/-- CTLIO (R335) and its rule window (R336). -/
def rowsCtlio : List RegRow :=
  [{ name := "IN_LEVEL", off := 0x040, own := true }, { name := "IN_EDGE", off := 0x044, w1c := 0xFFFFFFFF },
   { name := "DEBi", off := 0x048, n := 4, live := 0xFFFFFFFF, reset := 0x0A0A0A0A }, { name := "OUT_STATE", off := 0x058, own := true },
   { name := "OUT_SET", off := 0x05C, own := true }, { name := "OUT_CLR", off := 0x060, own := true },
   { name := "GPIO", off := 0x064, live := 0xFFFF, own := true }, { name := "EV_POST", off := 0x068, own := true },
   { name := "EV_DEPTH", off := 0x06C, own := true }, { name := "EV_DROP", off := 0x070, ro := 0xFFFFFFFF },
   { name := "RULE_HIT_LO", off := 0x074, w1c := 0xFFFFFFFF, pair := .lo }, { name := "RULE_HIT_HI", off := 0x078, w1c := 0xFFFFFFFF, pair := .hi },
   { name := "PWMp_CFG", off := 0x080, n := 4, live := 0xFFFF83FF, own := true }, { name := "PWMp_DUTY", off := 0x090, n := 4, live := 0xFFFF },
   { name := "TIMERt", off := 0x0A0, n := 8, staged := 0xFFFFFFFF },
   { name := "UARTu_CFG", off := 0x0C0, n := 2, stride := 0x10, frozen := 0x3FFFFFFF, own := true },
   { name := "UARTu_DATA", off := 0x0C4, n := 2, stride := 0x10, own := true }, { name := "UARTu_STAT", off := 0x0C8, n := 2, stride := 0x10, own := true },
   { name := "JRNL_BASE_LO", off := 0x0E0, live := 0xFFFFFFFF, pair := .lo }, { name := "JRNL_BASE_HI", off := 0x0E4, live := 0xFFFFFFFF, pair := .hi },
   { name := "JRNL_LEN", off := 0x0E8, live := 0xFFFFFFFF }, { name := "JRNL_WR", off := 0x0EC, ro := 0xFFFFFFFF },
   { name := "RULE_CTRL", off := 0x400, staged := 0xFFFFF }, { name := "COND_A", off := 0x404, staged := 0x3FF },
   { name := "COND_B", off := 0x408, staged := 0x3FF }, { name := "EVM_A", off := 0x40C, staged := 0xFFFFFFFF },
   { name := "EVM_B", off := 0x410, staged := 0xFFFFFFFF }, { name := "ACTION", off := 0x414, staged := 0x3FFFF },
   { name := "PARAM", off := 0x418, staged := 0xFFFFFFFF }, { name := "RULE_CNT", off := 0x41C, ro := 0xFFFFFFFF },
   { name := "TPL_CFG", off := 0x420, staged := 0x00FF03FF }, { name := "TPL_DATA", off := 0x500, n := 64, staged := 0xFFFFFFFF }]

/-- SHM (R164) and its semaphore window (R165). -/
def rowsShm : List RegRow :=
  [{ name := "SLICE_STAT", off := 0x040, own := true }, { name := "SLICE_PENDn", off := 0x044, n := 4, own := true },
   { name := "DET_CNT", off := 0x054, ro := 0xFFFFFFFF }, { name := "DET_LOG", off := 0x058, own := true },
   { name := "RESTORE_CNT", off := 0x05C, ro := 0xFFFFFFFF }, { name := "SCRUB_CTRL", off := 0x060, live := 0xFFF00, reset := 0x800, own := true },
   { name := "SCRUB_BASE", off := 0x064, live := 0x03FFFF00 }, { name := "SCRUB_LEN", off := 0x068, live := 0x07FFFF00, reset := 0x04000000 },
   { name := "SCRUB_POS", off := 0x06C, own := true }, { name := "SEM_LIMIT", off := 0x070, live := 0xFFFF, reset := 0x64 },
   { name := "GOLDn_BASE", off := 0x100, n := 16, stride := 0x10, staged := 0x83FFF000 }, { name := "GOLDn_LEN", off := 0x104, n := 16, stride := 0x10, staged := 0x07FFF000 },
   { name := "GOLDn_DRAM_LO", off := 0x108, n := 16, stride := 0x10, staged := 0xFFFFFF00, pair := .lo },
   { name := "GOLDn_DRAM_HI", off := 0x10C, n := 16, stride := 0x10, staged := 0xFF, pair := .hi },
   { name := "SEM_COUNT", off := 0x400, n := 4, stride := 0x20, own := true }, { name := "SEM_POST", off := 0x404, n := 4, stride := 0x20, own := true },
   { name := "SEM_WAIT", off := 0x408, n := 4, stride := 0x20, own := true }, { name := "SEM_TAKE", off := 0x40C, n := 4, stride := 0x20, own := true },
   { name := "SEM_SET", off := 0x410, n := 4, stride := 0x20, own := true }]

/-- LFI (R381). -/
def rowsLfi : List RegRow :=
  [{ name := "GATE", off := 0x040, ro := 0xFFFF0000, own := true }, { name := "LFI_CTRL", off := 0x400, live := 0x0001FF3F, own := true },
   { name := "LFI_RATE", off := 0x404, live := 0xFFFFFFFF }, { name := "LFI_SEED", off := 0x408, live := 0xFFFFFFFF, reset := 1 },
   { name := "LFI_XOR", off := 0x40C, live := 0xFFFFFFFF }, { name := "LFI_LIMIT", off := 0x410, live := 0xFFFF }, { name := "LFI_FIRED", off := 0x414, ro := 0xFFFFFFFF }]

/-- CARAFE (R417). -/
def rowsCarafe : List RegRow :=
  [{ name := "LOCK", off := 0x040, own := true }, { name := "DET_CNT", off := 0x044, ro := 0xFFFFFFFF },
   { name := "DET_ADDR", off := 0x048, own := true }, { name := "ERASED", off := 0x04C, own := true }]

/-- SSTORE (R438). -/
def rowsSstore : List RegRow :=
  [{ name := "ADDR", off := 0x040, own := true }, { name := "DATA", off := 0x044, own := true },
   { name := "CMD", off := 0x048, own := true }, { name := "WR_CNT", off := 0x04C, ro := 0xFFFFFFFF }]

/-- CORE0 to CORE5 (R127, R208). -/
def rowsCore : List RegRow :=
  [{ name := "STATE", off := 0x040, own := true }, { name := "PC", off := 0x044, own := true }, { name := "FAULT_INFO", off := 0x048, own := true },
   { name := "FAULT_PC", off := 0x04C, own := true }, { name := "VFAULT_PC", off := 0x050, own := true }, { name := "VFAULT_INFO", off := 0x054, own := true },
   { name := "FLAGS", off := 0x058, own := true }, { name := "SAT_CNT", off := 0x05C, own := true },
   { name := "STEP_CNT_LO", off := 0x060, own := true, pair := .lo }, { name := "STEP_CNT_HI", off := 0x064, own := true, pair := .hi },
   { name := "STALL_CNT", off := 0x068, own := true }, { name := "WDT", off := 0x06C, staged := 0xFFFF, reset := 0xC8 },
   { name := "WDT_CNT", off := 0x070, own := true }, { name := "NAQ_STAT", off := 0x074, own := true }, { name := "NA_LAST", off := 0x078, own := true },
   { name := "NA_FLAGS", off := 0x07C, own := true }, { name := "NA_CMD_CNT", off := 0x080, own := true },
   { name := "NA_WAVE_CNT_LO", off := 0x084, own := true, pair := .lo }, { name := "NA_WAVE_CNT_HI", off := 0x088, own := true, pair := .hi },
   { name := "NA_MODE", off := 0x08C, own := true }]

/-- MGMT (R129). -/
def rowsMgmt : List RegRow :=
  [{ name := "STATE", off := 0x040, own := true }, { name := "PC", off := 0x044, own := true }, { name := "FAULT_INFO", off := 0x048, own := true },
   { name := "FAULT_PC", off := 0x04C, own := true }, { name := "WDT_CTL", off := 0x050, live := 0xFFFF, ro := 0x80000000, reset := 0x800003E8, own := true },
   { name := "WDT_KICK", off := 0x054, own := true }, { name := "WDT_CNT", off := 0x058, own := true }, { name := "SRAM_DET", off := 0x05C, ro := 0xFFFF }]

/-- The block registers of a page (R15, R16). FUSE and DEBUG have the common header alone. -/
def pageRows (page : Nat) : List RegRow :=
  match page with
  | 0x00 => rowsSys
  | 0x01 => rowsPacer
  | 0x02 => rowsPower
  | 0x03 => rowsReset
  | 0x05 => rowsTime
  | 0x06 => rowsSec
  | 0x07 => rowsUpdate
  | 0x08 => rowsDma
  | 0x09 => rowsNoc
  | 0x0A => rowsDdr
  | 0x0B => rowsPcie
  | 0x0C => rowsHostq
  | 0x0D => rowsHerd
  | 0x0E => rowsEth
  | 0x0F => rowsStrx
  | 0x10 => rowsCodec
  | 0x11 => rowsCsi
  | 0x12 => rowsPfe
  | 0x13 => rowsCtlio
  | 0x14 => rowsShm
  | 0x15 => rowsLfi
  | 0x16 => rowsCarafe
  | 0x17 => rowsSstore
  | 0x18 => rowsCore
  | 0x19 => rowsCore
  | 0x1A => rowsCore
  | 0x1B => rowsCore
  | 0x1C => rowsCore
  | 0x1D => rowsCore
  | 0x1E => rowsMgmt
  | _ => []

/-- Whether a row holds the register at an offset. -/
def RegRow.holds (r : RegRow) (off : Nat) : Bool :=
  r.off ≤ off && (off - r.off) % r.stride == 0 && (off - r.off) / r.stride < r.n

/-- The register at an offset of a page. -/
def regRow (page off : Nat) : Option RegRow := (pageRows page).find? (·.holds off)

/-- The highest-addressed register that a page implements in its window (R28). -/
def windowTop (page : Nat) : Nat :=
  (pageRows page).foldl (fun t r => max t (r.off + (r.n - 1) * r.stride)) 0

/-- The key of a register of a page, for a channel of its window. -/
def regKey (page chan off : Nat) : Nat := page * 0x100000 + chan * 0x1000 + off

/-- The page a key belongs to; the tables of the PFE (R314, R315) are kept under pages 32 and up. -/
def keyPage (k : Nat) : Nat := k / 0x100000

/-- Keys of the pixel front end's tables: gamma entries of an input, and scaler coefficients of an output of an input. -/
def gammaKey (input i : Nat) : Nat := regKey 32 input i
def coefKey (input out i : Nat) : Nat := regKey 33 (input * 4 + out) i

/-- The reset value of a cell: of the row for a register; the linear gamma and the bilinear scaler for the tables. -/
def regReset (k : Nat) : Word :=
  let page := keyPage k
  let off := k % 0x1000
  if page = 32 then BitVec.ofNat 32 (min 255 (off / 4))
  else if page = 33 then
    match off % 4 with
    | 1 => BitVec.ofNat 32 (256 - 4 * (off / 4 % 64))
    | 2 => BitVec.ofNat 32 (4 * (off / 4 % 64))
    | _ => 0
  else match regRow page off with
    | some r => r.reset
    | none => 0

/-- `BLK_CAP.COUNT`: the channels of a windowed page (R16, R17). A page without a window has one instance. -/
def pageCount (v : Variant) (page : Nat) : Nat :=
  match page with
  | 0x01 => 64
  | 0x08 => 32
  | 0x0B => 16
  | 0x0C => 68
  | 0x0D => 16
  | 0x0E => if v = .rlv4440 then 1 else 2
  | 0x0F => 64
  | 0x10 => 32
  | 0x11 => if v = .rlv6480 then 4 else 0
  | 0x12 => if v = .rlv6480 then 4 else 0
  | 0x13 => 64
  | 0x14 => 64
  | 0x15 => 4
  | _ => 1

/-- A page whose registers from 0x400 on are a channel window (R16). -/
def windowed (page : Nat) : Bool :=
  [0x01, 0x08, 0x0B, 0x0C, 0x0D, 0x0E, 0x0F, 0x10, 0x11, 0x12, 0x13, 0x14, 0x15].contains page

end Sys2Proof.Machine
end

