-- ==== Sys2Proof/Machine/Ops.lean ====
section
/-! DEFINITION. The shared operations over the state: sparse stores, bit fields, presence and power of the blocks, register
cells, counters, interrupt lines, the error record, bytes of memory, and free values. -/

namespace Sys2Proof.Machine

/-! ### Sparse stores: strictly rising keys, no entry at its default -/

/-- What a store holds at a key; `d` says what an unlisted key reads as. -/
def storeGet {α : Type} (d : Nat → α) (m : Store α) (k : Nat) : α :=
  match m with
  | [] => d k
  | (k', v) :: m => if k' = k then v else storeGet d m k

/-- Put an entry in its place by key. -/
def storeInsert {α : Type} (k : Nat) (v : α) : Store α → Store α
  | [] => [(k, v)]
  | (k', v') :: m => if k < k' then (k, v) :: (k', v') :: m else (k', v') :: storeInsert k v m

/-- A store without one key. -/
def storeErase {α : Type} (m : Store α) (k : Nat) : Store α := m.filter fun e => !(e.1 == k)

/-- Write a key. An entry equal to its default is not listed. -/
def storeSet {α : Type} [DecidableEq α] (d : Nat → α) (m : Store α) (k : Nat) (v : α) : Store α :=
  if v = d k then storeErase m k else storeInsert k v (storeErase m k)

/-- Change what a key holds. -/
def storeMod {α : Type} [DecidableEq α] (d : Nat → α) (m : Store α) (k : Nat) (f : α → α) : Store α :=
  storeSet d m k (f (storeGet d m k))

/-- The canonical form of a store. -/
def storeWf {α : Type} [DecidableEq α] (d : Nat → α) : Store α → Bool
  | [] => true
  | [(k, v)] => decide (v ≠ d k)
  | (k, v) :: (k', v') :: m => decide (v ≠ d k) && decide (k < k') && storeWf d ((k', v') :: m)

/-! ### Bit fields -/

/-- Bits [hi:lo] of a word, as a number. -/
def fld {w : Nat} (x : BitVec w) (hi lo : Nat) : Nat := (x.extractLsb' lo (hi + 1 - lo)).toNat

/-- One bit of a word. -/
def bit {w : Nat} (x : BitVec w) (i : Nat) : Bool := x.getLsbD i

/-- A number placed at bit `lo` of a register. -/
def at_ (lo n : Nat) : Word := BitVec.ofNat 32 (n <<< lo)

/-- A flag placed at a bit of a register. -/
def flag (i : Nat) (b : Bool) : Word := if b then at_ i 1 else 0

/-- `old` with the bits of `mask` taken from `new`. -/
def mix {w : Nat} (mask old new : BitVec w) : BitVec w := (old &&& ~~~mask) ||| (new &&& mask)

/-- The bits [n-1:0] set. -/
def ones (n : Nat) : Word := BitVec.ofNat 32 (2 ^ n - 1)

/-- The bit `i` alone. -/
def oneBit (w i : Nat) : BitVec w := BitVec.ofNat w (2 ^ i)

/-- The low and high words of a 64-bit quantity. -/
def lo32 (d : DWord) : Word := d.setWidth 32
def hi32 (d : DWord) : Word := (d >>> 32).setWidth 32

/-- A 64-bit quantity from its halves (R30). -/
def pair64 (hi lo : Word) : DWord := hi ++ lo

/-- A 40-bit address from its halves; only HI [7:0] exist. -/
def addrOf (hi lo : Word) : Addr := hi.setWidth 8 ++ lo

/-- A 40-bit address with one half replaced. -/
def halfLo (a : Addr) (v : Word) : Addr := addrOf (at_ 0 (a.toNat / 2 ^ 32)) v
def halfHi (a : Addr) (v : Word) : Addr := addrOf v (a.setWidth 32)

/-- Little-endian bytes of a number. -/
def bytesOf (n : Nat) (v : Nat) : List Byte := (List.range n).map fun i => BitVec.ofNat 8 (v >>> (8 * i))

/-- The number that little-endian bytes spell. -/
def ofBytes : List Byte → Nat
  | [] => 0
  | b :: bs => b.toNat + 256 * ofBytes bs

/-- Add one to a counter that saturates at all ones. -/
def satInc {w : Nat} (x : BitVec w) (n : Nat := 1) : BitVec w := BitVec.ofNat w (min (x.toNat + n) (2 ^ w - 1))

/-- A value held between bounds. -/
def clampInt (lo hi x : Int) : Int := max lo (min hi x)

/-- Division rounded up. -/
def cdiv (a b : Nat) : Nat := (a + b - 1) / b

end Sys2Proof.Machine

namespace Sys2Proof

/-! ### Requesters (R35) -/

/-- The requester codes of R35. -/
def Requester.code : Requester → Byte
  | .mgmt => 0x00
  | .jtag => 0x01
  | .fn f => BitVec.ofNat 8 (0x10 + f)
  | .core n => BitVec.ofNat 8 (0x20 + n)
  | .chan c => BitVec.ofNat 8 (0x30 + c)
  | .peer p => BitVec.ofNat 8 (0x50 + p)
  | .strx => 0x60
  | .codec => 0x61
  | .pfe => 0x62
  | .ctlio => 0x63
  | .pacer => 0x64
  | .update => 0x65
  | .sec => 0x66
  | .other => 0xFF

/-- PF0. -/
def Requester.isPf0 (r : Requester) : Bool := r.code == 0x10#8

/-- MGMT or PF0, who alone may use the privileged commands of R78, R146, R269, R385 and R415. -/
def Requester.isOwner (r : Requester) : Bool := r.code == 0x00#8 || r.code == 0x10#8

/-- A virtual function. -/
def Requester.isVf : Requester → Bool
  | .fn f => f ≠ 0
  | _ => false

/-- A processor as a requester. -/
def Proc.requester : Proc → Requester
  | .core n => .core n
  | .mgmt => .mgmt

/-- The number under which a processor's state is kept. -/
def Proc.num : Proc → Nat
  | .core n => n
  | .mgmt => 6

/-- The register page of a processor (R15). -/
def Proc.page : Proc → Nat
  | .core n => 0x18 + n
  | .mgmt => 0x1E

end Sys2Proof

namespace Sys2Proof.Machine

/-! ### The variant's units (R1, R3, R19, R36) -/

/-- `SYS.CAP0` of the variant (R36). -/
def cap0 (v : Variant) : Word :=
  match v with
  | .rlv6480 => 0x000FFFFF
  | .rlv6460 => 0x000077FF
  | .rlv4440 => 0x000024CF

/-- Which cores and slices exist. -/
def corePresent (s : State) (n : Nat) : Bool := decide (n < 6) && bit (cap0 s.fuses.variant) n
def slicePresent (s : State) (n : Nat) : Bool := decide (n < 4) && bit (cap0 s.fuses.variant) (6 + n)

/-- Whether the training extension exists (R4). -/
def trainPresent (s : State) : Bool := bit (cap0 s.fuses.variant) 12

/-- Whether a page's unit exists (R3). -/
def pagePresent (s : State) (page : Nat) : Bool :=
  if pgCore0 ≤ page ∧ page < pgMgmt then corePresent s (page - pgCore0)
  else if page = pgCsi then bit (cap0 s.fuses.variant) 15
  else if page = pgPfe then bit (cap0 s.fuses.variant) 19
  else true

/-- `BLK_CAP.FEATURES` (R19). -/
def features (v : Variant) (page : Nat) : Word :=
  let c := cap0 v
  let csi := at_ 0 (fld c 18 15)
  if pgCore0 ≤ page ∧ page < pgMgmt then 3 ||| flag 2 (bit c 12)
  else if page = pgShm then at_ 0 (fld c 9 6)
  else if page = pgCodec then 0xD ||| flag 1 (bit c 11)
  else if page = pgEth then at_ 0 (fld c 14 13) ||| 4
  else if page = pgStrx then 1 ||| flag 1 (csi != 0)
  else if page = pgCsi then csi
  else if page = pgPfe then 3
  else if page = pgHerd then 1
  else 0

/-! ### Power domains (R382, R465) -/

/-- The domain that holds a page (R382). -/
def pageDom (page : Nat) : Nat :=
  if page = pgSys ∨ page = pgPower ∨ page = pgReset ∨ page = pgFuse ∨ page = pgTime ∨ page = pgCarafe then 0
  else if page = pgMgmt then 1
  else if page = pgSec ∨ page = pgUpdate ∨ page = pgSstore ∨ page = pgDebug then 2
  else if pgCore0 ≤ page ∧ page < pgMgmt then 3 + (page - pgCore0)
  else if page = pgDdr then 14
  else if page = pgPcie ∨ page = pgHostq ∨ page = pgHerd then 15
  else if page = pgEth ∨ page = pgStrx then 16
  else if page = pgCodec then 17
  else if page = pgCsi ∨ page = pgPfe then 18
  else if page = pgCtlio then 19
  else 13

/-- The domains that never switch (R382). -/
def domFixed (n : Nat) : Bool := n == 0 || n == 1 || n == 2 || n == 13 || n == 19

/-- Whether a domain's unit exists (R3, R385). -/
def domPresent (v : Variant) (n : Nat) : Bool :=
  if 3 ≤ n ∧ n ≤ 8 then bit (cap0 v) (n - 3)
  else if 9 ≤ n ∧ n ≤ 12 then bit (cap0 v) (n - 3)
  else if n = 18 then bit (cap0 v) 19
  else true

/-- Whether a domain may be in RETAIN (R382). -/
def domRetains (n : Nat) : Bool := (9 ≤ n && n ≤ 12) || n == 14 || n == 17

/-- The state of a domain at each episode of L0 or L1 (R465). -/
def domBringUp (v : Variant) (n : Nat) : Dom :=
  let on : Bool := domPresent v n && !((4 ≤ n && n ≤ 8) || n == 11 || n == 12)
  { target := if on then 2 else 0, state := if on then 2 else 0, moving := false }

/-- A domain's state. -/
def dom (s : State) (n : Nat) : Dom := storeGet (domBringUp s.fuses.variant) s.power.doms n

/-! ### The parts of the state that an operation changes -/

def modCtl (f : Ctlio → Ctlio) (s : State) : State := { s with ctlio := f s.ctlio }

def modReset (f : ResetCtl → ResetCtl) (s : State) : State := { s with reset_ := f s.reset_ }

def modTrust (f : Trust → Trust) (s : State) : State := { s with trust := f s.trust }

def modTime (f : Time → Time) (s : State) : State := { s with time := f s.time }

def modHerd (f : Herd → Herd) (s : State) : State := { s with herd := f s.herd }

def modPower (f : Power → Power) (s : State) : State := { s with power := f s.power }

def modMedia (f : Media → Media) (s : State) : State := { s with media := f s.media }

def modDma (f : Dma → Dma) (s : State) : State := { s with dma := f s.dma }

def modPins (f : Store Pin → Store Pin) (s : State) : State := { s with pins := f s.pins }

/-- Change a domain. -/
def modDom (n : Nat) (f : Dom → Dom) (s : State) : State :=
  modPower (fun p => { p with doms := storeMod (domBringUp s.fuses.variant) p.doms n f }) s

/-- A domain is ON. -/
def domOn (s : State) (n : Nat) : Bool := (dom s n).state == 2

/-- A core's domain. -/
def domOfCore (n : Nat) : Nat := 3 + n

/-! ### Device time and free values -/

/-- Device time in nanoseconds (R394). -/
def now (s : State) : Nat := s.time.now.toNat

/-- Draw a fresh free value. -/
def draw (w : Nat) (s : State) : BitVec w × State := (Config.freeBits w s.free, { s with free := s.free + 1 })

/-- Count `n` free values as drawn. -/
def drawn (n : Nat) (s : State) : State := { s with free := s.free + n }

/-- Record what leaves the device. -/
def send (x : Sent) (s : State) : State := { s with sent := x :: s.sent }

/-- An episode of level L0 to L2 holds the device in reset: among the rest the network-on-chip, so that no access arrives (R398, R400). -/
def inReset (s : State) : Bool := s.reset_.episode.isSome

/-- A debug challenge expires at any reset (R426). -/
def challengeDrop (s : State) : State :=
  if s.trust.debug = .challenged then modTrust (fun t => { t with debug := .closed, debugResult := 0x11 }) s else s

/-! ### Processors, cores' health, arrays, channels -/

/-- A processor right after reset; the management processor issues from then on (R125, R410). -/
def procReset (n : Nat) : ProcState := if n = 6 then { runState := .issue } else {}

def getProc (s : State) (n : Nat) : ProcState := storeGet procReset s.procs n

def modProc (n : Nat) (f : ProcState → ProcState) (s : State) : State :=
  { s with procs := storeMod procReset s.procs n f }

def getArray (s : State) (n : Nat) : ArrayState := storeGet (fun _ => {}) s.arrays n

def modArray (n : Nat) (f : ArrayState → ArrayState) (s : State) : State :=
  { s with arrays := storeMod (fun _ => {}) s.arrays n f }

def getHealth (s : State) (n : Nat) : Health := storeGet (fun _ => {}) s.pacer.health n

def modPacer (f : Pacer → Pacer) (s : State) : State := { s with pacer := f s.pacer }

def modHealth (n : Nat) (f : Health → Health) (s : State) : State :=
  modPacer (fun p => { p with health := storeMod (fun _ => {}) p.health n f }) s

def getChan (s : State) (c : Nat) : Chan := storeGet (fun _ => {}) s.dma.chans c

def modChan (c : Nat) (f : Chan → Chan) (s : State) : State :=
  modDma (fun d => { d with chans := storeMod (fun _ => {}) d.chans c f }) s

/-- A fenced core, or an absent one, which behaves like one (R4). -/
def fenced (s : State) (n : Nat) : Bool := (getHealth s n).fenced

/-! ### Register cells -/

/-- The applied value of a register. -/
def getReg (s : State) (page chan off : Nat) : Word := storeGet regReset s.bus.regs (regKey page chan off)

def modBus (f : Bus → Bus) (s : State) : State := { s with bus := f s.bus }

/-- Set the applied value of a register. -/
def setReg (page chan off : Nat) (w : Word) (s : State) : State :=
  modBus (fun b => { b with regs := storeSet regReset b.regs (regKey page chan off) w }) s

/-- Change a register. -/
def modReg (page chan off : Nat) (f : Word → Word) (s : State) : State := setReg page chan off (f (getReg s page chan off)) s

/-- Count one on a 32-bit counter that wraps, and on one that saturates. -/
def countWrap (page chan off : Nat) (s : State) : State := modReg page chan off (· + 1) s
def countSat (page chan off : Nat) (s : State) : State := modReg page chan off (satInc ·) s

/-- A LO/HI pair as one quantity. -/
def getPair (s : State) (page chan off : Nat) : DWord := pair64 (getReg s page chan (off + 4)) (getReg s page chan off)

def setPair (page chan off : Nat) (d : DWord) (s : State) : State :=
  setReg page chan (off + 4) (hi32 d) (setReg page chan off (lo32 d) s)

/-- The 40-bit address of a LO/HI pair. -/
def getAddr (s : State) (page chan off : Nat) : Addr := addrOf (getReg s page chan (off + 4)) (getReg s page chan off)

/-! ### Page headers, interrupt lines and MSI-X (R17, R18, R339, R352, R353) -/

def getHdr (s : State) (page : Nat) : Hdr := storeGet (fun _ => {}) s.bus.hdrs page

def setHdr (page : Nat) (h : Hdr) (s : State) : State :=
  modBus (fun b => { b with hdrs := storeSet (fun _ => {}) b.hdrs page h }) s

/-- A page's interrupt line (R18). -/
def Hdr.line (h : Hdr) : Bool := (h.irqStat &&& h.irqEn) != 0

/-- A PCIe function. PF0 always exists. -/
def getFn (s : State) (f : Nat) : PcieFn := storeGet (fun _ => {}) s.pcie.fns f

def modPcie (f : Pcie → Pcie) (s : State) : State := { s with pcie := f s.pcie }

def modFn (f : Nat) (g : PcieFn → PcieFn) (s : State) : State :=
  modPcie (fun p => { p with fns := storeMod (fun _ => {}) p.fns f g }) s

/-- Whether a function exists (R338). -/
def fnExists (s : State) (f : Nat) : Bool := f == 0 || (s.pcie.vfEnable && decide (f ≤ s.pcie.numVfs.toNat))

/-- `SYS.HW_TYPE` of the variant (R36). -/
def hwType (v : Variant) : Nat :=
  match v with
  | .rlv6480 => 0x6480
  | .rlv6460 => 0x6460
  | .rlv4440 => 0x4440

/-- The MSI-X table after reset: every vector is masked, as the PCIe standard has it. -/
def msixInit (k : Nat) : Word := if k % 4 = 3 then 1 else 0

/-- A word of a function's MSI-X table (R339). -/
def msixWord (s : State) (f i : Nat) : Word := storeGet msixInit s.pcie.msixTable (f * 128 + i)

/-- A message can leave: the link is up and the function may master the bus. -/
def fnCanSend (s : State) (f : Nat) : Bool := s.pcie.linkUp && (getFn s f).bme && domOn s 15

/-- Signal a vector of a function, by the MSI-X rules: an unmasked vector is sent; a masked one, or one that cannot leave
yet, stays pending (R352). -/
def msixRaise (f vec : Nat) (s : State) : State :=
  if !fnExists s f || !(getFn s f).msixEn then s
  else if (getFn s f).msixMask || bit (msixWord s f (4 * vec + 3)) 0 || !fnCanSend s f then
    modPcie (fun p => { p with msixPending := storeMod (fun _ => 0) p.msixPending f (· ||| oneBit 32 vec) }) s
  else send (.msix (Fin.ofNat 16 f) (BitVec.ofNat 5 vec)) s

/-- Change a page's header. When the page's line goes from 0 to 1 and PF0 routes it, a message is sent (R353). -/
def modHdr (page : Nat) (f : Hdr → Hdr) (s : State) : State :=
  let h := getHdr s page
  let h' := f h
  let s := setHdr page h' s
  let r := getReg s pgPcie 0 (0x100 + 4 * page)
  if !h.line && h'.line && bit r 31 then msixRaise 0 (fld r 4 0) s else s

/-- Set bits of a page's IRQ_STAT. -/
def raiseBits (page : Nat) (bits : Word) (s : State) : State :=
  modHdr page (fun h => { h with irqStat := h.irqStat ||| bits }) s

/-- A block event of a page. -/
def raise (page b : Nat) (s : State) : State := raiseBits page (oneBit 32 b) s

/-! ### The error record (R33, R34) -/

def eWriteRunning : Byte := 0x01
def eBadSelect : Byte := 0x02
def eAbsent : Byte := 0x03
def eParity : Byte := 0x04
def eAddrRange : Byte := 0x05
def ePoweredOff : Byte := 0x06
def eOverlap : Byte := 0x07
def eShape : Byte := 0x08
def eShadowBusy : Byte := 0x09
def eTimeout : Byte := 0x0A
def ePermission : Byte := 0x0B
def eFenced : Byte := 0x0C
def eAlignment : Byte := 0x0D
def eFormat : Byte := 0x0E
def eLfi : Byte := 0x0F

/-- The first-error capture of a page's header (R34). -/
def Hdr.capture (h : Hdr) (req code : Byte) (addr : Addr) : Hdr :=
  if h.errValid then { h with irqStat := h.irqStat ||| 0xC0000000 }
  else { h with irqStat := h.irqStat ||| 0x80000000, errValid := true, errReq := req, errCode := code, errAddr := addr }

/-- Record an error in a page (R34). A PERMISSION or FORMAT record that a function's request causes signals the function's
ERR_VEC (R353). -/
def recordErr (page : Nat) (req code : Byte) (addr : Addr) (s : State) : State :=
  let s := modHdr page (·.capture req code addr) s
  let f := req.toNat - 0x10
  let v := getReg s pgPcie f 0x40C
  if 0x10 ≤ req.toNat ∧ req.toNat ≤ 0x1F ∧ (code = ePermission ∨ code = eFormat) ∧ bit v 31 = true
  then msixRaise f (fld v 4 0) s else s

/-- The internal address of a register (R15). -/
def regAddr (page off : Nat) : Addr := BitVec.ofNat 40 (0x40000000 + page * 0x1000 + off)

/-- An error of a register access, with the register's address. -/
def regErr (page off : Nat) (r : Requester) (code : Byte) (s : State) : State :=
  recordErr page r.code code (regAddr page off) s

/-! ### Bytes of memory (R150, R162) -/

def modMem (f : Mem → Mem) (s : State) : State := { s with mem := f s.mem }

/-- The memory that an internal address belongs to, as far as its contents are lost together: a core's CMEM and
PMEM, the management SRAM, a slice of SHM, DRAM, and a core's WBUF and SBUF, whose contents a new job step does not find (R139).
ACCBUF is cleared instead (R169). -/
def memUnit (a : Nat) : Option Nat :=
  if 0x20000000 ≤ a ∧ a < 0x26000000 ∧ (a % 0x1000000 < 0x400000 ∨ 0xE00000 ≤ a % 0x1000000) then
    some ((a - 0x20000000) / 0x1000000)
  else if 0x20000000 ≤ a ∧ a < 0x26000000 ∧ ((0x820000 ≤ a % 0x1000000 ∧ a % 0x1000000 < 0x840000)
      ∨ (0x880000 ≤ a % 0x1000000 ∧ a % 0x1000000 < 0x890000)) then
    some (16 + (a - 0x20000000) / 0x1000000)
  else if 0x1000000 ≤ a ∧ a < 0x1080000 then some 6
  else if 0x10000000 ≤ a ∧ a < 0x14000000 then some (8 + (a - 0x10000000) / 0x1000000)
  else if 0x100000000 ≤ a ∧ a < 0x1100000000 then some 12
  else none

/-- What a byte that nothing has written reads as: 0 from power-on and after the hardware has cleared its memory (an even era), and
a free value after its memory has lost its contents (an odd one). -/
def memDefault (eras : Store Nat) (a : Nat) : Byte :=
  match memUnit a with
  | some u =>
    let e := storeGet (fun _ => 0) eras u
    if e % 2 = 0 then 0 else Config.lostByte e a
  | none => if a < 0x40000 then Config.romByte a else 0

/-- Host memory and the flash hold 0 where nothing has been put. -/
def byteZero : Nat → Byte := fun _ => 0

/-- A byte of the internal address map, as committed. -/
def memByte (s : State) (a : Nat) : Byte := storeGet (memDefault s.mem.eras) s.mem.bytes a

/-- Write one byte; the write brings good parity (R150). -/
def Mem.put (a : Nat) (b : Byte) (m : Mem) : Mem :=
  { m with bytes := storeSet (memDefault m.eras) m.bytes a b, damaged := storeSet (fun _ => false) m.damaged a false }

/-- A memory enters a new era with nothing written. -/
def Mem.renew (u : Nat) (f : Nat → Nat) (m : Mem) : Mem :=
  { m with
    bytes := m.bytes.filter fun e => !(memUnit e.1 == some u)
    damaged := m.damaged.filter fun e => !(memUnit e.1 == some u)
    eras := storeMod (fun _ => 0) m.eras u f }

/-- A memory loses its contents. -/
def Mem.lose (u : Nat) (m : Mem) : Mem := m.renew u fun e => e + 1 + e % 2

/-- A core's WBUF and SBUF at the start of a job step: what they then hold the spec does not say, but every run of the step finds
the same (R139, R169). -/
def Mem.freshBuffers (n : Nat) (m : Mem) : Mem := m.renew (16 + n) fun _ => 1

/-- A core's WBUF and SBUF after its reset: they read 0 (R139). -/
def Mem.zeroBuffers (n : Nat) (m : Mem) : Mem := m.renew (16 + n) fun _ => 0

/-- A memory is cleared to 0 by the hardware. -/
def Mem.wipe (u : Nat) (m : Mem) : Mem := m.renew u fun e => e + e % 2

/-- Bytes outside those memories, cleared to 0 by the hardware. -/
def Mem.clear (lo hi : Nat) (m : Mem) : Mem :=
  { m with
    bytes := m.bytes.filter fun e => !(decide (lo ≤ e.1) && decide (e.1 < hi))
    damaged := m.damaged.filter fun e => !(decide (lo ≤ e.1) && decide (e.1 < hi)) }

/-- Write bytes at rising addresses. -/
def Mem.putAll (a : Nat) : List Byte → Mem → Mem
  | [], m => m
  | b :: bs, m => Mem.putAll (a + 1) bs (m.put a b)

def memPut (a : Nat) (bs : List Byte) (s : State) : State := modMem (Mem.putAll a bs) s

/-- Bytes at rising addresses. -/
def memBytes (s : State) (a n : Nat) : List Byte := (List.range n).map fun i => memByte s (a + i)

/-- A little-endian word of memory. -/
def memWord (s : State) (a : Nat) : Word := BitVec.ofNat 32 (ofBytes (memBytes s a 4))

/-- Host memory by host address. -/
def hostByte (s : State) (a : Nat) : Byte := storeGet byteZero s.mem.host (a % 2 ^ 64)

def hostPut (a : Nat) (bs : List Byte) (s : State) : State :=
  modMem (fun m => { m with host := (bs.zipIdx).foldl (fun h e => storeSet byteZero h ((a + e.2) % 2 ^ 64) e.1) m.host }) s

/-- The canonical form of the memories. -/
def Mem.wf (m : Mem) : Bool :=
  storeWf (memDefault m.eras) m.bytes && storeWf (fun _ => false) m.damaged && storeWf byteZero m.host && storeWf byteZero m.flash

end Sys2Proof.Machine
end

