-- ==== Sys2Proof/Machine/Formats.lean ====
section
/-! DEFINITION. Exact numbers and their roundings (R94, R235, R241, R242): fractions, the floating-point formats, and rounding
to them. -/

namespace Sys2Proof.Machine

/-! ### Fractions -/

/-- An exact fraction; the denominator is not 0. -/
structure Q where
  num : Int
  den : Nat
  deriving DecidableEq, Repr

def Q.ofInt (n : Int) : Q := ⟨n, 1⟩
def Q.add (a b : Q) : Q := ⟨a.num * b.den + b.num * a.den, a.den * b.den⟩
def Q.neg (a : Q) : Q := ⟨-a.num, a.den⟩
def Q.sub (a b : Q) : Q := a.add b.neg
def Q.mul (a b : Q) : Q := ⟨a.num * b.num, a.den * b.den⟩

/-- Division by a fraction that is not 0. -/
def Q.div (a b : Q) : Q := if b.num < 0 then ⟨-(a.num * b.den), a.den * b.num.natAbs⟩ else ⟨a.num * b.den, a.den * b.num.natAbs⟩

def Q.lt (a b : Q) : Bool := decide (a.num * b.den < b.num * a.den)
def Q.le (a b : Q) : Bool := decide (a.num * b.den ≤ b.num * a.den)
def Q.eq (a b : Q) : Bool := decide (a.num * b.den = b.num * a.den)
def Q.abs (a : Q) : Q := ⟨a.num.natAbs, a.den⟩
def Q.max (a b : Q) : Q := if a.lt b then b else a
def Q.min (a b : Q) : Q := if b.lt a then b else a
def Q.floor (a : Q) : Int := a.num / (a.den : Int)

/-- Round half to even (R241). -/
def Q.round (a : Q) : Int :=
  let f := a.num / (a.den : Int)
  let r := a.num % (a.den : Int)
  if 2 * r < a.den then f else if (a.den : Int) < 2 * r then f + 1 else if f % 2 = 0 then f else f + 1

/-- 2^e. -/
def Q.pow2 (e : Int) : Q := if 0 ≤ e then ⟨(2 ^ e.toNat : Nat), 1⟩ else ⟨1, 2 ^ (-e).toNat⟩

/-! ### Formats (R235) -/

/-- A binary format: exponent and fraction bits. -/
structure Fmt where
  eb : Nat
  mb : Nat
  deriving DecidableEq, Repr

def fp16 : Fmt := ⟨5, 10⟩
def bf16 : Fmt := ⟨8, 7⟩
def fp32 : Fmt := ⟨8, 23⟩
def fp64 : Fmt := ⟨11, 52⟩

def Fmt.width (f : Fmt) : Nat := 1 + f.eb + f.mb
def Fmt.bias (f : Fmt) : Int := 2 ^ (f.eb - 1) - 1
def Fmt.emin (f : Fmt) : Int := 1 - f.bias

/-- A floating-point value: the sign of a finite one is kept beside it, for zeros. -/
inductive Num where
  | nan
  | inf (neg : Bool)
  | fin (neg : Bool) (q : Q)
  deriving DecidableEq, Repr

/-- How a result is rounded. -/
inductive Mode where
  | nearest | down | up
  deriving DecidableEq, Repr

/-- Decode a value; `flush` makes a subnormal a zero of its sign (R94). -/
def Fmt.decode (f : Fmt) (flush : Bool) (n : Nat) : Num :=
  let neg := n / 2 ^ (f.eb + f.mb) % 2 == 1
  let ex := n / 2 ^ f.mb % 2 ^ f.eb
  let fr := n % 2 ^ f.mb
  let sign (q : Q) : Q := if neg then q.neg else q
  if ex = 2 ^ f.eb - 1 then (if fr = 0 then .inf neg else .nan)
  else if ex = 0 then
    .fin neg (if flush then ⟨0, 1⟩ else sign ((Q.ofInt fr).mul (Q.pow2 (f.emin - f.mb))))
  else .fin neg (sign ((Q.ofInt (2 ^ f.mb + fr : Nat)).mul (Q.pow2 (ex - f.bias - f.mb))))

/-- The magnitude n / d as a whole number of quanta. -/
def roundMag (mode : Mode) (neg : Bool) (n d : Nat) : Nat :=
  let k := n / d
  let r := n % d
  if r = 0 then k
  else match mode with
    | .nearest => if 2 * r < d then k else if d < 2 * r then k + 1 else k + k % 2
    | .down => if neg then k + 1 else k
    | .up => if neg then k else k + 1

/-- The sign bit. -/
def Fmt.sign (f : Fmt) (neg : Bool) : Nat := if neg then 2 ^ (f.eb + f.mb) else 0

def Fmt.infBits (f : Fmt) (neg : Bool) : Nat := f.sign neg + (2 ^ f.eb - 1) * 2 ^ f.mb

/-- Encode a finite exact value. With `flush` a result below the normal range becomes a zero of its sign (R94, R242). -/
def Fmt.encode (f : Fmt) (mode : Mode) (flush neg : Bool) (q : Q) : Nat :=
  let n := q.num.natAbs
  let d := q.den
  if n = 0 then f.sign neg
  else
    let neg := decide (q.num < 0)
    let e0 : Int := (Nat.log2 n : Int) - Nat.log2 d
    let e := if (Q.pow2 e0).le ⟨n, d⟩ then e0 else e0 - 1
    if flush && decide (e < f.emin) then f.sign neg
    else
      let quantum := max e f.emin - f.mb
      let k := if 0 ≤ quantum then roundMag mode neg n (d * 2 ^ quantum.toNat) else roundMag mode neg (n * 2 ^ (-quantum).toNat) d
      let mag := if e < f.emin then k else (e + f.bias).toNat * 2 ^ f.mb + (k - 2 ^ f.mb)
      if (2 ^ f.eb - 1) * 2 ^ f.mb ≤ mag then
        let toInf := match mode with
          | .nearest => true
          | .down => neg
          | .up => !neg
        f.sign neg + (if toInf then (2 ^ f.eb - 1) * 2 ^ f.mb else (2 ^ f.eb - 1) * 2 ^ f.mb - 1)
      else f.sign neg + mag

/-- Encode any value. The bits of a NaN are open: `args` are the operands. -/
def Fmt.result (f : Fmt) (mode : Mode) (flush : Bool) (args : List Nat) : Num → Nat
  | .nan => (Config.nanBits f.width args).toNat
  | .inf neg => f.infBits neg
  | .fin neg q => f.encode mode flush neg q

/-! ### Arithmetic (IEEE 754; R94, R242) -/

def Num.neg : Num → Bool
  | .nan => false
  | .inf n => n
  | .fin n _ => n

def Num.isZero : Num → Bool
  | .fin _ q => q.num == 0
  | _ => false

/-- The sign of an exact zero sum: of its operands where they agree, else by the rounding. -/
def zeroSign (mode : Mode) (a b : Bool) : Bool := if a = b then a else decide (mode = .down)

def Num.add (mode : Mode) : Num → Num → Num
  | .nan, _ | _, .nan => .nan
  | .inf a, .inf b => if a = b then .inf a else .nan
  | .inf a, _ => .inf a
  | _, .inf b => .inf b
  | .fin a x, .fin b y =>
    let s := x.add y
    .fin (if s.num = 0 then zeroSign mode a b else decide (s.num < 0)) s

def Num.mul : Num → Num → Num
  | .nan, _ | _, .nan => .nan
  | .inf a, y => if y.isZero then .nan else .inf (a != y.neg)
  | x, .inf b => if x.isZero then .nan else .inf (x.neg != b)
  | .fin a x, .fin b y => .fin (a != b) (x.mul y)

/-- d + a × b with one rounding. -/
def Num.fma (mode : Mode) (d a b : Num) : Num := d.add mode (a.mul b)

def Num.div : Num → Num → Num
  | .nan, _ | _, .nan => .nan
  | .inf _, .inf _ => .nan
  | .inf a, y => .inf (a != y.neg)
  | x, .inf b => .fin (x.neg != b) ⟨0, 1⟩
  | .fin a x, .fin b y =>
    if y.num = 0 then (if x.num = 0 then .nan else .inf (a != b)) else .fin (a != b) (x.div y)

/-- x < y, for numbers that are not NaN. -/
def Num.lt : Num → Num → Bool
  | .inf a, .inf b => a && !b
  | .inf a, _ => a
  | _, .inf b => !b
  | .fin _ x, .fin _ y => x.lt y
  | _, _ => false

def Num.eq : Num → Num → Bool
  | .inf a, .inf b => a == b
  | .fin _ x, .fin _ y => x.eq y
  | _, _ => false

def Num.isNan : Num → Bool
  | .nan => true
  | _ => false

/-- A floating-point value to an integer type of range [lo, hi] by the floor, as VCVT converts; the flag says that it saturated
or was a NaN (R242). -/
def Num.toRange (lo hi : Int) : Num → Int × Bool
  | .nan => (0, true)
  | .inf neg => (if neg then lo else hi, true)
  | .fin _ q => let k := q.floor; (clampInt lo hi k, decide (k < lo) || decide (hi < k))

/-! ### Scalar operations, IEEE 754 with round to nearest, ties to even, and subnormals (R94) -/

def fpAdd (f : Fmt) (a b : Nat) : Nat := f.result .nearest false [a, b] ((f.decode false a).add .nearest (f.decode false b))
def fpMul (f : Fmt) (a b : Nat) : Nat := f.result .nearest false [a, b] ((f.decode false a).mul (f.decode false b))
def fpDiv (f : Fmt) (a b : Nat) : Nat := f.result .nearest false [a, b] ((f.decode false a).div (f.decode false b))
def fpFma (f : Fmt) (d a b : Nat) : Nat :=
  f.result .nearest false [d, a, b] (Num.fma .nearest (f.decode false d) (f.decode false a) (f.decode false b))

/-- A comparison by FCMP's condition: EQ, LT, LE, UNORD in the order in which R92 names them. -/
def fpCmp (f : Fmt) (cond a b : Nat) : Bool :=
  let x := f.decode false a
  let y := f.decode false b
  let un := x.isNan || y.isNan
  match cond with
  | 0 => !un && x.eq y
  | 1 => !un && x.lt y
  | 2 => !un && (x.lt y || x.eq y)
  | 3 => un
  | c => Config.fcmpOther c a b

/-- A floating-point value to INT32, rounded to nearest; a NaN or a value outside INT32 has no stated result. -/
def fpToInt (f : Fmt) (a : Nat) : Word :=
  match f.decode false a with
  | .fin _ q => let k := q.round; if k < -2147483648 ∨ 2147483647 < k then Config.fcvtInvalid a else BitVec.ofInt 32 k
  | _ => Config.fcvtInvalid a

/-! ### PVU operations: flushed subnormals, rounding toward minus infinity (R94, R242) -/

def pvAdd (f : Fmt) (a b : Nat) : Nat := f.result .down true [a, b] ((f.decode true a).add .down (f.decode true b))
def pvMul (f : Fmt) (a b : Nat) : Nat := f.result .down true [a, b] ((f.decode true a).mul (f.decode true b))
def pvFma (f : Fmt) (d a b : Nat) : Nat :=
  f.result .down true [d, a, b] (Num.fma .down (f.decode true d) (f.decode true a) (f.decode true b))

end Sys2Proof.Machine
end

