-- ==== Sys2Proof/Machine/Map.lean ====
section
/-! DEFINITION. The 40-bit address map (R140, R162, R163): which memory an address names, what a memory answers to an access
that it refuses (R4, R138, R139, R143, R157, R160), and the bytes that a running step sees and stages (R60). -/

namespace Sys2Proof.Machine

/-- What lies at an internal address (R162, R163). -/
inductive Place where
  | rom | sram | regs | carafe | bkp | sstore | dram | host | hole
  | shm (slice : Nat)
  | cmem (core : Nat) | buffers (core : Nat) | pmem (core : Nat) | local (core : Nat)
  | peer (n : Nat)
  deriving DecidableEq, Repr

def shmBase : Nat := 0x10000000
def winBase (n : Nat) : Nat := 0x20000000 + n * 0x1000000
def selfBase : Nat := 0x30000000
def regsBase : Nat := 0x40000000
def carafeBase : Nat := 0x50000000
def bkpBase : Nat := 0x50004000
def sstoreBase : Nat := 0x60000000
def dramBase : Nat := 0x100000000
def peerBase (n : Nat) : Nat := 0x8000000000 + n * 0x400000000
def hostBase : Nat := 0xC000000000
def sramBase : Nat := 0x1000000

/-- Offsets within a core window (R163). -/
def offPmem : Nat := 0xE00000
def offLocal : Nat := 0xF00000
def offAbuf : Nat := 0x800000
def offWbuf : Nat := 0x820000
def offAcc : Nat := 0x840000
def offSbuf : Nat := 0x880000

/-- The place of an offset of core `n`'s window, and where the run of that place ends. -/
def winPlace (n off : Nat) : Place × Nat :=
  let b := winBase n
  if off < 0x400000 then (.cmem n, b + 0x400000)
  else if 0x800000 ≤ off ∧ off < 0x830000 then (.buffers n, b + 0x830000)
  else if 0x840000 ≤ off ∧ off < 0x882000 then (.buffers n, b + 0x882000)
  else if 0xE00000 ≤ off ∧ off < 0xE10000 then (.pmem n, b + 0xE10000)
  else if 0xF00000 ≤ off ∧ off < 0xF01000 then (.local n, b + 0xF01000)
  else (.hole, 0)

/-- The place of an address, and the address where the run of that place ends. The self alias is resolved before
(`unalias`): left here, it is an address that the requester cannot use (R162). -/
def placeRun (a : Nat) : Place × Nat :=
  if a < 0x40000 then (.rom, 0x40000)
  else if sramBase ≤ a ∧ a < sramBase + 0x80000 then (.sram, sramBase + 0x80000)
  else if shmBase ≤ a ∧ a < shmBase + 0x4000000 then (.shm ((a - shmBase) / 0x1000000), shmBase + 0x4000000)
  else if winBase 0 ≤ a ∧ a < winBase 6 then winPlace ((a - winBase 0) / 0x1000000) ((a - winBase 0) % 0x1000000)
  else if regsBase ≤ a ∧ a < regsBase + 0x20000 then (.regs, regsBase + 0x20000)
  else if carafeBase ≤ a ∧ a < carafeBase + 0x4000 then (.carafe, carafeBase + 0x4000)
  else if bkpBase ≤ a ∧ a < bkpBase + 0x40 then (.bkp, bkpBase + 0x40)
  else if sstoreBase ≤ a ∧ a < sstoreBase + 0x80000 then (.sstore, sstoreBase + 0x80000)
  else if dramBase ≤ a ∧ a < 0x1100000000 then (.dram, 0x1100000000)
  else if peerBase 0 ≤ a ∧ a < peerBase 15 then
    (.peer ((a - peerBase 0) / 0x400000000), peerBase ((a - peerBase 0) / 0x400000000) + 0x400000000)
  else if hostBase ≤ a ∧ a < 2 ^ 40 then (.host, 2 ^ 40)
  else (.hole, 0)

def place (a : Nat) : Place := (placeRun a).1

/-- The self alias resolved to a core's window (R109, R270). -/
def unalias (own : Option Nat) (a : Nat) : Nat :=
  match own with
  | some n => if selfBase ≤ a ∧ a < selfBase + 0x1000000 then winBase n + (a - selfBase) else a
  | none => a

/-- Usable DRAM in bytes: 7/8 of the installed capacity with ECC on (R157, R158). -/
def usableDram (s : State) : Nat :=
  let b := s.mem.dramGib * 2 ^ 30
  if s.mem.eccOn then b / 8 * 7 else b

/-- DRAM answers: trained, not in self-refresh, PD14 ON (R157). -/
def dramReady (s : State) : Bool := s.mem.trained && !s.mem.selfRefresh && domOn s 14

def getSlice (s : State) (n : Nat) : Slice := storeGet (fun _ => {}) s.mem.slices n

def modSlice (n : Nat) (f : Slice → Slice) (s : State) : State :=
  modMem (fun m => { m with slices := storeMod (fun _ => {}) m.slices n f }) s

/-- The power of a host function's window (R343): the link up and Bus Master Enable set. -/
def hostReady (s : State) (f : Nat) : Bool := fnCanSend s f && fnExists s f

/-! ### Peers and their windows (R360, R362, R365, R380) -/

def herdId (s : State) : Nat := fld (getReg s pgHerd 0 0x040) 3 0

/-- A peer entry (R380). The entry of the device's own ID does not exist. -/
def peerValid (s : State) (p : Nat) : Bool := p != herdId s && bit (getReg s pgHerd p 0x400) 0

/-- SOLO and REFUSED devices have no peers (R360, R362). -/
def herdAlone (s : State) : Bool := s.herd.st == .solo || s.herd.st == .refused

/-- The peer of window n (R365). -/
def windowPeer (s : State) (n : Nat) : Nat := if n < herdId s then n else n + 1

/-- Why an access through a peer window fails; none when it goes out. -/
def peerRefusal (s : State) (n : Nat) : Option Byte :=
  if herdAlone s || !peerValid s (windowPeer s n) then some eAddrRange
  else if !fnCanSend s 0 then some ePoweredOff
  else none

/-- What a place answers to a refused access; `none` when it serves it. `own` is the core whose own window counts as its
own; `priv` marks MGMT and JTAG. -/
def placeRefusal (s : State) (own : Option Nat) (priv write : Bool) (hostFn : Nat) (a : Nat) : Option Byte :=
  let core (n : Nat) : Option Byte :=
    if !corePresent s n then some eAddrRange
    else if fenced s n then some eFenced
    else if !domOn s (domOfCore n) then some ePoweredOff
    else none
  match place a with
  | .hole => some eAddrRange
  | .rom => if write then some ePermission else none
  | .sram => if priv then none else some ePermission
  | .carafe | .bkp => if priv then none else some ePermission
  | .sstore => if write then some ePermission else none
  | .regs => none
  | .shm n =>
    if !slicePresent s n then some eAddrRange
    else if !domOn s (9 + n) || (write && (getSlice s n).refusing) then some ePoweredOff
    else none
  | .cmem n | .pmem n | .local n => core n
  | .buffers n =>
    match core n with
    | some e => some e
    | none => if priv && !write && decide ((getProc s n).runState = .idle) && own.isNone then none else some ePermission
  | .dram =>
    if !dramReady s then some ePoweredOff
    else if usableDram s ≤ a - dramBase then some eAddrRange
    else none
  | .peer n => peerRefusal s n
  | .host => if hostReady s hostFn then none else some ePoweredOff

/-- The first of some blocks of `size` bytes from `base` on that is missing and that [lo, hi] meets: where it meets it. -/
def missingIn (base size count : Nat) (missing : Nat → Bool) (lo hi : Nat) : Option Nat :=
  ((List.range count).find? fun k => missing k && decide (lo < base + (k + 1) * size) && decide (base + k * size ≤ hi)).map
    fun k => max lo (base + k * size)

/-- The first missing address of [lo, hi], which lies in one run of a place. -/
def runMissing (s : State) (p : Place) (lo hi : Nat) : Option Nat :=
  match p with
  | .hole => some lo
  | .shm _ => missingIn shmBase 0x1000000 4 (fun n => !slicePresent s n) lo hi
  | .regs => missingIn regsBase 0x1000 32 (fun n => !pagePresent s n) lo hi
  | .cmem n | .pmem n | .local n | .buffers n => if corePresent s n then none else some lo
  | .dram =>
    if s.mem.dramGib ≠ 0 ∧ usableDram s ≤ hi - dramBase then some (max lo (dramBase + usableDram s)) else none
  | .peer n => if peerRefusal s n = some eAddrRange then some lo else none
  | _ => none

/-- The first address of [lo, hi] in a hole, in an absent unit or beyond usable DRAM (R288): one run of a place after the other. -/
def missingAt (s : State) (lo hi : Nat) : Option Nat :=
  let rec go : Nat → Nat → Option Nat
    | 0, _ => none
    | n + 1, lo =>
      let (p, e) := placeRun lo
      match runMissing s p lo (if p = .hole then hi else min hi (e - 1)) with
      | some a => some a
      | none => if e ≤ hi then go n e else none
  go 64 lo

/-- The address ranges refused before a transfer's first beat (R288): a hole, an absent unit, beyond usable DRAM. -/
def rangeMissing (s : State) (lo hi : Nat) : Bool := (missingAt s lo hi).isSome

/-- The first refusal that a range meets, at its first byte or where it enters another 4 KiB page: every region, slice and unit but
the BKP registers begins and ends on one. -/
def rangeRefused (f : Nat → Option Byte) (lo len : Nat) : Option Byte :=
  (lo :: ((List.range (len / 4096 + 1)).map fun i => (lo / 4096 + i + 1) * 4096).filter fun a => decide (a < lo + len)).findSome? f

/-! ### Staged bytes of a running step (R60) -/

/-- A byte as a step of core `own` sees it: its own staged store, else what is committed. -/
def viewByte (s : State) (own : Option Nat) (a : Nat) : Byte :=
  match own with
  | some n => (storeGet (fun _ => none) (getProc s n).stage a).getD (memByte s a)
  | none => memByte s a

def viewBytes (s : State) (own : Option Nat) (a n : Nat) : List Byte := (List.range n).map fun i => viewByte s own (a + i)

def viewWord (s : State) (own : Option Nat) (a : Nat) : Word := BitVec.ofNat 32 (ofBytes (viewBytes s own a 4))

/-- Whether a core runs a job step. -/
def stepping (s : State) (n : Nat) : Bool := (getProc s n).run.isSome

/-- Stage a byte in a step's overlay. -/
def ProcState.stageByte (a : Nat) (b : Byte) (p : ProcState) : ProcState :=
  { p with stage := storeSet (fun _ => none) p.stage a (some b), stageBad := storeSet (fun _ => false) p.stageBad a false }

def ProcState.stageBytes (a : Nat) : List Byte → ProcState → ProcState
  | [], p => p
  | b :: bs, p => ProcState.stageBytes (a + 1) bs (p.stageByte a b)

/-- Write bytes on behalf of core `own`: staged while its step runs (R60), else written at once. -/
def viewPut (own : Option Nat) (a : Nat) (bs : List Byte) (s : State) : State :=
  match own with
  | some n => if stepping s n then modProc n (ProcState.stageBytes a bs) s else memPut a bs s
  | none => memPut a bs s

/-- Whether a byte, as a step of core `own` sees it, has wrong parity (R150). -/
def viewBad (s : State) (own : Option Nat) (a : Nat) : Bool :=
  let committed := storeGet (fun _ => false) s.mem.damaged a
  match own with
  | some n =>
    let p := getProc s n
    if (storeGet (fun _ => none) p.stage a).isSome then storeGet (fun _ => false) p.stageBad a else committed
  | none => committed

/-- Bytes of on-chip memory that carry parity: every memory of R150, but not DRAM or the host's. -/
def hasParity (a : Nat) : Bool :=
  match place a with
  | .sram | .shm _ | .cmem _ | .buffers _ | .pmem _ | .carafe => true
  | _ => false

/-- Bytes just written carry the parity of other data (R377): the next read of them detects it. -/
def markBad (own : Option Nat) (addrs : List Nat) (s : State) : State :=
  (addrs.filter hasParity).foldl (fun s a => match own with
    | some n =>
      if (storeGet (fun _ => none) (getProc s n).stage a).isSome then
        modProc n (fun p => { p with stageBad := storeSet (fun _ => false) p.stageBad a true }) s
      else modMem (fun m => { m with damaged := storeSet (fun _ => false) m.damaged a true }) s
    | none => modMem (fun m => { m with damaged := storeSet (fun _ => false) m.damaged a true }) s) s

/-- The SHM line of an SHM address. -/
def shmLine (a : Nat) : BitVec 18 := BitVec.ofNat 18 ((a - shmBase) / 256)

/-- Whether bytes [a, a + n) touch an SHM line. -/
def touchesLine (a n : Nat) (line : BitVec 18) : Bool :=
  let b := shmBase + line.toNat * 256
  decide (a < b + 256) && decide (b < a + n)

/-! ### Writes through the network-on-chip -/

/-- A PMEM write: to the active half of a core that is not IDLE it is discarded and recorded (R82). -/
def pmemWriteBlocked (s : State) (n a : Nat) : Bool :=
  let p := getProc s n
  let half : Bool := decide (0x8000 ≤ (a - winBase n) % 0x10000)
  !decide (p.runState = .idle) && half == p.pmemAct

/-- A carafe block is write-locked (R409). -/
def carafeLocked (s : State) (a : Nat) : Bool := bit s.trust.carafeLock ((a - carafeBase) / 1024)

/-- Bytes written to memory that serves the access: PMEM's active half (R82), locked carafe blocks (R409) and the reset
counter (R408) drop what they do not take. -/
def memWrite (own : Option Nat) (req : Byte) (a : Nat) (bs : List Byte) (s : State) : State :=
  match place a with
  | .pmem n =>
    if pmemWriteBlocked s n a then recordErr (pgCore n) req eWriteRunning (BitVec.ofNat 40 a) s
    else viewPut own a bs s
  | .carafe => if carafeLocked s a then recordErr pgCarafe req ePermission (BitVec.ofNat 40 a) s else memPut a bs s
  | .bkp => if a = bkpBase then memPut (a + 1) (bs.drop 1) s else memPut a bs s
  | _ => viewPut own a bs s

/-- Bytes read from memory. The operand buffers' activation part has no layout that the spec gives (R139). -/
def memRead (s : State) (own : Option Nat) (a n : Nat) : List Byte :=
  match place a with
  | .buffers c =>
    if (a - winBase c) % 0x1000000 < offWbuf then
      (List.range n).map fun i => if (getProc s c).stepCnt = 0 then 0 else Config.abufByte c (a + i)
    else viewBytes s none a n
  | _ => viewBytes s own a n

/-- Count an access that the network-on-chip refused (R161). -/
def countRefusal (code : Byte) (s : State) : State :=
  if code = ePermission ∨ code = ePoweredOff ∨ code = eFenced ∨ code = eAddrRange then countWrap pgNoc 0 0x048 s else s

/-- Why a block's own access of some bytes of memory is refused: as another requester's than MGMT's and JTAG's (R162). Registers,
peers and host memory are not memory that a block keeps its data in. -/
def devRefusal (s : State) (write : Bool) (a len : Nat) : Option Byte :=
  rangeRefused (fun x => match place x with
    | .regs | .local _ | .peer _ | .host => some ePermission
    | _ => placeRefusal s none false write 0 x) a len

/-! ### Writes that have not landed (R143, R377) -/

/-- The write packets that the link fault injector holds: accepted, and not yet acknowledged. -/
def heldWrites (s : State) : List (List WriteCell) := s.lfi.filterMap fun e => match e.2.held with
  | some (.write _ _ _ cs) => some cs
  | _ => none

/-- `SLICE_PENDn`: writes accepted by a slice but not yet acknowledged (R143, R164). -/
def slicePend (s : State) (n : Nat) : Nat :=
  ((heldWrites s).filter fun cs => cs.any fun c => place c.addr.toNat == .shm n).length

end Sys2Proof.Machine
end

