-- ==== Sys2Proof/Machine/Bundle.lean ====
section
/-! DEFINITION. The registers of a processor and its bundles, as far as the events of other blocks reach them: the register files
(R89, R90, R114, R115), results on their way to them (R97 to R99), the code in program memory (R81 to R84, R113), and the entry to and
return from handlers, which every fault and interrupt shares (R104, R122, R123, R126). -/

namespace Sys2Proof.Machine

/-- The management processor's number. -/
def mgmtNo : Nat := 6

/-- SETCR lands (R91): read-only and unlisted registers keep their value. `mgmt` marks the management processor, whose program
addresses have 32 bits (R126). -/
def setCr (mgmt : Bool) (k : Nat) (w : Word) (p : ProcState) : ProcState :=
  let pcMask : Word := if mgmt then 0xFFFFFFFC else 0xFFFC
  match k with
  | 0 => { p with ie := bit w 0 }
  | 1 => { p with epc := w &&& pcMask }
  | 2 => { p with ivec := w &&& pcMask }
  | 3 => { p with fvec := w &&& (pcMask ||| 0x80000000) }
  | 4 => { p with intStat := p.intStat &&& ~~~(w.setWidth 3) }
  | 5 => { p with intEn := w.setWidth 3 &&& (if mgmt then 7 else 3) }
  | 6 => { p with accsh := w &&& 0x1F1F1F1F }
  | 7 => { p with accSat := bit w 0 }
  | 8 => { p with mvsh := w.setWidth 5 }
  | 9 => { p with rrb := w.setWidth 4 }
  | 10 => { p with accOvf := p.accOvf && !bit w 0, movSat := p.movSat && !bit w 1 }
  | 11 => { p with cb0Base := halfLo p.cb0Base w }
  | 12 => { p with cb0Base := halfHi p.cb0Base w }
  | 13 => { p with cb0Len := w }
  | 14 => { p with cb1Base := halfLo p.cb1Base w }
  | 15 => { p with cb1Base := halfHi p.cb1Base w }
  | 16 => { p with cb1Len := w }
  | _ => p

/-! ### Register files -/

/-- g0 reads 0. -/
def ProcState.rg (p : ProcState) (n : Fin 32) : Word := if n = 0 then 0 else storeGet (fun _ => 0) p.g n

/-- Writes to g0 are discarded. -/
def ProcState.wg (n : Fin 32) (w : Word) (p : ProcState) : ProcState :=
  if n = 0 then p else { p with g := storeSet (fun _ => 0) p.g n w }

def ProcState.rp (p : ProcState) (n : Fin 16) : Addr := storeGet (fun _ => 0) p.p n
def ProcState.ro (p : ProcState) (n : Fin 16) : Word := storeGet (fun _ => 0) p.o n
def ProcState.rf (p : ProcState) (n : Fin 32) : DWord := storeGet (fun _ => 0) p.f n

/-- The low half of an f register. -/
def ProcState.rfs (p : ProcState) (n : Fin 32) : Word := (p.rf n).setWidth 32

/-- The physical register that a v name means now (R114). -/
def physV (rrb : BitVec 4) (n : Fin 32) : Fin 32 :=
  if n.val < 16 then n else Fin.ofNat 32 (16 + (n.val - 16 + rrb.toNat) % 16)

/-- A physical vector register, and one by its present name. -/
def ProcState.rvp (p : ProcState) (n : Fin 32) : BitVec 1024 := storeGet (fun _ => 0) p.v n
def ProcState.rv (p : ProcState) (n : Fin 32) : BitVec 1024 := p.rvp (physV p.rrb n)

/-- An accumulator: 64 lanes of 40 bits, lane i at bit 40 i. -/
def ProcState.racc (p : ProcState) (k : Fin 4) : BitVec 2560 := storeGet (fun _ => 0) p.acc k
def ProcState.rm (p : ProcState) (n : Fin 8) : BitVec 128 := storeGet (fun _ => 0) p.m n

/-! ### Results in flight -/

/-- The register that a result lands in, as a number: results of one due bundle with the same number collide (R98). -/
def Landing.dest : Landing → Nat
  | .g n _ => n
  | .p n _ => 100 + n
  | .o n _ => 200 + n
  | .f n _ | .fLow n _ => 300 + n
  | .v n _ _ => 400 + n
  | .acc k _ => 500 + k
  | .m n _ _ => 600 + n
  | .cr n _ => 700 + n.toNat

/-- A result lands. -/
def Landing.apply (mgmt : Bool) (p : ProcState) : Landing → ProcState
  | .g n w => p.wg n w
  | .p n a => { p with p := storeSet (fun _ => 0) p.p n a }
  | .o n w => { p with o := storeSet (fun _ => 0) p.o n w }
  | .f n d => { p with f := storeSet (fun _ => 0) p.f n d }
  | .fLow n w => { p with f := storeMod (fun _ => 0) p.f n fun old => mix 0xFFFFFFFF old (w.setWidth 64) }
  | .v n bits mask => { p with v := storeMod (fun _ => 0) p.v n fun old => mix mask old bits }
  | .acc k lanes => { p with acc := storeSet (fun _ => 0) p.acc k lanes }
  | .m n bits mask => { p with m := storeMod (fun _ => 0) p.m n fun old => mix mask old bits }
  | .cr n w => setCr mgmt n.toNat w p

/-- The order in which results land: by due bundle, then slot, then issue (R98). -/
def Inflight.before (a b : Inflight) : Bool :=
  decide (a.due < b.due) || (a.due == b.due && (decide (a.slot < b.slot) || (a.slot == b.slot && decide (a.issued ≤ b.issued))))

def Inflight.insert (x : Inflight) : List Inflight → List Inflight
  | [] => [x]
  | y :: ys => if y.before x then y :: Inflight.insert x ys else x :: y :: ys

def Inflight.sort (es : List Inflight) : List Inflight := es.foldl (fun acc e => Inflight.insert e acc) []

/-- Of results that land in one register for one bundle, only the last of the order is kept (R98). -/
def Inflight.kept : List Inflight → List Inflight
  | [] => []
  | e :: es => if es.any (fun x => x.due == e.due && x.land.dest == e.land.dest) then Inflight.kept es else e :: Inflight.kept es

/-- Land some results in order. -/
def ProcState.landList (mgmt : Bool) (es : List Inflight) (p : ProcState) : ProcState :=
  (Inflight.kept (Inflight.sort es)).foldl (fun p e => e.land.apply mgmt p) p

/-- Land every result that the next bundle sees. -/
def ProcState.landDue (mgmt : Bool) (b : Nat) (p : ProcState) : ProcState :=
  let due := p.inflight.filter fun e => decide (e.due ≤ b)
  ({ p with inflight := p.inflight.filter fun e => !decide (e.due ≤ b) } : ProcState).landList mgmt due

/-- Every issued result commits (R103, R104). -/
def ProcState.landEvery (mgmt : Bool) (p : ProcState) : ProcState :=
  ({ p with inflight := [] } : ProcState).landList mgmt p.inflight

/-- Issue a result of latency `lat`. -/
def ProcState.push (slot lat : Nat) (l : Landing) (p : ProcState) : ProcState :=
  { p with inflight := p.inflight ++ [{ due := p.bundle + lat, slot := slot, issued := p.bundle, land := l }] }

def pushRes (n slot lat : Nat) (l : Landing) (s : State) : State := modProc n (·.push slot lat l) s

/-- Issue a result that chains (R99, R249). -/
def pushChain (n slot lat chain : Nat) (l : Landing) (s : State) : State :=
  modProc n (fun p => { p with
    inflight := p.inflight ++ [{ due := p.bundle + lat, slot := slot, issued := p.bundle, land := l, chain := chain }] }) s

/-- An accumulator as one of its chains sees it: the newest result of that chain in flight, else `x`. -/
def ProcState.chainAccOf (p : ProcState) (chain : Nat) (k : Fin 4) (x : BitVec 2560) : BitVec 2560 :=
  p.inflight.foldl (fun x e => match e.land with
    | .acc k' l => if k' = k ∧ e.chain = chain then l else x
    | _ => x) x

/-- The accumulator that VMAC, VMSU and VACCLR change: the result of the one issued before (R99). A VCBFIT result in flight is not
seen (R249). DESIGN CHOICE: of two such operations on one accumulator in one bundle, V1's applies to V0's result, as R249 has it
for its chains; R99 speaks of successive operations only. -/
def ProcState.chainAcc (p : ProcState) (k : Fin 4) : BitVec 2560 := p.chainAccOf 3 k (p.racc k)

/-- The accumulator that VCBFIT adds to: the result of the VCBFIT issued before it (R249), else the newest accumulation (R99: VMOVA
alone observes its latency). -/
def ProcState.chainFit (p : ProcState) (k : Fin 4) : BitVec 2560 := p.chainAccOf 4 k (p.chainAcc k)

/-- A vector register as a chain of operations sees it (R249). -/
def ProcState.chainV (p : ProcState) (chain : Nat) (n : Fin 32) : BitVec 1024 :=
  p.inflight.foldl (fun x e => match e.land with
    | .v n' bits mask => if n' = n ∧ e.chain = chain then mix mask x bits else x
    | _ => x) (p.rvp n)

/-! ### Fault causes (R120) -/

def fIllegalBundle : Byte := 0x10
def fIllegalOp : Byte := 0x11
def fNoTrain : Byte := 0x12
def fLoopBody : Byte := 0x13
def fDelaySlot : Byte := 0x14
def fTrap : Byte := 0x15

/-- The core whose window is a processor's own; none for the management processor. -/
def ownCore (n : Nat) : Option Nat := if n = mgmtNo then none else some n

/-- A processor's requester. -/
def procReq (n : Nat) : Requester := if n = mgmtNo then .mgmt else .core (Fin.ofNat 6 n)

/-! ### Code (R81, R113) -/

/-- Where a word of code stands: in the active PMEM half, or at the management processor's address. -/
def codeAddr (s : State) (n pc : Nat) : Nat :=
  if n = mgmtNo then pc else winBase n + offPmem + (if (getProc s n).pmemAct then 0x8000 else 0) + pc

/-- The management processor fetches from the boot ROM and MGMT SRAM alone (R126). -/
def fetchable (n pc : Nat) : Bool := n != mgmtNo || place pc == .rom || place pc == .sram

/-- A word of code. -/
def codeWord (s : State) (n pc : Nat) : Word := if fetchable n pc then memWord s (codeAddr s n pc) else 0

/-- What the word at a syllable's place lets happen (R84, R92): an extension stands only behind the syllable that it extends, so one
that is met as a syllable of its own breaks the bundle; an OPCODE that is not listed for its slot is illegal. The answer is the
slot and the cause of the fault. -/
def wordFault (w : Word) : Option (Nat × Byte) :=
  let slot := fld w 30 28
  if slot = 7 then some (7, fIllegalBundle)
  else if (decodeSyllable .mgmt w none).isNone then some (slot, fIllegalOp)
  else none

/-- Where the bundle at `pc` ends, by its END bit; none when it has no END within 8 syllables or passes the active half. -/
def bundleNext (s : State) (n pc : Nat) : Option Nat :=
  match (List.range 8).find? fun i => bit (codeWord s n (pc + 4 * i)) 31 with
  | some i => if n ≠ mgmtNo ∧ 0x8000 < pc + 4 * (i + 1) then none else some (pc + 4 * (i + 1))
  | none => none

/-- Where the k-th bundle from `pc` ends. -/
def bundlesNext (s : State) (n : Nat) : Nat → Nat → Option Nat
  | 0, pc => some pc
  | k + 1, pc => match bundleNext s n pc with
    | some e => bundlesNext s n k e
    | none => none

/-! ### Handlers (R104, R122, R123) -/

/-- Enter a handler before the bundle at the processor's pc: in-flight results commit, EPC takes that pc, and the mode bits
change. The fault handler also keeps the loop and the delay window that it interrupts. -/
def ProcState.enter (mgmt fault : Bool) (p : ProcState) : ProcState :=
  let p := p.landEvery mgmt
  if fault then
    { p with
      epc := BitVec.ofNat 32 p.pc, pie := p.ie, ie := false, inFault := true, pc := p.fvec.toNat % 2 ^ 31, runState := .handler
      buf := {}, savedLoop := p.loop, savedDelay := p.delay, loop := none, delay := none }
  else
    { p with epc := BitVec.ofNat 32 p.pc, ie := false, inIrq := true, pc := p.ivec.toNat, runState := .handler, buf := {} }

/-- What a return from a handler restores, for the returned-to bundle (R119, R122, R123). -/
def ProcState.returned (kind : ReturnKind) (p : ProcState) : ProcState :=
  let modes (p : ProcState) : ProcState := if p.inFault then { p with ie := p.pie, inFault := false } else p
  match kind with
  | .none => p
  | .reti =>
    let p := if p.inFault then modes p else { p with ie := true, inIrq := false }
    { p with delay := p.savedDelay, savedDelay := none, savedLoop := none }
  | .resume =>
    let p := modes p
    { p with delay := p.savedDelay, savedDelay := none, loop := if bit p.vfaultInfo 18 then p.savedLoop else p.loop, savedLoop := none }

/-- An issuing processor's RUN_STATE. -/
def ProcState.issuing (p : ProcState) : RunState :=
  if p.commitAsked.isSome then .drain else if p.inIrq || p.inFault then .handler else .issue

/-- A bundle has issued: results that the next one sees land, and the pc, the delay window, the loop and RRB move on (R97, R100,
R113, R114). A flag that the bundle sets stays set beside a clear that lands with it (R112). `skip` is the end of a loop body that a
count of 0 skips. -/
def ProcState.advance (mgmt : Bool) (skip : Option Nat) (p : ProcState) : ProcState :=
  let nxt := p.pc + 4 * p.buf.syls
  let q := ({ p with lastPc := p.pc, bundle := p.bundle + 1, buf := {} } : ProcState).landDue mgmt (p.bundle + 1)
  let gathers (q : ProcState) : ProcState :=
    ({ q with inflight := q.inflight.filter fun e => !e.gather } : ProcState).landList mgmt (q.inflight.filter (·.gather))
  let (q, turns) : ProcState × Nat :=
    match p.buf.delay with
    | some d => ({ q with delay := some d, pc := nxt }, 0)
    | none => match p.delay with
      | some d =>
        if d.left ≤ 1 then
          let q := if d.ret = .resume then gathers q else q
          (({ q with delay := none, pc := d.target.getD nxt } : ProcState).returned d.ret, 0)
        else ({ q with delay := some { d with left := d.left - 1 }, pc := nxt }, 0)
      | none => match p.loop with
        | some l =>
          if l.pos + 1 < l.len then ({ q with loop := some { l with pos := l.pos + 1 }, pc := nxt }, 0)
          else if l.left ≤ 1 then ({ q with loop := none, pc := nxt }, if l.rot then 1 else 0)
          else ({ q with loop := some { l with pos := 0, left := l.left - 1 }, pc := l.start }, if l.rot then 1 else 0)
        | none => match p.buf.rep with
          | some (len, cnt, rot) =>
            if cnt = 0 then ({ q with pc := skip.getD nxt }, 0)
            else ({ q with loop := some { start := nxt, len := len, pos := 0, left := cnt, rot := rot }, pc := nxt }, 0)
          | none => ({ q with pc := nxt }, 0)
  let turns := turns + (if p.buf.rrot then 1 else 0)
  let q := if turns = 0 then q else { q with rrb := p.rrb - BitVec.ofNat 4 turns }
  { q with runState := q.issuing, accOvf := q.accOvf || p.buf.accOvf, movSat := q.movSat || p.buf.movSat }

/-! ### Faults -/

/-- A fault of the management processor (R126): the fault handler is entered, or issue stops until its watchdog expires. The
syllables of the bundle that came before the faulting one commit. -/
def mgmtFault (slot : Nat) (cause : Byte) (s : State) : State :=
  let p := getProc s mgmtNo
  let next := (bundleNext s mgmtNo p.pc).getD (p.pc + 4)
  modProc mgmtNo (fun p =>
    let p := { p with faultValid := true, faultSlot := BitVec.ofNat 3 slot, faultCause := cause, faultPc := BitVec.ofNat 32 p.pc }
    if bit p.fvec 31 && !p.inFault then
      (({ p with buf := { p.buf with syls := (next - p.pc) / 4 } } : ProcState).advance true none).enter true true
    else { p with halted := true, buf := {} }) s

/-- A parity detection in MGMT SRAM (R126, R129): counted, and a PARITY fault of the management processor. One that another
reader meets between two bundles is taken there, with the last bundle as the faulting one (DESIGN CHOICE). -/
def sramDetection (s : State) : State :=
  let s := modReg pgMgmt 0 0x05C (fun w => if 0xFFFF ≤ w.toNat then w else w + 1) s
  let p := getProc s mgmtNo
  if p.halted || !s.reset_.romStarted then s
  else if p.buf.syls ≠ 0 then mgmtFault 1 eParity s
  else
    modProc mgmtNo (fun p =>
      let p := { p with faultValid := true, faultSlot := 1, faultCause := eParity, faultPc := BitVec.ofNat 32 p.lastPc }
      if bit p.fvec 31 && !p.inFault then p.enter true true else { p with halted := true }) s

end Sys2Proof.Machine
end

