-- ==== Sys2Proof/Machine/JobBase.lean ====
section
/-! DEFINITION. Jobs and classes as data: looking them up, their release times (R38, R39), and how a job ends (R41, R71). -/

namespace Sys2Proof.Machine

def getClass (s : State) (k : Nat) : ClassEntry := storeGet (fun _ => {}) s.pacer.classes k

def modClass (k : Nat) (f : ClassEntry → ClassEntry) (s : State) : State :=
  modPacer (fun p => { p with classes := storeMod (fun _ => {}) p.classes k f }) s

def getJob (s : State) (id : Nat) : Option Job := s.pacer.jobs.find? (·.id == id)

def modJob (id : Nat) (f : Job → Job) (s : State) : State :=
  modPacer (fun p => { p with jobs := p.jobs.map fun j => if j.id = id then f j else j }) s

def getShare (j : Job) (i : Nat) : ShareRun := storeGet (fun _ => {}) j.shares i

def Job.modShare (i : Nat) (f : ShareRun → ShareRun) (j : Job) : Job :=
  { j with shares := storeMod (fun _ => {}) j.shares i f }

def modShare (id i : Nat) (f : ShareRun → ShareRun) (s : State) : State := modJob id (·.modShare i f) s

/-- A job that has not completed. -/
def Job.open_ (j : Job) : Bool := j.ended.isNone

/-- A job of a linked class that no frame is bound to yet: it has no release and no deadline so far (R39, R303). -/
def Job.unbound (j : Job) : Bool :=
  match j.frame with
  | some (_, none) => true
  | _ => false

/-- A job's deadline lies before an instant. -/
def Job.overdue (j : Job) (t : Nat) : Bool := !j.unbound && decide (j.deadline < t)

/-- The values that a release of class `c` at time `t` runs under: a SHRINK's from its instant on (R74). -/
def classValsAt (c : ClassEntry) (t : Nat) : ClassVals :=
  match c.shrinks.reverse.find? fun x => decide (x.1 ≤ t) with
  | some x => x.2
  | none => c.vals

/-- The release time of a job of class `k` that asks for `t` (R38): no earlier than the class's previous release plus T. -/
def releaseTime (s : State) (k t : Nat) : Nat :=
  let c := getClass s k
  match c.lastRelease with
  | some p => max t (p + (classValsAt c t).period.toNat * Config.us)
  | none => t

/-- The release of a job and of its class are set: t_r, t_d = t_r + D (R37), COST of the share. -/
def setRelease (id k t : Nat) (s : State) : State :=
  let tr := releaseTime s k t
  let v := classValsAt (getClass s k) tr
  let s := modClass k (fun c => { c with lastRelease := some tr }) s
  modJob id (fun j => { j with release := tr, deadline := tr + v.deadline.toNat * Config.us, cost := v.cost.toNat }) s

/-- Bind a closed analysed frame to the oldest job that waits for one of its entry (R303, R39). -/
def bindWaiting (entry : Fin 512) (number arrive : Nat) (s : State) : Bool × State :=
  match s.pacer.jobs.find? (fun j => j.open_ && decide (j.frame = some (entry, none))) with
  | some j => (true, setRelease j.id j.cls arrive (modJob j.id (fun j => { j with frame := some (entry, some number) }) s))
  | none => (false, s)

/-- The cause of a LATE job, the first that applies of THERMAL, FENCE, INPUT_LATE, HOST_ABORT, PACE (R71). The order holds for a job
aborted after its deadline too (R72: DEDUCED). -/
def lateCause (j : Job) : Byte :=
  if j.lateThermal then 3
  else if j.lateFence then 2
  else if j.lateInput || (match j.ready with | some r => decide (j.release < r) | none => !j.abort) then 1
  else if j.abort then 4
  else 5

/-- A job completes: its end is fixed, its shares do no more and its carry copies are dropped. -/
def endJob (id : Nat) (st : JobStatus) (cause detail : Byte) (s : State) : State :=
  let s := modPacer (fun p => { p with carries := p.carries.filter (·.job != id) }) s
  modJob id (fun j =>
    if j.open_ then
      { j with ended := some { status := st, cause := cause, detail := detail, time := now s }
               shares := (List.range j.nShares).foldl (fun m i => storeMod (fun _ => {}) m i fun r =>
                 if r.st = .done then r else { r with st := .stopped }) j.shares }
    else j) s

/-- Completion of a job whose last steps have committed: OK by its deadline, else LATE (R41). -/
def finishJob (id : Nat) (s : State) : State :=
  match getJob s id with
  | none => s
  | some j => if now s ≤ j.deadline then endJob id .ok 0 0 s else endJob id .late (lateCause j) 0 s

/-- A job whose bound frame gives no output completes at once LATE with cause INPUT_LATE (R308, R309). -/
def dropFrameJobs (entry : Fin 512) (number : Nat) (s : State) : State :=
  (s.pacer.jobs.filter fun j => j.open_ && decide (j.frame = some (entry, some number))).foldl
    (fun s j => endJob j.id .late 1 0 s) s

end Sys2Proof.Machine
end

