-- ==== Sys2Proof/Machine/Reach.lean ====
section
/-! DEFINITION. What each requester may address: grants of functions (R341, R342), the reach of a channel's owner (R270), and
the function that owns a host-window access (R343). -/

namespace Sys2Proof.Machine

/-- The BAR2 offset of an internal address, if BAR2 maps it (R341). -/
def bar2Offset (a : Nat) : Option Nat :=
  if shmBase ≤ a ∧ a < shmBase + 0x4000000 then some (a - shmBase)
  else if dramBase + 0x4000000 ≤ a ∧ a < 0x1100000000 then some (a - dramBase)
  else none

/-- The internal address of a BAR2 offset (R341). -/
def bar2Addr (off : Nat) : Nat := if off < 0x4000000 then shmBase + off else dramBase + off

/-- The end of the grant of function `f` that holds a BAR2 offset with the permission asked. -/
def grantEnd (s : State) (f : Nat) (write : Bool) (off : Nat) : Option Nat :=
  ((List.range 8).filterMap fun g =>
    let b := fld (getReg s pgPcie f (0x420 + 8 * g)) 23 0 * 4096
    let l := getReg s pgPcie f (0x424 + 8 * g)
    if b ≤ off ∧ off < b + fld l 23 0 * 4096 ∧ bit l (if write then 31 else 30) = true then some (b + fld l 23 0 * 4096) else none).max?

/-- The first offset of [lo, hi] of BAR2 that a function's grants do not cover. PF0 reaches the whole window. -/
def grantGap (s : State) (f : Nat) (write : Bool) (lo hi : Nat) : Option Nat :=
  let rec go : Nat → Nat → Option Nat
    | 0, lo => if hi < lo then none else some lo
    | n + 1, lo =>
      if hi < lo then none
      else match grantEnd s f write lo with
        | some e => go n e
        | none => some lo
  if f = 0 then none else go 8 lo

/-- Whether a function's grants cover [lo, hi] of BAR2. -/
def grantCovers (s : State) (f : Nat) (write : Bool) (lo hi : Nat) : Bool := (grantGap s f write lo hi).isNone

/-- The first address of an internal range [lo, hi] outside a function's grants (R342). -/
def grantBlocked (s : State) (f : Nat) (write : Bool) (lo hi : Nat) : Option Nat :=
  match bar2Offset lo, bar2Offset hi with
  | some a, some b => if a ≤ b ∧ b - a = hi - lo then (grantGap s f write a b).map bar2Addr else some lo
  | _, _ => some lo

/-- The first address of [lo, hi], which is free of holes, beyond the reach of a channel's owner, by requester code (R270, R342). -/
def ownerBlocked (s : State) (owner : Byte) (write : Bool) (lo hi : Nat) : Option Nat :=
  let o := owner.toNat
  let only (ok : Bool) : Option Nat := if ok then none else some lo
  if o = 0 ∨ o = 0x10 then only (!(write && (place lo == .rom || place lo == .sstore)))
  else if 0x20 ≤ o ∧ o ≤ 0x25 then
    only (match place lo with
    | .shm _ | .dram | .host => true
    | .cmem n | .buffers n | .pmem n | .local n => n == o - 0x20
    | _ => false)
  else if 0x10 < o ∧ o ≤ 0x1F then if place lo = .host then none else grantBlocked s (o - 0x10) write lo hi
  else some lo

/-- Whether an owner reaches [lo, hi]. -/
def ownerReaches (s : State) (owner : Byte) (write : Bool) (lo hi : Nat) : Bool := (ownerBlocked s owner write lo hi).isNone

/-- The core that a requester code names. -/
def coreOf (code : Byte) : Option Nat := if 0x20 ≤ code.toNat ∧ code.toNat ≤ 0x25 then some (code.toNat - 0x20) else none

/-- The function that a requester code names. -/
def fnOf (code : Byte) : Option Nat := if 0x10 ≤ code.toNat ∧ code.toNat ≤ 0x1F then some (code.toNat - 0x10) else none

/-- The function that owns a host-window access made for an owner (R343): PF0 for MGMT; for a core, the function that owns the
class of the job step that the core runs, else PF0; a function itself. -/
def hostFn (s : State) (owner : Byte) : Nat :=
  match fnOf owner with
  | some f => f
  | none => match coreOf owner with
    | some n => match (getProc s n).run with
      | some (j, _) => match getJob s j with
        | some job => (fnOf (getClass s job.cls).owner).getD 0
        | none => 0
      | none => 0
    | none => 0

/-- The host address of an offset in the host memory window (R343). -/
def hostAddr (s : State) (f : Nat) (a : Nat) : Nat := ((getPair s pgPcie f 0x404).toNat + (a - hostBase)) % 2 ^ 64

/-- A read of the host memory window leaves as a request of the function that owns it (R343). -/
def hostReadSent (f a len : Nat) (s : State) : State :=
  if place a = .host then send (.hostRead (Fin.ofNat 16 f) (BitVec.ofNat 64 (hostAddr s f a)) len) s else s

/-- The refusal of a range to a submitting function (R349): outside its reach PERMISSION, a hole or an absent unit
ADDRESS_RANGE. MGMT reaches everything. -/
def submitRefusal (s : State) (owner : Byte) (write : Bool) (lo len : Nat) : Option Byte :=
  let hi := lo + len - 1
  if rangeMissing s lo hi then some eAddrRange
  else if ownerReaches s owner write lo hi then none
  else some ePermission

end Sys2Proof.Machine
end

