-- ==== Sys2Proof/Machine/Lfi.lean ====
section
/-! DEFINITION. The link fault injector (R376 to R378, R381): which items fire, what a firing does to an item, and how a write packet
lands. -/

namespace Sys2Proof.Machine

def getLfi (s : State) (c : Nat) : LfiChan := storeGet (fun _ => {}) s.lfi c

/-- Every channel at its reset. A register's write that is held stays so: Machine/Bus.lean delivers it. -/
def lfiClear (s : State) : State :=
  { s with lfi := s.lfi.filterMap fun e => match e.2.held with
      | some (.regs r o n v) => some (e.1, { held := some (.regs r o n v), heldAt := e.2.heldAt })
      | _ => none }

def modLfi (c : Nat) (f : LfiChan → LfiChan) (s : State) : State := { s with lfi := storeMod (fun _ => {}) s.lfi c f }

def lfiReg (s : State) (c o : Nat) : Word := getReg s pgLfi c o

def lfiEn (s : State) (c : Nat) : Bool := bit (lfiReg s c 0x400) 0

/-- Injection is permitted (R378). -/
def lfiOpen (s : State) : Bool := s.fuses.lifecycle != .deployed || s.trust.debugOpen

/-- The streams of R376. -/
def lfiNoc : Nat := 0
def lfiMbx : Nat := 1
def lfiEth : Nat := 2

/-- What a firing does. -/
inductive LfiAction where
  | drop | corrupt | reorder
  deriving DecidableEq, Repr

/-- A channel's stream, whether or not it injects: DIR does not select on Ethernet receive. -/
def lfiStream (s : State) (c target sel dir : Nat) : Bool :=
  let r := lfiReg s c 0x400
  fld r 2 1 == target && fld r 15 8 == sel && (target == lfiEth || fld r 16 16 == dir)

/-- A channel acts on a stream. The page stops at an item's boundary while its BLK_CTRL.ENABLE is 0 (R17, R20). -/
def lfiOn (s : State) (c target sel dir : Nat) : Bool := lfiEn s c && (getHdr s pgLfi).enable && lfiStream s c target sel dir

/-- The LFSR x^32 + x^22 + x^2 + x + 1 advances by one. -/
def lfsrNext (l : Word) : Word := (l <<< 1) ||| flag 0 (bit l 31 ^^ bit l 21 ^^ bit l 1 ^^ bit l 0)

/-- One item passes one channel: the action when it fires (R376). -/
def lfiCount (c : Nat) (s : State) : Option LfiAction × State :=
  let r := lfiReg s c 0x400
  let rate := lfiReg s c 0x404
  let x := getLfi s c
  let items := x.items + 1
  let fires := if bit r 5 then decide (fld x.lfsr 15 0 < fld rate 31 16) else items % max 1 (fld rate 15 0) == 0
  let s := modLfi c (fun x => { x with items := items, lfsr := lfsrNext x.lfsr }) s
  if !fires then (none, s)
  else
    let s := countWrap pgLfi c 0x414 s
    let s := raise pgLfi 0 (modReg pgLfi 0 0x040 (fun w => w + 0x10000) s)
    let limit := fld (lfiReg s c 0x410) 15 0
    let s := if limit ≠ 0 ∧ limit ≤ (lfiReg s c 0x414).toNat then modReg pgLfi c 0x400 (· &&& 0xFFFFFFFE) s else s
    (some (match fld r 4 3 with
      | 0 => .drop
      | 1 => .corrupt
      | _ => .reorder), s)

/-- An item passes every channel that acts on its stream; the lowest-numbered channel that fires decides. -/
def lfiItem (target sel dir : Nat) (s : State) : Option (LfiAction × Nat) × State :=
  (List.range 4).foldl (fun (a, s) c =>
    if lfiOn s c target sel dir then
      match a, lfiCount c s with
      | none, (some x, s) => (some (x, c), s)
      | a, (_, s) => (a, s)
    else (a, s)) (none, s)

/-- A corrupted packet of read data carries the parity of other data, which its requester detects (R150, R377). -/
def lfiSpoils (s : State) : Option (LfiAction × Nat) → Bool
  | some (.corrupt, c) => lfiReg s c 0x40C != 0
  | _ => false

/-- Each 32-bit word XORed with the pattern (R377). -/
def xorBytes (x : Word) (bs : List Byte) : List Byte := bs.zipIdx.map fun e => e.1 ^^^ BitVec.ofNat 8 (x.toNat >>> (8 * (e.2 % 4)))

/-- A write packet's bytes XORed, by the place of each in its word; the parity bits are carried unchanged. -/
def xorCell (x : Word) (c : WriteCell) : WriteCell :=
  let p : Byte := BitVec.ofNat 8 (x.toNat >>> (8 * (c.addr.toNat % 4)))
  { c with byte := c.byte ^^^ p, bad := c.bad || p != 0 }

/-- The bytes of a frame before its payload: the addresses, a tag, and the EtherType. -/
def frameHead (bs : List Byte) : Nat := if (bs.getD 12 0, bs.getD 13 0) = (0x81, 0x00) then 18 else 14

/-- An item as a corrupting channel leaves it: a frame's payload, every word of a message or a record, the data of a packet. -/
def xorItem (x : Word) : Held → Held
  | .frame p f t => .frame p { f with bytes := f.bytes.take (frameHead f.bytes) ++ xorBytes x (f.bytes.drop (frameHead f.bytes)) } t
  | .message rid s k al m => .message rid s k al (m.map (· ^^^ x))
  | .record rid s r => .record rid s (r.map (· ^^^ x))
  | .sent b bs => .sent b (xorBytes x bs)
  | .write o q f cs => .write o q f (cs.map (xorCell x))
  | .regs r o n v => .regs r o n (v ^^^ x)

/-- The kind of stream that an item belongs to. -/
def Held.target : Held → Nat
  | .frame .. => lfiEth
  | .message .. | .record .. | .sent .. => lfiMbx
  | .write .. | .regs .. => lfiNoc

/-- Release what a channel holds (R377). -/
def lfiRelease (deliver : Held → State → State) (c : Nat) (s : State) : State :=
  match (getLfi s c).held with
  | some h => deliver h (modLfi c (fun x => { x with held := none }) s)
  | none => s

/-- A channel holds an item of a stream, which the next item of that stream releases. -/
def lfiHolds (s : State) (c target sel dir : Nat) : Bool :=
  lfiStream s c target sel dir && (match (getLfi s c).held with
    | some h => h.target == target
    | none => false)

/-- No channel acts on a stream or holds an item of it. -/
def lfiQuiet (s : State) (target sel dir : Nat) : Bool :=
  (List.range 4).all fun c => !lfiOn s c target sel dir && !lfiHolds s c target sel dir

/-- An item passes the injector: delivered, dropped, corrupted, or held until the next item on its link (R376, R377). The
answer says whether it was dropped, which a NOC requester sees as LINK_FAULT_INJECTED, and whether it was corrupted. -/
def lfiPass (target sel dir : Nat) (item : Held) (deliver : Held → State → State) (s : State) : Option LfiAction × State :=
  let waiting := (List.range 4).filter fun c => lfiHolds s c target sel dir
  let (a, s) := lfiItem target sel dir s
  let s := match a with
    | none => deliver item s
    | some (.drop, _) => s
    | some (.corrupt, c) => deliver (xorItem (lfiReg s c 0x40C) item) s
    | some (.reorder, c) =>
      if (getLfi s c).held.isSome then deliver item s else modLfi c (fun x => { x with held := some item, heldAt := now s }) s
  (a.map (·.1), waiting.foldl (fun s c => lfiRelease deliver c s) s)

/-- What a channel holds is released at once, but for a register's write: that one waits for the next item of its stream, or for its
1 µs to end (R377). -/
def lfiLetGo (deliver : Held → State → State) (c : Nat) (s : State) : State :=
  match (getLfi s c).held with
  | some (.regs ..) => s
  | _ => lfiRelease deliver c s

/-- LFI_CTRL is written (R378, R381): with EN = 1 the other fields are held. -/
def lfiCtrlWrite (deliver : Held → State → State) (r : Requester) (c : Nat) (v : Word) (s : State) : State :=
  let w := v &&& 0x0001FF3F
  let old := lfiReg s c 0x400
  if bit old 0 then
    let s := if w ||| 1 = old then s else regErr pgLfi 0x400 r eWriteRunning s
    if bit v 0 then s else lfiLetGo deliver c (setReg pgLfi c 0x400 (old &&& 0xFFFFFFFE) s)
  else if fld v 2 1 = 3 ∨ fld v 4 3 = 3 then regErr pgLfi 0x400 r eFormat s
  else if bit v 0 && !lfiOpen s then regErr pgLfi 0x400 r ePermission s
  else
    let s := setReg pgLfi c 0x400 w s
    if bit v 0 then modLfi c (fun x => { x with items := 0, lfsr := if lfiReg s c 0x408 = 0 then 1 else lfiReg s c 0x408 }) s else s

/-- Permission has ended: every EN clears and what is held is released (R378). -/
def lfiClose (deliver : Held → State → State) (s : State) : State :=
  if lfiOpen s then s
  else (List.range 4).foldl (fun s c => lfiLetGo deliver c (modReg pgLfi c 0x400 (· &&& 0xFFFFFFFE) s)) s

/-- 1 µs has passed with no next item (R377). -/
def lfiTimeout (deliver : Held → State → State) (c : Nat) (s : State) : State :=
  if (getLfi s c).heldAt + Config.us ≤ now s then lfiRelease deliver c s else s

/-! ### Write packets of the network-on-chip -/

def peerBar2 (s : State) (p : Nat) : DWord := getPair s pgHerd p 0x404

/-- The bus address of an internal address in a peer window (R365). -/
def peerBus (s : State) (a : Nat) : DWord :=
  let n := (a - peerBase 0) / 0x400000000
  peerBar2 s (windowPeer s n) + BitVec.ofNat 64 (a - peerBase n)

/-- Bytes of a write packet land: in host memory, at a peer, or in a memory of the device. -/
def writeRun (own : Option Nat) (req : Byte) (f : Fin 16) (a : Nat) (bs : List Byte) (s : State) : State :=
  match place a with
  | .host => hostPut (hostAddr s f a) bs (send (.hostWrite f (BitVec.ofNat 64 (hostAddr s f a)) bs) s)
  | .peer _ => send (.peerWrite (peerBus s a) bs) s
  | _ => memWrite own req a bs s

/-- The cells of a packet as runs of bytes at rising addresses. -/
def cellRuns : List WriteCell → List (Nat × List Byte)
  | [] => []
  | c :: cs => match cellRuns cs with
    | (a, bs) :: rs => if a = c.addr.toNat + 1 then (c.addr.toNat, c.byte :: bs) :: rs else (c.addr.toNat, [c.byte]) :: (a, bs) :: rs
    | [] => [(c.addr.toNat, [c.byte])]

/-- A write packet lands, run by run, and its bytes keep the parity that they carry (R377). Register writes land in Machine/Bus.lean. -/
def packetLand : Held → State → State
  | .write own req f cs, s =>
    markBad own ((cs.filter (·.bad)).map (·.addr.toNat)) ((cellRuns cs).foldl (fun s r => writeRun own req f r.1 r.2 s) s)
  | _, s => s

/-- The cells of bytes written at rising addresses. -/
def cellsAt (a : Nat) (bs : List Byte) : List WriteCell := bs.zipIdx.map fun e => { addr := BitVec.ofNat 40 (a + e.2), byte := e.1 }

end Sys2Proof.Machine
end

