-- ==== Sys2Proof/Machine/Shm.lean ====
section
/-! DEFINITION. Shared memory: semaphores (R145 to R149, R165), the detection log and golden restores (R150 to R156, R164),
slices (R143), the DRAM controller's events (R157 to R159). -/

namespace Sys2Proof.Machine

/-! ### Semaphores -/

def semCount (s : State) (n : Nat) : BitVec 24 := storeGet (fun _ => 0) s.mem.sems n

/-- A wait is met when (count − threshold) mod 2^24 < 2^23 (R145). -/
def semMet (count threshold : BitVec 24) : Bool := decide ((count - threshold).toNat < 2 ^ 23)

/-- The requester a register access answers: its code keys the answer. -/
def setAnswer (r : Requester) (w : Word) (s : State) : State :=
  modBus (fun b => { b with answer := storeSet (fun _ => 0) b.answer r.code.toNat w }) s

def getAnswer (s : State) (r : Requester) : Word := storeGet (fun _ => 0) s.bus.answer r.code.toNat

/-- Answer the parked waits of a semaphore that are met, in the instant it becomes met (R148). -/
def semRelease (n : Nat) (s : State) : State :=
  let c := semCount s n
  let met (p : Parked) : Bool := p.sem.val == n && semMet c p.threshold
  let s := (s.mem.parked.filter met).foldl (fun s p => setAnswer p.req (flag 31 true ||| c.setWidth 32) s) s
  modMem (fun m => { m with parked := m.parked.filter fun p => !met p }) s

/-- Set a semaphore's count. -/
def semWrite (n : Nat) (c : BitVec 24) (s : State) : State :=
  semRelease n (modMem (fun m => { m with sems := storeSet (fun _ => 0) m.sems n c }) s)

/-- SEM_POST: add to the count modulo 2^24 (R145). -/
def semPost (n : Nat) (v : BitVec 16) (s : State) : State := semWrite n (semCount s n + v.setWidth 24) s

/-- A SEM_POST by requester `r`: staged while a core's step runs (R146). -/
def semPostBy (r : Requester) (n : Nat) (v : BitVec 16) (s : State) : State :=
  match r with
  | .core c => if stepping s c then modProc c (fun p => { p with stagedPosts := p.stagedPosts ++ [(n, v)] }) s else semPost n v s
  | _ => semPost n v s

/-- A write of SEM_WAIT sets the requester's threshold (R145). -/
def semThreshold (r : Requester) (n : Nat) (v : BitVec 24) (s : State) : State :=
  modMem (fun m => { m with thresholds := storeSet (fun _ => 0) m.thresholds (r.code.toNat * 256 + n) v }) s

/-- Whether a requester is parked (R147). -/
def isParked (s : State) (r : Requester) : Bool := s.mem.parked.any (·.req.code == r.code)

/-- A read of SEM_WAIT: the answer if the semaphore is met, else the requester parks (R145). A requester that is parked
issues nothing further (R147). -/
def semWait (r : Requester) (n : Nat) (s : State) : State :=
  if isParked s r then s
  else
    let t := storeGet (fun _ => 0) s.mem.thresholds (r.code.toNat * 256 + n)
    let c := semCount s n
    if semMet c t then setAnswer r (flag 31 true ||| c.setWidth 32) s
    else modMem (fun m => { m with parked := m.parked ++ [{ req := r, sem := Fin.ofNat 256 n, threshold := t, since := now s }] }) s

/-- The address of a semaphore's SEM_WAIT register, for the error record. -/
def semWaitOff (n : Nat) : Nat := 0x408 + 0x20 * (n % 4)

/-- The parked wait's time limit: SEM_LIMIT µs, 0 acting as 1 (R145, R164). -/
def semLimitNs (s : State) : Nat := max 1 (fld (getReg s pgShm 0 0x070) 15 0) * Config.us

/-- The limit of a requester's parked wait has passed: the read returns MET = 0 with the count and records TIMEOUT (R145). -/
def semTimeout (r : Requester) (s : State) : State :=
  match s.mem.parked.find? (·.req.code == r.code) with
  | none => s
  | some p =>
    if now s < p.since + semLimitNs s then s
    else
      let s := setAnswer r ((semCount s p.sem).setWidth 32) s
      let s := modMem (fun m => { m with parked := m.parked.filter fun q => !(q.req.code == r.code) }) s
      regErr pgShm (semWaitOff p.sem) r eTimeout s

/-- A read of SEM_TAKE (R145). -/
def semTake (r : Requester) (n : Nat) (s : State) : State :=
  let c := semCount s n
  if c = 0 then setAnswer r 0 s
  else setAnswer r (flag 31 true ||| c.setWidth 32) (semWrite n (c - 1) s)

/-- Counts return to 0 and parked waits return MET = 0 (R149). -/
def semReset (s : State) : State :=
  let s := s.mem.parked.foldl (fun s p => setAnswer p.req 0 s) s
  modMem (fun m => { m with sems := [], thresholds := [], parked := [] }) s

/-! ### Detections and golden restores -/

/-- The applied golden region that supplies a line: the lowest-numbered with VALID = 1 that holds it (R153). -/
def goldenRegion (s : State) (line : BitVec 18) : Option Nat :=
  (List.range 16).find? fun n =>
    let b := getReg s pgShm 0 (0x100 + 0x10 * n)
    let len := (getReg s pgShm 0 (0x104 + 0x10 * n)).toNat
    let a := line.toNat * 256
    bit b 31 && decide (fld b 25 0 ≤ a) && decide (a < fld b 25 0 + len)

/-- Log an SHM detection (R151, R164): DET_CNT, DET, and an entry of up to 16; beyond them LOST is kept. -/
def detLogAdd (line : BitVec 18) (region : Option Nat) (s : State) : State :=
  let e : DetEntry := { restored := false, fail := false, region := BitVec.ofNat 5 (region.getD 31), line := line }
  let s := modMem (fun m =>
    if m.detLog.length < Config.detLog then { m with detLog := m.detLog ++ [e] } else { m with detLost := true }) s
  raise pgShm 0 (countSat pgShm 0 0x054 s)

/-- Mark the newest logged entry of a line. -/
def detLogMark (line : BitVec 18) (f : DetEntry → DetEntry) (s : State) : State :=
  let rec go : List DetEntry → List DetEntry
    | [] => []
    | e :: es => if e.line = line then f e :: es else e :: go es
  modMem (fun m => { m with detLog := (go m.detLog.reverse).reverse }) s

/-- A read of DET_LOG pops the oldest entry (R164). -/
def detLogPop (r : Requester) (s : State) : State :=
  let lost := flag 28 s.mem.detLost
  match s.mem.detLog with
  | [] => setAnswer r lost (modMem (fun m => { m with detLost := false }) s)
  | e :: es =>
    let w := flag 31 true ||| flag 30 e.restored ||| flag 29 e.fail ||| lost ||| at_ 18 e.region.toNat ||| e.line.setWidth 32
    setAnswer r w (modMem (fun m => { m with detLog := es, detLost := false }) s)

/-- A restore can be made: DRAM ready and the line's slice ON (R153, R155). -/
def restorePossible (s : State) (line : BitVec 18) : Bool := dramReady s && domOn s (9 + line.toNat / 0x10000)

/-- Where the golden copy of a line lies (R153, order 2). -/
def goldenSource (s : State) (line : BitVec 18) (region : Nat) : Nat :=
  (getAddr s pgShm 0 (0x108 + 0x10 * region)).toNat + (line.toNat * 256 - fld (getReg s pgShm 0 (0x100 + 0x10 * region)) 25 0)

/-- Copy a line from its golden copy (R153, order 3). -/
def restoreLine (line : BitVec 18) (region : Nat) (s : State) : State :=
  let s := memPut (shmBase + line.toNat * 256) (memBytes s (goldenSource s line region) 256) s
  detLogMark line (fun e => { e with restored := true }) (countWrap pgShm 0 0x05C s)

/-- Mark the bytes of a line damaged: a write repairs them (R150). -/
def markDamaged (line : BitVec 18) (s : State) : State :=
  modMem (fun m => { m with damaged := (List.range 256).foldl (fun d i =>
    storeSet (fun _ => false) d (shmBase + line.toNat * 256 + i) true) m.damaged }) s

/-- Some byte of a line has been written since it was marked damaged (R155). -/
def lineWritten (s : State) (line : BitVec 18) : Bool :=
  (List.range 256).any fun i => !storeGet (fun _ => false) s.mem.damaged (shmBase + line.toNat * 256 + i)

/-- A restore fails: the entry reads FAIL = 1 and RESTORE_FAIL is raised (R155). -/
def restoreFail (line : BitVec 18) (s : State) : State :=
  raise pgShm 1 (detLogMark line (fun e => { e with fail := true }) (markDamaged line s))

/-- Begin a restore of a line. -/
def restoreStart (line : BitVec 18) (region : Nat) (job : Option (Nat × Nat)) (s : State) : State :=
  modMem (fun m => { m with restores := m.restores ++ [{ line := line, region := Fin.ofNat 16 region, job := job }] }) s

/-! ### DRAM errors (R158, R159) -/

/-- The block code ECC_UE of the DDR page and of the transfer engine (R158, R291). -/
def eEccUe : Byte := 0x10

/-- A requester's read of DRAM meets an uncorrectable error: counted, recorded and raised, and its address captured when it is the
first since ERR_INFO.VALID was last cleared. Without ECC there are no check bits that could show one. -/
def dramError (req : Byte) (a : Nat) (s : State) : State :=
  if !s.mem.eccOn then s
  else
    let s := countSat pgDdr 0 0x050 s
    let s := if s.mem.ueSeen then s
      else modMem (fun m => { m with ueSeen := true }) (setReg pgDdr 0 0x058 (at_ 0 (a / 2 ^ 32 % 256)) (setReg pgDdr 0 0x054 (at_ 0 a) s))
    raise pgDdr 1 (recordErr pgDdr req eEccUe (BitVec.ofNat 40 a) s)

/-- A read at an address that DRAM answers with an uncorrectable error. -/
def dramFails (s : State) (a : Nat) (x : Answered) : Bool := x == .uncorrectable && s.mem.eccOn && place a == .dram

/-- Reads of DRAM whose single-bit errors were corrected (R158). -/
def dramCorrected (n : Nat) (s : State) : State :=
  if s.mem.eccOn && n != 0 then raise pgDdr 0 (modReg pgDdr 0 0x04C (fun c => satInc c n) s) else s

def dramCorrects (a : Nat) (x : Answered) (s : State) : State :=
  if x == .corrected && place a == .dram then dramCorrected 1 s else s

/-! ### Scrub (R156), patrol (R158) -/

/-- SCRUB_CTRL: START begins a scrub of the range; RATE is kept. -/
def scrubCtrlWrite (v : Word) (s : State) : State :=
  let s := setReg pgShm 0 0x060 (v &&& 0xFFF00) s
  if bit v 0 && !s.mem.scrubBusy then modMem (fun m => { m with scrubBusy := true, scrubPos := 0, scrubFrom := now s }) s else s

/-- A patrol pass with ECC on corrects and counts single-bit errors (R158, R159). -/
def patrolPass (corrected : Nat) (s : State) : State :=
  if bit (getReg s pgDdr 0 0x040) 1 && dramReady s then dramCorrected corrected s else s

/-- DDR is enabled: INLINE_ECC takes effect, and a change loses the contents (R158). -/
def ddrEnable (s : State) : State :=
  let e := bit (getReg s pgDdr 0 0x040) 0
  if e = s.mem.eccOn then s else modMem (fun m => { m.lose 12 with eccOn := e }) s

/-- LPDDR5X training completes (R157, R159, R384), after the ROM's start and not in recovery (R410, order 8). The installed capacity is
at most 64 GiB. -/
def dramTrain (gib : Nat) (channels : BitVec 16) (s : State) : State :=
  if domOn s 14 && !s.mem.trained && s.reset_.romStarted && !s.reset_.recovery then
    raise pgDdr 2 (modMem (fun m => { m with trained := true, dramGib := gib, chOk := channels, selfRefresh := false }) s)
  else s

/-- `DDR.USABLE` in MiB (R157, R158). -/
def usableMib (s : State) : Nat := usableDram s / 2 ^ 20

/-- A golden region lies within one present slice, and its copy within usable DRAM (R164). -/
def goldenFits (s : State) (n : Nat) : Bool :=
  let o := 0x100 + 0x10 * n
  let base := fld (getReg s pgShm 0 o) 25 0
  let len := (getReg s pgShm 0 (o + 4)).toNat
  let dram := (getAddr s pgShm 0 (o + 8)).toNat
  decide ((base + max len 1 - 1) / 0x1000000 = base / 0x1000000) && slicePresent s (base / 0x1000000)
    && decide (dramBase ≤ dram) && decide (dram + len ≤ dramBase + usableDram s)

/-- The commit check of golden regions (R164): a valid region that does not fit records FORMAT and reads VALID = 0. -/
def goldenCheck (r : Byte) (s : State) : State :=
  (List.range 16).foldl (fun s n =>
    let o := 0x100 + 0x10 * n
    let b := getReg s pgShm 0 o
    if bit b 31 && !goldenFits s n then
      recordErr pgShm r eFormat (regAddr pgShm o) (setReg pgShm 0 o (b &&& 0x7FFFFFFF) s)
    else s) s

end Sys2Proof.Machine
end

