-- ==== Sys2Proof/Machine/Device.lean ====
section
/-! DEFINITION. The blocks' own accesses to memory (R34, R151, R158, R160 to R162, R376): parity detections by a reader outside any job
step, and the one read and the one write that every block's accesses are. -/

namespace Sys2Proof.Machine

/-! ### Detections outside job steps (R126, R151, R409) -/

/-- Count a detection against the core concerned (R151). -/
def countDet (n : Nat) (s : State) : State := modHealth n (fun h => { h with det := satInc h.det }) s

/-- Record a detection in a core's page, with its reader, and count it against the core (R151). -/
def coreParity (n : Nat) (r : Byte) (a : Nat) (s : State) : State :=
  recordErr (pgCore n) r eParity (BitVec.ofNat 40 a) (countDet n s)

/-- A detection in SHM by a reader outside any job step: logged, and restored where a golden region holds the line (R151, R153,
R156). -/
def shmOtherDetection (line : BitVec 18) (s : State) : State :=
  let g := goldenRegion s line
  let s := detLogAdd line g s
  match g with
  | some region => if restorePossible s line then restoreStart line region none s else restoreFail line s
  | none => s

/-- A detection in the carafe (R409): counted, the first since VALID was cleared captured. -/
def carafeDetection (off : BitVec 14) (s : State) : State :=
  let s := countSat pgCarafe 0 0x044 s
  let s := if s.trust.detValid then s else modTrust (fun t => { t with detValid := true, detOffset := off }) s
  raise pgCarafe 0 s

/-- A detection by a reader outside any job step, reported where the memory says (R126, R151, R409). -/
def readerDetection (r : Byte) (a : Nat) (s : State) : State :=
  match place a with
  | .shm _ => shmOtherDetection (shmLine a) s
  | .cmem k | .buffers k | .pmem k => coreParity k r a s
  | .sram => sramDetection s
  | .carafe => carafeDetection (BitVec.ofNat 14 (a - carafeBase)) s
  | _ => s

/-- A read of committed bytes by a reader outside any job step: the first damaged byte of each SHM line of the range, and of what else it
covers, is a detection. -/
def rangeDetected (r : Byte) (a n : Nat) (s : State) : State :=
  let bad := ((List.range n).map (a + ·)).filter fun x => storeGet (fun _ => false) s.mem.damaged x
  let lines := (bad.filter fun x => (match place x with
    | .shm _ => true
    | _ => false)).map shmLine
  let rest := bad.find? fun x => (match place x with
    | .shm _ => false
    | _ => true)
  let s := lines.eraseDups.foldl (fun s l => shmOtherDetection l s) s
  match rest with
  | some x => readerDetection r x s
  | none => s

/-- A byte of wrong parity among the bytes of a range. -/
def firstDamaged (s : State) (a n : Nat) : Option Nat :=
  ((List.range n).map (a + ·)).find? fun x => storeGet (fun _ => false) s.mem.damaged x

/-! ### A block's own accesses -/

/-- An access that a block makes fails with a code, which its page records (R34); a refusal is counted (R161). -/
def devFails (page : Nat) (r : Requester) (code : Byte) (a : Nat) (s : State) : State :=
  recordErr page r.code code (BitVec.ofNat 40 a) (countRefusal code s)

/-- A block's write to a memory that serves it passes the injector, which may drop it. -/
def devWrite (page : Nat) (r : Requester) (a : Nat) (bs : List Byte) (s : State) : State :=
  match lfiPass lfiNoc r.code.toNat 0 (.write none r.code 0 (cellsAt a bs)) packetLand s with
  | (some .drop, s) => devFails page r eLfi a s
  | (_, s) => s

/-- A block's own write to memory. Where the memory refuses it, or the injector drops it, it is lost and recorded in the block's page. -/
def devPut (page : Nat) (r : Requester) (a : Nat) (bs : List Byte) (s : State) : State :=
  match devRefusal s true a bs.length with
  | none => devWrite page r a bs s
  | some c => devFails page r c a s

/-- What a memory that serves a block's read answers: nothing within the limit (R160), an uncorrectable error (R158), data of wrong
parity (R150), or the data; the carafe returns its data whatever their parity (R409). A read that failed is recorded in the block's page
(R34). -/
def devAnswer (page : Nat) (r : Requester) (a n : Nat) (x : Answered) (s : State) : Except Byte (List Byte) × State :=
  let fails (code : Byte) (s : State) : Except Byte (List Byte) × State := (.error code, devFails page r code a s)
  if x = .never then fails eTimeout (countWrap pgNoc 0 0x044 s)
  else if dramFails s a x then fails eEccUe (dramError r.code a s)
  else match lfiItem lfiNoc r.code.toNat 1 s with
    | (some (.drop, _), s) => fails eLfi s
    | (act, s) =>
      if lfiSpoils s act then fails eParity s
      else if (firstDamaged s a n).isSome && place a != .carafe then fails eParity (rangeDetected r.code a n s)
      else (.ok (memBytes s a n), rangeDetected r.code a n (dramCorrects a x s))

/-- A block's own read of memory. -/
def devGet (page : Nat) (r : Requester) (a n : Nat) (x : Answered) (s : State) : Except Byte (List Byte) × State :=
  match devRefusal s false a n with
  | some c => (.error c, devFails page r c a s)
  | none => devAnswer page r a n x s

/-- A little-endian word of read bytes. -/
def wordAt (bs : List Byte) (o : Nat) : Word := BitVec.ofNat 32 (ofBytes ((bs.drop o).take 4))

end Sys2Proof.Machine
end

