-- ==== Sys2Proof/Machine/Rtp.lean ====
section
/-! DEFINITION. Ethernet ports and the stream receiver (R294 to R305, R328 to R330). -/

namespace Sys2Proof.Machine

/-! ### Stream entries -/

/-- A register of stream entry `e` (R330). -/
def entReg (s : State) (e o : Nat) : Word := getReg s pgStrx (e / 8) (0x400 + 0x80 * (e % 8) + o)

def setEntReg (e o : Nat) (w : Word) (s : State) : State := setReg pgStrx (e / 8) (0x400 + 0x80 * (e % 8) + o) w s

def entInc (e o : Nat) (n : Nat) (s : State) : State := setEntReg e o (entReg s e o + BitVec.ofNat 32 n) s

def entAddr (s : State) (e o : Nat) : Nat := (addrOf (entReg s e (o + 4)) (entReg s e o)).toNat

def getEnt (s : State) (e : Nat) : StreamEnt := storeGet (fun _ => {}) s.media.ents e

def modEnt (e : Nat) (f : StreamEnt → StreamEnt) (s : State) : State :=
  modMedia (fun m => { m with ents := storeMod (fun _ => {}) m.ents e f }) s

def entValid (s : State) (e : Nat) : Bool := bit (entReg s e 0) 0

/-- `STRX.FREE_ENTRIES` (R329). -/
def freeEntries (s : State) : Nat := ((List.range 512).filter fun e => !entValid s e).length

/-! ### Frames and words on the wire -/

def be16 (f : List Byte) (i : Nat) : Nat := (f.getD i 0).toNat * 256 + (f.getD (i + 1) 0).toNat
def be32 (f : List Byte) (i : Nat) : Nat := be16 f i * 65536 + be16 f (i + 2)

/-- The 802.1Q tag of a frame is stripped and its VID recorded (R294); `none` where a second tag follows. -/
def untag (f : List Byte) : Option (Nat × List Byte) :=
  if be16 f 12 ≠ 0x8100 then some (0, f)
  else
    let g := f.take 12 ++ f.drop 16
    if be16 g 12 = 0x8100 then none else some (be16 f 14 % 4096, g)

/-- Where the UDP header of an IPv6 packet lies, behind its extension headers: hop-by-hop, routing, destination options and
authentication. A fragment holds no whole datagram. -/
def v6Udp (f : List Byte) : Nat → Nat → Nat → Option Nat
  | 0, _, _ => none
  | n + 1, next, at_ =>
    if next = 17 then some at_
    else if next = 0 ∨ next = 43 ∨ next = 60 then v6Udp f n (f.getD at_ 0).toNat (at_ + 8 * ((f.getD (at_ + 1) 0).toNat + 1))
    else if next = 51 then v6Udp f n (f.getD at_ 0).toNat (at_ + 4 * ((f.getD (at_ + 1) 0).toNat + 2))
    else none

/-- The UDP payload of an untagged frame's IP packet: source address, V6, destination port, and the payload's bytes. A fragment of
an IPv4 datagram is none either. -/
def udpOf (f : List Byte) : Option (BitVec 128 × Bool × BitVec 16 × List Byte) :=
  let ty := be16 f 12
  let udp (src : Nat) (v6 : Bool) (u : Nat) :=
    some (BitVec.ofNat 128 src, v6, BitVec.ofNat 16 (be16 f (u + 2)), (f.drop (u + 8)).take (be16 f (u + 4) - 8))
  if ty = 0x0800 ∧ (f.getD 23 0).toNat = 17 ∧ (f.getD 14 0).toNat / 16 = 4 ∧ be16 f 20 % 0x4000 = 0 then
    udp (be32 f 26) false (14 + 4 * ((f.getD 14 0).toNat % 16))
  else if ty = 0x86DD ∧ (f.getD 14 0).toNat / 16 = 6 then
    match v6Udp f 8 (f.getD 20 0).toNat 54 with
    | some u => udp (be32 f 22 + be32 f 26 * 2 ^ 32 + be32 f 30 * 2 ^ 64 + be32 f 34 * 2 ^ 96) true u
    | none => none
  else none

/-- An RTP packet from a UDP payload (version 2; second byte not 200 to 204, R295). -/
def rtpOf (src : BitVec 128) (v6 : Bool) (dport : BitVec 16) (rx : Nat) (p : List Byte) : Option RtpPacket :=
  let b0 := (p.getD 0 0).toNat
  let b1 := (p.getD 1 0).toNat
  if p.length < 12 ∨ b0 / 64 ≠ 2 ∨ (200 ≤ b1 ∧ b1 ≤ 204) then none
  else
    let h := 12 + 4 * (b0 % 16)
    let h := if b0 / 16 % 2 = 1 then h + 4 + 4 * be16 p (h + 2) else h
    let pad := if b0 / 32 % 2 = 1 then (p.getLastD 0).toNat else 0
    some { src := src, v6 := v6, dport := dport, ssrc := BitVec.ofNat 32 (be32 p 8), pt := BitVec.ofNat 7 b1
           marker := decide (128 ≤ b1), seq := BitVec.ofNat 16 (be16 p 2), stamp := BitVec.ofNat 32 (be32 p 4)
           payload := (p.drop h).take (p.length - h - pad), rxTime := rx }

/-! ### Payload formats (R299) -/

def startCode : List Byte := [0, 0, 0, 1]

/-- The units of an aggregation packet: 16-bit lengths, each followed by its unit. -/
def aggUnits : Nat → List Byte → List (List Byte)
  | 0, _ => []
  | n + 1, p => if p.length < 2 then [] else (p.drop 2).take (be16 p 0) :: aggUnits n (p.drop (2 + be16 p 0))

/-- Units in Annex B form. -/
def annexB (us : List (List Byte)) : List Byte := us.flatMap (startCode ++ ·)

/-- The RFC 2435 modes that are supported: types 0, 1, 64 and 65; Q 1 to 99, and in-band tables from 128 (R299). -/
def jpegMode (p : List Byte) : Bool :=
  let type := (p.getD 4 0).toNat
  let q := (p.getD 5 0).toNat
  [0, 1, 64, 65].contains type && (decide (1 ≤ q ∧ q ≤ 99) || decide (128 ≤ q))

/-- The ES bytes that a packet's payload adds, by the entry's PAYLOAD; `none` for an unsupported mode (R299). `n` is the draw that
stands for what AV1 and JPEG add, by their own standards and what came before. -/
def esOf (n format : Nat) (p : List Byte) : Option (List Byte) :=
  let b0 := (p.getD 0 0).toNat
  let b1 := (p.getD 1 0).toNat
  match format with
  | 0 =>
    let t := b0 % 32
    if 1 ≤ t ∧ t ≤ 23 then some (startCode ++ p)
    else if t = 24 then some (annexB (aggUnits p.length (p.drop 1)))
    else if t = 28 then
      some ((if 128 ≤ b1 then startCode ++ [BitVec.ofNat 8 (b0 / 32 * 32 + b1 % 32)] else []) ++ p.drop 2)
    else none
  | 1 =>
    let t := b0 / 2 % 64
    if t ≤ 47 then some (startCode ++ p)
    else if t = 48 then some (annexB (aggUnits p.length (p.drop 2)))
    else if t = 49 then
      let fu := (p.getD 2 0).toNat
      some ((if 128 ≤ fu then startCode ++ [BitVec.ofNat 8 (b0 / 128 * 128 + fu % 64 * 2 + b0 % 2), p.getD 1 0] else []) ++ p.drop 3)
    else none
  | 2 => some (Config.esBytes n 2 p)
  | 3 => if jpegMode p then some (Config.esBytes n 3 p) else none
  | _ => none

/-- An IDR unit of H.264, or an IRAP unit of H.265. -/
def keyUnit (format : Nat) (u : List Byte) : Bool :=
  let b0 := (u.getD 0 0).toNat
  if format = 0 then b0 % 32 == 5 else decide (16 ≤ b0 / 2 % 64 ∧ b0 / 2 % 64 ≤ 23)

/-- Whether a payload belongs to a key frame (R301): an IDR or IRAP unit among those it holds, an AV1 key frame, any JPEG. -/
def keyOf (format : Nat) (p : List Byte) : Bool :=
  let b0 := (p.getD 0 0).toNat
  match format with
  | 0 =>
    if b0 % 32 = 24 then (aggUnits p.length (p.drop 1)).any (keyUnit 0)
    else if b0 % 32 = 28 then keyUnit 0 (p.drop 1) else keyUnit 0 p
  | 1 =>
    if b0 / 2 % 64 = 48 then (aggUnits p.length (p.drop 2)).any (keyUnit 1)
    else if b0 / 2 % 64 = 49 then decide (16 ≤ (p.getD 2 0).toNat % 64 ∧ (p.getD 2 0).toNat % 64 ≤ 23) else keyUnit 1 p
  | 2 => Config.av1Key p
  | _ => true

/-! ### Frame records (R301 to R304) -/

/-- A block writes bytes into a ring of its own, which has room for them: up to the ring's end, and the rest from its base on. -/
def ringPut (page : Nat) (r : Requester) (base len off : Nat) (bs : List Byte) (s : State) : State :=
  let k := len - off % len
  let s := devPut page r (base + off % len) (bs.take k) s
  if bs.length ≤ k then s else devPut page r base (bs.drop k) s

/-- Close a frame of an entry: its record, the counters, its place among the frames a job may bind, and the binding of the
oldest job that waits (R301, R303). -/
def frameRecord (e : Fin 512) (esOff len stamp : Word) (complete key : Bool) (lost arrive : Nat) (s : State) : State :=
  let stat := entReg s e 0x38
  let seq := fld stat 31 16
  let number := (getEnt s e).closed
  let div := fld (entReg s e 0) 23 20 + 1
  let analysed := decide ((number + 1 - (getEnt s e).first) % div = 0)
  let ctrl := 1 + 2 * complete.toNat + 4 * key.toNat + 8 * analysed.toNat + 256 * min lost 255 + 65536 * seq
  let rec_ := bytesOf 4 esOff.toNat ++ bytesOf 4 len.toNat ++ bytesOf 4 stamp.toNat ++ bytesOf 4 ctrl ++ bytesOf 8 arrive ++ bytesOf 8 0
  let s := devPut pgStrx .strx (entAddr s e 0x30 + 32 * (seq % 64)) rec_ s
  let s := setEntReg e 0x38 (at_ 0 ((seq + 1) % 64) ||| at_ 16 ((seq + 1) % 65536)) s
  let s := entInc e 0x6C 1 s
  let (bound, s) := if analysed then bindWaiting e number arrive s else (false, s)
  let f : ClosedFrame := { number := number, esOff := esOff, len := len, arrive := arrive, complete := complete, key := key
                           analysed := analysed, bound := bound, decoded := false, dropped := false }
  let s := modEnt e (fun x => { x with closed := number + 1, frames := x.frames ++ [f] }) s
  if bit (entReg s e 0) 25 then raise pgStrx 1 s else s

/-- Where a frame's record lies: its sequence number counts the frames closed since VALID was set. -/
def recordAddr (s : State) (e : Nat) (number : Nat) : Nat := entAddr s e 0x30 + 32 * ((number - (getEnt s e).first) % 64)

/-- A frame in assembly closes (R301): written to the ES ring if there is room, else dropped whole (R302). -/
def frameClose (e : Fin 512) (stamp : Word) (complete : Bool) (s : State) : State :=
  match (getEnt s e).asm.find? (·.stamp == stamp) with
  | none => s
  | some a =>
    let s := modEnt e (fun x => { x with asm := x.asm.filter fun b => !(b.stamp == stamp) }) s
    let len := (entReg s e 0x24).toNat
    let wr := (entReg s e 0x28).toNat
    let rd := (entReg s e 0x2C).toNat
    if len = 0 ∨ len ≤ (wr + len - rd % len) % len + a.bytes.length then raise pgStrx 3 (entInc e 0x74 1 s)
    else
      let s := ringPut pgStrx .strx (entAddr s e 0x1C) len wr a.bytes s
      let s := setEntReg e 0x28 (BitVec.ofNat 32 ((wr + a.bytes.length) % len)) s
      frameRecord e (BitVec.ofNat 32 wr) (BitVec.ofNat 32 a.bytes.length) a.stamp complete a.key a.lost
        (if complete then a.lastAt else now s) s

/-- A timestamp later than another, modulo 2^32. -/
def laterStamp (old new : Word) : Bool := old != new && decide ((new - old).toNat < 2 ^ 31)

/-- A packet joins the frame of its timestamp, which it opens if need be; packets lost before it count there (R301). -/
def frameJoin (lost : Nat) (key : Bool) (bs : List Byte) (p : RtpPacket) (fs : List FrameAsm) : List FrameAsm :=
  if fs.any (·.stamp == p.stamp) then
    fs.map fun a => if a.stamp == p.stamp then
      { a with lastAt := max a.lastAt p.rxTime, firstAt := min a.firstAt p.rxTime, bytes := a.bytes ++ bs, lost := a.lost + lost
               key := a.key || key, gap := a.gap || decide (lost ≠ 0) } else a
  else fs ++ [{ stamp := p.stamp, firstAt := p.rxTime, lastAt := p.rxTime, bytes := bs, lost := lost, key := key
                gap := decide (lost ≠ 0) }]

/-- A packet is released in sequence order (R300, R301). Frames of earlier timestamps that a loss has left open close incomplete; a
marker with no gap before it closes its own, complete. A packet of a frame that FRAME_MS has closed is discarded. -/
def packetRelease (e : Fin 512) (p : RtpPacket) (s : State) : State :=
  let t := getEnt s e
  let s := ((t.asm.filter fun a => laterStamp a.stamp p.stamp && (a.gap || decide (t.missing ≠ 0))).map (·.stamp)).foldl
    (fun s x => frameClose e x false s) s
  let s := modEnt e (fun x => { x with late := x.late.filter fun l => !laterStamp l p.stamp }) s
  let fmt := fld (entReg s e 0) 5 3
  match if (getEnt s e).late.contains p.stamp then none else esOf s.free fmt p.payload with
  | none => entInc e 0x68 1 s
  | some bs =>
    let s := drawn (if fmt < 2 then 0 else 1) s
    let s := modEnt e (fun x => { x with asm := frameJoin x.missing (keyOf fmt p.payload) bs p x.asm, missing := 0 }) s
    if p.marker && !((getEnt s e).asm.any fun a => a.stamp == p.stamp && a.gap) then frameClose e p.stamp true s else s

/-- A packet is lost: counted and reported (R300). -/
def countLost (e : Nat) (s : State) : State :=
  raise pgStrx 2 (entInc e 0x64 1 (modEnt e (fun t => { t with missing := t.missing + 1 }) s))

/-- Advance EXP over `n` numbers, releasing those that have arrived and losing the others. -/
def advance (e : Fin 512) : Nat → State → State
  | 0, s => s
  | n + 1, s =>
    match (getEnt s e).exp with
    | none => s
    | some x =>
      let found := (getEnt s e).window.find? (·.seq == x)
      let s := modEnt e (fun t => { t with exp := some (x + 1), window := t.window.filter fun p => !(p.seq == x) }) s
      advance e n (match found with
        | some p => packetRelease e p s
        | none => countLost e s)

/-- Release the run of packets that starts at EXP. -/
def releaseRun (e : Fin 512) : Nat → State → State
  | 0, s => s
  | n + 1, s =>
    match (getEnt s e).exp with
    | none => s
    | some x => if (getEnt s e).window.any (·.seq == x) then releaseRun e n (advance e 1 s) else s

/-- The key of an entry matches a packet (R297). -/
def entMatches (s : State) (e : Nat) (p : RtpPacket) : Bool :=
  let src : BitVec 128 := entReg s e 0x10 ++ entReg s e 0x0C ++ entReg s e 0x08 ++ entReg s e 0x04
  entValid s e && !bit (entReg s e 0) 1 && src == p.src && (entReg s e 0x14).setWidth 16 == p.dport && entReg s e 0x18 == p.ssrc

/-- A packet arrives at its entry (R300). -/
def entPacket (e : Fin 512) (p : RtpPacket) (s : State) : State :=
  let s := entInc e 0x60 1 s
  let exp := (getEnt s e).exp.getD p.seq
  let s := modEnt e (fun t => { t with exp := some exp }) s
  let d := (p.seq - exp).toNat
  let store (s : State) : State := modEnt e (fun t => { t with window := t.window ++ [{ p with entAt := now s }] }) s
  if 2 ^ 15 ≤ d then entInc e 0x68 1 s
  else if d < 64 then
    if (getEnt s e).window.any (·.seq == p.seq) then entInc e 0x68 1 s else releaseRun e 64 (store s)
  else releaseRun e 64 (store (advance e (d - 63) s))

/-- Two packets of one key. -/
def sameKey (p q : RtpPacket) : Bool := p.src == q.src && p.dport == q.dport && p.ssrc == q.ssrc

/-- Load QKEY_* with a packet's key (R298, R329). -/
def loadKey (p : RtpPacket) (s : State) : State :=
  let s := (List.range 4).foldl (fun s i => setReg pgStrx 0 (0x048 + 4 * i) (p.src.extractLsb' (32 * i) 32) s) s
  let s := setReg pgStrx 0 0x058 (p.dport.setWidth 32 ||| at_ 16 p.pt.toNat ||| flag 31 p.v6) s
  modMedia (fun m => { m with keyValid := true }) (setReg pgStrx 0 0x05C p.ssrc s)

/-- The packet key that QKEY_* holds. -/
def inLoadedKey (s : State) (p : RtpPacket) : Bool :=
  s.media.keyValid && (List.range 4).all (fun i => getReg s pgStrx 0 (0x048 + 4 * i) == p.src.extractLsb' (32 * i) 32)
    && (getReg s pgStrx 0 0x058).setWidth 16 == p.dport && getReg s pgStrx 0 0x05C == p.ssrc

/-- The key of a packet, as an entry or the ageing list holds it. -/
def keyOfPacket (p : RtpPacket) : BitVec 128 × BitVec 16 × Word := (p.src, p.dport, p.ssrc)

/-- A packet waits in the quarantine, or is dropped when all entries are valid (R298). -/
def quarantinePut (p : RtpPacket) (s : State) : State :=
  if freeEntries s = 0 then raise pgStrx 4 (countSat pgStrx 0 0x064 s)
  else
    let isNew := !s.media.quarantine.any (sameKey p)
    let s := if 256 ≤ s.media.quarantine.length then
        countSat pgStrx 0 0x068 (modMedia (fun m => { m with quarantine := m.quarantine.drop 1 }) s) else s
    let s := modMedia (fun m => { m with quarantine := m.quarantine ++ [p] }) s
    if isNew then
      let s := modMedia (fun m => { m with newKeys := m.newKeys ++ [p] }) s
      raise pgStrx 0 (loadKey p s)
    else s

/-- A packet that matches no entry (R298). The packets of a stream whose entry has lost VALID are not received until they age out
(R305); when that is, the manual does not say, so each of them draws whether it has come. With all entries valid every packet is dropped and
counted. -/
def quarantine (p : RtpPacket) (s : State) : State :=
  if freeEntries s ≠ 0 ∧ s.media.ageing.contains (keyOfPacket p) = true then
    let (aged, s) := draw 1 s
    if aged = 1 then quarantinePut p (modMedia (fun m => { m with ageing := m.ageing.filter fun k => k != keyOfPacket p }) s) else s
  else quarantinePut p s

/-- An RTP packet reaches the receiver (R297). -/
def rtpPacket (p : RtpPacket) (s : State) : State :=
  match (List.range 512).find? fun e => entMatches s e p with
  | some e => entPacket (Fin.ofNat 512 e) p s
  | none => quarantine p s

/-- An entry becomes valid: the quarantined packets of its key are fed to it in arrival order (R298). -/
def feedQuarantine (e : Fin 512) (s : State) : State :=
  let mine := s.media.quarantine.filter (entMatches s e)
  let s := modMedia (fun m => { m with quarantine := m.quarantine.filter fun p => !entMatches s e p
                                       newKeys := m.newKeys.filter fun p => !entMatches s e p }) s
  mine.foldl (fun s p => entPacket e p s) s

/-- `QCMD`: DISCARD drops every quarantined packet of the loaded key; NEXT loads the next key that waits. -/
def qDiscard (s : State) : State :=
  modMedia (fun m => { m with quarantine := m.quarantine.filter fun p => !inLoadedKey s p
                              newKeys := m.newKeys.filter fun p => !inLoadedKey s p }) s

def qNext (s : State) : State :=
  match s.media.newKeys.filter fun p => !inLoadedKey s p with
  | [] => modMedia (fun m => { m with keyValid := false, newKeys := [] }) s
  | p :: ps => loadKey p (modMedia (fun m => { m with newKeys := p :: ps }) s)

/-- Since when the gap at EXP has been open: the first packet beyond it that came to the window. -/
def gapSince (t : StreamEnt) : Option Nat := (t.window.map (·.entAt)).min?

/-- A gap has been open for REORDER_US: it is declared lost (R300). -/
def reorderTimeout (e : Fin 512) (s : State) : State :=
  let t := getEnt s e
  match gapSince t, t.exp with
  | some g, some x =>
    if !domOn s 16 || decide (now s < g + fld (entReg s e 0x3C) 15 0 * Config.us) then s
    else releaseRun e 64 (advance e (t.window.foldl (fun m p => min m (p.seq - x).toNat) 65535) s)
  | _, _ => s

/-- The frame whose first packet came earliest, among those in assembly and those whose packets wait in the window. -/
def oldestFrame (t : StreamEnt) : Option (Word × Nat) :=
  (t.asm.map (fun a => (a.stamp, a.firstAt)) ++ (t.window.filter fun p => !t.late.contains p.stamp).map fun p => (p.stamp, p.rxTime)).foldl
    (fun m x => match m with
      | some y => if x.2 < y.2 then some x else some y
      | none => some x) none

/-- FRAME_MS have passed since the frame's first packet arrived (R301): it closes with what has been released of it. -/
def frameTimeout (e : Fin 512) (s : State) : State :=
  match oldestFrame (getEnt s e) with
  | some (stamp, since) =>
    if !domOn s 16 || decide (now s < since + fld (entReg s e 0x3C) 31 16 * Config.ms) then s
    else
      let empty : FrameAsm := { stamp := stamp, firstAt := since, lastAt := since, bytes := [], lost := 0, key := false, gap := true }
      frameClose e stamp false (modEnt e (fun t => { t with
        asm := if t.asm.any (·.stamp == stamp) then t.asm else t.asm ++ [empty], late := t.late ++ [stamp] }) s)
  | none => s

/-- The sessions that encode the decoded frames of an entry's stream (R311). -/
def streamEncoders (s : State) (e : Nat) : BitVec 16 :=
  (List.range 16).foldl (fun w n =>
    let c := getReg s pgCodec n 0x400
    if bit c 0 && bit c 1 && bit c 24 && fld (getReg s pgCodec n 0x408) 28 20 == e then w ||| oneBit 16 n else w) 0

/-- The output buffers of an entry that a session holds until it has encoded them (R311). -/
def heldBufs (s : State) (e : Nat) : Word :=
  (getEnt s e).frames.foldl (fun w f => if f.decoded && !f.dropped && f.holders &&& streamEncoders s e != 0 then w ||| oneBit 32 f.buf.toNat else w) 0

/-- A write of OUT_RELEASE frees the buffers that no session holds (R308, R311). -/
def outRelease (e : Nat) (v : Word) (s : State) : State :=
  let v := (v &&& 0xFFFF) &&& ~~~(heldBufs s e)
  let s := modEnt e (fun t => { t with frames := t.frames.map fun f => if bit v f.buf.toNat then { f with holders := 0 } else f }) s
  setEntReg e 0x4C (entReg s e 0x4C ||| v) s

/-- An entry loses VALID (R305): what it had in assembly is dropped, and its stream's packets have to age out. -/
def entStop (e : Nat) (s : State) : State :=
  let src : BitVec 128 := entReg s e 0x10 ++ entReg s e 0x0C ++ entReg s e 0x08 ++ entReg s e 0x04
  let key := (src, (entReg s e 0x14).setWidth 16, entReg s e 0x18)
  let s := modEnt e (fun t => { t with asm := [], window := [], missing := 0, late := [] }) s
  if bit (entReg s e 0) 1 then s else modMedia (fun m => { m with ageing := key :: m.ageing.filter (· != key) }) s

/-- An entry gains VALID: it starts anew, and takes the quarantined packets of its key (R298). -/
def entStart (e : Fin 512) (s : State) : State :=
  let s := modEnt e (fun t => { closed := t.closed, first := t.closed }) (setEntReg e 0x38 0 s)
  let src : BitVec 128 := entReg s e 0x10 ++ entReg s e 0x0C ++ entReg s e 0x08 ++ entReg s e 0x04
  let key := (src, (entReg s e 0x14).setWidth 16, entReg s e 0x18)
  feedQuarantine e (modMedia (fun m => { m with ageing := m.ageing.filter (· != key) }) s)

/-- A write of an entry's register (R304, R305). `k` is the entry within the selected group, `o` the register's offset. -/
def entWrite (r : Requester) (chan k o : Nat) (v : Word) (s : State) : State :=
  let e : Fin 512 := Fin.ofNat 512 (8 * chan + k)
  let off := 0x400 + 0x80 * k + o
  let old := entReg s e 0
  let busy := regErr pgStrx off r eWriteRunning
  if o = 0 then
    let v := v &&& 0x03F0003F
    if bit v 1 && !bit (features s.fuses.variant pgStrx) 1 then regErr pgStrx off r eAbsent s
    else if bit old 0 then
      let kept := mix 0x02000001 old v
      let s := if kept = v then s else busy s
      let s := setEntReg e 0 kept s
      if bit v 0 then s else entStop e s
    else
      let s := setEntReg e 0 v s
      if bit v 0 then entStart e s else s
  else if o = 0x50 then outRelease e v s
  else if bit old 0 && !(o == 0x2C) then busy s
  else match regRow pgStrx off with
    | some row => setEntReg e o (mix row.live (entReg s e o) v) s
    | none => s

/-! ### Ports (R294 to R296, R328) -/

/-- A port's register. -/
def ethReg (s : State) (p o : Nat) : Word := getReg s pgEth p o
def ethAddr (s : State) (p o : Nat) : Nat := (getAddr s pgEth p o).toNat

/-- Count a dropped frame. -/
def rxDrop (p : Nat) (s : State) : State := countWrap pgEth p 0x434 s

/-- A frame, its tag stripped, goes to the port's control ring (R296). -/
def controlRing (p : Nat) (vid : Nat) (f : List Byte) (time : Nat) (s : State) : State :=
  let len := (ethReg s p 0x410).toNat
  let wr := (ethReg s p 0x414).toNat
  if len = 0 ∨ 2032 < f.length ∨ (wr + 1) % len = (ethReg s p 0x418).toNat % len then rxDrop p s
  else
    let slot := ethAddr s p 0x408 + 2048 * wr
    let head := bytesOf 4 (f.length + vid * 65536) ++ bytesOf 4 0 ++ bytesOf 8 time
    raise pgEth 1 (setReg pgEth p 0x414 (BitVec.ofNat 32 ((wr + 1) % len)) (devPut pgEth .strx slot (head ++ f) s))

/-- A received frame (R294, R295), with the time of its reception: dropped, to the stream receiver, or to the control ring. A frame with
two tags is not accepted. -/
def ethReceive (p : Nat) (f : RxFrame) (time : Nat) (s : State) : State :=
  if !portUp s p || !(getHdr s pgEth).enable || !bit (ethReg s p 0x400) 2 then s
  else if !f.fcsOk || decide (f.bytes.length + 4 < 64) || decide (9216 < f.bytes.length + 4) then rxDrop p s
  else
    match untag f.bytes with
    | none => rxDrop p s
    | some (vid, bytes) =>
      let s := countWrap pgEth p 0x430 s
      let cfg := getReg s pgStrx 0 0x040
      match udpOf bytes with
      | some (src, v6, dport, pl) =>
        if fld cfg 15 0 ≤ dport.toNat ∧ dport.toNat ≤ fld cfg 31 16 then
          match rtpOf src v6 dport time pl with
          | some pk => if (getHdr s pgStrx).enable then rtpPacket pk s else s
          | none => controlRing p vid bytes time s
        else controlRing p vid bytes time s
      | none => controlRing p vid bytes time s
where
  portUp (s : State) (p : Nat) : Bool := bit (cap0 s.fuses.variant) (13 + p)

/-- A port sends the next frame of its transmit ring (R296); a rule engine frame that waits goes first. Where the read of the descriptor
or of the frame fails, nothing is sent and the ring stays where it is (DESIGN CHOICE). -/
def ethTransmit (p : Nat) (x : Answered) (s : State) : State :=
  let len := (ethReg s p 0x424).toNat
  let rd := (ethReg s p 0x42C).toNat
  if !bit (cap0 s.fuses.variant) (13 + p) || !bit s.media.link p || !(getHdr s pgEth).enable || !bit (ethReg s p 0x400) 1
      || decide (len = 0) || decide (rd = (ethReg s p 0x428).toNat) || !(storeGet (fun _ => []) s.ctlio.tplQueue p).isEmpty then s
  else
    let d := ethAddr s p 0x41C + 16 * rd
    match devGet pgEth .strx d 8 x s with
    | (.error _, s) => s
    | (.ok desc, s) =>
      let w1 := wordAt desc 4
      match devGet pgEth .strx (addrOf w1 (wordAt desc 0)).toNat (fld w1 23 8) x s with
      | (.error _, s) => s
      | (.ok frame, s) =>
        let s := send (.ethFrame (Fin.ofNat 2 p) frame) s
        let s := if bit w1 30 then raise pgEth 3 (devPut pgEth .strx (d + 8) (bytesOf 8 (now s)) s) else s
        let s := devPut pgEth .strx (d + 4) (bytesOf 4 (w1 ||| 0x80000000).toNat) s
        raise pgEth 2 (setReg pgEth p 0x42C (BitVec.ofNat 32 ((rd + 1) % len)) s)

/-- A port's link comes up or goes down. -/
def ethLink (p : Nat) (up : Bool) (s : State) : State :=
  if !bit (cap0 s.fuses.variant) (13 + p) || bit s.media.link p == up then s
  else raise pgEth 0 (modMedia (fun m => { m with link := mix (oneBit 2 p) m.link (if up then 3 else 0) }) s)

end Sys2Proof.Machine
end

