-- ==== Sys2Proof/Machine/Codec.lean ====
section
/-! DEFINITION. The video codec: decode of streams and of host-fed sessions, encode sessions (R306 to R311, R331, R332). The
bitstream formats rest on external standards: a command brings what a decode or an encode yields. -/

namespace Sys2Proof.Machine

def sesReg (s : State) (n o : Nat) : Word := getReg s pgCodec n o
def sesAddr (s : State) (n o : Nat) : Nat := (getAddr s pgCodec n o).toNat

/-- `CODEC.CFG.DEC_DEF_MS` in nanoseconds. -/
def decDefNs (s : State) : Nat := fld (getReg s pgCodec 0 0x040) 15 0 * Config.ms

/-- The decode allowance of the ACCEPTED class that links an entry (R307); the smallest, if several do. -/
def linkedDecNs (s : State) (e : Nat) : Option Nat :=
  ((List.range 64).filterMap fun k =>
    let c := getClass s k
    if c.st = .accepted ∧ c.vals.link = true ∧ c.vals.stream.toNat = e then some (c.vals.decUs.toNat * Config.us) else none).min?

/-- A frame that the decoder has yet to finish. -/
def ClosedFrame.waiting (f : ClosedFrame) : Bool := !f.decoded

/-- The oldest frame of an entry that waits for the decoder. -/
def nextFrame (s : State) (e : Nat) : Option ClosedFrame :=
  let t := getEnt s e
  if entValid s e && bit (entReg s e 0) 2 && !bit (entReg s e 0) 1 && !t.stopped then t.frames.find? (·.waiting) else none

/-- The input record that a session takes next (R310, R332). -/
def sesRecord (s : State) (n : Nat) : Option Nat :=
  let p := sesReg s n 0x414
  if fld p 4 0 = fld p 12 8 then none else some (sesAddr s n 0x40C + 32 * fld p 12 8)

/-- A session's picture size is one that the codec supports (R306). -/
def sesSizeFits (s : State) (n : Nat) : Bool :=
  let w := fld (sesReg s n 0x404) 12 0
  let h := fld (sesReg s n 0x404) 28 16
  decide (64 ≤ w ∧ w ≤ 7680 ∧ w % 2 = 0 ∧ 64 ≤ h ∧ h ≤ 4320 ∧ h % 2 = 0)

/-- A session decodes a host-fed stream: one of a supported format and size (R306, R332). -/
def sesDecodes (s : State) (n : Nat) : Bool :=
  decide (16 ≤ n) && bit (sesReg s n 0x400) 0 && !bit (sesReg s n 0x400) 1 && decide (fld (sesReg s n 0x400) 4 2 ≤ 3) && sesSizeFits s n

/-- The records that the decode sessions have ready, each with its arrival and its FLAGS: as read when the unit was taken, else as the
codec reads it now; an arrival of 0 is the instant at which the codec takes the unit (R332). A record that cannot be read waits
(DESIGN CHOICE). -/
def unitsReady (x : Answered) (s : State) : List (Nat × Nat × Word) × State :=
  (List.range 32).foldl (fun (us, s) n =>
    match (if sesDecodes s n then sesRecord s n else none), storeGet (fun _ => none) s.media.unitAt n with
    | none, _ => (us, s)
    | some _, some u => (us ++ [(n, u)], s)
    | some a, none => match devGet pgCodec .codec a 32 x s with
      | (.error _, s) => (us, s)
      | (.ok bs, s) =>
        let t := ofBytes ((bs.drop 16).take 8)
        (us ++ [(n, if t = 0 then now s else t, wordAt bs 12)], s)) ([], s)

/-- Frames and units that wait, with their deadlines and whether an ACCEPTED class links them (R307). -/
def decodeQueue (s : State) (us : List (Nat × Nat × Word)) : List (Bool × Nat × Nat × DecodeItem) :=
  ((List.range 512).filterMap fun e => (nextFrame s e).map fun f =>
    match linkedDecNs s e with
    | some d => (true, f.arrive + d, e, DecodeItem.stream (Fin.ofNat 512 e) f.number)
    | none => (false, f.arrive + decDefNs s, e, DecodeItem.stream (Fin.ofNat 512 e) f.number)) ++
  us.map fun u => (false, u.2.1 + decDefNs s, 512 + u.1, DecodeItem.session (Fin.ofNat 32 u.1))

/-- The earlier of two waiting frames: linked before unlinked, then by deadline, then the lower stream index. -/
def decodeBefore (a b : Bool × Nat × Nat × DecodeItem) : Bool :=
  if a.1 != b.1 then a.1
  else decide (a.2.1 < b.2.1) || (a.2.1 == b.2.1 && decide (a.2.2.1 ≤ b.2.2.1))

def decodeFirst : List (Bool × Nat × Nat × DecodeItem) → Option (Bool × Nat × Nat × DecodeItem)
  | [] => none
  | x :: xs => match decodeFirst xs with
    | none => some x
    | some y => if decodeBefore x y then some x else some y

/-- The decode pipeline takes a frame or unit. -/
def decodeTake (us : List (Nat × Nat × Word)) (i : DecodeItem) (s : State) : State :=
  let s := modMedia (fun m => { m with decoding := some i }) s
  match i with
  | .stream _ _ => s
  | .session n =>
    match us.find? (·.1 == n.val) with
    | some u => modMedia (fun m => { m with unitAt := storeSet (fun _ => none) m.unitAt n (some u.2) }) s
    | none => s

/-- What the pipeline works on gives way to a linked frame: a frame that no ACCEPTED class links is decoded in pieces of at most 64
rows, between which a linked frame goes ahead (R307). -/
def givesWay (s : State) : DecodeItem → Bool
  | .stream e _ => (linkedDecNs s e).isNone
  | .session _ => true

/-- The decode pipeline takes the next frame; a frame that gives way waits to be taken up again. -/
def decodeStart (x : Answered) (s : State) : State :=
  if !(getHdr s pgCodec).enable || !domOn s 17 then s
  else match s.media.decoding with
    | none =>
      let (us, s) := unitsReady x s
      match decodeFirst (decodeQueue s us) with
      | some (_, _, _, i) => decodeTake us i s
      | none => s
    | some old => match decodeFirst (decodeQueue s []) with
      | some (true, _, _, i) => if givesWay s old then decodeTake [] i s else s
      | _ => s

/-- The lowest free buffer of a pool of NBUF + 1. -/
def freeBuf (free : Word) (nbuf : Nat) : Option Nat := (List.range (nbuf + 1)).find? fun i => bit free i

/-- The bytes of a buffer of a pool: STRIDE × height × 3/2, or × 2 for NV16, rounded up to 4 KiB (R308). -/
def bufBytes (stride : Nat) (r : DecodeResult) : Nat :=
  cdiv (if r.chroma = .c422 then stride * r.height * 2 else stride * r.height * 3 / 2) 4096 * 4096

/-- A row of samples as it is written (R306): bytes for NV12, 16-bit words with the sample on top for P010; a 10-bit sample for NV12
loses its two low bits. -/
def rowBytes (deep p010 : Bool) (row : List (BitVec 10)) : List Byte :=
  if deep && p010 then row.flatMap fun x => bytesOf 2 (x.toNat * 64)
  else row.map fun x => BitVec.ofNat 8 (if deep then x.toNat / 4 else x.toNat)

/-- A decoded picture in its buffer (R306, R308): the luma rows, then those of the interleaved chroma, each at STRIDE from the last. -/
def picturePut (base stride : Nat) (p010 : Bool) (r : DecodeResult) (s : State) : State :=
  (r.luma ++ r.cbcr).zipIdx.foldl (fun s row => devPut pgCodec .codec (base + row.2 * stride) (rowBytes r.deep p010 row.1) s) s

/-- Write the DEC word of a frame's record. -/
def setDec (e number : Nat) (w : Nat) (s : State) : State := devPut pgCodec .codec (recordAddr s e number + 0x18) (bytesOf 4 w) s

/-- Change a closed frame. -/
def modFrame (e number : Nat) (f : ClosedFrame → ClosedFrame) (s : State) : State :=
  modEnt e (fun t => { t with frames := t.frames.map fun x => if x.number = number then f x else x }) s

/-- The codec advances ES_RD past a frame it has taken (R302). -/
def esConsume (e : Nat) (f : ClosedFrame) (s : State) : State :=
  let len := (entReg s e 0x24).toNat
  setEntReg e 0x2C (BitVec.ofNat 32 ((f.esOff.toNat + f.len.toNat) % len)) s

/-- A frame's decode ends: counters and DEC_DONE. -/
def decodeCount (s : State) : State :=
  raise pgCodec 0 (countWrap pgCodec 0 0x044 (modMedia (fun m => { m with decoding := none }) s))

/-- A frame of a stream gives no output: its jobs complete LATE with cause INPUT_LATE (R308, R309). -/
def frameDrop (e : Fin 512) (f : ClosedFrame) (s : State) : State :=
  dropFrameJobs e f.number (setDec e f.number 4 (modFrame e f.number (fun x => { x with dropped := true }) s))

/-- The decoder is done with a frame of a stream: its DEC word, the counters, and the next KEY that a damaged one waits for (R309). -/
def frameDone (e : Fin 512) (f : ClosedFrame) (damaged : Bool) (dec : Nat) (s : State) : State :=
  let s := modEnt e (fun t => { t with waitKey := if damaged then true else if f.key then false else t.waitKey }) s
  let s := modFrame e f.number (fun x => { x with decoded := true }) s
  setDec e f.number (1 + 2 * damaged.toNat + dec) (decodeCount (esConsume e f s))

/-- The REF area cannot hold the stream's reference pictures: FORMAT is recorded and the entry's decoding stops (R308). -/
def refStop (e : Fin 512) (s : State) : State :=
  recordErr pgStrx (Requester.code .codec) eFormat (regAddr pgStrx (0x400 + 0x80 * (e % 8) + 0x5C))
    (modMedia (fun m => { m with decoding := none }) (modEnt e (fun t => { t with stopped := true }) s))

/-- A picture is of a kind that the decode pipeline supports in a format (R306): 8 bits in H.264 and JPEG, 4:2:0 but in JPEG. AV1's Main
profile has pictures of luma alone too, by its external standard (PRESUMED). -/
def decodes (format : Nat) (res : DecodeResult) : Bool :=
  match format with
  | 0 => !res.deep && res.chroma == .c420
  | 1 => res.chroma == .c420
  | 2 => res.chroma != .c422
  | _ => !res.deep

/-- The decoder has finished a frame of a stream (R307 to R309). While no buffer is free, it waits, until the deadline says that the
frame is for reference only. A picture of a kind that R306 does not list is a damaged frame that gives no output (DESIGN CHOICE). -/
def streamDecoded (e : Fin 512) (f : ClosedFrame) (res : DecodeResult) (s : State) : State :=
  let listed := decodes (fld (entReg s e 0) 5 3) res
  let damaged := res.damaged || !f.complete || !listed
  let conceal := bit (entReg s e 0) 24 && listed
  let t := getEnt s e
  if !(t.frames.any (·.decoded)) && decide ((entReg s e 0x5C).toNat < res.refBytes) then refStop e s
  else if f.dropped then frameDone e f damaged 4 s
  else if !conceal && (damaged || (t.waitKey && !f.key)) then frameDone e f damaged 4 (frameDrop e f s)
  else match freeBuf (entReg s e 0x4C) (fld (entReg s e 0x48) 3 0) with
    | none => s
    | some b =>
      let cfg := entReg s e 0x48
      let stride := fld cfg 31 16
      let s := setEntReg e 0x4C (entReg s e 0x4C &&& ~~~(oneBit 32 b)) s
      let s := picturePut (entAddr s e 0x40 + b * bufBytes stride res) stride (bit cfg 4) res s
      let s := modEnt e (fun t => { t with frames := t.frames.map fun x => if x.buf.toNat = b then { x with holders := 0 } else x }) s
      let s := modFrame e f.number (fun x => { x with buf := BitVec.ofNat 4 b, holders := streamEncoders s e }) s
      let s := if damaged then raise pgCodec 2 (entInc e 0x70 1 s) else s
      frameDone e f (damaged && !conceal) (2 * damaged.toNat + 256 * b) s

/-- A host-fed unit is finished: RESULT, then DONE in its FLAGS, then RD (R332). -/
def unitDone (n : Nat) (a : Nat) (flags : Word) (result : Nat) (s : State) : State :=
  let flags := flags ||| 0x80000000
  let s := devPut pgCodec .codec (a + 0x0C) (bytesOf 4 flags.toNat) (devPut pgCodec .codec (a + 0x18) (bytesOf 4 result) s)
  let s := modMedia (fun m => { m with unitDrop := m.unitDrop &&& ~~~(oneBit 32 n), unitAt := storeSet (fun _ => none) m.unitAt n none }) s
  let p := sesReg s n 0x414
  decodeCount (setReg pgCodec n 0x414 (mix 0x1F00 p (at_ 8 ((fld p 12 8 + 1) % 32))) s)

/-- A picture larger than SES_SIZE, which is none of the stream that the session decodes (R332). -/
def oversize (s : State) (n : Nat) (res : DecodeResult) : Bool :=
  decide (fld (sesReg s n 0x404) 12 0 < res.width) || decide (fld (sesReg s n 0x404) 28 16 < res.height)

/-- The decoder has finished a host-fed unit. A picture of a kind that R306 does not list gives no output (DESIGN CHOICE). -/
def unitDecoded (n : Fin 32) (a : Nat) (flags : Word) (res : DecodeResult) (s : State) : State :=
  let skip := (bit flags 0 || bit s.media.sesWaitKey n) && !res.key
  let damage := 256 * res.damaged.toNat
  if skip then
    unitDone n a flags 0x400 (modMedia (fun m => { m with sesWaitKey := m.sesWaitKey ||| oneBit 32 n }) s)
  else if oversize s n res || !decodes (fld (sesReg s n 0x400) 4 2) res then unitDone n a flags 0x400 s
  else if bit s.media.unitDrop n then
    unitDone n a flags (0x200 + damage) (modMedia (fun m => { m with sesWaitKey := m.sesWaitKey &&& ~~~(oneBit 32 n) }) s)
  else
    let cfg := sesReg s n 0x438
    let stride := fld cfg 31 16
    match freeBuf (sesReg s n 0x43C) (fld cfg 3 0) with
    | none => s
    | some b =>
      let s := setReg pgCodec n 0x43C (sesReg s n 0x43C &&& ~~~(oneBit 32 b)) s
      let s := picturePut (sesAddr s n 0x418 + b * bufBytes stride res) stride (bit cfg 4) res s
      let s := modMedia (fun m => { m with sesWaitKey := m.sesWaitKey &&& ~~~(oneBit 32 n) }) s
      let s := if res.damaged then raise pgCodec 2 s else s
      unitDone n a flags (b + damage) s

/-- DECODE_DONE. -/
def decodeDone (res : DecodeResult) (s : State) : State :=
  if !domOn s 17 then s
  else match s.media.decoding with
  | none => s
  | some (.stream e number) =>
    match (getEnt s e).frames.find? (·.number == number) with
    | some f => streamDecoded e f res s
    | none => modMedia (fun m => { m with decoding := none }) s
  | some (.session n) =>
    match sesRecord s n, storeGet (fun _ => none) s.media.unitAt n with
    | some a, some u => unitDecoded n a u.2 res s
    | _, _ => modMedia (fun m => { m with decoding := none }) s

/-- No buffer has come free by the deadline of the frame under decode: it is decoded for reference only, and its jobs end at once
(R308, R332). -/
def outputTimeout (s : State) : State :=
  if !domOn s 17 then s
  else match s.media.decoding with
  | none => s
  | some (.stream e number) =>
    match (getEnt s e).frames.find? (·.number == number) with
    | none => s
    | some f =>
      let due := f.arrive + (linkedDecNs s e).getD (decDefNs s)
      if now s < due ∨ f.dropped = true ∨ (freeBuf (entReg s e 0x4C) (fld (entReg s e 0x48) 3 0)).isSome = true then s
      else frameDrop e f (entInc e 0x74 1 s)
  | some (.session n) =>
    match storeGet (fun _ => none) s.media.unitAt n with
    | none => s
    | some u =>
      if now s < u.1 + decDefNs s ∨ (freeBuf (sesReg s n 0x43C) (fld (sesReg s n 0x438) 3 0)).isSome = true then s
      else modMedia (fun m => { m with unitDrop := m.unitDrop ||| oneBit 32 n }) s

/-! ### Encode (R310, R311) -/

/-- The oldest decoded frame of a stream that a session holds and has yet to encode (R311). -/
def frameToEncode (s : State) (e n : Nat) : Option ClosedFrame :=
  (getEnt s e).frames.find? fun f => f.decoded && !f.dropped && bit f.holders n

/-- The formats that the encode pipeline has: H.264, H.265 and JPEG (R306). -/
def encodes (format : Nat) : Bool := format == 0 || format == 1 || format == 3

/-- What an enabled encode session of a supported format and size takes next: a decoded frame, or the record that the codec reads. One
that cannot be read waits (DESIGN CHOICE). -/
def encodeInput (x : Answered) (n : Nat) (s : State) : Option EncodeItem × State :=
  let c := sesReg s n 0x400
  if !(bit c 0 && bit c 1) || !bit (features s.fuses.variant pgCodec) 1 || !encodes (fld c 4 2) || !sesSizeFits s n then (none, s)
  else if bit c 24 then
    let e := fld (sesReg s n 0x408) 28 20
    ((frameToEncode s e n).map fun f => { session := Fin.ofNat 16 n, fromStream := some (Fin.ofNat 512 e, f.number), record := none }, s)
  else match sesRecord s n with
    | none => (none, s)
    | some a => match devGet pgCodec .codec a 32 x s with
      | (.error _, s) => (none, s)
      | (.ok bs, s) => (some { session := Fin.ofNat 16 n, fromStream := none, record := some (a, bs) }, s)

/-- The first of some sessions, in turn, that has something to encode. -/
def encodeNext (x : Answered) : List Nat → State → Option EncodeItem × State
  | [], s => (none, s)
  | n :: ns, s => match encodeInput x n s with
    | (some i, s) => (some i, s)
    | (none, s) => encodeNext x ns s

/-- The encode pipeline serves enabled sessions in turn. -/
def encodeStart (x : Answered) (s : State) : State :=
  if s.media.encoding.isSome || !(getHdr s pgCodec).enable || !domOn s 17 then s
  else match encodeNext x ((List.range 16).map fun i => (s.media.lastEncoded + 1 + i) % 16) s with
    | (some i, s) => modMedia (fun m => { m with encoding := some i, lastEncoded := i.session }) s
    | (none, s) => s

/-- The source of an encode is done with: its record, or the buffer that it held, which is released once no other session holds it
(R310, R311). -/
def encodeRelease (i : EncodeItem) (s : State) : State :=
  match i.fromStream with
  | some (e, number) =>
    match (getEnt s e).frames.find? (·.number == number) with
    | some f =>
      let s := modFrame e number (fun x => { x with holders := x.holders &&& ~~~(oneBit 16 i.session) }) s
      if bit (heldBufs s e) f.buf.toNat || !bit f.holders i.session then s
      else setEntReg e 0x4C (entReg s e 0x4C ||| oneBit 32 f.buf.toNat) s
    | none => s
  | none =>
    match i.record with
    | none => s
    | some (a, bs) =>
      let s := devPut pgCodec .codec (a + 0x0C) (bytesOf 4 (wordAt bs 12 ||| 0x80000000).toNat) s
      let p := sesReg s i.session 0x414
      setReg pgCodec i.session 0x414 (mix 0x1F00 p (at_ 8 ((fld p 12 8 + 1) % 32))) s

/-- ENCODE_DONE: the frame goes to the output ring, or is skipped when the ring lacks room (R310). -/
def encodeDone (key : Bool) (bits : List Byte) (s : State) : State :=
  if !domOn s 17 then s
  else match s.media.encoding with
  | none => s
  | some i =>
    let n := i.session.val
    let s := modMedia (fun m => { m with encoding := none }) s
    let (tag, stamp, force) : Nat × Nat × Bool := match i.fromStream with
      | some (e, number) => (0, ((getEnt s e).frames.find? (·.number == number)).elim 0 (·.arrive), false)
      | none => match i.record with
        | some (_, bs) => ((wordAt bs 28).toNat, (wordAt bs 16).toNat, bit (wordAt bs 12) 0)
        | none => (0, 0, false)
    let key := key || force || bit s.media.forceKey n
    let len := (sesReg s n 0x420).toNat
    let wr := (sesReg s n 0x424).toNat
    let rd := (sesReg s n 0x428).toNat
    let size := 16 + cdiv bits.length 16 * 16
    if len = 0 ∨ len ≤ (wr + len - rd % len) % len + size then
      let s := modMedia (fun m => { m with forceKey := m.forceKey ||| oneBit 16 n }) s
      raise pgCodec 3 (countWrap pgCodec 0 0x04C (encodeRelease i s))
    else
      let out := bytesOf 4 bits.length ++ bytesOf 4 key.toNat ++ bytesOf 4 tag ++ bytesOf 4 stamp ++ bits
        ++ List.replicate (size - 16 - bits.length) 0
      let s := ringPut pgCodec .codec (sesAddr s n 0x418) len wr out s
      let s := setReg pgCodec n 0x424 (BitVec.ofNat 32 ((wr + size) % len)) s
      let s := modMedia (fun m => { m with forceKey := m.forceKey &&& ~~~(oneBit 16 n) }) s
      raise pgCodec 1 (countWrap pgCodec 0 0x048 (encodeRelease i s))

/-- A write of SES_CTRL (R310, R331): DIR = 1 is ABSENT_UNIT without encode, and FORMAT for sessions 16 to 31. -/
def sesCtrlRefusal (s : State) (n : Nat) (v : Word) : Option Byte :=
  if !bit v 1 then none
  else if !bit (features s.fuses.variant pgCodec) 1 then some eAbsent
  else if 16 ≤ n then some eFormat
  else none

end Sys2Proof.Machine
end

