-- ==== Sys2Proof/Machine/Admission.lean ====
section
/-! DEFINITION. The admission test (R43, R46 to R54): guaranteed rates, the loads of the cores, placement, and the search for a
floor. Quotients are kept as exact fractions. -/

namespace Sys2Proof.Machine

/-- A non-negative fraction: numerator and denominator. -/
abbrev Frac := Nat × Nat

def Frac.add (a b : Frac) : Frac := (a.1 * b.2 + b.1 * a.2, a.2 * b.2)

/-- a ≤ n for a whole n. -/
def Frac.le (a : Frac) (n : Nat) : Bool := decide (a.1 ≤ n * a.2)

def Frac.lt (a b : Frac) : Bool := decide (a.1 * b.2 < b.1 * a.2)

/-- A fraction rounded up. -/
def Frac.ceil (a : Frac) : Nat := cdiv a.1 a.2

/-! ### Guaranteed step rates (R46, R47) -/

/-- Interpolation between fused points on the 5 mV grid (R46). -/
def interpolate (g : Nat → Nat) (v : Nat) : Nat :=
  let i := (v - 500) / 50
  if 7 ≤ i then g 7 else g i + (g (i + 1) - g i) * (v - 500 - 50 * i) / 50

/-- The fused rate of core n at point i. -/
def gsrFuse (s : State) (n i : Nat) : Nat :=
  (storeGet (fun k => BitVec.ofNat 16 (Config.minGsr.getD (k % 8) 0)) s.fuses.gsr (8 * n + i)).toNat

def gsr (s : State) (n v : Nat) : Nat := interpolate (gsrFuse s n) v

/-- The minimum rate of R47 at a voltage. -/
def gsrMin (v : Nat) : Nat := interpolate (fun i => Config.minGsr.getD i 0) v

/-! ### Class values (R43) -/

/-- D' = D − DEC_US. -/
def ClassVals.dPrime (v : ClassVals) : Nat := v.deadline.toNat - v.decUs.toNat

/-- C / min(T, D'). -/
def ClassVals.demand (v : ClassVals) : Frac := (v.cost.toNat, min v.period.toNat v.dPrime)

/-- A decoded class (R43). -/
def ClassVals.decodes (v : ClassVals) : Bool := v.decPix != 0

/-- The ranges and pairings whose breach is BAD_CLASS (R43). `kind` is the KIND of the class's stream entry. -/
def ClassVals.bad (v : ClassVals) (kind : Bool) : Bool :=
  let t := v.period.toNat
  let d := v.deadline.toNat
  let u := v.decUs.toNat
  let sp := v.spread.toNat
  let sm := v.stepMax.toNat
  decide (sp < 1 ∨ 6 < sp ∨ v.cost.toNat < 1 ∨ sm < 1 ∨ 69000 < sm ∨ t < 500 ∨ 60000000 < t ∨ d < 500 ∨ 1000000 < d)
    || decide (v.cost.toNat < 3 * sm ∨ d ≤ u) || decide (u ≠ 0 ∧ u < 500)
    || (if v.decodes then !v.link || kind || decide (u < 500) else decide (u ≠ 0))

def classBad (s : State) (v : ClassVals) : Bool := v.bad (bit (entReg s v.stream.toNat 0) 1)

/-! ### Placements -/

/-- Share i of class k on a core. -/
structure Placed where
  cls : Nat
  share : Nat
  core : Nat
  vals : ClassVals
  deriving DecidableEq, Repr

/-- The shares that accepted and revoking classes hold (R54, R67). -/
def placedNow (s : State) : List Placed :=
  (List.range 64).flatMap fun k =>
    let c := getClass s k
    if c.st = .accepted ∨ c.st = .revoking then
      (List.range 6).filterMap fun i => (storeGet (fun _ => none) c.cores i).map fun n => ⟨k, i, n.val, c.vals⟩
    else []

/-- The largest STEPMAX and the smallest D' on a core. -/
def stepMaxOn (ps : List Placed) (n : Nat) : Nat := (ps.filter (·.core == n)).foldl (fun m p => max m p.vals.stepMax.toNat) 0
def dMinOn (ps : List Placed) (n : Nat) : Nat := (ps.filter (·.core == n)).foldl (fun m p => min m p.vals.dPrime) (2 ^ 32)

/-- The left side of R49 on a core: the demands, and the blocking term STEPMAX_max / D_min. -/
def leftSide (ps : List Placed) (n : Nat) : Frac :=
  let mine := ps.filter (·.core == n)
  if mine.isEmpty then (0, 1)
  else Frac.add (mine.foldl (fun f p => Frac.add f p.vals.demand) (0, 1)) (stepMaxOn ps n, dMinOn ps n)

/-- A core on which shares may be placed (R50): present, unfenced, ON. -/
def coreUsable (s : State) (n : Nat) : Bool := corePresent s n && !fenced s n && domOn s (domOfCore n) && !(dom s (domOfCore n)).moving

/-- Shares in the order of R50: demand descending, then class, then share. -/
def shareOrder (l : List (Nat × Nat × ClassVals)) : List (Nat × Nat × ClassVals) :=
  let before (a b : Nat × Nat × ClassVals) : Bool :=
    Frac.lt b.2.2.demand a.2.2.demand ||
      (!Frac.lt a.2.2.demand b.2.2.demand && decide (a.1 < b.1 ∨ (a.1 = b.1 ∧ a.2.1 ≤ b.2.1)))
  l.foldr (fun x acc => acc.takeWhile (fun y => !before x y) ++ x :: acc.dropWhile (fun y => !before x y)) []

/-- What became of a placement: the shares, the first that fits nowhere (R49), the first that fits only outside the reserve
bound (R54). -/
structure Placing where
  placed : List Placed
  noCore : Option Nat := none
  outBound : Option Nat := none
  unplaced : List (Nat × Nat × ClassVals) := []
  deriving DecidableEq, Repr

/-- First-fit placement at v, with a reserve that bounds the cores' left sides and is not eligible (R50, R54). -/
def placeShares (s : State) (v : Nat) (reserve : Option Nat) (shares : List (Nat × Nat × ClassVals)) (start : List Placed) : Placing :=
  shares.foldl (fun pl (k, i, vals) =>
    let cand := (List.range 6).filter fun n =>
      coreUsable s n && !(reserve == some n) && !pl.placed.any (fun p => p.cls == k && p.core == n)
    let left (n : Nat) : Frac := leftSide (pl.placed ++ [⟨k, i, n, vals⟩]) n
    let fits (n : Nat) : Bool := (left n).le (gsr s n v)
    let bound (n : Nat) : Bool := match reserve with
      | some r => (left n).le (gsr s r v)
      | none => true
    match cand.find? fun n => fits n && bound n with
    | some n => { pl with placed := pl.placed ++ [⟨k, i, n, vals⟩] }
    | none => match cand.find? fits with
      | some n => { pl with placed := pl.placed ++ [⟨k, i, n, vals⟩], outBound := pl.outBound.orElse fun _ => some k }
      | none => { pl with noCore := pl.noCore.orElse fun _ => some k, unplaced := pl.unplaced ++ [(k, i, vals)] }) { placed := start }

/-! ### The device-wide tests (R51 to R54) -/

/-- STEPMAX ≤ 50 × gsr(v) on a share's core (R51). -/
def stepOk (s : State) (v : Nat) (p : Placed) : Bool := decide (p.vals.stepMax.toNat ≤ 50 * gsr s p.core v)

/-- The sum of DRAM / T (R52). -/
def dramSum (vs : List ClassVals) : Frac := vs.foldl (fun f v => Frac.add f (v.dram.toNat, v.period.toNat)) (0, 1)

/-- A class's frame in pixels (R53). -/
def frameOf (s : State) (v : ClassVals) : Nat := cdiv v.decPix.toNat (fld (entReg s v.stream.toNat 0) 23 20 + 1)

/-- The left side of R53, in pixels/µs; `none` when no decoded class exists. -/
def codecSum (s : State) (vs : List ClassVals) : Option Frac :=
  let ds := vs.filter (·.decodes)
  if ds.isEmpty then none
  else
    let pmax := ds.foldl (fun m v => max m (frameOf s v)) 0
    let dmin := ds.foldl (fun m v => min m v.decUs.toNat) 65535
    some (Frac.add (ds.foldl (fun f v => Frac.add f (v.decPix.toNat, v.period.toNat)) (0, 1)) (pmax, dmin))

/-- Left side ≤ 3.06 × gsr_min(v) (R53). -/
def codecOk (s : State) (v : Nat) (vs : List ClassVals) : Bool :=
  match codecSum s vs with
  | some f => decide (100 * f.1 ≤ 306 * gsrMin v * f.2)
  | none => true

/-- The slack rule D' ≥ C / gsr(v) + 2 × S_max on a share's core (R54). -/
def slackOk (s : State) (v : Nat) (ps : List Placed) (p : Placed) : Bool :=
  decide (p.vals.cost.toNat + 2 * stepMaxOn ps p.core ≤ p.vals.dPrime * gsr s p.core v)

/-- The reserve bound (R54). -/
def boundOk (s : State) (v : Nat) (r : Nat) (ps : List Placed) : Bool :=
  (List.range 6).all fun n => (leftSide ps n).le (gsr s r v)

/-- The reserve rule for candidate `r` and the shares as placed. -/
def reserveRule (s : State) (v r : Nat) (ps : List Placed) : Bool := boundOk s v r ps && ps.all (slackOk s v ps)

/-- The candidates for reserve: unplaced eligible cores, in descending fused GSR at 0.75 V, ties to the higher index (R54). -/
def reserveCandidates (s : State) (ps : List Placed) : List Nat :=
  let cs := (List.range 6).filter fun n => coreUsable s n && !ps.any (·.core == n)
  let before (a b : Nat) : Bool := decide (gsr s b 750 < gsr s a 750) || (gsr s a 750 == gsr s b 750 && decide (b < a))
  cs.foldr (fun x acc => acc.takeWhile (fun y => !before x y) ++ x :: acc.dropWhile (fun y => !before x y)) []

/-- Classes that count device-wide: ACCEPTED, REVOKING and SHED. -/
def standingVals (s : State) : List ClassVals :=
  (List.range 64).filterMap fun k =>
    let c := getClass s k
    if c.st = .accepted ∨ c.st = .revoking ∨ c.st = .shed then some c.vals else none

/-! ### The pass (R48) -/

def rOverCore : Byte := 0x11
def rOverStep : Byte := 0x12
def rOverDram : Byte := 0x13
def rOverCodec : Byte := 0x14
def rNoReserve : Byte := 0x15
def rRailTimeout : Byte := 0x16
def rThermal : Byte := 0x17
def rBadClass : Byte := 0x18
def rNothing : Byte := 0x19
def rActivating : Byte := 0x1A
def eCmdFull : Byte := 0x10

/-- The outcome of a candidate floor: the placement, or the failing test and class. -/
inductive PassResult where
  | ok (ps : List Placed) (reserve : Option Nat)
  | fail (code : Byte) (cls : Nat)
  deriving DecidableEq, Repr

/-- Whether the reserve rule applies: `CFG.RESERVE` as committed (R54). -/
def reserveOn (s : State) : Bool := bit (getReg s pgPacer 0 0x040) 0

/-- One candidate floor with one choice of reserve. The tests are reported in the order R49, R51, R52, R53, R54 (R48). -/
def passAt (s : State) (set : List (Nat × ClassVals)) (v : Nat) (reserve : Option Nat) : PassResult :=
  let low := set.foldl (fun m c => min m c.1) 63
  let shares := shareOrder (set.flatMap fun c => (List.range c.2.spread.toNat).map fun i => (c.1, i, c.2))
  let pl := placeShares s v reserve shares (placedNow s)
  let inOrder := shares.filterMap fun (k, i, _) => pl.placed.find? fun p => p.cls == k && p.share == i
  match pl.noCore with
  | some k => .fail rOverCore k
  | none => match (inOrder ++ pl.placed).find? fun p => !stepOk s v p with
    | some p => .fail rOverStep p.cls
    | none =>
      let set' := set.map (·.2)
      let others := (List.range 64).filterMap fun k =>
        let c := getClass s k
        if (c.st = .accepted ∨ c.st = .revoking ∨ c.st = .shed) ∧ set.any (·.1 == k) = false then some c.vals else none
      if !(dramSum (others ++ set')).le Config.dramLimit then .fail rOverDram low
      else if !codecOk s v (others ++ set') then .fail rOverCodec low
      else if !reserveOn s then .ok pl.placed none
      else match pl.outBound with
        | some k => .fail rNoReserve k
        | none => match (List.range 64).find? fun k => pl.placed.any fun p => p.cls == k && !slackOk s v pl.placed p with
          | some k => .fail rNoReserve k
          | none => match reserve with
            | some r => if boundOk s v r pl.placed then .ok pl.placed (some r) else .fail rNoReserve low
            | none => .fail rNoReserve low

/-- One candidate floor: the reserve already named, or each candidate in turn (R54). Where every candidate fails, with different
tests or classes, the first candidate's failure is the floor's: R48 does not say which (DESIGN CHOICE). -/
def passFloor (s : State) (set : List (Nat × ClassVals)) (v : Nat) : PassResult :=
  if !reserveOn s then passAt s set v none
  else match s.pacer.reserve with
    | some r => passAt s set v (some r.val)
    | none =>
      let tries := (reserveCandidates s (placedNow s)).map fun r => passAt s set v (some r)
      match tries.find? (fun t => match t with | .ok _ _ => true | .fail _ _ => false) with
      | some t => t
      | none => tries.headD (passAt s set v none)

/-- The search over floors in ascending 5 mV steps, from the present floor to 850 mV (R48). -/
def admitPass (s : State) (set : List (Nat × ClassVals)) : Nat × PassResult :=
  let rec go : Nat → Nat → Nat × PassResult
    | 0, v => (v, passFloor s set v)
    | n + 1, v =>
      match passFloor s set v with
      | .ok ps r => (v, .ok ps r)
      | .fail c k => if 850 ≤ v then (v, .fail c k) else go n (v + 5)
  go 70 s.pacer.floor

/-- Every test for the load as it is placed, at floor v (R58). -/
def loadFits (s : State) (v : Nat) : Bool :=
  let ps := placedNow s
  let vs := standingVals s
  (List.range 6).all (fun n => (leftSide ps n).le (gsr s n v)) && ps.all (stepOk s v)
    && (dramSum vs).le Config.dramLimit && codecOk s v vs
    && (match (reserveOn s, s.pacer.reserve) with
      | (true, some r) => reserveRule s v r ps
      | _ => true)

/-- The lowest floor, at or below the present one, at which every test passes (R58). -/
def lowestFloor (s : State) : Option Nat :=
  ((List.range 71).map fun i => 500 + 5 * i).find? fun v => decide (v ≤ s.pacer.floor) && loadFits s v

/-- The core with the lowest load fraction among those given, ties to the lower index (R61, R67). -/
def lowestLoad (s : State) (cs : List Nat) : Option Nat :=
  let ps := placedNow s
  let f (n : Nat) : Frac := let l := leftSide ps n; (l.1, l.2 * max 1 (gsr s n s.pacer.floor))
  cs.foldl (fun best n => match best with
    | none => some n
    | some b => if Frac.lt (f n) (f b) then some n else some b) none

end Sys2Proof.Machine
end

