-- ==== Sys2Proof/Machine/Ctlio.lean ====
section
/-! DEFINITION. Control I/O and the rule engine (R317 to R327, R335, R336), and the pins' drives (R406). -/

namespace Sys2Proof.Machine

/-! ### Pins (R405, R406) -/

def getPin (s : State) (i : Nat) : Pin := storeGet (fun _ => {}) s.pins i

/-- An owner drives a pin: the PD0 latch follows the value (R406). -/
def pinSet (i : Nat) (d : PinDrive) (level : Bool) (s : State) : State :=
  modPins (fun m => storeSet (fun _ => {}) m i { drive := d, latch := level, driven := true }) s

/-- Drive an open-drain output. -/
def outPin (o : Nat) (active : Bool) (s : State) : State := pinSet o (if active then .sink else .hiZ) active s

/-- A register written by its owner with a level. -/
def levelPin (i : Nat) (level : Bool) (s : State) : State := pinSet i (if level then .high else .low) level s

/-! ### Outputs, PWM, UARTs, GPIO -/

/-- Make the outputs of a mask active or inactive; a level action cancels the pending end of a pulse (R317, R323). -/
def outLevel (mask : BitVec 8) (active : Bool) (s : State) : State :=
  let s := (List.range 8).foldl (fun s o => if bit mask o then outPin o active s else s) s
  modCtl (fun c => { c with
    outActive := if active then c.outActive ||| mask else c.outActive &&& ~~~mask
    pulses := (List.range 8).foldl (fun p o => if bit mask o then storeSet (fun _ => none) p o none else p) c.pulses }) s

/-- Pulse the outputs of a mask; a later pulse restarts the time (R323). -/
def outPulse (mask : BitVec 8) (pulseMs : Nat) (s : State) : State :=
  let s := outLevel mask true s
  let due := now s + pulseMs * Config.ms
  modCtl (fun c => { c with
    pulses := (List.range 8).foldl (fun p o => if bit mask o then storeSet (fun _ => none) p o (some due) else p) c.pulses }) s

/-- A pulse ends. -/
def pulseEnd (o : Nat) (s : State) : State :=
  match storeGet (fun _ => none) s.ctlio.pulses o with
  | some t => if now s < t then s else outLevel (oneBit 8 o) false s
  | none => s

/-- A write of PWMp_CFG: a setting above 100 kHz is discarded and records FORMAT (R318). -/
def pwmCfgWrite (r : Requester) (p : Nat) (v : Word) (s : State) : State :=
  if (fld v 9 0 + 1) * (fld v 31 16 + 1) < 250 then regErr pgCtlio (0x080 + 4 * p) r eFormat s
  else setReg pgCtlio 0 (0x080 + 4 * p) (v &&& 0xFFFF83FF) s

/-- CFG and DUTY apply at the period boundary (R318). An output that runs drives its pin, which toggles
unless DUTY is 0 or more than PERIOD; one that stops drives low. -/
def pwmBoundary (p : Nat) (s : State) : State :=
  let cfg := getReg s pgCtlio 0 (0x080 + 4 * p)
  let duty := (getReg s pgCtlio 0 (0x090 + 4 * p)).setWidth 16
  let s := modCtl (fun c => { c with pwm := storeSet (fun _ => {}) c.pwm p { cfg := cfg, duty := duty } }) s
  let d : PinDrive := if duty = 0 then .low else if fld cfg 31 16 < duty.toNat then .high else .pwm
  if bit cfg 15 then pinSet (8 + p) d (decide (fld cfg 31 16 < duty.toNat)) s
  else if (getPin s (8 + p)).driven then levelPin (8 + p) false s else s

def getUart (s : State) (u : Nat) : UartSt := storeGet (fun _ => {}) s.ctlio.uart u

def modUart (u : Nat) (f : UartSt → UartSt) (s : State) : State :=
  modCtl (fun c => { c with uart := storeMod (fun _ => {}) c.uart u f }) s

def uartCfg (s : State) (u : Nat) : Word := getReg s pgCtlio 0 (0x0C0 + 0x10 * u)

/-- A write of UARTu_CFG: DIV from 134 (R319). -/
def uartCfgWrite (r : Requester) (u : Nat) (v : Word) (s : State) : State :=
  if fld v 19 0 < 134 then regErr pgCtlio (0x0C0 + 0x10 * u) r eFormat s
  else levelPin (20 + 2 * u) true (setReg pgCtlio 0 (0x0C0 + 0x10 * u) (v &&& 0x3FFFFFFF) s)

/-- `n` bit times of a UART in nanoseconds: a bit takes DIV periods of 400 MHz (R319). -/
def bitTimes (cfg : Word) (n : Nat) : Nat := n * fld cfg 19 0 * 5 / 2

/-- The bits of a byte on the line: start, data, parity and stop bits. -/
def uartFrame (cfg : Word) : Nat :=
  1 + (if bit cfg 20 then 7 else 8) + (if fld cfg 22 21 = 0 then 0 else 1) + (if bit cfg 23 then 2 else 1)

/-- The direction pin of a UART is driven at an instant: bytes wait or are sent, or TRAIL has yet to pass (R319). -/
def uartDrives (s : State) (u : Nat) : Bool :=
  let x := getUart s u
  bit (uartCfg s u) 24 && (!x.tx.isEmpty || x.deUntil.any fun t => decide (now s < t))

/-- The direction pin follows (R319). -/
def uartDirection (u : Nat) (s : State) : State :=
  if bit (uartCfg s u) 24 then levelPin (21 + 2 * u) (uartDrives s u) s else s

/-- The instant at which TRAIL ends has come: the direction pin is no longer driven (R319). -/
def uartTrail (u : Nat) (s : State) : State :=
  if (getUart s u).deUntil.any fun t => decide (t ≤ now s) then
    uartDirection u (modUart u (fun x => { x with deUntil := none }) s)
  else s

/-- The parity bit of a byte: PAR 1 even, 2 odd. -/
def parityBit (par : Nat) (b : Byte) : Option Bool :=
  let odd := ((List.range 8).filter fun i => bit b i).length % 2 == 1
  if par = 1 then some odd else if par = 2 then some !odd else none

/-- A write of UARTu_DATA queues a byte; a byte for a full FIFO is lost. The first byte's start bit follows LEAD bit times after the
direction pin is driven (R319). -/
def uartDataWrite (u : Nat) (b : Byte) (s : State) : State :=
  let cfg := uartCfg s u
  if 64 ≤ (getUart s u).tx.length then s
  else
    let start := if bit cfg 24 && !uartDrives s u then now s + bitTimes cfg (fld cfg 27 26) else now s
    uartDirection u (modUart u (fun x => { x with tx := x.tx ++ [b], lineAt := if x.tx.isEmpty then max x.lineAt start else x.lineAt }) s)

/-- A read of UARTu_DATA pops a byte; VALID says that there was one. -/
def uartDataRead (u : Nat) (s : State) : Word × State :=
  match (getUart s u).rx with
  | [] => (0, s)
  | b :: bs => (flag 31 true ||| b.setWidth 32, modUart u (fun x => { x with rx := bs }) s)

/-- A UART finishes the byte at the head of its FIFO once its bits have passed: 7 or 8 data bits, parity, stop bits (R319). After the
last one TRAIL begins. -/
def uartSend (u : Nat) (s : State) : State :=
  let cfg := uartCfg s u
  let x := getUart s u
  match x.tx with
  | [] => s
  | b :: bs =>
    if now s < x.lineAt + bitTimes cfg (uartFrame cfg) then s
    else
      let b : Byte := if bit cfg 20 then b &&& 0x7F else b
      let s := modUart u (fun x => { x with tx := bs, lineAt := now s
                                            deUntil := if bs.isEmpty then some (now s + bitTimes cfg (fld cfg 29 28)) else none }) s
      uartTrail u (uartDirection u (send (.uartByte (Fin.ofNat 2 u) b (parityBit (fld cfg 22 21) b) (if bit cfg 23 then 2 else 1)) s))

/-- A UART receives a byte (R319): ignored while it drives the line with ECHO_OFF; an overrun is flagged. -/
def uartReceive (u : Nat) (b : Byte) (perr ferr : Bool) (s : State) : State :=
  let cfg := uartCfg s u
  let x := getUart s u
  if bit cfg 25 && uartDrives s u then s
  else
    let b : Byte := if bit cfg 20 then b &&& 0x7F else b
    let full := decide (64 ≤ x.rx.length)
    raise pgCtlio (3 + u) (modUart u (fun x => { x with
      rx := if full then x.rx else x.rx ++ [b]
      ovr := x.ovr || full, perr := x.perr || (perr && decide (fld cfg 22 21 ≠ 0)), ferr := x.ferr || ferr }) s)

/-- The level of the GPIO pins: an input's pin level, an output's own value. -/
def gpioLevel (s : State) : BitVec 8 :=
  let g := getReg s pgCtlio 0 0x064
  mix (g.setWidth 8) s.ctlio.gpioIn ((g >>> 8).setWidth 8)

/-! ### Level conditions (R321) -/

def timerReg (s : State) (t : Nat) : Word := getReg s pgCtlio 0 (0x0A0 + 4 * t)

def timerDue (s : State) (t : Nat) : Option Nat := (storeGet (fun _ => {}) s.ctlio.timers t).due

/-- The momentary condition types. -/
def momentary (type : Nat) : Bool := decide (3 ≤ type ∧ type ≤ 6)

/-- Whether a level condition is true. -/
def condLevel (s : State) (cond : Word) : Bool :=
  let sel := fld cond 9 4
  match fld cond 3 0 with
  | 1 => bit s.ctlio.inLevel sel
  | 2 => decide (sel < 16) && !bit s.ctlio.inLevel sel
  | 7 => decide (sel < 8) && bit (timerReg s sel) 24 && (timerDue s sel).isSome
  | 8 => bit (gpioLevel s) sel
  | 9 => decide (sel < 8) && !bit (gpioLevel s) sel
  | _ => false

/-- Conditions are about to change: each rule under COMB 4 whose condition A is a level and true has had it true up to now (R322). -/
def levelStamp (s : State) : State :=
  let held (n : Nat) : Bool :=
    let ctrl := getReg s pgCtlio n 0x400
    bit ctrl 0 && fld ctrl 3 1 == 4 && condLevel s (getReg s pgCtlio n 0x404)
  let stamp (h : Store RuleHold) (n : Nat) : Store RuleHold :=
    if held n then storeMod (fun _ => {}) h n (fun x => { x with aAt := some (now s) }) else h
  modCtl (fun c => { c with hold := (List.range 64).foldl stamp c.hold }) s

/-- A condition of the rules has changed: a pass is due (R325). -/
def condChange (s : State) : State := modCtl (fun c => { c with passDue := true }) s

/-! ### GPIO (R319) -/

def gpioPin (i : Nat) (level : Bool) (s : State) : State :=
  condChange (modCtl (fun c => { c with gpioIn := mix (oneBit 8 i) c.gpioIn (if level then 0xFF else 0) }) (levelStamp s))

/-- A write of GPIO: DIR and OUT (R319, R335). -/
def gpioWrite (v : Word) (s : State) : State :=
  let old := getReg s pgCtlio 0 0x064
  let s := setReg pgCtlio 0 0x064 (v &&& 0xFFFF) (levelStamp s)
  let s := (List.range 8).foldl (fun s i =>
    if bit v i then levelPin (12 + i) (bit v (8 + i)) s
    else if bit old i then pinSet (12 + i) .hiZ (bit old (8 + i)) s else s) s
  condChange s

/-! ### Inputs (R317) -/

/-- A pin takes a level: debouncing starts when it differs from the debounced level. -/
def inputPin (i : Nat) (level : Bool) (s : State) : State :=
  if bit s.ctlio.inPin i = level then s
  else modCtl (fun c => { c with
    inPin := mix (oneBit 16 i) c.inPin (if level then 0xFFFF else 0)
    changeAt := storeSet (fun _ => none) c.changeAt i (if bit c.inLevel i = level then none else some (now s)) }) s

/-- The debounce time of an input, in nanoseconds. -/
def debounceNs (s : State) (i : Nat) : Nat :=
  max 1 (fld (getReg s pgCtlio 0 (0x048 + 4 * (i / 4))) (8 * (i % 4) + 7) (8 * (i % 4))) * Config.ms

/-- A pin has held a new level for the debounce time: the instant is its edge. -/
def debounced (i : Nat) (s : State) : State :=
  match storeGet (fun _ => none) s.ctlio.changeAt i with
  | none => s
  | some t =>
    if now s < t + debounceNs s i then s
    else
      let level := bit s.ctlio.inPin i
      let s := levelStamp s
      let s := modCtl (fun c => { c with
        inLevel := mix (oneBit 16 i) c.inLevel (if level then 0xFFFF else 0)
        changeAt := storeSet (fun _ => none) c.changeAt i none
        rises := if level then c.rises ||| oneBit 16 i else c.rises
        falls := if level then c.falls else c.falls ||| oneBit 16 i }) s
      let s := modReg pgCtlio 0 0x044 (· ||| oneBit 32 (if level then i else 16 + i)) s
      condChange (raise pgCtlio 1 s)

/-! ### Events (R320) -/

/-- An event enters the queue, or is lost when 64 wait. -/
def postEvent (code : BitVec 16) (req : Byte) (s : State) : State :=
  if s.ctlio.events.length < Config.eventQueue then
    modCtl (fun c => { c with events := c.events ++ [{ code := code, req := req }], passDue := true }) s
  else raise pgCtlio 2 (countSat pgCtlio 0 0x070 s)

/-! ### Timers (R321) -/

def setTimer (t : Nat) (due : Option Nat) (s : State) : State :=
  modCtl (fun c => { c with timers := storeSet (fun _ => {}) c.timers t { due := due } }) s

def timerPeriod (s : State) (t : Nat) : Nat := fld (timerReg s t) 23 0 * Config.ms

/-- A timer's register is committed: a periodic timer counts from EN; a one-shot waits for its rule (R321). -/
def timerCommit (t : Nat) (s : State) : State :=
  let v := timerReg s t
  let s := levelStamp s
  setTimer t (if bit v 31 && !bit v 24 then some (now s + timerPeriod s t) else none) s

/-- A timer expires. -/
def timerExpire (t : Nat) (s : State) : State :=
  match timerDue s t with
  | none => s
  | some d =>
    if now s < d then s
    else
      let s := levelStamp s
      let s := setTimer t (if bit (timerReg s t) 24 then none else some (d + timerPeriod s t)) s
      condChange (modCtl (fun c => { c with expiries := c.expiries ||| oneBit 8 t }) s)

/-- One-shot timers started by a rule. -/
def timersStart (rule : Nat) (s : State) : State :=
  (List.range 8).foldl (fun s t =>
    let v := timerReg s t
    if bit v 31 && bit v 24 && fld v 30 25 == rule then setTimer t (some (now s + timerPeriod s t)) s else s) s

/-! ### Templates (R324) -/

/-- The ones' complement sum of big-endian 16-bit words. -/
def onesSum : List Byte → Nat
  | [] => 0
  | [a] => a.toNat * 256
  | a :: b :: bs => a.toNat * 256 + b.toNat + onesSum bs

/-- The internet checksum of a sum. -/
def foldSum (n : Nat) : Nat :=
  let n := n % 65536 + n / 65536
  let n := n % 65536 + n / 65536
  65535 - (n % 65536 + n / 65536)

/-- Big-endian bytes of a number. -/
def beBytes (n v : Nat) : List Byte := (bytesOf n v).reverse

/-- Replace bytes of a frame at an offset, as far as they lie within it. -/
def patchAt (f : List Byte) (off : Nat) (bs : List Byte) : List Byte :=
  (f.take off ++ bs ++ f.drop (off + bs.length)).take f.length

def byteAt (f : List Byte) (i : Nat) : Nat := (f.getD i 0).toNat

/-- Recompute the UDP checksum over a pseudo-header (RFC 768, RFC 8200). -/
def udpFix (f : List Byte) (udp : Nat) (addrs : List Byte) : List Byte :=
  let len := byteAt f (udp + 4) * 256 + byteAt f (udp + 5)
  let f := patchAt f (udp + 6) [0, 0]
  let c := foldSum (onesSum addrs + 17 + len + onesSum ((f.drop udp).take len))
  patchAt f (udp + 6) (beBytes 2 (if c = 0 then 65535 else c))

/-- Recompute the IPv4 header checksum and the UDP checksum (R324). -/
def checksums (f : List Byte) : List Byte :=
  let l := if byteAt f 12 = 0x81 ∧ byteAt f 13 = 0 then 18 else 14
  let ty := byteAt f (l - 2) * 256 + byteAt f (l - 1)
  if ty = 0x0800 then
    let ihl := 4 * (byteAt f l % 16)
    let f := patchAt f (l + 10) [0, 0]
    let f := patchAt f (l + 10) (beBytes 2 (foldSum (onesSum ((f.drop l).take ihl))))
    if byteAt f (l + 9) = 17 then udpFix f (l + ihl) ((f.drop (l + 12)).take 8) else f
  else if ty = 0x86DD then
    match v6Udp f 8 (byteAt f (l + 6)) (l + 40) with
    | some u => udpFix f u ((f.drop (l + 8)).take 32)
    | none => f
  else f

/-- The template's frame with the event patched in. -/
def templateFrame (s : State) (t : Nat) (code req : BitVec 16) : List Byte :=
  let cfg := getReg s pgCtlio t 0x420
  let f := ((List.range 64).flatMap fun i => bytesOf 4 (getReg s pgCtlio t (0x500 + 4 * i)).toNat).take (fld cfg 8 0)
  let off := fld cfg 23 16
  if off = 0 then f
  else checksums (patchAt f off (beBytes 2 code.toNat ++ beBytes 2 req.toNat ++ beBytes 8 (now s)))

/-- Whether an Ethernet port exists and has a link. -/
def portUp (s : State) (p : Nat) : Bool := bit (cap0 s.fuses.variant) (13 + p) && bit s.media.link p

/-- Queue a template frame on its port; a frame that cannot go is dropped and counted. The event's code is unstated where no
event fired the rule. -/
def templateSend (t : Nat) (ev : Option Event) (s : State) : State :=
  let port := if bit (getReg s pgCtlio t 0x420) 9 then 1 else 0
  let q := storeGet (fun _ => []) s.ctlio.tplQueue port
  if !portUp s port || decide (8 ≤ q.length) then
    raise pgCtlio 5 (modCtl (fun c => { c with tplDrop := c.tplDrop + 1 }) s)
  else
    let (code, req, s) : BitVec 16 × BitVec 16 × State := match ev with
      | some e => (e.code, e.req.setWidth 16, s)
      | none => let (x, s) := draw 32 s; ((x >>> 16).setWidth 16, x.setWidth 16, s)
    modCtl (fun c => { c with tplQueue := storeSet (fun _ => []) c.tplQueue port (q ++ [templateFrame s t code req]) }) s

/-- A template frame starts on the wire. -/
def templateTx (port : Nat) (s : State) : State :=
  match storeGet (fun _ => []) s.ctlio.tplQueue port with
  | [] => s
  | f :: fs =>
    if portUp s port then
      send (.ethFrame (Fin.ofNat 2 port) f) (modCtl (fun c => { c with tplQueue := storeSet (fun _ => []) c.tplQueue port fs }) s)
    else s

/-! ### Rules (R321 to R325) -/

/-- Whether a condition is true at this instant (R321). -/
def condNow (s : State) (ev : Option Event) (cond evm : Word) : Bool :=
  let sel := fld cond 9 4
  match fld cond 3 0 with
  | 3 => bit s.ctlio.rises sel
  | 4 => bit s.ctlio.falls sel
  | 5 => match ev with
    | some e => (e.code ^^^ evm.setWidth 16) &&& (evm >>> 16).setWidth 16 == 0
    | none => false
  | 6 => bit s.ctlio.expiries sel
  | _ => condLevel s cond

/-- A momentary condition still held from an earlier instant (R322). -/
def heldUntil (s : State) (at? : Option Nat) (winMs : Nat) : Bool :=
  match at? with
  | some t => decide (now s < t + winMs * Config.ms)
  | none => false

/-- Evaluate a rule: whether it fires, and its hold state afterwards (R322). A momentary condition without a window is true only at the
instant: what the combination is at it (`v`) and right after it (`rest`) are two values, and the rule fires on either rise. -/
def ruleEval (s : State) (ev : Option Event) (n : Nat) : Bool × RuleHold :=
  let ctrl := getReg s pgCtlio n 0x400
  let condA := getReg s pgCtlio n 0x404
  let condB := getReg s pgCtlio n 0x408
  let win := fld ctrl 19 4
  let h := storeGet (fun _ => {}) s.ctlio.hold n
  let a := condNow s ev condA (getReg s pgCtlio n 0x40C)
  let b := condNow s ev condB (getReg s pgCtlio n 0x410)
  let mA := momentary (fld condA 3 0)
  let mB := momentary (fld condB 3 0)
  let aAt := if a then some (now s) else h.aAt
  let bAt := if b then some (now s) else h.bAt
  let effA := a || (mA && heldUntil s aAt win)
  let effB := b || (mB && heldUntil s bAt win)
  let restA := if mA then heldUntil s aAt win else a
  let restB := if mB then heldUntil s bAt win else b
  let res (v rest : Bool) : Bool × RuleHold := ((v && !h.prev) || (rest && !v), { aAt := aAt, bAt := bAt, prev := rest })
  if !bit ctrl 0 then (false, {})
  else match fld ctrl 3 1 with
    | 0 => res a (!mA && a)
    | 1 => res (effA && effB) (restA && restB)
    | 2 => res (effA || effB) (restA || restB)
    | 3 => res (effA && !effB) (restA && !restB)
    | 4 => (b && !h.prev && (match aAt with | some t => decide (now s ≤ t + win * Config.ms) | none => false),
        { aAt := aAt, bAt := bAt, prev := !mB && b })
    | _ => (false, h)

/-- Carry out a rule's action (R323), and post the event of its firing (R320), whose code the manual does not give. -/
def ruleFire (n : Nat) (ev : Option Event) (s : State) : State :=
  let a := getReg s pgCtlio n 0x414
  let param := getReg s pgCtlio n 0x418
  let mask : BitVec 8 := a.setWidth 8
  let s := countWrap pgCtlio n 0x41C s
  let s := match fld a 9 8 with
    | 1 => outPulse mask (fld param 15 0) s
    | 2 => outLevel mask true s
    | 3 => outLevel mask false s
    | _ => s
  let s := if bit a 12 then setReg pgCtlio 0 (0x090 + 4 * fld a 11 10) (at_ 0 (fld param 31 16)) s else s
  let s := if bit a 16 then templateSend (fld a 15 13) ev s else s
  let s := if bit a 17 then
      raise pgCtlio 0 (modReg pgCtlio 0 (0x074 + 4 * (n / 32)) (· ||| oneBit 32 (n % 32)) s) else s
  let s := timersStart n s
  let (code, s) := draw 16 s
  postEvent code (Requester.code .ctlio) s

/-- Write an event to the DRAM journal (R320). A record that DRAM refuses, or whose place is outside DRAM, is lost and recorded in the
page (DESIGN CHOICE). -/
def journal (e : Event) (fired : Word) (s : State) : State :=
  let len := (getReg s pgCtlio 0 0x0E8).toNat
  if len = 0 then s
  else
    let wr := (getReg s pgCtlio 0 0x0EC).toNat
    let base := (getAddr s pgCtlio 0 0x0E0).toNat
    let rec_ := bytesOf 4 (e.code.toNat + e.req.toNat * 65536) ++ bytesOf 4 fired.toNat ++ bytesOf 8 (now s)
    let s := if place (base + wr) = .dram then devPut pgCtlio .ctlio (base + wr) rec_ s
      else devFails pgCtlio .ctlio eAddrRange (base + wr) s
    setReg pgCtlio 0 0x0EC (at_ 0 (if len < wr + 32 then 0 else wr + 16)) s

/-- One pass over all 64 rules: evaluated on the conditions of the instant, then fired in ascending rule number (R323, R325).
No pass runs while the block is disabled. -/
def rulePass (s : State) : State :=
  if !(getHdr s pgCtlio).enable || !s.ctlio.passDue then s
  else
    let ev := s.ctlio.events.head?
    let res := (List.range 64).map fun n => (n, ruleEval s ev n)
    let s := modCtl (fun c => { c with
      hold := res.foldl (fun h r => storeSet (fun _ => {}) h r.1 r.2.2) c.hold
      events := c.events.drop 1, rises := 0, falls := 0, expiries := 0
      passDue := decide (1 < c.events.length) }) s
    let fired := (res.filter (·.2.1)).map (·.1)
    let s := match ev with
      | some e => journal e ((fired.filter (· < 32)).foldl (fun w n => w ||| oneBit 32 n) 0) s
      | none => s
    fired.foldl (fun s n => ruleFire n ev s) s

/-- The window of a rule's momentary condition ends (R322). -/
def windowEnd (n : Nat) (condB : Bool) (s : State) : State :=
  let h := storeGet (fun _ => {}) s.ctlio.hold n
  let win := fld (getReg s pgCtlio n 0x400) 19 4
  match if condB then h.bAt else h.aAt with
  | none => s
  | some t =>
    if now s < t + win * Config.ms then s
    else condChange (modCtl (fun c => { c with
      hold := storeSet (fun _ => {}) c.hold n (if condB then { h with bAt := none } else { h with aAt := none }) }) s)

/-- The commit of CTLIO: hold states of changed rules clear, changed timers start anew (R321, R326), and codes that the manual
calls FORMAT are recorded (R321, R322). `changed` holds the keys that the commit changed. -/
def ctlioCommit (r : Byte) (changed : List Nat) (s : State) : State :=
  let s := (List.range 8).foldl (fun s t => if changed.contains (regKey pgCtlio 0 (0x0A0 + 4 * t)) then timerCommit t s else s) s
  (List.range 64).foldl (fun s n =>
    let touched := changed.any fun k => decide (regKey pgCtlio n 0x400 ≤ k) && decide (k < regKey pgCtlio n 0x41C)
    let s := if touched then modCtl (fun c => { c with hold := storeErase c.hold n, passDue := true }) s else s
    let bad := decide (10 ≤ fld (getReg s pgCtlio n 0x404) 3 0) || decide (10 ≤ fld (getReg s pgCtlio n 0x408) 3 0)
      || decide (5 ≤ fld (getReg s pgCtlio n 0x400) 3 1)
    if touched && bad then recordErr pgCtlio r eFormat (regAddr pgCtlio 0x400) s else s) s

end Sys2Proof.Machine
end

