-- ==== Sys2Proof/Machine/Dma.lean ====
section
/-! DEFINITION. The transfer engine's channels (R265 to R293): descriptors and their checks, hand-over, fetch, write-back, and
the channel commands. The movers' data is in Machine/Mover.lean. -/

namespace Sys2Proof.Machine

/-! ### Owners (R269) -/

/-- Channel c belongs to core floor(c / 4) for c < 24, and to MGMT above (R269). -/
def ownerReset (c : Nat) : Byte := if c < 24 then BitVec.ofNat 8 (0x20 + c / 4) else 0

def chanOwner (s : State) (c : Nat) : Byte := storeGet ownerReset s.dma.owners c

def setOwner (c : Nat) (o : Byte) (s : State) : State :=
  modDma (fun d => { d with owners := storeSet ownerReset d.owners c o }) s

/-- The core that owns a channel. -/
def chanCore (s : State) (c : Nat) : Option Nat := coreOf (chanOwner s c)

/-- The requester code of a channel. -/
def chanCode (c : Nat) : Byte := BitVec.ofNat 8 (0x30 + c)

/-! ### Descriptor words (R277) -/

/-- The bits of a set's word that a register write keeps: the others are reserved (R31, R277). -/
def dwMask (i : Nat) : Word :=
  match i with
  | 0 => 0xFFFFFFF0
  | 5 | 11 => 0xFF
  | 6 => 0xFFFFFF
  | _ => 0xFFFFFFFF

/-- A word of a set. -/
def dw (m : Store Word) (i : Nat) : Word := storeGet (fun _ => 0) m i

def dMode (m : Store Word) : Nat := fld (dw m 0) 27 24
def dSrcW (m : Store Word) : Nat := fld (dw m 0) 23 20
def dDstW (m : Store Word) : Nat := fld (dw m 0) 19 16
def dPlanes (m : Store Word) : Nat := fld (dw m 0) 15 8 + 1
def dElem (m : Store Word) : Nat := fld (dw m 0) 7 4
def dOwn (m : Store Word) : Bool := bit (dw m 0) 31
def dBarrier (m : Store Word) : Bool := bit (dw m 0) 30
def dIrq (m : Store Word) : Bool := bit (dw m 0) 29
def dLast (m : Store Word) : Bool := bit (dw m 0) 28
def dLen (m : Store Word) : Nat := (dw m 1).toNat
def dRows (m : Store Word) : Nat := fld (dw m 6) 23 0
def dSrcStride (m : Store Word) : Nat := (dw m 7).toNat
def dDstStride (m : Store Word) : Nat := (dw m 8).toNat
def dPlaneStride (m : Store Word) : Nat := (dw m 9).toNat
def dNext (m : Store Word) : Addr := addrOf (dw m 11) (dw m 10)

/-- The element size E of modes 2 to 6 and 9. -/
def dE (m : Store Word) : Nat := 2 ^ dElem m

/-- Source and destination addresses with the self alias resolved for the owner's window (R270). -/
def dSrc (own : Option Nat) (m : Store Word) : Nat := unalias own (addrOf (dw m 3) (dw m 2)).toNat
def dDst (own : Option Nat) (m : Store Word) : Nat := unalias own (addrOf (dw m 5) (dw m 4)).toNat

/-! ### Geometry of each mode (R280, R281, R283) -/

/-- Pixels in a row of modes 2, 3 and 9. -/
def dPixels (m : Store Word) : Nat := dLen m / (dPlanes m * dE m)

/-- Elements in a row of modes 4 and 5. -/
def dElems (m : Store Word) : Nat := dLen m / dE m

/-- Blocks across and down a plane, and the bytes of a block's data, in modes 7 and 8 (R225). -/
def fmcBx (m : Store Word) : Nat := cdiv (dLen m) 8
def fmcBy (m : Store Word) : Nat := cdiv (dRows m) 8
def fmc26 (m : Store Word) : Bool := bit (dw m 0) 4
def fmcPl128 (m : Store Word) : Bool := bit (dw m 0) 5
def fmcDb (m : Store Word) : Nat := if fmc26 m then 24 else 32
def fmcBlocks (m : Store Word) : Nat := fmcBx m * fmcBy m * dPlanes m

/-- The byte of PL128 plane `plane` of pixel (y, x) of a map based at `base` with `cp` planes and `segs` segments (R209). -/
def pl128Addr (base segs cp y x plane : Nat) : Nat := base + ((y * segs + x / 128) * cp + plane) * 128 + x % 128

/-- The address of an element of the uncompressed side of modes 7 and 8. -/
def fmcElem (m : Store Word) (base stride c y x : Nat) : Nat :=
  if fmcPl128 m then pl128Addr base (cdiv (dLen m) 128) (dPlaneStride m) y x c
  else base + c * dPlaneStride m + y * stride + x

/-- The j-th block that modes 7 and 8 take, block rows outermost: its index b of R225. -/
def fmcOrder (m : Store Word) (j : Nat) : Nat :=
  let yb := j / (dPlanes m * fmcBx m)
  let c := j / fmcBx m % dPlanes m
  (c * fmcBy m + yb) * fmcBx m + j % fmcBx m

/-- Positions of a block: in MODE 7 its data bytes and its header's two, in MODE 8 its 64 elements. -/
def fmcSize (m : Store Word) : Nat := if dMode m = 7 then fmcDb m + 2 else 64

/-- Element e of block b of a map: channel, row and column; and whether it lies in the map. -/
def fmcPixel (m : Store Word) (b e : Nat) : Nat × Nat × Nat :=
  (b / (fmcBx m * fmcBy m), 8 * (b / fmcBx m % fmcBy m) + e / 8, 8 * (b % fmcBx m) + e % 8)
def fmcInside (m : Store Word) (b e : Nat) : Bool :=
  decide ((fmcPixel m b e).2.1 < dRows m) && decide ((fmcPixel m b e).2.2 < dLen m)

/-- The units of a row in modes 2, 4 and 9, taken one after the other: 128 pixels in modes 2 and 9, whose elements the segment buffer
collects, 64 source bytes in mode 4. Their extent along a plane in mode 4 is in bytes of 8 elements. -/
def segUnit (m : Store Word) : Nat := if dMode m = 4 then 8 / dE m else 128

/-- The length of a plane's row in those units' measure, and the positions that one step of it takes. -/
def segRow (m : Store Word) : Nat := if dMode m = 4 then dElems m / 8 else dPixels m
def segWidth (m : Store Word) : Nat := if dMode m = 4 then dPlanes m else dPlanes m * dE m

/-- Position `b` within a row of those modes: where its unit begins along the row, the unit's length, and the offset in the unit. -/
def segAt (m : Store Word) (b : Nat) : Nat × Nat × Nat :=
  let per := segUnit m * segWidth m
  let q := segUnit m * (b / per)
  (q, min (segUnit m) (segRow m - q), b % per)

/-- The positions of a row. -/
def rowSize (m : Store Word) : Nat :=
  match dMode m with
  | 4 => segRow m * segWidth m
  | 7 | 8 => dPlanes m * fmcBx m * fmcSize m
  | _ => dLen m

/-- The positions of a transfer: its destination bytes, in the order in which the engine writes, rows outermost. MODE 8 counts the
elements of its blocks that lie outside the map, which are not written. -/
def dTotal (m : Store Word) : Nat :=
  match dMode m with
  | 0 => dLen m
  | 1 => dPlanes m * dRows m * dLen m
  | 7 | 8 => fmcBy m * rowSize m
  | 2 | 3 | 4 | 5 | 6 | 9 => dRows m * rowSize m
  | _ => 0

/-- Whether MODE 0 copies from the top (R282). -/
def dDescends (own : Option Nat) (m : Store Word) : Bool :=
  dMode m == 0 && decide (dSrc own m < dDst own m) && decide (dDst own m < dSrc own m + dLen m)

/-- Where position k of a transfer is written. -/
def dstAddr (own : Option Nat) (m : Store Word) (k : Nat) : Nat :=
  let d := dDst own m
  let e := dE m
  let i := k / rowSize m
  let (q, n, o) := segAt m (k % rowSize m)
  match dMode m with
  | 0 => if dDescends own m then d + (dLen m - 1 - k) else d + k
  | 1 => d + (i % dPlanes m) * dPlaneStride m + (i / dPlanes m) * dDstStride m + k % dLen m
  | 2 => d + (o / (n * e)) * dPlaneStride m + i * dDstStride m + q * e + o % (n * e)
  | 3 | 5 | 6 => d + i * dDstStride m + k % dLen m
  | 4 => d + (o / n) * dPlaneStride m + i * dDstStride m + q + o % n
  | 7 =>
    let b := fmcOrder m (k / fmcSize m)
    let o := k % fmcSize m
    if o < fmcDb m then d + b * fmcDb m + o else d + dDstStride m + 2 * b + (o - fmcDb m)
  | 8 =>
    let x := fmcPixel m (fmcOrder m (k / 64)) (k % 64)
    fmcElem m d (dDstStride m) x.1 x.2.1 x.2.2
  | _ => pl128Addr d (cdiv (dPixels m) 128) (dDstStride m) i (q + o % n) (o / n)

/-- The end of the run of rising addresses that position k lies in (falling ones, where MODE 0 copies from the top). -/
def runEnd (m : Store Word) (k : Nat) : Nat :=
  let i := k / rowSize m
  let (_, n, o) := segAt m (k % rowSize m)
  let within (len : Nat) : Nat := k - o + (o / len + 1) * len
  match dMode m with
  | 0 => dLen m
  | 2 => within (n * dE m)
  | 4 | 9 => within n
  | 7 => let o := k % fmcSize m; if o < fmcDb m then k - o + fmcDb m else k - o + fmcSize m
  | 8 => (k / 8 + 1) * 8
  | _ => (i + 1) * rowSize m

/-- The bytes of a beat at the destination (R265, R279, R281): the access width of DST_W, a row write in MODE 9. -/
def dstBeat (m : Store Word) : Nat := if dMode m = 9 then 128 else 2 ^ dDstW m

/-- The bytes of a beat at the source. -/
def srcBeat (m : Store Word) : Nat := 2 ^ dSrcW m

/-- The beat that the engine writes from position k on: its positions, and the position after it. -/
def beatAt (own : Option Nat) (m : Store Word) (k : Nat) : List Nat × Nat :=
  let live (j : Nat) : Bool := dMode m != 8 || fmcInside m (fmcOrder m (j / 64)) (j % 64)
  let stop := runEnd m k
  let ks := ((List.range (min (dstBeat m) (stop - k))).map (k + ·)).filter fun j =>
    live j && dstAddr own m j / dstBeat m == dstAddr own m k / dstBeat m
  let next := (ks.getLast?.map (· + 1)).getD stop
  (ks, if next < stop ∧ live next = true then next else stop)

/-- Rows completed at a position. -/
def rowsDone (m : Store Word) (pos : Nat) : Nat :=
  match dMode m with
  | 0 => if dTotal m ≤ pos then 1 else 0
  | 1 => pos / (dPlanes m * dLen m)
  | 7 | 8 => min (dRows m) (8 * (pos / rowSize m))
  | _ => if rowSize m = 0 then 0 else pos / rowSize m

/-- The highest byte of the extents, from the base, of the source and of the destination (R282). -/
def srcSpan (m : Store Word) : Nat :=
  match dMode m with
  | 0 => dLen m - 1
  | 1 => (dPlanes m - 1) * dPlaneStride m + (dRows m - 1) * dSrcStride m + dLen m - 1
  | 2 | 4 | 9 => (dRows m - 1) * dSrcStride m + dLen m - 1
  | 3 => (dPlanes m - 1) * dPlaneStride m + (dRows m - 1) * dSrcStride m + dPixels m * dE m - 1
  | 5 => (dPlanes m - 1) * dPlaneStride m + (dRows m - 1) * dSrcStride m + dElems m / 8 - 1
  | 7 => fmcElem m 0 (dSrcStride m) (dPlanes m - 1) (dRows m - 1) (dLen m - 1)
  | 8 => max (fmcBlocks m * fmcDb m) (dSrcStride m + 2 * fmcBlocks m) - 1
  | _ => 0

def dstSpan (m : Store Word) : Nat :=
  match dMode m with
  | 0 => dLen m - 1
  | 1 => (dPlanes m - 1) * dPlaneStride m + (dRows m - 1) * dDstStride m + dLen m - 1
  | 2 => (dPlanes m - 1) * dPlaneStride m + (dRows m - 1) * dDstStride m + dPixels m * dE m - 1
  | 3 | 5 | 6 => (dRows m - 1) * dDstStride m + dLen m - 1
  | 4 => (dPlanes m - 1) * dPlaneStride m + (dRows m - 1) * dDstStride m + dElems m / 8 - 1
  | 7 => max (fmcBlocks m * fmcDb m) (dDstStride m + 2 * fmcBlocks m) - 1
  | 8 => fmcElem m 0 (dDstStride m) (dPlanes m - 1) (dRows m - 1) (dLen m - 1)
  | _ => pl128Addr 0 (cdiv (dPixels m) 128) (dDstStride m) (dRows m - 1) (dPixels m - 1) (dPlanes m * dE m - 1)

/-! ### The checks before the first beat (R279 to R283, R288) -/

/-- The field checks. -/
def formatBad (m : Store Word) : Bool :=
  let mode := dMode m
  let e := dElem m
  let len := dLen m
  let p := dPlanes m
  decide (9 < mode) || decide (len = 0) || (mode != 0 && decide (dRows m = 0))
    || decide (6 < dDstW m) || (mode != 6 && decide (6 < dSrcW m))
    || (!(mode == 0 || mode == 1 || mode == 6) && !(dSrcW m == 6 && dDstW m == 6))
    || (!(mode == 6 || mode == 7 || mode == 8) && decide (2 < e))
    || (mode == 6 && (decide (3 < e) || len % dE m != 0))
    || ((mode == 2 || mode == 3 || mode == 9) && (len % (p * dE m) != 0 || decide (16 < p * dE m)))
    || ((mode == 4 || mode == 5) && (len % (8 * dE m) != 0 || decide (8 * dE m < p)))
    || ((mode == 7 || mode == 8) && (decide (3 < e) || (fmcPl128 m && dPlaneStride m % 16 != 0)))
    || (mode == 9 && (dDstStride m % 16 != 0 || decide (dDstStride m < p * dE m) || decide (4096 < dDstStride m)))

/-- The register page and offset of an address: the register pages, and a core's local view of its page. -/
def regsOf (a : Nat) : Option Nat :=
  match place a with
  | .regs => some (a - regsBase)
  | .local k => some (pgCore k * 0x1000 + (a - winBase k - offLocal))
  | _ => none

/-- Register pages: at their addresses, and as a core's window shows the core's own (R162, R163). -/
def isRegs : Place → Bool
  | .regs | .local _ => true
  | _ => false

/-- The alignment checks (R279): the address of the side that fails one. Register pages are accessed by width 4. -/
def alignBad (own : Option Nat) (m : Store Word) : Option Nat :=
  let mode := dMode m
  let src := dSrc own m
  let dst := dDst own m
  let sw := srcBeat m
  let dwid := 2 ^ dDstW m
  let e := dE m
  let bad (n : Nat) (xs : List Nat) : Bool := xs.any fun x => x % n != 0
  let word (w : Nat) : Bool := (decide (mode ≤ 1) || mode == 6) && w == 2
  let srcBad := mode != 6 && ((isRegs (place src) && !word (dSrcW m)) || (match mode with
    | 0 => bad sw [src, dLen m]
    | 1 => bad sw [src, dLen m, dSrcStride m, dPlaneStride m]
    | 7 | 8 => false
    | 3 | 5 => bad e [src, dSrcStride m, dPlaneStride m]
    | _ => bad e [src, dSrcStride m]))
  let dstBad := (isRegs (place dst) && !word (dDstW m)) || (match mode with
    | 0 => bad dwid [dst, dLen m]
    | 1 => bad dwid [dst, dLen m, dDstStride m, dPlaneStride m]
    | 6 => bad dwid [dst, dLen m, dDstStride m]
    | 7 | 8 => false
    | 9 => dst % 128 != 0
    | 2 | 4 => bad e [dst, dDstStride m, dPlaneStride m]
    | _ => bad e [dst, dDstStride m])
  if srcBad then some src else if dstBad then some dst else none

/-- Whether the extents overlap in a way that the mode does not copy (R282). -/
def overlapBad (own : Option Nat) (m : Store Word) : Bool :=
  let src := dSrc own m
  let dst := dDst own m
  dMode m != 6 && decide (src ≤ dst + dstSpan m) && decide (dst ≤ src + srcSpan m) && !(dMode m == 0 && dSrcW m == dDstW m)

/-- The first failing check and the failing address: FORMAT, ALIGNMENT, source range and reach, destination range and reach,
OVERLAP. A field check names the destination, an overlap its first byte (DESIGN CHOICE). -/
def transferCheck (s : State) (c : Nat) (m : Store Word) : Option (Byte × Nat) :=
  let own := chanCore s c
  let o := chanOwner s c
  let src := dSrc own m
  let dst := dDst own m
  let range (write : Bool) (lo hi : Nat) : Option (Byte × Nat) :=
    match missingAt s lo hi with
    | some a => some (eAddrRange, a)
    | none => (ownerBlocked s o write lo hi).map fun a => (ePermission, a)
  if formatBad m then some (eFormat, dst)
  else match alignBad own m with
    | some a => some (eAlignment, a)
    | none =>
      match (if dMode m = 6 then none else range false src (src + srcSpan m)) with
      | some x => some x
      | none => match range true dst (dst + dstSpan m) with
        | some x => some x
        | none => if overlapBad own m then some (eOverlap, max src dst) else none

/-! ### Interrupts of a channel -/

/-- INTSTAT.DMA of the core that owns the channel (R122). -/
def chanIrq (c : Nat) (s : State) : State :=
  match chanCore s c with
  | some n => modProc n (fun p => { p with intStat := p.intStat ||| 2 }) s
  | none => s

/-- A channel halts (R290, R291): the code and address are recorded, CH_HALT raised, and in descriptor mode the descriptor is
written back. -/
def chanHalt (c : Nat) (code : Byte) (addr : Nat) (wbDesc : Bool) (s : State) : State :=
  let ch := getChan s c
  let status := at_ 24 code.toNat ||| at_ 0 ch.rows.toNat
  let wb : List WriteBack := if ch.descRun && wbDesc then
      ch.wb ++ [{ desc := ch.actDesc, ctrl := dw ch.act 0, status := status, stamp := BitVec.ofNat 64 (now s), halted := true }]
    else ch.wb
  let s := modChan c (fun ch => { ch with st := .halted, result := code, mover := none, fetching := false, flush := false, hold := [], wb := wb }) s
  let s := recordErr pgDma (chanCode c) code (BitVec.ofNat 40 addr) s
  let s := countRefusal code s
  chanIrq c (raise pgDma 1 s)

/-- Take the next waiting turn. -/
def takeTurn (s : State) : Nat × State := (s.dma.turn, modDma (fun d => { d with turn := d.turn + 1 }) s)

/-- A hand-over (R274, R278): the whole shadow set becomes active, ARM clears, HANDOVER_SEQ advances, and the arbiter with DISARM
moves it to its lowest place (R268); the checks before the first beat follow; in descriptor mode the next descriptor is prefetched
after one without LAST. -/
def handOver (c : Nat) (s : State) : State :=
  let ch := getChan s c
  let (t, s) := takeTurn s
  let more := ch.descRun && !dLast ch.shadow
  let s := modChan c (fun ch => { ch with
    act := ch.shadow, armed := false, prefetched := false, seq := ch.seq + 1, pos := 0, rows := 0, malformed := none, actDesc := ch.shDesc, st := .preempted
    mover := none, turn := t, ownZero := false, hold := [], flush := false, disarmLow := some false
    descPtr := if more then dNext ch.shadow else ch.descPtr, fetching := more, fetchFrom := now s }) s
  match transferCheck s c ch.shadow with
  | some (code, a) => chanHalt c code a true s
  | none => s

/-- CH_CMD.KICK by channel state (R276); `false` where the command is FORMAT. -/
def kickAllowed (ch : Chan) : Bool := !(ch.st == .disabled || ch.st == .halted)

/-- A descriptor fetch begins. -/
def fetchStart (c : Nat) (s : State) : State := modChan c (fun ch => { ch with fetching := true, ownZero := false, fetchFrom := now s }) s

/-- An armed shadow of an IDLE channel is handed over in either mode (R274): in descriptor mode it waits there after CLEAR (R291). -/
def kick (c : Nat) (s : State) : State :=
  let ch := getChan s c
  match ch.st with
  | .disabled | .halted => s
  | .idle =>
    let s := modChan c (fun ch => { ch with descRun := ch.descMode }) s
    if ch.armed then handOver c s else if ch.descMode then fetchStart c s else s
  | .active | .preempted => if ch.descRun && !ch.armed && !ch.fetching then fetchStart c s else s
  | .waitOwn => fetchStart c s

/-! ### The end of a transfer (R284, R285) -/

/-- The completion of a transfer at its channel (R285, order 6). -/
def chanDone (c : Nat) (irq : Bool) (s : State) : State :=
  let s := modChan c (fun ch => { ch with done := true }) s
  if irq then chanIrq c (raise pgDma 0 s) else s

/-- Writes of a requester that the link fault injector holds are not acknowledged (R284, R377). -/
def writesHeld (s : State) (req : Byte) : Bool :=
  s.lfi.any fun x => match x.2.held with
    | some (.write _ q _ _) => q == req
    | some (.regs q _ _ _) => q.code == req
    | _ => false

/-- A write of some channel is not acknowledged. -/
def dmaHeld (s : State) : Bool := (List.range 32).any fun c => writesHeld s (chanCode c)

/-- The active transfer has written its last byte. -/
def transferDone (ch : Chan) : Bool := (ch.st == .active || ch.st == .preempted) && decide (dTotal ch.act ≤ ch.pos)

/-- With BARRIER a transfer into the host memory window ends with a zero-length read (R284). -/
def needsFlush (s : State) (c : Nat) (ch : Chan) : Bool := dBarrier ch.act && place (dDst (chanCore s c) ch.act) == .host

/-- A transfer whose last byte is written ends now: the page runs, and with BARRIER its writes are acknowledged and the confirming
read has been sent. -/
def endsNow (s : State) (c : Nat) : Bool :=
  let ch := getChan s c
  transferDone ch && (getHdr s pgDma).enable && !(dBarrier ch.act && writesHeld s (chanCode c)) && (!needsFlush s c ch || (ch.flush && hostReady s (hostFn s (chanOwner s c))))

/-- The transfer ends (R285, order 1): its time is latched, the hand-over of an armed shadow follows, and the write-back or, in
register mode, the completion. A malformed block makes the result FORMAT (R283). -/
def endTransfer (c : Nat) (s : State) : State :=
  let ch := getChan s c
  let code : Byte := if ch.malformed.isSome then eFormat else 0
  let s := match ch.malformed with
    | some a => recordErr pgDma (chanCode c) eFormat a s
    | none => s
  let wb : WriteBack := { desc := ch.actDesc, ctrl := dw ch.act 0, status := at_ 24 code.toNat ||| at_ 0 ch.rows.toNat
                          stamp := BitVec.ofNat 64 (now s), halted := false }
  let s := modChan c (fun ch => { ch with
    result := code, mover := none, st := if ch.ownZero then .waitOwn else .idle, ownZero := false, hold := [], flush := false
    wb := if ch.descRun then ch.wb ++ [wb] else ch.wb }) s
  let s := if ch.descRun then s else chanDone c (dIrq ch.act) s
  if ch.armed then handOver c s else s

/-- A transfer's last write has been issued, or with BARRIER acknowledged (R284). A transfer into the host memory window first sends
its zero-length read to the last address written; the event then comes again, with that read's completion, or with its failure where the
function cannot be reached any more (R343). -/
def transferEnd (c : Nat) (s : State) : State :=
  let ch := getChan s c
  if endsNow s c then endTransfer c s
  else if !transferDone ch || !(getHdr s pgDma).enable || !needsFlush s c ch || writesHeld s (chanCode c) then s
  else
    let f := hostFn s (chanOwner s c)
    if hostReady s f then
      send (.hostRead (Fin.ofNat 16 f) (BitVec.ofNat 64 (hostAddr s f ch.lastDst.toNat)) 0) (modChan c (fun ch => { ch with flush := true }) s)
    else chanHalt c ePoweredOff ch.lastDst.toNat true s

/-! ### Stopping and step starts (R272, R286) -/

/-- A plain register of a page that is up takes a free value in the bits that a write sets, and so does its staging copy. DESIGN CHOICE: a
register whose write is a command holds no byte of the extent. -/
def freeRegister (page off : Nat) (w : Word) (s : State) : State :=
  match regRow page off with
  | some row =>
    if row.own || (windowed page && decide (0x400 ≤ off)) || !pagePresent s page || !domOn s (pageDom page) then s
    else
      let key := regKey page 0 off
      let s := if row.live = 0 then s else modReg page 0 off (fun old => mix row.live old w) s
      let copy := mix row.staged ((storeGet (fun _ => none) s.bus.staged key).getD (storeGet regReset s.bus.regs key)) w
      if row.staged = 0 then s else modBus (fun b => { b with staged := storeSet (fun _ => none) b.staged key (some copy) }) s
  | none => s

/-- Every byte of the destination extent of a stopped transfer, from its lowest to its highest, takes a free value (R282, R286). -/
def freeExtent (c : Nat) (s : State) : State :=
  let ch := getChan s c
  let own := chanCore s c
  let n := dstSpan ch.act + 1
  let f := hostFn s (chanOwner s c)
  let free := s.free
  let s := (List.range n).foldl (fun s k =>
    let a := dDst own ch.act + k
    let b : Byte := Config.freeBits 8 (free + k)
    if place a = .host then hostPut (hostAddr s f a) [b] s
    else match regsOf a with
      | some off =>
        if a % 4 ≠ 0 then s
        else freeRegister (off / 0x1000) (off % 0x1000) (BitVec.ofNat 32 (ofBytes ((List.range 4).map fun i => Config.freeBits 8 (free + k + i)))) s
      | none => if (placeRefusal s own true true f a).isNone then viewPut own a [b] s else s) s
  drawn n s

/-- A held write is the issued CTRL write-back of a channel. -/
def isWriteBack (ch : Chan) (cs : List WriteCell) : Bool :=
  match ch.wb, cs with
  | w :: _, x :: _ => w.issued == 2 && x.addr == w.desc
  | _, _ => false

/-- The beats of a channel that the link fault injector holds are lost; a CTRL write-back already issued lands (R286). -/
def beatsLost (c : Nat) (s : State) : State :=
  { s with lfi := s.lfi.map fun e => (e.1, { e.2 with held := match e.2.held with
      | some (.write o q f cs) => if q = chanCode c ∧ isWriteBack (getChan s c) cs = false then none else some (.write o q f cs)
      | some (.regs q o n v) => if q.code = chanCode c then none else some (.regs q o n v)
      | h => h }) }

/-- CH_CTRL.EN = 0 (R286). -/
def chanStop (c : Nat) (s : State) : State :=
  let ch := getChan s c
  let running := ch.st == .active || ch.st == .preempted
  let s := if running then freeExtent c (beatsLost c s) else s
  let (rows, s) : BitVec 24 × State := if running then draw 24 s else (ch.rows, s)
  modChan c (fun ch => { ch with
    en := false, st := .disabled, mover := none, rows := rows, shadow := [], armed := false, prefetched := false, fetching := false, ownZero := false
    hold := [], flush := false, wb := [], result := 0x11 }) s

/-- The channels that a core owns. -/
def coreChans (s : State) (n : Nat) : List Nat := (List.range 32).filter fun c => chanCore s c == some n

/-- At the start of a job step (R272). -/
def chansForStep (n : Nat) (s : State) : State :=
  (coreChans s n).foldl (fun s c => modChan c (fun ch => { ch with
    en := true, st := .idle, armed := false, prefetched := false, shadow := [], fetching := false, ownZero := false, mover := none, wb := []
    hold := [], flush := false, descPtr := ch.descHome }) s) s

/-- When a step is discarded, and at a fence (R272). -/
def chansStop (n : Nat) (s : State) : State := (coreChans s n).foldl (fun s c => chanStop c s) s

/-! ### Register commands -/

/-- A channel of a fenced core stays DISABLED until UNFENCE (R272). -/
def chanBarred (s : State) (c : Nat) : Bool :=
  match chanCore s c with
  | some n => fenced s n
  | none => false

/-- CH_CTRL (R286, R293). -/
def chCtrlWrite (c : Nat) (v : Word) (s : State) : State :=
  let was := (getChan s c).en
  let s := modChan c (fun ch => { ch with prio := BitVec.ofNat 2 (fld v 2 1), descMode := bit v 3 }) s
  if was && !bit v 0 then chanStop c s
  else if !was && bit v 0 && !chanBarred s c then modChan c (fun ch => { ch with en := true, st := .idle }) s
  else s

/-- The arbiter of DISARM and a hand-over (R268, R275): who stands higher. -/
def disarmWins (s : State) (c : Nat) : Bool :=
  match (getChan s c).disarmLow with
  | some low => !low
  | none => Config.arbiterFirst (c + 64 * s.reset_.epoch.toNat)

/-- A hand-over can be under way: an armed shadow of an idle channel, or of one whose transfer ends now. -/
def handOverDue (s : State) (c : Nat) : Bool := (getChan s c).armed && ((getChan s c).st == .idle || endsNow s c)

/-- CH_CMD.DISARM (R275). `pending` says that a hand-over asks at the same instant. The arbiter moves its winner to its lowest place
(R268). -/
def disarm (c : Nat) (pending : Bool) (s : State) : State :=
  let ch := getChan s c
  if !ch.armed then s
  else if pending && handOverDue s c && !disarmWins s c then
    modChan c (fun ch => { ch with disarmLate := true }) (if ch.st = .idle then kick c s else endTransfer c s)
  else modChan c (fun ch => { ch with
    armed := false, prefetched := false, disarmLow := some true, descPtr := if ch.prefetched then ch.shDesc else ch.descPtr }) s

/-- CH_CMD.CLEAR (R276). -/
def chanClear (c : Nat) (s : State) : State :=
  modChan c (fun ch => if ch.st = .halted then { ch with st := .idle } else ch) s

/-- SH_CTRL.ARM in register mode (R273). -/
def shadowArm (c : Nat) (s : State) : State := modChan c (fun ch => { ch with armed := true, prefetched := false }) s

/-- `CH_STAT.STATE` (R276). -/
def ChanSt.code : ChanSt → Nat
  | .disabled => 0
  | .idle => 1
  | .active => 2
  | .preempted => 3
  | .waitOwn => 4
  | .halted => 5

/-- The L3 reset of the engine: every channel stops as by R286, then every register returns to its reset value (R287). -/
def dmaReset (s : State) : State :=
  let s := (List.range 32).foldl (fun s c =>
    let st := (getChan s c).st
    if st = .active ∨ st = .preempted then freeExtent c (beatsLost c s) else s) s
  modDma (fun _ => {}) s

end Sys2Proof.Machine
end

