-- ==== Sys2Proof/Machine/StepLife.lean ====
section
/-! DEFINITION. The life of a job step on a core (R60, R75, R81, R82, R103, R169, R272), the L3 reset of a core, and what the
pacer settles when jobs complete or load leaves (R58, R72, R73, R74, R80). -/

namespace Sys2Proof.Machine

/-! ### L3 resets: the common part (R21, R31) -/

/-- The registers of a page return to their reset values and staged copies are discarded; the error capture is kept when
`keepErr` (R21). -/
def pageClear (page : Nat) (keepErr : Bool) (s : State) : State :=
  let h := getHdr s page
  let mine (k : Nat) : Bool := keyPage k == page || (page == pgPfe && (keyPage k == 32 || keyPage k == 33))
  let h' : Hdr := if keepErr then { errValid := h.errValid, errReq := h.errReq, errCode := h.errCode, errAddr := h.errAddr } else {}
  modBus (fun b => { b with
    hdrs := storeSet (fun _ => {}) b.hdrs page h'
    regs := b.regs.filter fun e => !mine e.1
    staged := b.staged.filter fun e => !mine e.1
    chSel := b.chSel.filter fun e => !(e.1 / 64 == page)
    hiWritten := b.hiWritten.filter fun e => !(e.1 / 0x10000000 == page)
    hiLatch := b.hiLatch.filter fun e => !(e.1 / 0x10000000 == page) }) s

/-- The array after the reset of its core; the operand buffers read 0 (R139). -/
def arrayReset (n : Nat) (s : State) : State :=
  modMem (fun m => (m.zeroBuffers n).clear (winBase n + offAbuf) (winBase n + offSbuf)) (modArray n (fun _ => {}) s)

/-- The L3 reset of a core: its processor, its array and its page (R68, R398). -/
def coreReset (n : Nat) (keepErr : Bool) (s : State) : State :=
  pageClear (pgCore n) keepErr (arrayReset n (modProc n (fun _ => procReset n) (modHealth n (fun h => { h with disabled := false }) s)))

/-! ### Ending a step -/

/-- Drop the parked wait of a core (R147). -/
def unpark (n : Nat) (s : State) : State :=
  modMem (fun m => { m with parked := m.parked.filter fun p => !(p.req.code == (Requester.core (Fin.ofNat 6 n)).code) }) s

/-- The array forgets its queue when a step ends (R169). -/
def arrayIdle (n : Nat) (s : State) : State := modArray n (fun a => { a with queue := [] }) s

/-- Busy nanoseconds of device time since a core's last STEPEND (R127). -/
def wdtBusyNs (s : State) (p : ProcState) : Nat := p.wdtBusy + if p.runState = .idle then 0 else now s - p.wdtFrom

/-- A processor's step leaves it idle: nothing staged, nothing in flight. -/
def ProcState.idle (p : ProcState) : ProcState :=
  { p with
    runState := .idle, run := none, ie := false, buf := {}, inflight := [], delay := none, loop := none
    savedLoop := none, savedDelay := none, vfaultOp := none
    stage := [], stageBad := [], stagedEvents := [], stagedPosts := [], stepChans := [], commitAsked := none }

/-- A step is discarded: its outputs, staged events and posts are gone, and its core's channels stop as by R286 (R60, R272). -/
def stepDiscard (n : Nat) (s : State) : State :=
  let s := chansStop n s
  let s := match (getProc s n).run with
    | some (j, i) => modShare j i (fun r => if r.st = .running then { r with st := .waiting } else r) s
    | none => s
  unpark n (arrayIdle n (modProc n (fun p => { p.idle with wdtBusy := wdtBusyNs s p }) s))

/-- The cores that run a step of a job. -/
def coresRunning (s : State) (j : Nat) : List Nat :=
  (List.range 6).filter fun n => match (getProc s n).run with
    | some (j', _) => j' == j
    | none => false

/-- A job ends before its shares have: its running steps are discarded (R44, R121). -/
def jobStop (j : Nat) (st : JobStatus) (cause detail : Byte) (s : State) : State :=
  endJob j st cause detail ((coresRunning s j).foldl (fun s n => stepDiscard n s) s)

/-! ### The rail as the pacer drives it (R56, R58, R388) -/

/-- A write of the rail over AVSBus. -/
def railWrite (mv : Nat) (use : RailUse) (s : State) : State :=
  let s := modPower (fun p => { p with railTarget := BitVec.ofNat 10 mv, railSettled := false, polling := true }) s
  send (.avsTarget (BitVec.ofNat 10 mv)) (modPacer (fun p => { p with railUse := use, settled := false, railFrom := now s }) s)

/-- The rail at rest: the pacer's floor, and before its first acceptance the fused boot voltage (R390). -/
def railRest (s : State) : Nat := if s.pacer.accepted then s.pacer.floor else s.fuses.bootMv.toNat

/-- The floor that accepted work needs: the present one but on the thermal path's low rail (R69). -/
def workFloor (s : State) : Nat := s.pacer.heldFloor.getD s.pacer.floor

/-- The rail is free for the pacer: nothing waits for it and the thermal path does not hold it. -/
def railFree (s : State) : Bool :=
  decide (s.pacer.thermal = .none) && decide (s.pacer.railUse = .none) && s.pacer.running.isNone

/-- Accepted jobs of departing load that have not committed: those of classes that hold no share any more, which were shed (R58,
R67). -/
def leaving (s : State) : Bool := s.pacer.jobs.any fun j => j.open_ && (getClass s j.cls).cores.isEmpty

/-- R58: the floor falls to the lowest floor at which the remaining load passes, once the departing load's jobs have committed. -/
def floorFall (s : State) : State :=
  if !s.pacer.fallDue || !railFree s || leaving s then s
  else
    let s := modPacer (fun p => { p with fallDue := false }) s
    match lowestFloor s with
    | some v => if v < s.pacer.floor then railWrite v .fall (modPacer (fun p => { p with floor := v }) s) else s
    | none => s

/-! ### What settles when a job completes -/

/-- Jobs of a class that have not completed. -/
def openJobs (s : State) (k : Nat) : List Job := s.pacer.jobs.filter fun j => j.open_ && j.cls.val == k

/-- A class returns to FREE: its entry returns to its reset values and its shares are released. -/
def classFree (k : Nat) (s : State) : State := modClass k (fun _ => {}) s

/-- A revocation whose last accepted job has committed, once its notice has ended (R73); a SHRINK whose departing load has
(R58, R74). -/
def classSettle (k : Nat) (s : State) : State :=
  let c := getClass s k
  if c.st = .revoking ∧ c.noticeEnd ≤ now s ∧ (openJobs s k).isEmpty = true then
    raise pgPacer 7 (modPacer (fun p => { p with fallDue := true }) (classFree k s))
  else match c.shrinks with
    | (t, v) :: rest =>
      if t ≤ now s ∧ ((openJobs s k).any fun j => decide (j.release < t)) = false then
        modPacer (fun p => { p with fallDue := true }) (modClass k (fun c => { c with
          vals := v, shrinks := rest, pend := if c.pend = some v then none else c.pend
          cores := (List.range 6).foldl (fun m i => if v.spread.toNat ≤ i then storeSet (fun _ => none) m i none else m) c.cores }) s)
      else s
    | [] => s

/-- A job passed its deadline without being ready (R69, order 4). -/
def Job.missed (j : Job) (t : Nat) : Bool :=
  match j.ready with
  | some r => decide (j.deadline < r)
  | none => decide (j.deadline < t)

/-- The thermal drain is reached (R69, order 4): every accepted job with t_r at or before order 1 has completed, or passed its
deadline without being ready. -/
def thermalIsDrained (s : State) : Bool :=
  s.pacer.jobs.all fun j => !j.open_ || j.unbound || decide (s.pacer.thermalFrom < j.release) || j.missed (now s)

/-- The pacer after its L3 reset (R21, R31): every register at its reset value, so no reserve is named and the floor is 500 mV. The
fences and the detections since the last L1 stay (R76, R398), and so do the jobs whose completions are on their way. -/
def Pacer.afterReset (p : Pacer) : Pacer :=
  { jobs := p.jobs, nextJob := p.nextJob, accepted := p.accepted
    health := p.health.map fun e => (e.1, { e.2 with strikes := [], strikeJob := none, paceLow := 0 }) }

/-- A PACER FUNC_RESET completes when the last accepted job has committed (R80). -/
def pacerResetSettle (s : State) : State :=
  if s.pacer.resetWait && (s.pacer.jobs.all fun j => !j.open_) then
    let s := modPacer Pacer.afterReset s
    railWrite (railRest s) .fall (pageClear pgPacer true s)
  else s

/-- A share has ended its last step, or has stopped at a step boundary of an aborted job. -/
def shareSettled (r : ShareRun) : Bool := r.st = .done || r.st = .stopped

/-- An abort takes effect when every share has stopped at its next step boundary (R72): aborted before t_d the job completes
ABORTED, after it LATE with the first cause that applies (R71). Before or after is judged at the instant at which the abort takes effect,
not at its entry (DESIGN CHOICE, in the log). A job whose shares are all done has completed (R41). -/
def jobSettle (j : Nat) (s : State) : State :=
  match getJob s j with
  | none => s
  | some job =>
    if !job.open_ then s
    else
      let rs := (List.range job.nShares).map (getShare job)
      if rs.all (fun r => r.st = .done) then finishJob j s
      else if job.abort && rs.all (fun r => r.st ≠ .running) then
        if job.overdue (now s) then endJob j .late (lateCause job) 0 s else endJob j .aborted 4 0 s
      else s

/-- The aborts that take effect (R72). -/
def abortsSettle (s : State) : State :=
  (s.pacer.jobs.filter fun j => j.open_ && j.abort).foldl (fun s j => jobSettle j.id s) s

/-- Everything that the end of a job or of a step, or the passing of time, settles in the pacer. -/
def pacerSettle (s : State) : State :=
  pacerResetSettle (floorFall ((List.range 64).foldl (fun s k => classSettle k s) (abortsSettle s)))

/-! ### Starting a step (R41, R75, R81, R82, R103) -/

/-- Whether the thermal path holds a job back (R69, order 4): released after order 1, or unready past its deadline. -/
def thermalHeld (s : State) (j : Job) : Bool :=
  s.pacer.thermal != .none && (decide (s.pacer.thermalFrom < j.release) || j.missed (now s))

/-- Whether a line lies in the record range of a gate of a job (R222). -/
def gateHolds (j : Job) (line : BitVec 18) : Bool :=
  j.inputs.any fun x => match x with
    | .gate _ _ off len => touchesLine (shmBase + off.toNat) len.toNat line
    | _ => false

/-- A gate of a job counts as unmet: a damaged line of its record has still to be written (R222). -/
def gateUnmet (j : Job) : Bool :=
  (List.range j.nShares).any fun i => match (getShare j i).line with
    | some l => gateHolds j l
    | none => false

/-- The shares that may start a step on a core, as (passed deadline, deadline, job, share); none while the ROM waits for an image
(R422). -/
def startable (s : State) (n : Nat) : List (Bool × Nat × Nat × Nat) :=
  s.pacer.jobs.flatMap fun j =>
    if j.open_ && j.released && j.ready.isSome && !thermalHeld s j && !j.abort && !gateUnmet j && !s.trust.bootWait then
      (List.range j.nShares).filterMap fun i =>
        let r := getShare j i
        if r.st = .waiting ∧ r.core.val = n then some (decide (j.deadline < now s), j.deadline, j.id, i) else none
    else []

/-- The earlier of two: deadlines in the future first, then the earlier deadline, then the order of acceptance (R41, R75). -/
def startBefore (a b : Bool × Nat × Nat × Nat) : Bool :=
  if a.1 != b.1 then b.1 else decide (a.2.1 < b.2.1) || (a.2.1 == b.2.1 && decide (a.2.2.1 ≤ b.2.2.1))

def startFirst (l : List (Bool × Nat × Nat × Nat)) : Option (Bool × Nat × Nat × Nat) :=
  l.foldl (fun best x => match best with
    | none => some x
    | some b => if startBefore b x then some b else some x) none

/-- The present owner of a job's class (R343, R356, R359). -/
def jobOwner (s : State) (j : Job) : Byte := (getClass s j.cls).owner

/-- Why a share's code cannot be read (R82): the refusal of its source to the class's owner. -/
def codeRefusal (s : State) (j : Job) (r : ShareRun) : Option Byte :=
  let owner := jobOwner s j
  if r.codeLen = 0 then none
  else match submitRefusal s owner false r.codeAddr.toNat r.codeLen.toNat with
    | some e => some e
    | none => rangeRefused (placeRefusal s none true false ((fnOf owner).getD 0)) r.codeAddr.toNat r.codeLen.toNat

/-- A core as a requester. -/
def coreReq (n : Nat) : Requester := .core (Fin.ofNat 6 n)

/-- The bytes of a share's code. -/
def codeBytes (s : State) (j : Job) (r : ShareRun) : List Byte :=
  let a := r.codeAddr.toNat
  if place a = .host then
    let f := (fnOf (jobOwner s j)).getD 0
    (List.range r.codeLen.toNat).map fun i => hostByte s (hostAddr s f a + i)
  else memBytes s a r.codeLen.toNat

/-- A core ready for a job step: present, unfenced, ON, enabled (R128), idle. -/
def coreReady (s : State) (n : Nat) : Bool :=
  corePresent s n && !fenced s n && domOn s (domOfCore n) && !(getHealth s n).disabled && decide ((getProc s n).runState = .idle)

/-- The state of a processor at the start of a job step: every register file reads 0, every control register holds its reset
value (R103); counters, captures and the page's registers are kept. -/
def ProcState.startStep (p : ProcState) (run : Nat × Nat) (pc t : Nat) : ProcState :=
  { runState := .issue, pmemAct := p.pmemAct, run := some run, stepPc := pc, pc := pc, lastPc := p.lastPc
    faultValid := p.faultValid, faultSlot := p.faultSlot, faultCause := p.faultCause, faultPc := p.faultPc
    satCnt := p.satCnt, stepCnt := p.stepCnt, stallCnt := p.stallCnt, wdtBusy := p.wdtBusy, wdtFrom := t }

/-- The array at the start of a job step (R169, R208). -/
def ArrayState.startStep (a : ArrayState) : ArrayState :=
  { a with
    queue := [], banks := [], lastBank := false, sums := [], argmax := [], ti := false, tw := false, flip := false
    lastTag := 0, lastOp := 0, lastEmpty := false, lastValid := false }

/-- The job whose strikes a core shows: that of its last step (R76). -/
def strikesFor (n j : Nat) (s : State) : State := modHealth n (fun h => { h with strikeJob := some j }) s

/-- A step's read of its code goes unanswered (R82, R160): the job ends. The read began when the job became ready, at the
earliest (DESIGN CHOICE: the limit counts from there). -/
def codeTimeout (n limit : Nat) (s : State) : State :=
  if !coreReady s n then s
  else match startFirst (startable s n) with
    | none => s
    | some (_, _, j, i) =>
      match getJob s j with
      | none => s
      | some job =>
        if (getShare job i).codeLen = 0 || decide (now s < job.ready.getD 0 + limit) then s
        else pacerSettle (jobStop j .fault 0x20 eTimeout (countWrap pgNoc 0 0x044 s))

/-- How the read of a share's code for core `n` ends (R82, R158, R161, R376): the code with which it fails, or whether the injector
spoiled its data. -/
def codeRead (n : Nat) (job : Job) (r : ShareRun) (x : Answered) (s : State) : Except Byte Bool × State :=
  if r.codeLen = 0 then (.ok false, s)
  else match codeRefusal s job r with
    | some e => (.error e, countRefusal e s)
    | none =>
      if dramFails s r.codeAddr.toNat x then (.error eEccUe, dramError (coreReq n).code r.codeAddr.toNat s)
      else match lfiItem lfiNoc (coreReq n).code.toNat 1 s with
        | (some (.drop, _), s) => (.error eLfi, s)
        | (act, s) => (.ok (lfiSpoils s act), dramCorrects r.codeAddr.toNat x s)

/-- A job step of share i of a job starts on a core, its code in PMEM (R82). DESIGN CHOICE: the pacer selects PMEM half 0 for every
step; R81 does not say how it picks. -/
def stepStart (n j i : Nat) (job : Job) (s : State) : State :=
  let r := getShare job i
  let s := memPut (winBase n + offPmem) (codeBytes s job r) s
  let s := hostReadSent ((fnOf (jobOwner s job)).getD 0) r.codeAddr.toNat r.codeLen.toNat s
  let s := strikesFor n j (chansForStep n s)
  let pc := if r.redoPrev then r.prevPc else r.stepPc
  let s := modProc n (fun p => ({ p with pmemAct := false } : ProcState).startStep (j, i) pc (now s)) s
  let s := modArray n ArrayState.startStep s
  let s := modMem (fun m => (m.freshBuffers n).clear (winBase n + offAcc) (winBase n + offAcc + 0x40000)) s
  modJob j (fun x => { x.modShare i (fun r => { r with st := .running }) with
    start := x.start.orElse fun _ => some (now s), cores := x.cores ||| oneBit 6 n }) s

/-! ### Carry copies (R62) -/

/-- Where a share stands while no step of it runs: waiting, or waiting for an SHM line to be written (R155, R222). -/
def ShareRun.atRest (r : ShareRun) : ShareSt :=
  if r.st = .done ∨ r.st = .stopped then r.st else if r.line.isSome then .restoring else .waiting

/-- Ask for a carry copy of a share from one core to another; a share without carried rows moves at once. -/
def carryStart (j i src dst : Nat) (s : State) : State :=
  match getJob s j with
  | none => s
  | some job =>
    let r := getShare job i
    if r.carryRows = 0 ∨ r.committed = 0 ∨ src = dst then
      modShare j i (fun r => { r with core := Fin.ofNat 6 dst, st := r.atRest }) s
    else
      let s := modShare j i (fun r => { r with core := Fin.ofNat 6 dst, st := .carrying }) s
      modPacer (fun p => { p with carries := p.carries.filter (fun c => !(c.job == j && c.share == i))
        ++ [{ job := j, share := i, src := Fin.ofNat 6 src, dst := Fin.ofNat 6 dst }] }) s

/-! ### Committing a step (R60, R103, R146) -/

/-- Staged bytes reach memory, with the parity they were staged with. -/
def stageApply (p : ProcState) (s : State) : State :=
  let s := p.stage.foldl (fun s e => match e.2 with
    | some b => memPut e.1 [b] s
    | none => s) s
  modMem (fun m => { m with damaged := p.stageBad.foldl (fun d e => storeSet (fun _ => false) d e.1 e.2) m.damaged }) s

/-- The commit of a core's job step, once STEPEND's waits are over (R103). -/
def stepCommit (n : Nat) (s : State) : State :=
  let p := getProc s n
  match p.run, p.commitAsked with
  | some (j, i), some last =>
    let redo := match getJob s j with
      | some job => (getShare job i).redoPrev
      | none => false
    let s := modProc n (fun p => { p.idle with wdtBusy := 0 }) (stageApply p s)
    let s := if redo then s else p.stagedPosts.foldl (fun s q => semPost q.1 q.2 s) s
    let s := if redo then s else p.stagedEvents.foldl (fun s c => postEvent c (Requester.core (Fin.ofNat 6 n)).code s) s
    let s := arrayIdle n s
    let s := modShare j i (fun r =>
      if redo then { r with redoPrev := false, st := .waiting }
      else { r with prevPc := r.stepPc, stepPc := p.pc, committed := r.committed + 1, dets := 0, relocated := false
                    st := if last then .done else .waiting }) s
    let home := match getJob s j with
      | some job => (getShare job i).homeCore
      | none => none
    let s := match home with
      | some h => if redo || last then s
        else carryStart j i n h.val (modShare j i (fun r => { r with homeCore := none }) s)
      | none => s
    pacerSettle (jobSettle j s)
  | _, _ => s

/-! ### Faults of a step (R121) -/

/-- The common codes of R33, which a completion's DETAIL may hold. -/
def commonCode (c : Byte) : Byte := if c.toNat < 0x10 then c else 0

/-- A core fault ends the step and the job completes FAULT with cause PROGRAM (R121). -/
def coreFaultEnds (n : Nat) (slot : Nat) (cause : Byte) (pc : Nat) (s : State) : State :=
  let s := modProc n (fun p => { p with faultValid := true, faultSlot := BitVec.ofNat 3 slot, faultCause := cause
                                        faultPc := BitVec.ofNat 32 pc }) s
  let s := raise (pgCore n) 0 s
  match (getProc s n).run with
  | some (j, _) => pacerSettle (jobStop j .fault 0x20 (commonCode cause) (stepDiscard n s))
  | none => modProc n ProcState.idle s

end Sys2Proof.Machine
end

