-- ==== Sys2Proof/Machine/Admit.lean ====
section
/-! DEFINITION. The pacer's commands as results (R76, R79), the start and the end of an admission (R48, R55 to R57), and the
naming of a reserve (R54). -/

namespace Sys2Proof.Machine

/-! ### Results and commands (R59, R76, R78, R79) -/

/-- The copy of ADMIT_RESULT of a requester, as for CH_SEL (R26, R76): MGMT and JTAG share one, each function and each core has one,
and no other requester has any. -/
def resultCopy (req : Byte) : Option Nat :=
  let n := req.toNat
  if n ≤ 1 then some 0
  else if (0x10 ≤ n ∧ n ≤ 0x1F) ∨ (0x20 ≤ n ∧ n ≤ 0x25) then some n
  else none

def getResult (s : State) (req : Byte) : AdmitResult :=
  match resultCopy req with
  | some k => storeGet (fun _ => {}) s.pacer.results k
  | none => {}

def modResult (req : Byte) (f : AdmitResult → AdmitResult) (s : State) : State :=
  match resultCopy req with
  | some k => modPacer (fun p => { p with results := storeMod (fun _ => {}) p.results k f }) s
  | none => s

/-- A command of the same copy of ADMIT_RESULT is outstanding. -/
def cmdWaits (s : State) (req : Byte) : Bool :=
  (s.pacer.running.toList ++ s.pacer.queue).any fun c => resultCopy c.req == resultCopy req

/-- The result of a requester's command, DONE once none of its commands is outstanding (R76); `finished` counts it among its completed
ones. R76 gives WHICH a meaning where a class or a core has failed; elsewhere the model writes 0, and ARG with PERMISSION (DESIGN
CHOICE). -/
def setResult (req res : Byte) (which : Nat) (finished : Bool) (s : State) : State :=
  modResult req (fun r =>
    { result := res, seq := if finished then r.seq + 1 else r.seq, which := BitVec.ofNat 6 which
      done := !cmdWaits s req }) s

/-- The running command finishes. -/
def cmdFinish (res : Byte) (which : Nat) (s : State) : State :=
  match s.pacer.running with
  | some c => setResult c.req res which true (modPacer (fun p => { p with running := none, plan := none }) s)
  | none => s

/-- The address of ADMIT_CMD, for the error record. -/
def cmdErr (req code : Byte) (s : State) : State := recordErr pgPacer req code (regAddr pgPacer 0x054) s

/-- The running command fails with PERMISSION, and records it (R78). -/
def cmdRefuse (which : Nat) (s : State) : State :=
  match s.pacer.running with
  | some c => cmdFinish ePermission which (cmdErr c.req ePermission s)
  | none => s

/-! ### Naming a reserve (R54, R66) -/

/-- Name a reserve for the shares as they are placed, at the present floor; if there is none, RESERVE_LOST is raised. -/
def nameReserve (s : State) : State :=
  let ps := placedNow s
  match (reserveCandidates s ps).find? fun r => reserveRule s (workFloor s) r ps with
  | some r => modPacer (fun p => { p with reserve := some (Fin.ofNat 6 r) }) s
  | none => raise pgPacer 4 (modPacer (fun p => { p with reserve := none }) s)

/-- A commit of CFG.RESERVE: from 1 to 0 the reserve is released, from 0 to 1 one is named (R54). -/
def reserveCommit (was : Bool) (s : State) : State :=
  if was && !reserveOn s then modPacer (fun p => { p with reserve := none }) s
  else if !was && reserveOn s then nameReserve s
  else s

/-! ### Admission (R48, R54 to R57) -/

/-- The set of an ADMIT: every DEFINED entry that the requester owns. -/
def admitSet (s : State) (req : Byte) : List (Nat × ClassVals) :=
  (List.range 64).filterMap fun k =>
    let c := getClass s k
    if c.st = .defined ∧ c.owner = req then some (k, c.vals) else none

/-- A scheduled firmware activation bars a set: any, once it is stopping; one with a class whose D exceeds Dmax, while it is
armed (R79, R433). -/
def activating (s : State) (set : List (Nat × ClassVals)) : Bool :=
  s.trust.upd == .stopping
    || (s.trust.upd == .armed && s.trust.actTime != 0 && set.any fun c => decide (s.trust.dmax < c.2.deadline.toNat))

/-- The placement of a pass, as the pacer keeps it until the rail has settled. -/
def planOf (v : Nat) (set : List (Nat × ClassVals)) (ps : List Placed) (r : Option Nat) : Plan :=
  { floor := v, reserve := r.map (Fin.ofNat 6)
    places := ps.foldl (fun m p => if set.any (·.1 == p.cls) then storeSet (fun _ => none) m (p.cls * 8 + p.share) (some (Fin.ofNat 6 p.core)) else m) []
    classes := set.map fun c => Fin.ofNat 64 c.1 }

/-- The pass of the running command over a set (R48): on success the floor is written to the rail (R56), on failure the
command finishes with the failing test and class. -/
def admitRun (set : List (Nat × ClassVals)) (s : State) : State :=
  if s.pacer.thermal ≠ .none then cmdFinish rThermal 0 s
  else if activating s set then cmdFinish rActivating 0 s
  else if set.isEmpty then cmdFinish rNothing 0 s
  else match set.find? fun c => classBad s c.2 with
    | some c => cmdFinish rBadClass c.1 s
    | none => match admitPass s set with
      | (_, .fail code k) => cmdFinish code k s
      | (v, .ok ps r) => railWrite v .admitPlan (modPacer (fun p => { p with plan := some (planOf v set ps r) }) s)

/-- ADMIT and READMIT of the running command; READMIT is a one-class ADMIT of a SHED class (R78). Of an entry that is not SHED it
reports BAD_CLASS, and of another owner's PERMISSION: R78 gives neither (DESIGN CHOICE). -/
def admitStart (c : PacerCmd) (s : State) : State :=
  if c.op = 1 then admitRun (admitSet s c.req) s
  else
    let e := getClass s c.arg.toNat
    if e.st ≠ .shed then cmdFinish rBadClass c.arg.toNat s
    else if e.owner ≠ c.req then cmdRefuse c.arg.toNat s
    else admitRun [(c.arg.toNat, e.vals)] s

/-- The rail has settled at the floor of the pass: the classes become ACCEPTED, the result is written, ADMIT_DONE is raised
(R56). An entry of the set that its owner has rewritten meanwhile (R45) is accepted with the values it then holds, untested:
the spec does not say (DESIGN CHOICE). -/
def admitDone (s : State) : State :=
  match s.pacer.plan with
  | none => s
  | some pl =>
    let s := pl.classes.foldl (fun s (k : Fin 64) => modClass k (fun c => { c with
      st := .accepted
      cores := (List.range 6).foldl (fun m i => storeSet (fun _ => none) m i (storeGet (fun _ => none) pl.places (k * 8 + i))) [] }) s) s
    let s := modPacer (fun p => { p with floor := pl.floor, reserve := pl.reserve, accepted := true }) s
    raise pgPacer 0 (cmdFinish 0 0 s)

/-- The rail returns to the floor, for an admission that ended while its rail was written (R55, R57); before the first acceptance to
BOOT_MV (R390). -/
def railUndo (s : State) : State := railWrite (railRest s) .undo s

/-- A fence interrupts a pass, which restarts with the fenced core excluded (R59). A restart that fails leaves the floor
unchanged, so the rail returns to it (R55). -/
def admitAgain (s : State) : State :=
  match s.pacer.running, s.pacer.plan with
  | some c, some _ =>
    let s := admitStart c (modPacer (fun p => { p with plan := none }) s)
    if s.pacer.running.isNone then railUndo s else s
  | _, _ => s

/-- An admission that waits for its rail loses an entry of its set to a revocation that is no command (R42, R80, R433): nothing of
the set is accepted, the rail returns to the floor, and the command reports NOTHING (DESIGN CHOICE: the spec gives no result). -/
def planCheck (s : State) : State :=
  match s.pacer.plan with
  | none => s
  | some pl =>
    if pl.classes.all fun k => (getClass s k).st == .defined || (getClass s k).st == .shed then s
    else railUndo (cmdFinish rNothing 0 s)

end Sys2Proof.Machine
end

