-- ==== Sys2Proof/Machine/Fence.lean ====
section
/-! DEFINITION. Fences and what follows them (R61 to R68, R152, R155, R222, R462): re-placement and shedding, carry copies,
parity detections in a step, the pace monitors and the thermal path (R69). -/

namespace Sys2Proof.Machine

/-! ### Core domains (R383, R384) -/

/-- A core's domain goes OFF: the contents of its memories are lost, its operand buffers will read 0 (R139, R383). -/
def coreOff (n : Nat) (s : State) : State :=
  let s := modDom (domOfCore n) (fun _ => { target := 0, state := 0, moving := false }) s
  modMem (fun m => ((m.lose n).zeroBuffers n).clear (winBase n + offAbuf) (winBase n + offSbuf)) s

/-! ### Re-placement (R66, R67, R462) -/

/-- Classes whose shares are placed. -/
def ClassEntry.standing (c : ClassEntry) : Bool := c.st == .accepted || c.st == .revoking

/-- Move every share of a core to another (R66). -/
def sharesMove (src dst : Nat) (s : State) : State :=
  (List.range 64).foldl (fun s k =>
    if (getClass s k).standing then modClass k (fun c => { c with
      cores := (List.range 6).foldl (fun m i =>
        if storeGet (fun _ => none) m i = some (Fin.ofNat 6 src) then storeSet (fun _ => none) m i (some (Fin.ofNat 6 dst)) else m) c.cores }) s
    else s) s

/-- The class to shed next: the lowest PRIO, ties to the higher index (R67). -/
def shedNext (s : State) (ks : List Nat) : Option Nat :=
  ks.foldl (fun best k => match best with
    | none => some k
    | some b =>
      let pb := (getClass s b).vals.prio.toNat
      let pk := (getClass s k).vals.prio.toNat
      if pk < pb ∨ (pk = pb ∧ b < k) then some k else some b) none

/-- Place the unplaced shares, shedding classes one at a time until all that remain are placed: the placement and the shed
classes (R67). -/
def replace (s : State) : Nat → List (Nat × Nat × ClassVals) → List Placed → List Nat → List Placed × List Nat
  | 0, _, ps, shed => (ps, shed)
  | n + 1, us, ps, shed =>
    let pl := placeShares s (workFloor s) none us ps
    if pl.unplaced.isEmpty then (pl.placed, shed)
    else match shedNext s (pl.placed.map (·.cls) ++ pl.unplaced.map (·.1)) with
      | none => (pl.placed, shed)
      | some k => replace s n (pl.unplaced.filter (·.1 != k)) (pl.placed.filter (·.cls != k)) (k :: shed)

/-- A class is shed: its shares are released on every core. A class that is being revoked stays so. -/
def classShed (k : Nat) (s : State) : State :=
  modClass k (fun c => { c with st := if c.st = .accepted then .shed else c.st, cores := [] }) s

/-- Every open job is exposed to a fence without a reserve: if it is late, the cause is FENCE (R67, R71). -/
def markFence (s : State) : State :=
  modPacer (fun p => { p with jobs := p.jobs.map fun j => if j.open_ then { j with lateFence := true } else j }) s

/-- R67: the shares of a fenced core are placed again on the surviving cores. -/
def sharesReplace (n : Nat) (s : State) : State :=
  let all := placedNow s
  let us := shareOrder ((all.filter (·.core == n)).map fun p => (p.cls, p.share, p.vals))
  let (ps, shed) := replace s 64 us (all.filter (·.core != n)) []
  let s := ps.foldl (fun s p => modClass p.cls (fun c => { c with
    cores := storeSet (fun _ => none) c.cores p.share (some (Fin.ofNat 6 p.core)) }) s) s
  let s := shed.foldl (fun s k => classShed k s) s
  let s := if shed.isEmpty then s else raise pgPacer 5 (modPacer (fun p => { p with fallDue := true }) s)
  markFence s

/-- Where a share of a class runs now: the core that holds it, else the surviving core with the lowest load fraction. -/
def shareTarget (s : State) (k i : Nat) : Option Nat :=
  match storeGet (fun _ => none) (getClass s k).cores i with
  | some c => some c.val
  | none => lowestLoad s ((List.range 6).filter (coreUsable s))

/-- Every share of an open job whose next step would run on a fenced core moves to the core that now holds it, with a carry
copy (R65, R66, R67). A copy that was bringing rows to the fenced core starts again from its source. -/
def jobsMove (n : Nat) (s : State) : State :=
  (s.pacer.jobs.filter (·.open_)).foldl (fun s j =>
    (List.range j.nShares).foldl (fun s i =>
      let r := getShare j i
      let s := if r.homeCore = some (Fin.ofNat 6 n) then
          modShare j.id i (fun r => { r with homeCore := (shareTarget s j.cls i).map (Fin.ofNat 6) }) s
        else s
      if r.core.val ≠ n ∨ r.st = .done ∨ r.st = .stopped then s
      else
        let src := match s.pacer.carries.find? fun c => c.job == j.id && c.share == i with
          | some c => c.src.val
          | none => n
        match shareTarget s j.cls i with
        | some dst => carryStart j.id i src dst s
        | none => s) s) s

/-- R462: no present, unfenced core is ON. -/
def noSurvivor (s : State) : State :=
  let open' := s.pacer.jobs.filter (·.open_)
  let s := open'.foldl (fun s j => jobStop j.id .late 2 0 s) s
  let s := modPacer (fun p => { p with carries := [], fallDue := true }) s
  (List.range 64).foldl (fun s k =>
    let c := getClass s k
    if c.st = .accepted then raise pgPacer 5 (classShed k s)
    else if c.st = .revoking then raise pgPacer 7 (classFree k s)
    else s) s

/-- The hold of a fenced core ends: its domain goes OFF and FENCE is raised (R65, orders 3 and 4). -/
def fenceHoldEnd (n : Nat) (s : State) : State :=
  if (getHealth s n).hold && !(s.pacer.carries.any (·.src.val == n)) then
    raise pgPacer 1 (coreOff n (modHealth n (fun h => { h with hold := false }) s))
  else s

/-- A core is fenced (R65). A fence that meets a change of its domain waits for the change to complete (R386). -/
def fenceCore (n : Nat) (cause : BitVec 4) (s : State) : State :=
  if !corePresent s n || fenced s n then s
  else if (dom s (domOfCore n)).moving then modDom (domOfCore n) (fun d => { d with fenceWaits := cause }) s
  else
    let s := stepDiscard n s
    let s := modHealth n (fun h => { h with fenced := true, fenceCause := cause, hold := true }) s
    let lost := s.pacer.reserve == some (Fin.ofNat 6 n)
    let s :=
      if ((List.range 6).filter (coreUsable s)).isEmpty then
        noSurvivor (if lost then raise pgPacer 4 (modPacer (fun p => { p with reserve := none }) s) else s)
      else match s.pacer.reserve with
        | some r =>
          if lost then nameReserve (modPacer (fun p => { p with reserve := none }) s)
          else nameReserve (sharesMove n r.val (modPacer (fun p => { p with reserve := none }) s))
        | none => sharesReplace n s
    pacerSettle (admitAgain (fenceHoldEnd n (jobsMove n s)))

/-- UNFENCE (R68): an L3 reset of the core, its domain to ON, its strikes and its fence cleared; it is left unplaced. With
carry copies still holding the core (R65) the hold ends at once, so the domain is never OFF and FENCE is not raised (DESIGN CHOICE, in
the log). -/
def unfenceCore (n : Nat) (s : State) : State :=
  let s := challengeDrop (coreReset n true s)
  let s := modHealth n (fun h => { h with fenced := false, fenceCause := 0, strikes := [], strikeJob := none, hold := false, paceLow := 0 }) s
  if domOn s (domOfCore n) then s
  else modDom (domOfCore n) (fun d => { d with target := 2, moving := true }) s

/-! ### Parity detections in a step (R61, R152, R155, R222) -/

/-- A strike against a core within a job (R61). -/
def strike (n j : Nat) (s : State) : State := modHealth n (fun h => { h with strikes := storeMod (fun _ => 0) h.strikes j fun k => satInc k }) s

/-- A relocation to core `m` without a reserve: every open job with a share there may now miss its deadline by it, and would end
LATE with FENCE (R63). -/
def markRelocation (m : Nat) (s : State) : State :=
  modPacer (fun p => { p with jobs := p.jobs.map fun j =>
    if j.open_ && (List.range j.nShares).any (fun i => (getShare j i).core.val == m && (getShare j i).st != .done) then
      { j with lateFence := true } else j }) s

/-- R61, once the outputs of a share's step on core `n` are discarded: rerun there, relocation, or a fence. -/
def rerun (j i n : Nat) (s : State) : State :=
  match getJob s j with
  | none => s
  | some job =>
    pacerSettle <|
    let r := getShare job i
    let dets := storeGet (fun _ => 0) job.detBy n + 1
    let s := modJob j (fun x => { x with detBy := storeSet (fun _ => 0) x.detBy n dets, reruns := x.reruns + 1 }) s
    let s := modShare j i (fun r => { r with dets := r.dets + 1 }) s
    let again (s : State) : State := countWrap pgPacer 0 0x060 s
    if 3 ≤ dets then fenceCore n 1 s
    else if r.relocated then strike n j (again s)
    else if r.dets = 0 ∨ r.redoPrev = true then again s
    else
      let others := (List.range 6).filter fun m => m != n && coreUsable s m
      let target := match s.pacer.reserve with
        | some x => if others.contains x.val then some x.val else lowestLoad s others
        | none => lowestLoad s others
      match target with
      | none => again s
      | some m =>
        let s := if s.pacer.reserve.isNone then markRelocation m (modJob j (fun x => { x with lateFence := true }) s) else s
        let s := modShare j i (fun r => { r with relocated := true, homeCore := some (r.homeCore.getD (Fin.ofNat 6 n)) }) s
        carryStart j i n m (strike n j (countWrap pgPacer 0 0x064 s))

/-- A detection in the job step that runs on core `n`, in data that R61 covers directly. -/
def stepDetection (n : Nat) (s : State) : State :=
  match (getProc s n).run with
  | some (j, i) => rerun j i n (stepDiscard n s)
  | none => s

/-- A detection in CMEM rows that the preceding step committed (R152): the preceding step reruns, then this one; a detection in
such rows during that rerun stops the job with CARRY_LOST. -/
def carriedDetection (n : Nat) (s : State) : State :=
  match (getProc s n).run with
  | none => s
  | some (j, i) =>
    match getJob s j with
    | none => s
    | some job =>
      if (getShare job i).redoPrev then pacerSettle (jobStop j .fault 0x22 eParity s)
      else rerun j i n (modShare j i (fun r => { r with redoPrev := true }) (stepDiscard n s))

/-- A detection in a carried row of share i of job j as its copy brings it to core `n` (R62): the restore path of R152, on that
core. -/
def carriedRowBad (j i n : Nat) (s : State) : State :=
  match getJob s j with
  | none => s
  | some job =>
    if (getShare job i).redoPrev then pacerSettle (jobStop j .fault 0x22 eParity s)
    else rerun j i n (modShare j i (fun r => { r with redoPrev := true }) s)

/-- A carry copy finishes (R62): the carried rows stand in the target's CMEM and the share may start there. -/
def carryDone (j i : Nat) (s : State) : State :=
  match s.pacer.carries.find? fun c => c.job == j && c.share == i with
  | none => s
  | some c =>
    let (lo, n) := match getJob s j with
      | some job => (128 * (getShare job i).carryBase, 128 * (getShare job i).carryRows)
      | none => (0, 0)
    let bad := firstDamaged s (winBase c.src + lo) n
    let s := memPut (winBase c.dst + lo) (memBytes s (winBase c.src + lo) n) s
    let s := modShare j i (fun r => if r.st = .carrying then { r with st := r.atRest } else r) s
    let s := modPacer (fun p => { p with carries := p.carries.filter fun c => !(c.job == j && c.share == i) }) s
    match bad with
    | some a => carriedRowBad j i c.dst (coreParity c.src 0xFF a s)
    | none => s

/-- The share of a discarded step waits until an agent writes a line (R155, R222); its job is late by its input. -/
def waitLine (j i : Nat) (line : BitVec 18) (s : State) : State :=
  modJob j (fun x => { x.modShare i (fun r => { r with st := .restoring, line := some line }) with lateInput := true }) (markDamaged line s)

/-- A detection in SHM during a job step (R151 to R153, R222). -/
def shmStepDetection (n : Nat) (line : BitVec 18) (s : State) : State :=
  match (getProc s n).run with
  | none => detLogAdd line (goldenRegion s line) s
  | some (j, i) =>
    match getJob s j with
    | none => s
    | some job =>
      pacerSettle <|
      if gateHolds job line then waitLine j i line (stepDiscard n (detLogAdd line none s))
      else match goldenRegion s line with
        | some g =>
          let s := stepDiscard n (detLogAdd line (some g) s)
          let s := modShare j i (fun r => { r with st := .restoring }) s
          if restorePossible s line then restoreStart line g (some (j, i)) s
          else waitLine j i line (restoreFail line s)
        | none => rerun j i n (stepDiscard n (detLogAdd line none s))

/-- The golden line's read from DRAM ends (R153, R155): `ok` says that no uncorrectable error was met (R158). -/
def restoreDone (line : BitVec 18) (ok : Bool) (s : State) : State :=
  match s.mem.restores.find? (·.line == line) with
  | none => s
  | some x =>
    let s := modMem (fun m => { m with restores := m.restores.erase x }) s
    let good := (ok || !s.mem.eccOn) && restorePossible s line
    let s := if ok then s else dramError 0xFF (goldenSource s line x.region) s
    let s := if good then restoreLine line x.region s else restoreFail line s
    match x.job with
    | none => s
    | some (j, i) =>
      match getJob s j with
      | none => s
      | some job =>
        let r := getShare job i
        if r.st ≠ .restoring then s
        else if good then rerun j i r.core (modShare j i (fun r => { r with st := .waiting }) s)
        else waitLine j i line s

/-- Where the code of a share of a job lies inside the device. -/
def codeSpan (s : State) (j i : Nat) : Nat × Nat :=
  match getJob s j with
  | some job =>
    let r := getShare job i
    if place r.codeAddr.toNat = .host then (0, 0) else (r.codeAddr.toNat, r.codeLen.toNat)
  | none => (0, 0)

/-- A byte of wrong parity in the source of a step's code is a detection of the step (R82, R151), and where it lies in MGMT SRAM of MGMT
too (R126). The carafe returns its data, and that is no fault (R409). -/
def codeDetection (n a : Nat) (s : State) : State :=
  match place a with
  | .shm _ => shmStepDetection n (shmLine a) (countDet n s)
  | .cmem k | .buffers k | .pmem k => stepDetection n (coreParity k (coreReq n).code a s)
  | .sram => stepDetection n (countDet n (sramDetection s))
  | .carafe => carafeDetection (BitVec.ofNat 14 (a - carafeBase)) s
  | _ => s

/-- A job step starts on a core: that of the earliest deadline among its ready shares (R75), with its code read into PMEM (R82). Where the
read fails the job does (R121). -/
def stepBegin (n : Nat) (x : Answered) (s : State) : State :=
  if !coreReady s n then s
  else match startFirst (startable s n) with
    | none => s
    | some (_, _, j, i) =>
      match getJob s j with
      | none => s
      | some job =>
        let r := getShare job i
        if x = .never ∧ r.codeLen ≠ 0 then s
        else match codeRead n job r x s with
          | (.error e, s) => pacerSettle (jobStop j .fault 0x20 e s)
          | (.ok spoiled, s) =>
            let s := stepStart n j i job s
            if spoiled then stepDetection n (coreParity n (coreReq n).code (winBase n + offPmem) s)
            else match firstDamaged s (codeSpan s j i).1 (codeSpan s j i).2 with
              | none => s
              | some a => codeDetection n a s

/-- An agent has written a line that a step waits for: the step reruns (R155, R222). -/
def lineArrived (line : BitVec 18) (s : State) : State :=
  if !lineWritten s line then s
  else (s.pacer.jobs.filter (·.open_)).foldl (fun s j => (List.range j.nShares).foldl (fun s i =>
    let r := getShare j i
    if r.line = some line then
      rerun j.id i r.core (modShare j.id i (fun r => { r with line := none, st := if r.st = .restoring then .waiting else r.st }) s)
    else s) s) s

/-! ### Scrub (R156) -/

/-- `SCRUB_CTRL.RATE` in KiB per ms; 0 acts as 1 (R164). -/
def scrubRate (s : State) : Nat := max 1 (fld (getReg s pgShm 0 0x060) 19 8)

/-- The scrub reads the SHM offsets [lo, hi): every line of wrong parity there is a detection outside any job step. A line that its
slice does not serve is passed over. -/
def scrubRead (lo hi : Nat) (s : State) : State :=
  let bad := s.mem.damaged.filterMap fun e =>
    if shmBase + lo ≤ e.1 ∧ e.1 < shmBase + hi ∧ (placeRefusal s none true false 0 e.1).isNone = true then some (shmLine e.1) else none
  bad.eraseDups.foldl (fun s l => shmOtherDetection l s) s

/-- The lines that a pass may read by now at its rate, 250,000 ns / RATE each. -/
def scrubAdvance (s : State) : State :=
  if !s.mem.scrubBusy then s
  else
    let pos := s.mem.scrubPos.toNat
    let left := ((getReg s pgShm 0 0x068).toNat - pos) / 256
    let k := min left ((now s - s.mem.scrubFrom) * scrubRate s / 250000)
    let base := (getReg s pgShm 0 0x064).toNat + pos
    modMem (fun m => { m with
      scrubPos := BitVec.ofNat 27 (pos + 256 * k), scrubFrom := m.scrubFrom + cdiv (250000 * k) (scrubRate s) }) (scrubRead base (base + 256 * k) s)

/-- The scrub reaches the end of its range: SCRUB_DONE. Before that the event does not come about. -/
def scrubEnd (s : State) : State :=
  let s := scrubAdvance s
  if s.mem.scrubBusy ∧ (getReg s pgShm 0 0x068).toNat ≤ s.mem.scrubPos.toNat then
    raise pgShm 2 (modMem (fun m => { m with scrubBusy := false }) s)
  else s

/-! ### Pace monitors (R64) -/

/-- The voltage whose rate the pace monitors expect. During a rail transition that is the lower of the two: FLOOR_MV falls with the
write of a lower target, and rises only once a higher one has settled. -/
def paceVolt (s : State) : Nat := s.pacer.floor

/-- A 100 µs window of a core ends with `steps` counted; it counts only when the core was busy throughout. -/
def paceWindow (n : Nat) (busy : Bool) (steps : Nat) (s : State) : State :=
  if !busy || !corePresent s n || fenced s n then s
  else
    let slow := decide (steps < 97 * gsr s n (paceVolt s))
    let s := modHealth n (fun h => { h with paceLow := if slow then satInc h.paceLow else 0 }) s
    if 10 ≤ (getHealth s n).paceLow.toNat ∧ s.pacer.thermal = .none then fenceCore n 2 s else s

/-! ### The thermal path (R69) -/

/-- Every sensor reads below 100 °C. -/
def sensorsCool (s : State) : Bool :=
  (List.range 7).all fun i => decide ((storeGet (fun _ => (0 : BitVec 12)) s.power.temps i).toInt < 400)

/-- Order 1: new work is refused; an admission whose rail is rising fails, and the rail returns to the floor. A restoration of the
floor is abandoned: its rail goes on to the floor and its settling ends nothing. Jobs whose deadline is past already keep their
cause. -/
def thermalEnter (s : State) : State :=
  let s := modPacer (fun p => { p with
    thermal := .drain, thermalFrom := now s
    railUse := if p.railUse = .thermalRestore then .undo else p.railUse
    jobs := p.jobs.map fun j => if j.open_ && !j.overdue (now s) then { j with lateThermal := true } else j }) s
  let s := raise pgPacer 3 s
  if s.pacer.plan.isSome then railUndo (cmdFinish rThermal 0 s) else s

/-- Orders 4 and 5: drained, so the rail is lowered to 0.50 V, and the floor falls with it (R58, R390). -/
def thermalLower (s : State) : State :=
  if s.pacer.thermal = .drain ∧ thermalIsDrained s = true then
    railWrite 500 .thermalLow (modPacer (fun p => { p with thermal := .lowering, heldFloor := some (p.heldFloor.getD p.floor), floor := 500 }) s)
  else s

/-- The rail of the floor that accepted work needs; before the first acceptance, the fused boot voltage (R390). -/
def railHeld (s : State) : Nat := if s.pacer.accepted then workFloor s else s.fuses.bootMv.toNat

/-- The floor held by the thermal path is the present one again: its rail has settled. -/
def floorBack (s : State) : State := modPacer (fun p => { p with floor := p.heldFloor.getD p.floor, heldFloor := none }) s

/-- Order 6 begins: the floor of the accepted classes is written. -/
def thermalRestore (s : State) : State :=
  if s.pacer.thermal = .hold ∧ sensorsCool s = true ∧ s.pacer.settled = true then
    railWrite (railHeld s) .thermalRestore (modPacer (fun p => { p with thermal := .restoring }) s)
  else s

/-- Order 6 completes: new jobs are accepted again and the pace counts return to 0. -/
def thermalOver (s : State) : State :=
  modPacer (fun p => { p with
    thermal := .none
    health := (List.range 6).foldl (fun m n => storeMod (fun _ => {}) m n fun h => { h with paceLow := 0 }) p.health }) (floorBack s)

/-- 1 ms after a failed restoration, order 6 begins again (R69). -/
def thermalRetry (s : State) : State :=
  if s.pacer.thermal = .retry ∧ s.pacer.retryFrom + Config.ms ≤ now s then
    thermalRestore (modPacer (fun p => { p with thermal := .hold }) s)
  else s

/-! ### The rail as reported to the pacer (R56, R57, R69, R389) -/

/-- The rail is reported settled. -/
def railSettled (s : State) : State :=
  let use := s.pacer.railUse
  let s := modPacer (fun p => { p with settled := true, railUse := .none }) s
  match use with
  | .admitPlan => pacerSettle (admitDone s)
  | .thermalLow => thermalRestore (if s.pacer.thermal = .lowering then modPacer (fun p => { p with thermal := .hold }) s else s)
  | .thermalRestore => pacerSettle (thermalOver s)
  | .undo => pacerSettle (if s.pacer.thermal = .drain then floorBack s else s)
  | .none | .boot | .fall => pacerSettle s

/-- 200 µs have passed since the AVSBus write without a settled report (R57, R69). -/
def railTimeout (s : State) : State :=
  if s.pacer.settled || decide (now s < s.pacer.railFrom + 200 * Config.us) then s
  else match s.pacer.railUse with
    | .admitPlan => railUndo (raise pgPacer 6 (cmdFinish rRailTimeout 0 s))
    | .thermalRestore =>
      railWrite 500 .thermalLow (raise pgPacer 6 (modPacer (fun p => { p with thermal := .retry, retryFrom := now s }) s))
    | .undo | .fall => modPacer (fun p => { p with railUse := .none }) s
    | _ => s

end Sys2Proof.Machine
end

