-- ==== Sys2Proof/Machine/Pacer.lean ====
section
/-! DEFINITION. The pacer's registers and command queue (R45, R59, R73, R74, R76 to R80), and the events of a job's life
(R37 to R41, R44, R75). -/

namespace Sys2Proof.Machine

/-! ### Class entries (R43, R45, R77) -/

/-- A class register as it is written. -/
def ClassVals.write (v : ClassVals) (off : Nat) (w : Word) : ClassVals :=
  match off with
  | 0x400 => { v with prio := BitVec.ofNat 4 (fld w 7 4), spread := BitVec.ofNat 3 (fld w 10 8), link := bit w 11 }
  | 0x404 => { v with cost := w }
  | 0x408 => { v with stepMax := w.setWidth 17 }
  | 0x40C => { v with period := w }
  | 0x410 => { v with deadline := w.setWidth 20 }
  | 0x414 => { v with dram := w }
  | 0x418 => { v with decPix := w }
  | 0x41C => { v with stream := w.setWidth 9, decUs := BitVec.ofNat 16 (fld w 31 16) }
  | _ => v

/-- A class register as it reads. -/
def ClassVals.read (v : ClassVals) (off : Nat) : Word :=
  match off with
  | 0x400 => at_ 4 v.prio.toNat ||| at_ 8 v.spread.toNat ||| flag 11 v.link
  | 0x404 => v.cost
  | 0x408 => v.stepMax.setWidth 32
  | 0x40C => v.period
  | 0x410 => v.deadline.setWidth 32
  | 0x414 => v.dram
  | 0x418 => v.decPix
  | 0x41C => v.stream.setWidth 32 ||| at_ 16 v.decUs.toNat
  | _ => 0

def ClassSt.code : ClassSt → Nat
  | .free => 0
  | .defined => 1
  | .accepted => 2
  | .revoking => 3
  | .shed => 4

/-- The pending copy differs from the applied values. -/
def ClassEntry.pends (c : ClassEntry) : Bool :=
  match c.pend with
  | some v => v != c.vals
  | none => false

/-- A read of the class window: an ACCEPTED entry shows its pending copy (R22), which stands, with PEND = 1, until the instant at
which a SHRINK has applied it (DESIGN CHOICE: R77 does not say). -/
def classRead (s : State) (k off : Nat) : Word :=
  let c := getClass s k
  let w := (c.pend.getD c.vals).read off
  match off with
  | 0x400 => w ||| at_ 0 c.st.code ||| at_ 16 c.owner.toNat ||| flag 24 c.pends
  | 0x420 => c.notice
  | 0x424 => (List.range 6).foldl (fun m i => match storeGet (fun _ => none) c.cores i with
      | some n => m ||| flag n true
      | none => m) 0
  | 0x428 => (List.range 6).foldl (fun m i => m ||| at_ (3 * i) (match storeGet (fun _ => none) c.cores i with
      | some n => n.val
      | none => 7)) 0
  | _ => w

/-- A write of a class register (R45). -/
def classWrite (req : Byte) (k off : Nat) (w : Word) (s : State) : State :=
  let c := getClass s k
  if off = 0x424 ∨ off = 0x428 then s
  else if c.st = .free then
    modClass k (fun c => { c with st := .defined, owner := req, vals := c.vals.write off w, notice := if off = 0x420 then w else c.notice }) s
  else if c.owner ≠ req then recordErr pgPacer req ePermission (regAddr pgPacer off) s
  else if c.st = .revoking ∨ c.st = .shed then recordErr pgPacer req eWriteRunning (regAddr pgPacer off) s
  else if off = 0x420 then modClass k (fun c => { c with notice := w }) s
  else if c.st = .defined then modClass k (fun c => { c with vals := c.vals.write off w }) s
  else modClass k (fun c => { c with pend := some ((c.pend.getD c.vals).write off w) }) s

/-! ### The commands (R68, R73, R74, R78) -/

/-- The end of a notice that begins now. -/
def noticeEnd (s : State) (c : ClassEntry) : Nat := now s + c.notice.toNat * Config.us

/-- A requester that may revoke an entry it does not own, or fence: MGMT and PF0 (R78). -/
def codeIsOwner (req : Byte) : Bool := req == 0x00 || req == 0x10

/-- REVOKE (R73). -/
def revokeClass (k : Nat) (s : State) : State :=
  let c := getClass s k
  match c.st with
  | .free => cmdFinish rBadClass k s
  | .defined => cmdFinish 0 0 (raise pgPacer 7 (classFree k s))
  | .revoking => cmdFinish 0 0 s
  | .accepted | .shed =>
    pacerSettle (cmdFinish 0 0 (modClass k (fun c => { c with st := .revoking, noticeEnd := noticeEnd s c, pend := none }) s))

/-- A revocation with zero notice that is no command (R42, R80, R354, R433). Of a DEFINED entry it raises no REVOKE_DONE, which R73
gives for the command REVOKE (DESIGN CHOICE). -/
def revokeNow (k : Nat) (s : State) : State :=
  match (getClass s k).st with
  | .free => s
  | .defined => classFree k s
  | .revoking => modClass k (fun c => { c with noticeEnd := min c.noticeEnd (now s) }) s
  | .accepted | .shed => modClass k (fun c => { c with st := .revoking, noticeEnd := now s, pend := none }) s

/-- Revocations with zero notice of several classes; an admission that waits for its rail ends with them. -/
def revokeSome (ks : List Nat) (s : State) : State := planCheck (ks.foldl (fun s k => revokeNow k s) s)

/-- The limits of SHRINK (R74). -/
def shrinkOk (a b : ClassVals) : Bool :=
  decide (b.cost ≤ a.cost ∧ b.stepMax ≤ a.stepMax ∧ b.dram ≤ a.dram ∧ b.decPix ≤ a.decPix ∧ b.decUs ≤ a.decUs
    ∧ b.spread ≤ a.spread ∧ a.period ≤ b.period ∧ a.deadline ≤ b.deadline ∧ b.link = a.link ∧ b.stream = a.stream)

/-- The values that a SHRINK starts from: those of the last one that waits for its instant, else the applied ones. -/
def ClassEntry.lastVals (c : ClassEntry) : ClassVals :=
  match c.shrinks.getLast? with
  | some x => x.2
  | none => c.vals

/-- SHRINK (R74). A second one before the first one's instant follows it, and takes the place of those whose instants it does not
come after. -/
def shrinkClass (k : Nat) (s : State) : State :=
  let c := getClass s k
  if c.st ≠ .accepted then cmdFinish rBadClass k s
  else match c.pend with
    | none => cmdFinish 0 0 s
    | some v =>
      let t := noticeEnd s c
      if v = c.vals then cmdFinish 0 0 s
      else if !shrinkOk c.vals v || !shrinkOk c.lastVals v then cmdFinish rBadClass k s
      else pacerSettle (cmdFinish 0 0 (modClass k (fun c => { c with shrinks := c.shrinks.filter (fun x => decide (x.1 < t)) ++ [(t, v)] }) s))

/-- A command starts (R59, R78). Of another owner's entry SHRINK and RELEASE are PERMISSION, for MGMT and PF0 too, and RELEASE of an
entry that is not DEFINED is BAD_CLASS with WHICH = ARG: R78 gives neither (DESIGN CHOICE). -/
def runCommand (c : PacerCmd) (s : State) : State :=
  let s := modPacer (fun p => { p with running := some c, plan := none }) s
  let k := c.arg.toNat
  let e := getClass s k
  let mine := decide (e.owner = c.req) || decide (e.st = .free)
  match c.op.toNat with
  | 2 => if mine || codeIsOwner c.req then revokeClass k s else cmdRefuse k s
  | 3 => if mine then shrinkClass k s else cmdRefuse k s
  | 4 =>
    if !mine then cmdRefuse k s
    else if e.st = .defined then cmdFinish 0 0 (classFree k s) else cmdFinish rBadClass k s
  | 5 =>
    if !codeIsOwner c.req then cmdRefuse k s
    else if !corePresent s k then cmdFinish eFormat k s
    else cmdFinish 0 0 (fenceCore k 4 s)
  | 6 =>
    if !codeIsOwner c.req then cmdRefuse k s
    else if !corePresent s k then cmdFinish eFormat k s
    else if fenced s k then cmdFinish 0 0 (unfenceCore k s) else cmdFinish 0 0 s
  | _ => admitStart c s

/-- The next queued command starts, once none runs, ENABLE is 1 and no FUNC_RESET waits (R59, R80). A fall of the floor that it made
due, or that waited for it, follows (R58). -/
def nextCommand (s : State) : State :=
  if s.pacer.running.isSome || !(getHdr s pgPacer).enable || s.pacer.resetWait then s
  else match s.pacer.queue with
    | [] => s
    | c :: cs => floorFall (runCommand c (modPacer (fun p => { p with queue := cs }) s))

/-- Commands outstanding, the running one included (R59). -/
def cmdsOut (s : State) : Nat := s.pacer.queue.length + (if s.pacer.running.isSome then 1 else 0)

/-- A write of ADMIT_CMD (R59, R78, R79). It starts at once where nothing waits before it. -/
def pacerCommand (req : Byte) (op : BitVec 4) (arg : BitVec 6) (s : State) : State :=
  if op = 0 ∨ 7 < op.toNat then setResult req eFormat 0 true (cmdErr req eFormat s)
  else if Config.pacerQueue ≤ cmdsOut s then setResult req eCmdFull 0 false (cmdErr req eCmdFull s)
  else
    let first := s.pacer.queue.isEmpty
    let s := modResult req (fun r => { r with done := false })
      (modPacer (fun p => { p with queue := p.queue ++ [{ req := req, op := op, arg := arg }] }) s)
    if first then nextCommand s else s

/-- FUNC_RESET of the PACER page revokes every class with zero notice and waits for the last accepted job (R80). Queued commands
are discarded. -/
def pacerFuncReset (s : State) : State :=
  pacerSettle (modPacer (fun p => { p with resetWait := true, queue := [] }) (revokeSome (List.range 64) s))

/-! ### Reads of the PACER page (R76) -/

/-- `STAT.STATE`. IDLE is read while no class holds a reservation. -/
def pacerState (s : State) : Nat :=
  match s.pacer.thermal with
  | .drain => 4
  | .lowering | .hold | .restoring | .retry => 5
  | .none =>
    if s.pacer.plan.isSome then 3
    else if s.pacer.running.isSome then 2
    else if (List.range 64).any fun k => (getClass s k).standing then 1 else 0

/-- LOADn: the left side of R49 in units of gsr / 32,768, rounded up, and the shares placed. -/
def loadView (s : State) (n : Nat) : Word :=
  let ps := placedNow s
  let l := leftSide ps n
  let g := gsr s n s.pacer.floor
  let load := if g = 0 then 65535 else min 65535 (Frac.ceil (l.1 * 32768, l.2 * g))
  at_ 0 load ||| at_ 16 (min 255 (ps.filter (·.core == n)).length)

def healthView (s : State) (n : Nat) : Word :=
  let h := getHealth s n
  at_ 0 h.det.toNat ||| at_ 16 (h.strikeJob.elim 0 fun j => (storeGet (fun _ => 0) h.strikes j).toNat) ||| at_ 20 h.fenceCause.toNat ||| at_ 24 h.paceLow.toNat

/-- The own registers of the PACER page, for a requester. The registers of absent cores read 0,
and so does STAT.FENCED's bit of one (R4 does not say: DESIGN CHOICE, in the log). -/
def pacerView (s : State) (r : Requester) (chan off : Nat) : Word :=
  if 0x400 ≤ off then classRead s chan off
  else if off = 0x044 then
    at_ 0 (pacerState s) ||| at_ 4 (match s.pacer.reserve with
      | some n => n.val
      | none => 7)
      ||| (List.range 6).foldl (fun m n => m ||| flag (8 + n) (fenced s n)) 0 ||| at_ 16 (cmdsOut s)
  else if off = 0x048 then at_ 0 s.pacer.floor ||| at_ 16 s.pacer.railMv.toNat ||| flag 31 s.pacer.settled
  else if off = 0x04C then BitVec.ofNat 32 (dramSum (standingVals s)).ceil
  else if off = 0x050 then
    match codecSum s (standingVals s) with
    | some f => BitVec.ofNat 32 (Frac.ceil (f.1 * 1000, f.2))
    | none => 0
  else if off = 0x058 then
    let a := getResult s r.code
    at_ 0 a.result.toNat ||| at_ 8 a.seq.toNat ||| at_ 16 a.which.toNat ||| flag 31 a.done
  else if 0x070 ≤ off ∧ off < 0x088 then
    let n := (off - 0x070) / 4
    if corePresent s n then loadView s n else 0
  else if 0x090 ≤ off ∧ off < 0x0A8 then
    let n := (off - 0x090) / 4
    if corePresent s n then healthView s n else 0
  else if 0x100 ≤ off ∧ off < 0x1C0 then
    let n := (off - 0x100) / 0x20
    if corePresent s n then at_ 0 (gsrFuse s n ((off - 0x100) % 0x20 / 4)) else 0
  else 0

/-! ### A job's events -/

/-- t_r arrives (R38, R75): the job may start once it is ready. A linked job is released when its frame is bound (R39). -/
def jobRelease (id : Nat) (s : State) : State :=
  match getJob s id with
  | none => s
  | some j =>
    if j.open_ && !j.released && !j.unbound && decide (j.release ≤ now s) then modJob id (fun j => { j with released := true }) s else s

/-- An input is present (R348): data at acceptance; a bound frame once it is decoded, or written by the pixel front end; a gate
once its semaphore is met (R217). -/
def inputPresent (s : State) (j : Job) : JobInput → Bool
  | .data _ _ => true
  | .gate sem t _ _ => semMet (semCount s sem) t
  | .frame => match j.frame with
    | some (e, some n) =>
      bit (entReg s e 0) 1 || (getEnt s e).frames.any fun f => f.number == n && f.decoded && !f.dropped
    | _ => false

/-- The last input of a job is present: it becomes ready (R37). -/
def jobReady (id : Nat) (s : State) : State :=
  match getJob s id with
  | none => s
  | some j =>
    if j.open_ && j.ready.isNone && j.inputs.all (inputPresent s j) then modJob id (fun j => { j with ready := some (now s) }) s else s

/-- A job bound to a frame becomes ready with it (R307). -/
def framesReady (s : State) : State :=
  (s.pacer.jobs.filter fun j => j.open_ && j.frame.isSome).foldl (fun s j => jobReady j.id s) s

/-- A job's deadline passes (R41); the order of R41 follows from the deadline, and a drain may be reached (R69). -/
def deadlinePass (id : Nat) (s : State) : State :=
  match getJob s id with
  | none => s
  | some j => if j.open_ && j.overdue (now s) then pacerSettle (modJob id (fun j => { j with passed := true }) s) else s

/-- A share issues more than COST steps (R44): the job completes FAULT with cause OVERRUN. -/
def overrun (n : Nat) (s : State) : State :=
  match (getProc s n).run with
  | none => s
  | some (j, i) =>
    match getJob s j with
    | none => s
    | some job => if job.cost < (getShare job i).steps then pacerSettle (jobStop j .fault 0x21 0 s) else s

end Sys2Proof.Machine
end

