-- ==== Sys2Proof/Machine/Hostq.lean ====
section
/-! DEFINITION. The host queue block (R344 to R352, R359): doorbells, fetch, the checks and acceptance of a job, aborts,
completions and their interrupts. Queue 4f + q is queue q of function f; queues 64 to 67 are firmware's. -/

namespace Sys2Proof.Machine

def getQueue (s : State) (q : Nat) : Queue := storeGet (fun _ => {}) s.pcie.queues q

def modQueue (q : Nat) (f : Queue → Queue) (s : State) : State :=
  modPcie (fun p => { p with queues := storeMod (fun _ => {}) p.queues q f }) s

/-- The cell of Q_CTRL and the ring's depth n. -/
def qCtrl (s : State) (q : Nat) : Word := getReg s pgHostq q 0x400
def qDepth (s : State) (q : Nat) : Nat := fld (qCtrl s q) 27 16 + 1

/-- The function of a queue; firmware's queues have none. -/
def queueFn (q : Nat) : Option Nat := if q < 64 then some (q / 4) else none

/-- The requester code that a queue's jobs are submitted under. -/
def queueOwner (q : Nat) : Byte :=
  match queueFn q with
  | some f => BitVec.ofNat 8 (0x10 + f)
  | none => 0

/-- A queue as it stands right after it is enabled. -/
def Queue.fresh (x : Queue) (en : Bool) : Queue := { en := en, epoch := x.epoch + 1, linkEpoch := x.linkEpoch }

/-- A queue is disabled and its contents are forgotten (R354, order 1). -/
def queueReset (q : Nat) (s : State) : State :=
  let s := modPcie (fun p => { p with fetched := p.fetched.filter fun e => e.queue.val != q }) s
  modQueue q (·.fresh false) s

/-! ### Registers (R359) -/

/-- A write of Q_CTRL. With EN = 1 the fields marked "disabled only" are held. -/
def qCtrlWrite (r : Requester) (q : Nat) (v : Word) (s : State) : State :=
  let x := getQueue s q
  let w := v &&& 0x0FFF03F0
  if x.en then
    let s := if w = qCtrl s q then s else regErr pgHostq 0x400 r eWriteRunning s
    if bit v 0 then s else modQueue q (fun x => { x with en := false }) s
  else if fld v 27 16 < 63 then regErr pgHostq 0x400 r eFormat s
  else
    let s := setReg pgHostq q 0x400 w s
    if bit v 0 then modQueue q (·.fresh true) s else s

/-- A doorbell: ignored while the queue is disabled; a value of n or more is ignored and records FORMAT (R344). -/
def doorbell (r : Requester) (q off : Nat) (v : Word) (f : BitVec 12 → Queue → Queue) (s : State) : State :=
  if !(getQueue s q).en then s
  else if qDepth s q ≤ fld v 11 0 then raise pgHostq 1 (regErr pgHostq off r eFormat s)
  else modQueue q (f (v.setWidth 12)) s

def sqDoorbell (r : Requester) (q : Nat) (v : Word) (s : State) : State :=
  doorbell r q 0x420 v (fun t x => { x with sqTail := t }) s

/-- The CQ head doorbell frees the slots of the completions consumed (R345). -/
def cqDoorbell (r : Requester) (q : Nat) (v : Word) (s : State) : State :=
  let n := qDepth s q
  doorbell r q 0x424 v (fun h x => { x with
    cqHead := h, outst := x.outst - BitVec.ofNat 12 ((h.toNat + n - x.cqHead.toNat) % n) }) s

/-- The own registers of the HOSTQ window. The queues of a function that does not exist read zero (R338). -/
def hostqView (s : State) (q off : Nat) : Word :=
  let x := getQueue s q
  match off with
  | 0x400 => qCtrl s q ||| flag 0 x.en
  | 0x418 => at_ 0 x.sqHead.toNat ||| at_ 16 x.outst.toNat
  | 0x41C => at_ 0 x.cqTail.toNat ||| flag 31 x.phase
  | 0x420 => at_ 0 x.sqTail.toNat
  | 0x424 => at_ 0 x.cqHead.toNat
  | _ => 0

/-- Whether a queue's function exists. -/
def queueExists (s : State) (q : Nat) : Bool :=
  match queueFn q with
  | some f => fnExists s f
  | none => true

/-! ### Fetch (R344, R345, R75) -/

/-- A queue's ring can be reached: host memory for a function, the device's own memory for firmware. -/
def queueReady (s : State) (q : Nat) : Bool :=
  match queueFn q with
  | some f => fnExists s f && fnCanSend s f
  | none => true

/-- Where the SQ entry at the head lies: a host address for a function's queue, an address of the device's for firmware's. -/
def sqAddr (s : State) (q : Nat) : Nat :=
  let a := (pair64 (getReg s pgHostq q 0x408) (getReg s pgHostq q 0x404)).toNat + 64 * (getQueue s q).sqHead.toNat
  if (queueFn q).isSome then a else a % 2 ^ 40

/-- The words of the SQ entry at the head. -/
def sqEntry (s : State) (q : Nat) : List Word :=
  let base := sqAddr s q
  (List.range 16).map fun i =>
    if (queueFn q).isSome then BitVec.ofNat 32 (ofBytes ((List.range 4).map fun k => hostByte s (base + 4 * i + k)))
    else memWord s (base + 4 * i)

/-- The OP of an entry. -/
def entryOp (ws : List Word) : Nat := fld (ws.getD 0 0) 7 6

/-- Why the queue block's access of a firmware queue ring is refused: a ring may stand in MGMT SRAM (R162, R344). -/
def hostqRefusal (s : State) (write : Bool) (a len : Nat) : Option Byte :=
  if place a = .sram ∧ place (a + len - 1) = .sram then none else devRefusal s write a len

/-- The read of an SQ entry: a request of the function's, or a read of the device's own memory (R344), which may fail. -/
def sqRead (q : Nat) (x : Answered) (s : State) : Bool × State :=
  let a := sqAddr s q
  match queueFn q with
  | some f => (true, send (.hostRead (Fin.ofNat 16 f) (BitVec.ofNat 64 a) 64) s)
  | none => match hostqRefusal s false a 64 with
    | some c => (false, devFails pgHostq .other c a s)
    | none => match devAnswer pgHostq .other a 64 x s with
      | (.error _, s) => (false, s)
      | (.ok _, s) => (true, s)

/-- The queue block fetches an entry while OUTST < n − 1. An ABORT entry takes no completion, so it does not count. DESIGN CHOICE: an
entry whose read fails is not fetched; the failure is recorded and SQ_HEAD stays. -/
def sqFetch (q : Fin 68) (ans : Answered) (s : State) : State :=
  let x := getQueue s q
  let n := qDepth s q
  if !x.en || !queueReady s q || !domOn s 15 || !(getHdr s pgHostq).enable || x.sqHead == x.sqTail || !decide (x.outst.toNat + 1 < n) then s
  else
    let ws := sqEntry s q
    match sqRead q ans s with
    | (false, s) => s
    | (true, s) =>
      let head := BitVec.ofNat 12 ((x.sqHead.toNat + 1) % n)
      let s := modQueue q (fun x => { x with sqHead := head, outst := if entryOp ws = 1 then x.outst else x.outst + 1 }) s
      modPcie (fun p => { p with fetched := p.fetched ++ [{ queue := q, epoch := (getQueue s q).epoch, sqHead := head, words := ws }] }) s

/-! ### A JOB entry (R346 to R349) -/

/-- The fields of an SQ entry. -/
structure SqFields where
  cls : Nat
  op : Nat
  nin : Nat
  tag : BitVec 16
  noIrq : Bool
  prog : Addr
  inlist : Addr
  out : Addr
  release : Nat
  outLen : Word
  deriving DecidableEq, Repr

def sqFields (ws : List Word) : SqFields :=
  let w (i : Nat) : Word := ws.getD i 0
  { cls := fld (w 0) 5 0, op := fld (w 0) 7 6, nin := fld (w 0) 15 8, tag := BitVec.ofNat 16 (fld (w 0) 31 16), noIrq := bit (w 1) 0
    prog := addrOf (w 3) (w 2), inlist := addrOf (w 5) (w 4), out := addrOf (w 7) (w 6)
    release := (pair64 (w 9) (w 8)).toNat, outLen := w 10 }

/-- Bytes that the queue block reads for a submitter. -/
def submitBytes (s : State) (owner : Byte) (a n : Nat) : List Byte :=
  if place a = .host then
    let f := (fnOf owner).getD 0
    (List.range n).map fun i => hostByte s (hostAddr s f a + i)
  else memBytes s a n

def submitWord (s : State) (owner : Byte) (a : Nat) : Word := BitVec.ofNat 32 (ofBytes (submitBytes s owner a 4))

/-- A range outside a submitter's reach, or a hole (R349). -/
def rangeRefusal (s : State) (owner : Byte) (write : Bool) (lo len : Nat) : Option Byte :=
  if len = 0 then none else submitRefusal s owner write lo len

/-- Why the queue block cannot read a list or a handle: its range is out of reach, or the memory does not answer (DESIGN CHOICE: the
entry is rejected with that code). -/
def listRefusal (s : State) (owner : Byte) (lo len : Nat) : Option Byte :=
  if len = 0 then none
  else (submitRefusal s owner false lo len).orElse fun _ => rangeRefused (placeRefusal s none true false ((fnOf owner).getD 0)) lo len

/-- An input-list entry; `none` for a KIND that does not exist. -/
def inputOf (s : State) (owner : Byte) (a : Nat) : Option JobInput :=
  let w (i : Nat) := submitWord s owner (a + 4 * i)
  match fld (w 0) 3 0 with
  | 1 => some (.data (addrOf (w 2) (w 1)) (w 3))
  | 2 => some .frame
  | 3 => some (.gate (Fin.ofNat 256 (fld (w 0) 15 8)) ((w 1).setWidth 24) ((w 2).setWidth 26) (w 3))
  | _ => none

def JobInput.isFrame : JobInput → Bool
  | .frame => true
  | _ => false

def JobInput.isGate : JobInput → Bool
  | .gate _ _ _ _ => true
  | _ => false

/-- The range of an input, and its refusal. -/
def inputRefusal (s : State) (owner : Byte) : JobInput → Option Byte
  | .data a n => rangeRefusal s owner false a.toNat n.toNat
  | .gate _ _ off n => rangeRefusal s owner false (shmBase + off.toNat) n.toNat
  | .frame => none

/-- The share record i of a program handle (R347). The core is the one that holds the share (R463). -/
def shareRecord (s : State) (owner : Byte) (prog : Nat) (c : ClassEntry) (i : Nat) : ShareRun :=
  let w (j : Nat) := submitWord s owner (prog + 16 + 16 * i + 4 * j)
  { core := (storeGet (fun _ => none) c.cores i).getD 0
    codeAddr := addrOf (w 1) (w 0), codeLen := BitVec.ofNat 32 (min 32768 (w 2).toNat)
    carryBase := fld (w 3) 14 0, carryRows := fld (w 3) 31 16 }

/-- The checks of R349 on a JOB entry, by the values that its release runs under (R74): the DETAIL of a failure, or the inputs and the
shares. -/
def entryCheck (s : State) (owner : Byte) (vals : ClassVals) (x : SqFields) : Except Byte (List JobInput × List ShareRun) :=
  let c := getClass s x.cls
  if x.op ≠ 0 ∨ 64 < x.nin ∨ x.inlist.toNat % 16 ≠ 0 then .error eFormat
  else match (listRefusal s owner x.inlist.toNat (16 * x.nin)).orElse fun _ =>
      (listRefusal s owner x.prog.toNat (16 + 16 * vals.spread.toNat)).orElse fun _ => rangeRefusal s owner true x.out.toNat x.outLen.toNat with
    | some e => .error e
    | none =>
      let ins := (List.range x.nin).map fun i => inputOf s owner (x.inlist.toNat + 16 * i)
      let inputs := ins.filterMap id
      if ins.any (·.isNone) || fld (submitWord s owner x.prog.toNat) 2 0 != vals.spread.toNat
          || decide (1 < (inputs.filter (·.isFrame)).length) || (inputs.any (·.isFrame) && !vals.link)
          || decide (8 < (inputs.filter (·.isGate)).length) then .error eFormat
      else match inputs.findSome? (inputRefusal s owner) with
        | some e => .error e
        | none =>
          let shares := (List.range vals.spread.toNat).map (shareRecord s owner x.prog.toNat c)
          if shares.any fun r => decide (vals.stepMax.toNat < r.carryRows) || decide (32768 < r.carryBase + r.carryRows) then .error eFormat
          else .ok (inputs, shares)

/-- The oldest analysed frame of an entry that no job has bound (R303). -/
def unboundFrame (s : State) (e : Nat) : Option ClosedFrame := (getEnt s e).frames.find? fun f => f.analysed && !f.bound

/-- The release time that the pacer takes: the descriptor's, or the acceptance instant for 0 or a time past; a bound frame's
arrival for a linked class (R38, R39). -/
def askedRelease (s : State) (x : SqFields) (frame : Option ClosedFrame) : Nat :=
  match frame with
  | some f => f.arrive
  | none => max x.release (now s)

/-- Why the pacer rejects a job: NOT_ACCEPTED, REVOKED, SHED or THERMAL, in this order (R71, R73, R80). DESIGN CHOICE: a job of a class
both SHED and REVOKING is rejected, with SHED where its release lies before the end of the notice (R67, R73); a linked job that no frame
is bound to yet is judged against the notice by its descriptor's RELEASE (R73). -/
def rejectCause (s : State) (owner : Byte) (x : SqFields) (frame : Option ClosedFrame) : Option Byte :=
  let c := getClass s x.cls
  if !(getHdr s pgPacer).enable || c.owner != owner || c.st == .free || c.st == .defined then some 0x10
  else if c.st = .revoking ∧ c.noticeEnd ≤ releaseTime s x.cls (askedRelease s x frame) then some 0x12
  else if c.st = .shed ∨ (c.st = .revoking ∧ (storeGet (fun _ => none) c.cores 0).isNone) then some 0x11
  else if s.pacer.thermal ≠ .none then some 0x03
  else none

/-- A job as the entry and the handle give it, with its outcome where it is rejected. -/
def newJob (s : State) (e : FetchedEntry) (x : SqFields) (inputs : List JobInput) (shares : List ShareRun) (ended : Option JobEnd) : Job :=
  { id := s.pacer.nextJob, cls := Fin.ofNat 64 x.cls, owner := queueOwner e.queue, queue := e.queue, epoch := e.epoch, tag := x.tag
    noIrq := x.noIrq, prog := x.prog, out := x.out, outLen := x.outLen, sqHead := e.sqHead, inputs := inputs
    release := now s, deadline := now s, released := false, ready := none, passed := false, held := false
    shares := (shares.zipIdx).foldl (fun m r => storeSet (fun _ => {}) m r.2 r.1) [], nShares := shares.length, cost := 0
    start := if ended.isSome then some (now s) else none, cores := 0, reruns := 0, detBy := []
    lateThermal := false, lateFence := false, lateInput := false, abort := false, frame := none, ended := ended }

def addJob (j : Job) (s : State) : State := modPacer (fun p => { p with jobs := p.jobs ++ [j], nextJob := p.nextJob + 1 }) s

/-- A job completes REJECTED at once. -/
def rejectJob (e : FetchedEntry) (x : SqFields) (cause detail : Byte) (s : State) : State :=
  addJob (newJob s e x [] [] (some { status := .rejected, cause := cause, detail := detail, time := now s })) s

/-- Acceptance (R37 to R39, R303): the release is set, and a linked class's job is bound to a frame; one that gives no output ends it
at once (R308). Its SPREAD's shares are those of its acceptance, also where a frame bound later gives it the D and COST of a SHRINK; an
unbound job's provisional release holds such a SHRINK back (R74 does not say: DESIGN CHOICE, in the log). -/
def acceptJob (e : FetchedEntry) (x : SqFields) (inputs : List JobInput) (shares : List ShareRun) (frame : Option ClosedFrame) (s : State) : State :=
  let v := (getClass s x.cls).vals
  let id := s.pacer.nextJob
  let s := addJob (newJob s e x inputs shares none) s
  let ent : Fin 512 := Fin.ofNat 512 v.stream.toNat
  if v.link then
    match frame with
    | some f =>
      let s := modEnt ent (fun y => { y with frames := y.frames.map fun g => if g.number = f.number then { g with bound := true } else g }) s
      let s := setRelease id x.cls f.arrive (modJob id (fun j => { j with frame := some (ent, some f.number) }) s)
      if f.dropped then endJob id .late 1 0 s else s
    | none => modJob id (fun j => { j with frame := some (ent, none) }) s
  else setRelease id x.cls (askedRelease s x none) s

/-- The front fetched entry, when its OP is the one asked for (ABORT, or any other). -/
def frontEntry (s : State) (abort : Bool) : Option (FetchedEntry × List FetchedEntry) :=
  match s.pcie.fetched with
  | e :: es => if (entryOp e.words == 1) == abort then some (e, es) else none
  | [] => none

/-- The queue block's read of a list or a handle, or the code with which it fails. One that a memory refuses is counted (R161). -/
def listRead (owner : Byte) (a n : Nat) (ans : Answered) (s : State) : Option Byte × State :=
  if n = 0 then (none, s)
  else match submitRefusal s owner false a n, listRefusal s owner a n with
    | some e, _ => (some e, s)
    | none, some e => (some e, countRefusal e s)
    | none, none =>
      if place a = .host then (none, hostReadSent ((fnOf owner).getD 0) a n s)
      else match devAnswer pgHostq .other a n ans s with
        | (.error e, s) => (some e, s)
        | (.ok _, s) => (none, s)

/-- The reads that the checks of an entry need: its input list, then its program's handle. -/
def listsRead (owner : Byte) (vals : ClassVals) (x : SqFields) (ans : Answered) (s : State) : Option Byte × State :=
  if x.op ≠ 0 ∨ 64 < x.nin ∨ x.inlist.toNat % 16 ≠ 0 then (none, s)
  else match listRead owner x.inlist.toNat (16 * x.nin) ans s with
    | (some e, s) => (some e, s)
    | (none, s) => listRead owner x.prog.toNat (16 + 16 * vals.spread.toNat) ans s

/-- A JOB entry is checked and handed to the pacer (R349). DESIGN CHOICE: one whose list or handle cannot be read is rejected, with the
read's code as its DETAIL. -/
def jobEntry (ans : Answered) (s : State) : State :=
  match frontEntry s false with
  | none => s
  | some (e, es) =>
    let s := modPcie (fun p => { p with fetched := es }) s
    let x := sqFields e.words
    let owner := queueOwner e.queue
    let c := getClass s x.cls
    let frame := if c.vals.link then unboundFrame s c.vals.stream.toNat else none
    let vals := classValsAt c (releaseTime s x.cls (askedRelease s x frame))
    match listsRead owner vals x ans s with
    | (some code, s) => rejectJob e x 0x10 code s
    | (none, s) =>
      match entryCheck s owner vals x with
      | .error code => rejectJob e x 0x10 code s
      | .ok (inputs, shares) =>
        match rejectCause s owner x frame with
        | some cause => rejectJob e x cause 0 s
        | none => acceptJob e x inputs shares frame s

/-- An ABORT entry (R350, R72). -/
def abortEntry (s : State) : State :=
  match frontEntry s true with
  | none => s
  | some (e, es) =>
    let s := modPcie (fun p => { p with fetched := es }) s
    let x := sqFields e.words
    let hits := s.pacer.jobs.filter fun j => j.open_ && j.queue == e.queue && j.tag == x.tag
    if hits.isEmpty then countWrap pgHostq 0 0x040 s
    else hits.foldl (fun s j => pacerSettle (jobSettle j.id (modJob j.id (fun j => { j with abort := true }) s))) s

/-! ### Completions (R351, R352) -/

def JobStatus.code : JobStatus → Nat
  | .ok => 0
  | .late => 1
  | .rejected => 2
  | .aborted => 3
  | .fault => 4

/-- The words of a CQ entry. -/
def cqWords (j : Job) (d : JobEnd) (phase : Bool) : List Word :=
  [at_ 0 j.tag.toNat ||| at_ 16 d.status.code ||| at_ 24 d.cause.toNat,
   at_ 0 d.detail.toNat ||| at_ 8 j.cores.toNat ||| at_ 16 (min 255 j.reruns),
   at_ 0 (j.start.getD d.time), at_ 0 d.time, at_ 0 j.sqHead.toNat ||| at_ 16 (j.queue.val % 4),
   at_ 0 j.release, at_ 0 j.deadline, flag 31 phase]

/-- Signal a queue's unsignalled completions: its vector, or FW_CPL for a firmware queue (R352). -/
def queueSignal (q : Nat) (s : State) : State :=
  let s := modQueue q (fun x => { x with unsignalled := 0 }) s
  match queueFn q with
  | some f => msixRaise f (fld (qCtrl s q) 8 4) s
  | none => raise pgHostq 0 s

/-- A queue whose unsignalled completions have reached IRQ_AGG.COUNT signals (R352). -/
def queueEval (q : Nat) (s : State) : State :=
  let x := getQueue s q
  if bit (qCtrl s q) 9 && decide (x.unsignalled ≠ 0) && decide (max 1 (fld (getReg s pgHostq q 0x414) 7 0) ≤ x.unsignalled) then queueSignal q s
  else s

/-- A completion has been written: count it towards an interrupt. -/
def queueCount (q : Nat) (noIrq : Bool) (s : State) : State :=
  queueEval q (if noIrq then s else modQueue q (fun x => { x with
    unsignalled := x.unsignalled + 1, oldest := if x.unsignalled = 0 then now s else x.oldest }) s)

/-- A write into a firmware queue ring, by devPut's rules. -/
def hostqPut (a : Nat) (bs : List Byte) (s : State) : State :=
  match hostqRefusal s true a bs.length with
  | none => devWrite pgHostq .other a bs s
  | some c => devFails pgHostq .other c a s

/-- Write the CQ entry of a completed job at CQ_TAIL. -/
def cqWrite (j : Job) (d : JobEnd) (s : State) : State :=
  let q := j.queue.val
  let x := getQueue s q
  let bytes := (cqWords j d x.phase).flatMap fun w => bytesOf 4 w.toNat
  let base := (pair64 (getReg s pgHostq q 0x410) (getReg s pgHostq q 0x40C)).toNat + 32 * x.cqTail.toNat
  let s := match queueFn q with
    | some f => hostPut base bytes (send (.hostWrite (Fin.ofNat 16 f) (BitVec.ofNat 64 base) bytes) s)
    | none => hostqPut (base % 2 ^ 40) bytes s
  let wraps := decide (qDepth s q ≤ x.cqTail.toNat + 1)
  let s := modQueue q (fun x => { x with
    cqTail := if wraps then 0 else x.cqTail + 1, phase := if wraps then !x.phase else x.phase }) s
  queueCount q j.noIrq s

/-- A completion reaches the host queue block and its CQ write is issued (R41, R351); completions of an earlier incarnation of
the queue are discarded, and counted in CPL_LOST where the link was lost (R354, R356). -/
def completionHandoff (id : Nat) (s : State) : State :=
  match getJob s id with
  | none => s
  | some j =>
    match j.ended with
    | none => s
    | some d =>
      let s := modPacer (fun p => { p with jobs := p.jobs.filter fun x => x.id != id }) s
      let s := match d.status with
        | .late => raise pgPacer 2 (countWrap pgPacer 0 0x05C s)
        | .rejected => countWrap pgPacer 0 0x068 s
        | _ => s
      let x := getQueue s j.queue
      if x.epoch ≠ j.epoch then (if j.epoch < x.linkEpoch then countWrap pgHostq 0 0x044 s else s)
      else if !queueReady s j.queue then countWrap pgHostq 0 0x044 s
      else cqWrite j d s

/-- TIME_US has passed since the oldest unsignalled completion (R352). -/
def irqAggTimeout (q : Nat) (s : State) : State :=
  let x := getQueue s q
  let agg := getReg s pgHostq q 0x414
  if bit (qCtrl s q) 9 && decide (x.unsignalled ≠ 0) && decide (fld agg 31 16 ≠ 0)
      && decide (x.oldest + fld agg 31 16 * Config.us ≤ now s) then queueSignal q s else s

end Sys2Proof.Machine
end

