-- ==== Sys2Proof/Machine/Pcie.lean ====
section
/-! DEFINITION. The PCIe endpoint (R337 to R343, R352 to R358, R387): functions and their MSI-X, function reset, link loss and
training, configuration requests, and the PTM dialogue with what TIME takes from it (R395). -/

namespace Sys2Proof.Machine

/-! ### MSI-X (R339, R352) -/

/-- Send the pending messages of a function that may now leave. -/
def msixFlush (f : Nat) (s : State) : State :=
  (List.range 32).foldl (fun s v =>
    let pend := storeGet (fun _ => (0 : Word)) s.pcie.msixPending f
    if bit pend v then
      msixRaise f v (modPcie (fun p => { p with msixPending := storeMod (fun _ => 0) p.msixPending f (· &&& ~~~(oneBit 32 v)) }) s)
    else s) s

/-- A write of the MSI-X table: the vector control word holds its mask bit alone. -/
def msixTableWrite (f i : Nat) (w : Word) (s : State) : State :=
  let w := if i % 4 = 3 then w &&& 1 else w
  msixFlush f (modPcie (fun p => { p with msixTable := storeSet msixInit p.msixTable (f * 128 + i) w }) s)

/-- The MSI-X state of a function returns to reset, and its window base to 0 (R354, order 4). -/
def msixReset (f : Nat) (s : State) : State :=
  let s := modPcie (fun p => { p with
    msixTable := p.msixTable.filter fun e => e.1 / 128 != f, msixPending := storeSet (fun _ => 0) p.msixPending f 0 }) s
  let s := modFn f (fun x => { x with bme := false, msixEn := false, msixMask := false }) s
  setReg pgPcie f 0x408 0 (setReg pgPcie f 0x404 0 s)

/-! ### Function reset and link loss (R42, R354 to R356) -/

/-- The reset of one function (R354). Its classes are revoked with zero notice, its channels stop; grants and channel ownership
are kept. -/
def fnReset (f : Nat) (s : State) : State :=
  let code : Byte := BitVec.ofNat 8 (0x10 + f)
  let s := (List.range 4).foldl (fun s q => queueReset (4 * f + q) s) s
  let s := revokeSome ((List.range 64).filter fun k => (getClass s k).owner == code) s
  let s := (List.range 32).foldl (fun s c => if chanOwner s c = code then chanStop c s else s) s
  pacerSettle (challengeDrop (modFn f (fun x => { x with flrBusy := true }) (msixReset f s)))

/-- Every class of a function passes to MGMT (R356, order 2). -/
def adoptClasses (s : State) : State :=
  modPacer (fun p => { p with classes := (List.range 64).foldl (fun m k => storeMod (fun _ => {}) m k fun c =>
    if 0x10 ≤ c.owner.toNat ∧ c.owner.toNat ≤ 0x1F then { c with owner := 0 } else c) p.classes }) s

/-- What the loss of the link does to every function (R356). -/
def linkFunctions (s : State) : State :=
  let s := (List.range 64).foldl (fun s q => modQueue q (fun x => { x with linkEpoch := x.epoch }) (queueReset q s)) s
  let s := (List.range 16).foldl (fun s f => msixReset f s) s
  if bit (getReg s pgPcie 0 0x044) 0 then adoptClasses s else s

/-- The link goes down, if it was up, and configuration space resets with it (R356, R358, R398). -/
def linkLoss (s : State) : State :=
  let was := s.pcie.linkUp
  let s := linkFunctions (modPcie (fun p => { p with
    linkUp := false, training := false, speed := 0, width := 0, vfEnable := false, numVfs := 0, ptmEnabled := false, ptmAt := none }) s)
  if was then raise pgPcie 0 (modReg pgPcie 0 0x040 (fun w => w + 0x10000) s) else s

/-- Link training starts by itself, with PERST# released and PD15 ON, once the ROM has started (R387, R449). -/
def linkTrain (s : State) : State :=
  if s.pcie.perst || s.pcie.linkUp || !domOn s 15 || !s.reset_.romStarted then s else modPcie (fun p => { p with training := true }) s

/-- Link training completes (R358). -/
def linkUp (speed : BitVec 3) (width : BitVec 4) (s : State) : State :=
  if !s.pcie.training || !domOn s 15 then s
  else raise pgPcie 0 (modPcie (fun p => { p with linkUp := true, training := false, speed := speed, width := width }) s)

/-! ### Configuration requests (R337, R338) -/

/-- Vendor and device ID of a function: a VF's device ID is the PF's plus 1. -/
def pciId (s : State) (f : Nat) : Word :=
  let w : Word := BitVec.ofNat 32 (0x1F5B + 65536 * hwType s.fuses.variant)
  if f = 0 then w else w + 0x10000

/-- The class code of a processing accelerator. -/
def classCode : Word := 0x120000

/-- The capabilities that the device supports; it supports no other (R337). -/
def hasCap : PcieCap → Bool
  | .msix | .sriov | .aer | .flr | .ptm | .aspmL1 => true
  | .msi | .intx | .ats | .pasid | .l0s | .resizableBar => false

/-- VF Enable and NumVFs are set: a function that no longer exists loses what configuration requests had set in it. -/
def vfEnable (on : Bool) (num : Nat) (s : State) : State :=
  let s := modPcie (fun p => { p with vfEnable := on, numVfs := BitVec.ofNat 4 num }) s
  (List.range 16).foldl (fun s f => if fnExists s f then s else modFn f (fun x => { x with bme := false, msixEn := false, msixMask := false }) s) s

/-- A configuration request of the host, which the block answers from the start of link training (R449). -/
def configRequest (r : ConfigRequest) (s : State) : State :=
  if !s.pcie.linkUp && !s.pcie.training then s
  else match r with
    | .vfEnable on num => vfEnable on num s
    | .busMaster f on => if fnExists s f then msixFlush f (modFn f (fun x => { x with bme := on }) s) else s
    | .msixEnable f on mask =>
      if fnExists s f then msixFlush f (modFn f (fun x => { x with msixEn := on, msixMask := mask }) s) else s
    | .ptmEnable on => modPcie (fun p => { p with ptmEnabled := on }) s
    | .identity f => if fnExists s f then send (.configData [pciId s f, classCode]) s else s
    | .capability c => send (.configData [flag 0 (hasCap c)]) s

/-! ### PTM and its use by TIME (R357, R395, R416) -/

/-- The signed difference of two times, as R395 takes it. -/
def ptmError (master local_ : DWord) : Int := (master - local_).toInt

/-- TIME takes a valid dialogue: ERR_NS, FAR, and with DISC = 1 the rate, which is at the limit while the error is far. -/
def timeDiscipline (e : Int) (s : State) : State :=
  let far := decide (1000000 < e) || decide (e < -1000000)
  let s := modTime (fun t => { t with errNs := BitVec.ofInt 32 (clampInt (-2147483648) 2147483647 e), far := far }) s
  let s := if far then raise pgTime 0 s else s
  let cfg := getReg s pgTime 0 0x048
  if fld cfg 1 0 = 1 then
    let ppb : Int := if far then (if e < 0 then -200000 else 200000) else clampInt (-200000) 200000 (e * 1000 / (max 1 (fld cfg 31 16) : Nat))
    setReg pgTime 0 0x04C ((BitVec.ofInt 20 ppb).setWidth 32) s
  else s

/-- INTERVAL_MS have passed since the last dialogue, or there has been none; 0 acts as 1 (R357). -/
def ptmDue (s : State) : Bool :=
  s.pcie.ptmAt.all fun t => decide (t + max 1 (fld (getReg s pgPcie 0 0x050) 15 8) * Config.ms ≤ now s)

/-- A PTM dialogue ends (R357). -/
def ptmDialogue (ok : Bool) (master : DWord) (delay : BitVec 16) (s : State) : State :=
  if !bit (getReg s pgPcie 0 0x050) 0 || !s.pcie.ptmEnabled || !s.pcie.linkUp || !ptmDue s then s
  else if !ok then modReg pgPcie 0 0x054 (· &&& 0x7FFFFFFF) (modPcie (fun p => { p with ptmAt := some (now s) }) s)
  else
    let s := modPcie (fun p => { p with ptmAt := some (now s) }) s
    let s := setReg pgPcie 0 0x068 (delay.setWidth 32) (setPair pgPcie 0 0x060 master (setPair pgPcie 0 0x058 s.time.now s))
    let s := modReg pgPcie 0 0x054 (fun w => flag 31 true ||| at_ 0 ((fld w 15 0 + 1) % 65536)) s
    raise pgPcie 1 (timeDiscipline (ptmError master s.time.now) s)

/-! ### Registers (R358) -/

/-- CLASS_GIVE: MGMT alone returns a class to a function. -/
def classGive (r : Requester) (v : Word) (s : State) : State :=
  let o := fld v 15 8
  if r ≠ .mgmt then regErr pgPcie 0x070 r ePermission s
  else if o < 0x10 ∨ 0x1F < o then regErr pgPcie 0x070 r eFormat s
  else modClass (fld v 5 0) (fun c => if c.st = .free then c else { c with owner := BitVec.ofNat 8 o }) s

/-- The own registers of the PCIE page. -/
def pcieView (s : State) (chan off : Nat) : Word :=
  match off with
  | 0x040 => getReg s pgPcie 0 0x040 ||| flag 0 s.pcie.linkUp ||| at_ 1 s.pcie.speed.toNat ||| at_ 4 s.pcie.width.toNat
  | 0x04C => if s.pcie.vfEnable then at_ 0 s.pcie.numVfs.toNat else 0
  | 0x400 => if !fnExists s chan then 0 else flag 0 (fnExists s chan) ||| flag 1 (getFn s chan).bme ||| flag 2 (getFn s chan).flrBusy
  | _ => 0

end Sys2Proof.Machine
end

