-- ==== Sys2Proof/Machine/Herd.lean ====
section
/-! DEFINITION. Herds (R360 to R374, R379, R380): peers, status records, messages, credits, herd time and the peer windows. -/

namespace Sys2Proof.Machine

def getPeer (s : State) (p : Nat) : Peer := storeGet (fun _ => {}) s.herd.peers p

def modPeer (p : Nat) (f : Peer → Peer) (s : State) : State :=
  modHerd (fun h => { h with peers := storeMod (fun _ => {}) h.peers p f }) s

/-! ### Configuration -/

def herdAuto (s : State) : Bool := bit (getReg s pgHerd 0 0x040) 4
def herdHb (s : State) : Word := getReg s pgHerd 0 0x050

/-- The record period in nanoseconds; HB_MS 0 acts as 1 (R379). -/
def herdPeriod (s : State) : Nat := max 1 (fld (herdHb s) 7 0) * Config.ms

/-- Record periods that have passed without a valid record from a peer (R363); PEER_STAT.MISSED saturates. -/
def peerMissed (s : State) (p : Nat) : Nat := (now s - (getPeer s p).seenAt) / herdPeriod s

/-- The mailbox region and the slots per sender (R368). -/
def mbxBase (s : State) : Nat := (getAddr s pgHerd 0 0x054).toNat
def mbxDepth (s : State) : Nat := 2 ^ (fld (getReg s pgHerd 0 0x05C) 2 0 + 4)

def peerRid (s : State) (p : Nat) : BitVec 16 := BitVec.ofNat 16 (fld (getReg s pgHerd p 0x400) 31 16)
def peerMbx (s : State) (p : Nat) : DWord := peerBar2 s p + BitVec.ofNat 64 (fld (getReg s pgHerd p 0x40C) 23 0 * 1024)
def peerDepth (s : State) (p : Nat) : Nat := 2 ^ (fld (getReg s pgHerd p 0x40C) 26 24 + 4)

/-- The credit that a peer has posted to this device's region (R368, R371). -/
def peerCredit (s : State) (p : Nat) : BitVec 16 := (memWord s (mbxBase s + 1024 + 1024 * mbxDepth s + 4 * p)).setWidth 16

/-! ### Messages as words (R369) -/

/-- CRC-16/CCITT-FALSE: one byte, and a list. -/
def crcByte (c : BitVec 16) (b : Byte) : BitVec 16 :=
  (List.range 8).foldl (fun c _ => if bit c 15 then (c <<< 1) ^^^ 0x1021 else c <<< 1) (c ^^^ ((b.setWidth 16) <<< 8))

def crc16 (bs : List Byte) : BitVec 16 := bs.foldl crcByte 0xFFFF

def wordsBytes (ws : List Word) : List Byte := ws.flatMap fun w => bytesOf 4 w.toNat

/-- A 64-byte message from words 0 to 14, closed with its CRC and VALID. -/
def sealMessage (ws : List Word) : List Byte :=
  let b := wordsBytes ((List.range 15).map fun i => ws.getD i 0)
  b ++ bytesOf 4 (flag 31 true ||| (crc16 b).setWidth 32).toNat

/-- The CRC of a received message is right. -/
def crcGood (m : Vector Word 16) : Bool :=
  crc16 (wordsBytes (m.toList.take 15)) == (m[15]).setWidth 16

def msgType (m : Vector Word 16) : Nat := fld m[0] 15 8
def msgSeq (m : Vector Word 16) : BitVec 16 := BitVec.ofNat 16 (fld m[0] 31 16)
def msgSrc (m : Vector Word 16) : Nat := fld m[0] 3 0

/-! ### Status records (R361 to R364, R372, R373) -/

def HerdSt.code : HerdSt → Nat
  | .solo => 0
  | .joining => 1
  | .member => 2
  | .bellwether => 3
  | .refused => 4

/-- Herd time (R373). -/
def herdTime (s : State) (t : DWord) : DWord := BitVec.ofInt 64 (t.toInt + s.herd.hoffset)

/-- The pending activation in herd time; 0 when there is none (R372, R432). -/
def recordAct (s : State) : DWord := if s.trust.upd = .armed ∨ s.trust.upd = .stopping then s.trust.actTime else 0

/-- The words 0 to 14 of the record for a peer. -/
def recordWords (s : State) (p : Nat) : List Word :=
  let x := getPeer s p
  let h := s.herd
  let role := fld (getReg s pgHerd 0 0x04C) 1 0
  let w1 := at_ 0 h.st.code ||| at_ 4 role ||| at_ 8 h.bellId.toNat ||| at_ 12 (fld (getReg s pgHerd 0 0x05C) 2 0)
    ||| flag 15 (bit (getReg s pgPcie 0 0x054) 31) ||| at_ 16 (if h.st = .bellwether then h.members.toNat else 0)
  let two (d : DWord) : List Word := [lo32 d, hi32 d]
  [at_ 0 (herdId s) ||| at_ 4 p ||| at_ 8 0x80 ||| at_ 16 x.recSeq.toNat, w1] ++ two s.time.now ++ two x.t1 ++ two x.t1At ++ two (recordAct s)
    ++ two (getPair s pgPcie 0 0x058) ++ two (getPair s pgPcie 0 0x060) ++ [0]

/-- A member becomes the bellwether (R361, R364). -/
def becomeBell (s : State) : State :=
  let id := herdId s
  raise pgHerd 3 (modHerd (fun h => { h with
    st := .bellwether, bellId := BitVec.ofNat 4 id, members := h.members ||| oneBit 16 id, hoffset := 0
    errNs := 0, locked := true }) s)

/-- ENABLE becomes 1, or is written 1 again while the device is REFUSED (R361, R362). -/
def herdEnable (s : State) : State :=
  if !herdAlone s then s
  else
    let bell := fld (getReg s pgHerd 0 0x048) 3 0
    let id := herdId s
    modHerd (fun h => { h with
      sentAt := none, peers := (List.range 16).foldl (fun m p => storeMod (fun _ => {}) m p fun x => { x with seenAt := now s }) h.peers
      st := if bell = id then .bellwether else .joining, bellId := BitVec.ofNat 4 bell, code := 0
      members := if bell = id then oneBit 16 id else 0, hoffset := 0, errNs := 0, src := 0, locked := decide (bell = id) }) s

/-- ENABLE becomes 0: the device is SOLO (R360). -/
def herdDisable (s : State) : State := modHerd (fun h => { h with st := .solo, members := 0, locked := false }) s

/-- A committed BELL.ID takes effect (R364). -/
def bellCommit (s : State) : State :=
  if herdAlone s then s
  else
    let bell := fld (getReg s pgHerd 0 0x048) 3 0
    if bell = s.herd.bellId.toNat then s
    else if bell = herdId s then becomeBell s
    else raise pgHerd 3 (modHerd (fun h => { h with
      bellId := BitVec.ofNat 4 bell, st := if h.st = .bellwether then .member else h.st }) s)

/-- The bellwether refuses a claimed identity (R362). -/
def refuse (rid : BitVec 16) (s : State) : State :=
  let full := (List.range 16).all fun p => p == herdId s || peerValid s p
  let w := at_ 0 rid.toNat ||| at_ 16 (if full then 0x10 else 0x11)
  setReg pgHerd 0 0x074 w (devPut pgHerd .other (mbxBase s + 1088 + 1024 * mbxDepth s) (bytesOf 4 w.toNat) s)

/-- The refusal word that a JOINING device has read names it: REFUSED (R362). -/
def beRefused (code : Byte) (s : State) : State :=
  if s.herd.st = .joining then raise pgHerd 4 (modHerd (fun h => { h with st := .refused, code := code }) s) else s

/-- LOCKED clears, which raises its interrupt; an update armed for a herd time is skipped and waits for the next L2 (R373, R433). -/
def herdUnlock (s : State) : State :=
  if !s.herd.locked then s
  else
    let s := raise pgHerd 5 (modHerd (fun h => { h with locked := false }) s)
    if s.trust.upd = .armed ∧ s.trust.actTime ≠ 0 ∧ s.trust.nextL2 = false then
      raise pgUpdate 2 (modTrust (fun t => { t with nextL2 := true }) s)
    else s

/-- HOFFSET from a record of the bellwether (R373). -/
def herdOffset (r : Vector Word 16) (s : State) : State :=
  let t1 := (pair64 r[3] r[2]).toInt
  let t1' := (pair64 r[5] r[4]).toInt
  let t2' := (pair64 r[7] r[6]).toInt
  let t4 := s.time.now.toInt
  let ptm := bit r[1] 15 && bit (getReg s pgPcie 0 0x054) 31
  let (off, err, src, s) : Int × Nat × BitVec 2 × State :=
    if ptm then
      let theirs := (pair64 r[11] r[10]).toInt - (pair64 r[13] r[12]).toInt
      let ours := (getPair s pgPcie 0 0x058).toInt - (getPair s pgPcie 0 0x060).toInt
      let (e, s) := draw 16 s
      (theirs - ours, e.toNat, 1, s)
    else (((t2' - t1') + (t1 - t4)) / 2, (clampInt 0 65535 (((t4 - t1') - (t1 - t2')) / 2)).toNat, 2, s)
  let s := modHerd (fun h => { h with hoffset := off, errNs := BitVec.ofNat 16 err, src := src }) s
  if err ≤ 1000 then modHerd (fun h => { h with locked := true }) s else herdUnlock s

/-- What a valid record says of its sender and of the herd (R361, R363, R364, R372, R373). One whose DEPTH differs from the peer
entry's does not mark the peer UP; the rest of it stands (R372: DEDUCED). The bellwether lists every sender (R361), unless the record
makes it a member. -/
def recordTake (p : Nat) (depthOk : Bool) (r : Vector Word 16) (s : State) : State :=
  let was := (getPeer s p).up
  let s := modPeer p (fun x => { x with
    up := x.up || depthOk, state := BitVec.ofNat 3 (fld r[1] 2 0), role := BitVec.ofNat 2 (fld r[1] 5 4), seenAt := now s
    t1 := pair64 r[3] r[2], t1At := s.time.now, actTime := pair64 r[9] r[8] }) s
  let s := if was || !depthOk then s else raise pgHerd 2 s
  let list (s : State) : State := modHerd (fun h => { h with members := h.members ||| oneBit 16 p }) s
  if fld r[1] 2 0 = 3 then
    let s :=
      if s.herd.st = .bellwether then
        if p < herdId s then raise pgHerd 3 (modHerd (fun h => { h with st := .member, bellId := BitVec.ofNat 4 p }) s) else list s
      else
        let s := if s.herd.bellId.toNat = p then s else raise pgHerd 3 (modHerd (fun h => { h with bellId := BitVec.ofNat 4 p }) s)
        modHerd (fun h => { h with
          members := BitVec.ofNat 16 (fld r[1] 31 16)
          st := if h.st = .joining ∧ bit r[1] (16 + herdId s) = true then .member else h.st }) s
    if s.herd.st = .member ∧ s.herd.bellId.toNat = p then herdOffset r s else s
  else if s.herd.st = .bellwether then list s
  else s

/-- The peer whose entry a requester ID matches (R366). -/
def ridPeer (s : State) (rid : BitVec 16) : Option Nat := (List.range 16).find? fun p => peerValid s p && peerRid s p == rid

/-- A record as R369 and R372 have it. -/
def recordGood (r : Vector Word 16) : Bool := crcGood r && msgType r == 0x80 && bit r[15] 31

/-- A status record arrives in a status slot, from a sender that its requester ID names. A damaged one is counted against that
sender, whatever ID its damaged words claim. -/
def recordStore (rid : BitVec 16) (sender : Nat) (r : Vector Word 16) (s : State) : State :=
  let p := msgSrc r
  if herdAlone s then s
  else if !recordGood r then
    if peerValid s sender && peerRid s sender == rid then modPeer sender (fun x => { x with badCnt := satInc x.badCnt }) s else s
  else if !peerValid s p || peerRid s p != rid then (if s.herd.st = .bellwether then refuse rid s else s)
  else
    let s := devPut pgHerd .other (mbxBase s + 64 * p) (wordsBytes r.toList) s
    let depthOk := decide (2 ^ (fld r[1] 14 12 + 4) = peerDepth s p)
    let s := if depthOk then s
      else recordErr pgHerd (Requester.peer (Fin.ofNat 16 p)).code eFormat (BitVec.ofNat 40 (mbxBase s + 64 * p)) s
    recordTake p depthOk r s

/-- The bellwether's choice where it is down (R364): a member with AUTO_BELL = 1 that sees no lower ID up takes the part itself. -/
def electBell (s : State) : State :=
  let lower := (List.range 16).any fun q => decide (q < herdId s) && peerValid s q && (getPeer s q).up
  if herdAuto s && s.herd.st == .member && !(getPeer s s.herd.bellId.toNat).up && !lower then becomeBell s else s

/-- A peer has missed MISS record periods (R363, R364, R373). -/
def peerMiss (p : Nat) (s : State) : State :=
  if herdAlone s || !peerValid s p || decide (peerMissed s p < fld (herdHb s) 11 8) then s
  else
    let was := (getPeer s p).up
    let s := modPeer p (fun x => { x with up := false }) s
    let s := if was then raise pgHerd 1 s else s
    electBell (if s.herd.bellId.toNat = p ∧ s.herd.st ≠ .bellwether then herdUnlock s else s)

/-! ### Messages (R370, R371) -/

/-- RX_SEQ passes every contiguous received message. -/
def passRun : Nat → BitVec 16 → List (BitVec 16 × Nat) → BitVec 16 × List (BitVec 16 × Nat)
  | 0, r, got => (r, got)
  | n + 1, r, got => if got.any (·.1 == r) then passRun n (r + 1) (got.filter (·.1 != r)) else (r, got)

/-- After a message has been stored or a gap skipped: RX_SEQ and MBX_RX. -/
def rxAdvance (p : Nat) (s : State) : State :=
  let x := getPeer s p
  let (r, got) := passRun (x.got.length) x.rxSeq x.got
  let s := modPeer p (fun x => { x with rxSeq := r, got := got }) s
  if r = x.rxSeq then s else raise pgHerd 0 s

/-- Since when the gap at RX_SEQ has been open: the first message beyond it that arrived. -/
def Peer.gapSince (x : Peer) : Option Nat := (x.got.map (·.2)).min?

/-- A data-slot write is checked and stored (R371). -/
def messageStore (rid : BitVec 16) (p slot : Nat) (aligned : Bool) (m : Vector Word 16) (s : State) : State :=
  if herdAlone s then s
  else
    let x := getPeer s p
    let d := mbxDepth s
    let seq := msgSeq m
    if !aligned || decide (d ≤ slot) || !peerValid s p || peerRid s p != rid || !crcGood m || decide (0x80 ≤ msgType m)
        || decide (d ≤ (seq - x.rxSeq).toNat) then
      modPeer p (fun x => { x with badCnt := satInc x.badCnt }) s
    else
      let s := devPut pgHerd .other (mbxBase s + 1024 + 64 * (p * d + seq.toNat % d)) (wordsBytes m.toList) s
      rxAdvance p (modPeer p (fun x => { x with got := if x.got.any (·.1 == seq) then x.got else x.got ++ [(seq, now s)] }) s)

/-- A gap has stayed open for GAP_MS (R371): RX_SEQ passes it. -/
def gapTimeout (p : Nat) (s : State) : State :=
  let x := getPeer s p
  match x.gapSince with
  | none => s
  | some t =>
    if now s < t + fld (herdHb s) 23 16 * Config.ms then s
    else
      let next := (x.got.map (·.1)).foldl (fun b q => if (q - x.rxSeq).toNat < (b - x.rxSeq).toNat then q else b) (x.rxSeq - 1)
      rxAdvance p (modPeer p (fun x => { x with rxSeq := next, gapCnt := satInc x.gapCnt }) s)

/-- Put a delivered item where it goes (R377). -/
def deliver : Held → State → State
  | .frame p f t, s => ethReceive p f t s
  | .message rid p k al m, s => messageStore rid p k al m s
  | .record rid p r, s => recordStore rid p r s
  | .sent bus bs, s => send (.peerWrite bus bs) s
  | h, s => packetLand h s

/-- Items that pass the injector (R376). -/
def ethArrive (port : Fin 2) (f : RxFrame) (s : State) : State :=
  if inReset s then s
  else if f.fcsOk then (lfiPass lfiEth port 0 (.frame port f (now s)) deliver s).2 else ethReceive port f (now s) s

def messageArrive (rid : BitVec 16) (p : Fin 16) (slot : Nat) (aligned : Bool) (m : Vector Word 16) (s : State) : State :=
  (lfiPass lfiMbx p 0 (.message rid p slot aligned m) deliver s).2

def recordArrive (rid : BitVec 16) (r : Vector Word 16) (s : State) : State :=
  let p := (ridPeer s rid).getD (msgSrc r)
  (lfiPass lfiMbx p 0 (.record rid (Fin.ofNat 16 p) r) deliver s).2

/-- A 64-byte item leaves for a peer. -/
def peerSend (p : Nat) (bus : DWord) (bytes : List Byte) (s : State) : State := (lfiPass lfiMbx p 1 (.sent bus bytes) deliver s).2

/-- Every valid peer receives a status record (R361). -/
def recordsSend (s : State) : State :=
  if herdAlone s || !fnCanSend s 0 then s
  else (List.range 16).foldl (fun s p =>
    if peerValid s p then
      modPeer p (fun x => { x with recSeq := x.recSeq + 1 })
        (peerSend p (peerMbx s p + BitVec.ofNat 64 (64 * herdId s)) (sealMessage (recordWords s p)) s)
    else s) s

/-- A period's end: HB_MS have passed since the last records, or none has gone out yet (R361). -/
def recordsDue (s : State) : Bool := s.herd.sentAt.all fun t => decide (t + herdPeriod s ≤ now s)

/-- A JOINING device reads the refusal word of its bellwether (R362). -/
def refusalRead (s : State) : State :=
  let b := s.herd.bellId.toNat
  if s.herd.st == .joining && peerValid s b && fnCanSend s 0 then
    send (.peerRead (peerMbx s b + BitVec.ofNat 64 (1088 + 1024 * peerDepth s b)) 4) s
  else s

/-- MBX_SEND (R370). `copy` is the requester's copy of the payload. -/
def mbxSend (copy : Nat) (v : Word) (s : State) : State :=
  let p := fld v 3 0
  let type := fld v 15 8
  let x := getPeer s p
  let d := peerDepth s p
  let result (w : Word) (s : State) : State := modHerd (fun h => { h with result := storeSet (fun _ => 0) h.result copy w }) s
  if 0x80 ≤ type ∨ p = herdId s then result 0x0E s
  else if herdAlone s || !peerValid s p || !x.up then result 0x13 s
  else if !fnCanSend s 0 then result 0x06 s
  else if d ≤ (x.txSeq - peerCredit s p).toNat then result 0x12 s
  else
    let words := (at_ 0 (herdId s) ||| at_ 4 p ||| at_ 8 type ||| at_ 16 x.txSeq.toNat)
      :: (List.range 14).map fun i => storeGet (fun _ => 0) s.herd.tx (copy * 16 + i + 1)
    let bus := peerMbx s p + BitVec.ofNat 64 (1024 + 64 * (herdId s * d + x.txSeq.toNat % d))
    result (at_ 16 x.txSeq.toNat) (modPeer p (fun y => { y with txSeq := y.txSeq + 1 }) (peerSend p bus (sealMessage words) s))

/-- RX_DONE (R371): the consumed count is posted to the sender's credit word. -/
def rxDoneWrite (p : Nat) (v : Word) (s : State) : State :=
  let s := modPeer p (fun x => { x with rxDone := v.setWidth 16 }) s
  if herdAlone s || !peerValid s p || !fnCanSend s 0 then s
  else send (.peerWrite (peerMbx s p + BitVec.ofNat 64 (1024 + 1024 * peerDepth s p + 4 * herdId s)) (bytesOf 4 (fld v 15 0))) s

/-! ### Registers (R379, R380) -/

/-- The PEER registers that are held while VALID = 1, except by a write that clears VALID. -/
def peerRegWrite (r : Requester) (p off : Nat) (v mask : Word) (s : State) : State :=
  if p = herdId s then s
  else if bit (getReg s pgHerd p 0x400) 0 && !(off == 0x400 && !bit v 0) then regErr pgHerd off r eWriteRunning s
  else
    let s := if off = 0x400 then modPeer p (fun x => { x with seenAt := now s }) s else s
    setReg pgHerd p off (v &&& mask) s

/-- The own registers of the HERD page. -/
def herdView (s : State) (copy chan off : Nat) : Word :=
  let h := s.herd
  let x := getPeer s chan
  if 0x400 ≤ off ∧ chan = herdId s then 0
  else if 0x080 ≤ off ∧ off < 0x0B8 then storeGet (fun _ => 0) h.tx (copy * 16 + (off - 0x080) / 4 + 1)
  else match off with
  | 0x044 => at_ 0 h.st.code ||| at_ 4 h.bellId.toNat ||| at_ 8 h.code.toNat ||| at_ 16 h.members.toNat
  | 0x068 => lo32 (BitVec.ofInt 64 h.hoffset)
  | 0x06C => hi32 (BitVec.ofInt 64 h.hoffset)
  | 0x070 => at_ 0 h.errNs.toNat ||| at_ 16 h.src.toNat ||| flag 31 h.locked
  | 0x0BC => storeGet (fun _ => 0) h.result copy
  | 0x400 | 0x404 | 0x408 | 0x40C => getReg s pgHerd chan off
  | 0x410 => flag 0 x.up ||| at_ 1 x.state.toNat ||| at_ 4 x.role.toNat ||| at_ 8 (if herdAlone s || !peerValid s chan then 0 else min 15 (peerMissed s chan))
  | 0x414 => at_ 0 x.txSeq.toNat ||| at_ 16 (peerCredit s chan).toNat
  | 0x418 => at_ 0 x.rxSeq.toNat
  | 0x41C => at_ 0 x.rxDone.toNat
  | 0x420 => at_ 0 x.gapCnt.toNat ||| at_ 16 x.badCnt.toNat
  | _ => 0

end Sys2Proof.Machine
end

