-- ==== Sys2Proof/Machine/Pfe.lean ====
section
/-! DEFINITION. The CSI-2 receivers and the pixel front end (R312 to R316, R333, R334). -/

namespace Sys2Proof.Machine

/-! ### CSI-2 reception (R312, R313) -/

def getCsi (s : State) (i : Nat) : CsiInput := storeGet (fun _ => {}) s.media.csi i

def modCsi (i : Nat) (f : CsiInput → CsiInput) (s : State) : State :=
  modMedia (fun m => { m with csi := storeMod (fun _ => {}) m.csi i f }) s

/-- Count on an 8-bit saturating field of CSI_ERR, and raise ERR. -/
def csiErr (i lo : Nat) (s : State) : State :=
  let w := getReg s pgCsi i 0x40C
  let n := min 255 (fld w (lo + 7) lo + 1)
  raise pgCsi 2 (setReg pgCsi i 0x40C (mix (at_ lo 255) w (at_ lo n)) s)

/-- An input exists and is enabled. -/
def csiOn (s : State) (i : Nat) : Bool :=
  !inReset s && bit (cap0 s.fuses.variant) (15 + i) && domOn s 18 && (getHdr s pgCsi).enable && bit (getReg s pgCsi i 0x400) 0

/-- The five data types of R312. -/
def csiType (dt : BitVec 6) : Bool := [0x2A, 0x2B, 0x2C, 0x2D, 0x1E].contains dt

/-- A packet of an input (R312, R313). -/
def csiPacket (i : Nat) (p : CsiPacket) (s : State) : State :=
  let c := getReg s pgCsi i 0x400
  if !csiOn s i then s
  else
    let s := if p.eccFixed then csiErr i 0 s else s
    if p.eccBad then s
    else if p.vc.toNat ≠ fld c 7 4 ∨ p.dt.toNat ≠ fld c 13 8 ∨ csiType p.dt = false then csiErr i 24 s
    else
      let x := getCsi s i
      let s := if x.lines.isEmpty then raise pgCsi 0 s else s
      if p.crcBad then
        let back := if fld c 13 8 = 0x1E then 1 else 2
        let line := if back ≤ x.lines.length then x.lines.getD (x.lines.length - back) [] else p.line
        csiErr i 8 (modCsi i (fun x => { x with lines := x.lines ++ [line], damaged := true }) s)
      else modCsi i (fun x => { x with lines := x.lines ++ [p.line] }) s

/-- A frame ends: one of the wrong size is discarded whole; another goes to the pixel front end (R313). -/
def csiFrameEnd (i : Nat) (s : State) : State :=
  if !csiOn s i then s
  else
    let x := getCsi s i
    let size := getReg s pgCsi i 0x404
    let w := fld size 12 0 * (if fld (getReg s pgCsi i 0x400) 13 8 = 0x1E then 2 else 1)
    let ok := decide (x.lines.length = fld size 28 16) && x.lines.all fun l => decide (l.length = w)
    let s := raise pgCsi 1 (modReg pgCsi i 0x408 (· + 0x10000) s)
    if ok then modCsi i (fun x => { x with lines := [], damaged := false, ready := some (x.lines, x.damaged), taken := 0 }) s
    else csiErr i 16 (modCsi i (fun x => { x with lines := [], damaged := false }) s)

/-! ### The stages (R314) -/

/-- An exact quotient rounded half to even. -/
def roundEven (n d : Int) : Int :=
  let q := n / d
  let r := n % d
  if 2 * r < d then q else if d < 2 * r then q + 1 else if q % 2 = 0 then q else q + 1

/-- A sample of a frame, borders mirrored. -/
def mirrored (rows : List (List Int)) (x y : Int) : Int :=
  let h : Int := rows.length
  let w : Int := (rows.headD []).length
  let f (v n : Int) : Int := if v < 0 then -v else if n ≤ v then 2 * n - 2 - v else v
  ((rows.getD (f y h).toNat []).getD (f x w).toNat 0)

/-- The Bayer phase of a sample: 0 R, 1 G in a red row, 2 G in a blue row, 3 B. BAYER 0 RGGB, 1 GRBG, 2 GBRG, 3 BGGR. -/
def bayerPhase (bayer x y : Nat) : Nat := ((x + bayer) % 2) + 2 * ((y + bayer / 2) % 2)

/-- Register fields of stages 1, 2 and 4. -/
def blackLevel (s : State) (i c : Nat) : Nat := fld (getReg s pgPfe i (0x404 + 4 * (c / 2))) (16 * (c % 2) + 13) (16 * (c % 2))
def whiteGain (s : State) (i c : Nat) : Nat := fld (getReg s pgPfe i (0x40C + 4 * (c / 2))) (16 * (c % 2) + 11) (16 * (c % 2))
def ccm (s : State) (i k : Nat) : Int :=
  ((getReg s pgPfe i (0x414 + 4 * (k / 2))).extractLsb' (16 * (k % 2)) 12).toInt

/-- Stages 1 and 2 of one sample: black level and white balance. -/
def balance (s : State) (i c : Nat) (x : Nat) : Int :=
  min (roundEven (((x - blackLevel s i c) * whiteGain s i c : Nat) : Int) 256) 16383

/-- Stage 3: the three colours of a pixel. A missing colour is the mean of its 2 or 4 nearest samples. -/
def demosaic (rows : List (List Int)) (bayer x y : Nat) : Int × Int × Int :=
  let at' (dx dy : Int) : Int := mirrored rows (x + dx) (y + dy)
  let here := at' 0 0
  let cross := roundEven (at' (-1) 0 + at' 1 0 + at' 0 (-1) + at' 0 1) 4
  let diag := roundEven (at' (-1) (-1) + at' 1 (-1) + at' (-1) 1 + at' 1 1) 4
  let horiz := roundEven (at' (-1) 0 + at' 1 0) 2
  let vert := roundEven (at' 0 (-1) + at' 0 1) 2
  match bayerPhase bayer x y with
  | 0 => (here, cross, diag)
  | 1 => (horiz, here, vert)
  | 2 => (vert, here, horiz)
  | _ => (diag, cross, here)

/-- Stage 4, one row of the matrix. -/
def ccmRow (s : State) (i row : Nat) (r g b : Int) : Int :=
  clampInt 0 16383 (roundEven (ccm s i (3 * row) * r + ccm s i (3 * row + 1) * g + ccm s i (3 * row + 2) * b) 256)

/-- Stage 5: the gamma table with interpolation. -/
def gammaOf (s : State) (input : Nat) (x : Int) : Int :=
  let i := (x / 16).toNat
  let t (k : Nat) : Int := ((storeGet regReset s.bus.regs (gammaKey input k)).setWidth 8).toNat
  t i + roundEven ((t (i + 1) - t i) * (x % 16)) 16

/-- Stage 6: YCbCr of 8-bit RGB by the standards' coefficients, in units of 10^-4, limited or full range. -/
def toYcc (csc : Nat) (r g b : Int) : Int × Int × Int :=
  let (kr, kb) : Int × Int := if csc = 2 then (2990, 1140) else (2126, 722)
  let kg := 10000 - kr - kb
  let y := kr * r + kg * g + kb * b
  if csc = 1 then
    (clampInt 0 255 (roundEven y 10000),
     clampInt 0 255 (128 + roundEven ((10000 * b - y) * 10000) (10000 * 2 * (10000 - kb))),
     clampInt 0 255 (128 + roundEven ((10000 * r - y) * 10000) (10000 * 2 * (10000 - kr))))
  else
    (16 + roundEven (y * 219) (10000 * 255),
     128 + roundEven ((10000 * b - y) * 224 * 10000) (10000 * 255 * 2 * (10000 - kb)),
     128 + roundEven ((10000 * r - y) * 224 * 10000) (10000 * 255 * 2 * (10000 - kr)))

/-- The bits of a sample by data type (R312), for the alignment to 14 bits. -/
def sampleBits (dt : Nat) : Nat :=
  match dt with
  | 0x2A => 8
  | 0x2B => 10
  | 0x2C => 12
  | _ => 14

/-- A full-resolution picture: three planes of rows. -/
structure Planes where
  a : List (List Int)
  b : List (List Int)
  c : List (List Int)
  deriving DecidableEq, Repr

/-- RGB from a raw frame by stages 1 to 5. -/
def rawRgb (s : State) (i : Nat) (lines : List (List (BitVec 14))) : Planes :=
  let ctrl := getReg s pgCsi i 0x400
  let bayer := fld ctrl 15 14
  let sh := 14 - sampleBits (fld ctrl 13 8)
  let rows := lines.zipIdx.map fun l => l.1.zipIdx.map fun p =>
    balance s i (bayerPhase bayer p.2 l.2) ((p.1.toNat <<< sh) % 16384)
  let rgb := rows.zipIdx.map fun l => l.1.zipIdx.map fun p =>
    let (r, g, b) := demosaic rows bayer p.2 l.2
    (gammaOf s i (ccmRow s i 0 r g b), gammaOf s i (ccmRow s i 1 r g b), gammaOf s i (ccmRow s i 2 r g b))
  { a := rgb.map (·.map (·.1)), b := rgb.map (·.map (·.2.1)), c := rgb.map (·.map (·.2.2)) }

/-- Y, Cb, Cr of a YUV422 frame in UYVY order. -/
def yuvPlanes (lines : List (List (BitVec 14))) : Planes :=
  let get (l : List (BitVec 14)) (k : Nat) : Int := ((l.getD k 0).toNat % 256 : Nat)
  let w (l : List (BitVec 14)) := l.length / 2
  { a := lines.map fun l => (List.range (w l)).map fun x => get l (2 * x + 1)
    b := lines.map fun l => (List.range (w l)).map fun x => get l (4 * (x / 2))
    c := lines.map fun l => (List.range (w l)).map fun x => get l (4 * (x / 2) + 2) }

def mapPlanes (f : Int → Int → Int → Int × Int × Int) (p : Planes) : Planes :=
  let t := (p.a.zip (p.b.zip p.c)).map fun r => (r.1.zip (r.2.1.zip r.2.2)).map fun v => f v.1 v.2.1 v.2.2
  { a := t.map (·.map (·.1)), b := t.map (·.map (·.2.1)), c := t.map (·.map (·.2.2)) }

/-! ### The scaler (R315) -/

/-- A scaler coefficient: axis 0 horizontal, 1 vertical; phase; tap. -/
def coef (s : State) (input out axis phase tap : Nat) : Int :=
  ((storeGet regReset s.bus.regs (coefKey input out (256 * axis + 4 * phase + tap))).setWidth 10).toInt

/-- Where output sample X of `on` falls on an axis cropped at `c0`, length `cn`: position times 2·on. -/
def scalePos (c0 cn on x : Nat) : Int := 2 * on * c0 + (2 * x + 1) * cn - on

/-- One output sample along an axis: four taps, the phase's coefficients, one rounding. -/
def scaleTap (k : Nat → Nat → Int) (get : Int → Int) (c0 cn on x : Nat) : Int :=
  let p := scalePos c0 cn on x
  let d : Int := 2 * on
  let i := p / d
  let phase := ((p % d) * 64 / d).toNat
  clampInt 0 255 (roundEven (k phase 0 * get (i - 1) + k phase 1 * get i + k phase 2 * get (i + 1) + k phase 3 * get (i + 2)) 256)

/-- A plane scaled to ow × oh from its crop. -/
def scalePlane (s : State) (input out plane : Nat) (rows : List (List Int)) (cx cy cw ch ow oh : Nat) : List (List Int) :=
  let w : Int := (rows.headD []).length
  let h : Int := rows.length
  let sample (x y : Int) : Int :=
    if 0 ≤ x ∧ x < w ∧ 0 ≤ y ∧ y < h then (rows.getD y.toNat []).getD x.toNat 0 else (Config.pfeEdge plane x y : Nat)
  let horiz (x : Nat) (y : Int) : Int := scaleTap (coef s input out 0) (fun t => sample t y) cx cw ow x
  (List.range oh).map fun y => (List.range ow).map fun x => scaleTap (coef s input out 1) (fun t => horiz x t) cy ch oh y

def outOff (k o : Nat) : Nat := 0x480 + 0x40 * k + o

/-- The bytes of an output frame, with the offset of each row. -/
def outputRows (s : State) (input k : Nat) (lines : List (List (BitVec 14))) : List (Nat × List Byte) :=
  let yuv := fld (getReg s pgCsi input 0x400) 13 8 == 0x1E
  let reg (o : Nat) := getReg s pgPfe input (outOff k o)
  let (cx, cy) := (fld (reg 0x04) 12 0, fld (reg 0x04) 28 16)
  let (cw, ch) := (fld (reg 0x08) 12 0, fld (reg 0x08) 28 16)
  let (ow, oh) := (fld (reg 0x0C) 12 0, fld (reg 0x0C) 28 16)
  let stride := (reg 0x18).toNat
  let fmt := fld (reg 0x00) 2 1
  let csc := fld (getReg s pgPfe input 0x430) 1 0
  let pic := if yuv then yuvPlanes lines else rawRgb s input lines
  let pic := if yuv then (if fmt = 1 then mapPlanes (fun y b r =>
      let f (n : Nat) : Int := (Config.yuvRgb n y.toNat b.toNat r.toNat % 256 : Nat)
      (f 0, f 1, f 2)) pic else pic)
    else if fmt = 1 then pic else mapPlanes (toYcc csc) pic
  let sc (n : Nat) (p : List (List Int)) (w h : Nat) := scalePlane s input k n p cx cy cw ch w h
  let byte (v : Int) : Byte := BitVec.ofInt 8 v
  let rows (base : Nat) (l : List (List Byte)) := l.zipIdx.map fun r => (base + r.2 * stride, r.1)
  match fmt with
  | 0 =>
    let cb := sc 1 pic.b (ow / 2) (oh / 2)
    let cr := sc 2 pic.c (ow / 2) (oh / 2)
    rows 0 ((sc 0 pic.a ow oh).map (·.map byte)) ++
      rows (oh * stride) ((cb.zip cr).map fun r => (r.1.zip r.2).flatMap fun v => [byte v.1, byte v.2])
  | 1 =>
    let g := sc 1 pic.b ow oh
    let b := sc 2 pic.c ow oh
    rows 0 (((sc 0 pic.a ow oh).zip (g.zip b)).map fun r => (r.1.zip (r.2.1.zip r.2.2)).flatMap fun v => [byte v.1, byte v.2.1, byte v.2.2])
  | 2 => rows 0 ((sc 0 pic.a ow oh).map (·.map byte))
  | _ => []

/-- Stream entries linked to an input and output of the sensors (R304). -/
def csiEntries (s : State) (input k : Nat) : List Nat :=
  (List.range 512).filter fun e => entValid s e && bit (entReg s e 0) 1 && fld (entReg s e 0x14) 25 24 == input
    && fld (entReg s e 0x14) 27 26 == k

/-- The outputs of an input that are enabled. -/
def outputsOn (s : State) (input : Nat) : List Nat := (List.range 4).filter fun k => bit (getReg s pgPfe input (outOff k 0)) 0

/-- An output has taken the frame at hand; when every enabled one has, the frame is done with. -/
def outputTaken (input k : Nat) (s : State) : State :=
  let x := getCsi s input
  let taken := x.taken ||| oneBit 4 k
  let done := (outputsOn s input).all fun k => bit taken k
  modCsi input (fun x => { x with taken := taken, ready := if done then none else x.ready }) s

/-- An output writes a frame to the lowest free buffer, or drops it (R316); linked entries close a frame (R304). -/
def frameWritten (input k : Nat) (s : State) : State :=
  let x := getCsi s input
  match x.ready with
  | none => s
  | some (lines, damaged) =>
    if !pagePresent s pgPfe || !domOn s 18 || !(getHdr s pgPfe).enable || !bit (getReg s pgPfe input 0x400) 0
        || !(outputsOn s input).contains k || bit x.taken k then s
    else
      let reg (o : Nat) := getReg s pgPfe input (outOff k o)
      match freeBuf (reg 0x20) (fld (reg 0) 7 4) with
      | none => raise pgPfe 1 (countWrap pgPfe input 0x438 (outputTaken input k s))
      | some b =>
        let base := (pair64 (reg 0x14) (reg 0x10)).toNat + b * (reg 0x1C).toNat
        let rows := outputRows s input k lines
        let s := rows.foldl (fun s r => devPut pgPfe .pfe (base + r.1) r.2 s) s
        let s := modReg pgPfe input (outOff k 0x20) (· &&& ~~~(oneBit 32 b)) s
        let seq := (fld (reg 0x28) 31 16 + 1) % 65536
        let s := setReg pgPfe input (outOff k 0x28) (at_ 0 b ||| flag 4 damaged ||| at_ 16 seq) s
        let s := raise pgPfe 0 (countWrap pgPfe input 0x434 (outputTaken input k s))
        (csiEntries s input k).foldl (fun s e => frameRecord (Fin.ofNat 512 e) 0 0 0 true false 0 (now s) s) s
where
  freeBuf (free : Word) (nbuf : Nat) : Option Nat := (List.range (nbuf + 1)).find? fun i => bit free i

/-- Whether an output's applied geometry is refused at a commit (R315). -/
def geometryBad (s : State) (input k : Nat) : Bool :=
  let reg (o : Nat) := getReg s pgPfe input (outOff k o)
  let (cw, ch) := (fld (reg 0x08) 12 0, fld (reg 0x08) 28 16)
  let (ow, oh) := (fld (reg 0x0C) 12 0, fld (reg 0x0C) 28 16)
  decide (cw < ow) || decide (ch < oh) || decide (16 * ow < cw) || decide (16 * oh < ch)
    || (fld (reg 0) 2 1 == 0 && (ow % 2 == 1 || oh % 2 == 1))
    || (List.range 128).any fun p =>
      decide (coef s input k (p / 64) (p % 64) 0 + coef s input k (p / 64) (p % 64) 1 + coef s input k (p / 64) (p % 64) 2
        + coef s input k (p / 64) (p % 64) 3 ≠ 256)

/-- The commit check of the pixel front end (R315): an output whose new settings are refused records FORMAT and keeps its
previous settings, given as they stood before. -/
def pfeCommit (r : Byte) (before : Store Word) (changed : List Nat) (s : State) : State :=
  (List.range 16).foldl (fun s n =>
    let input := n / 4
    let k := n % 4
    let mine (key : Nat) : Bool :=
      (decide (regKey pgPfe input (outOff k 0) ≤ key) && decide (key < regKey pgPfe input (outOff k 0x40)))
        || (decide (coefKey input k 0 ≤ key) && decide (key < coefKey input k 512))
    if changed.any mine && geometryBad s input k then
      let s := (changed.filter mine).foldl (fun s key =>
        modBus (fun b => { b with regs := storeSet regReset b.regs key (storeGet regReset before key) }) s) s
      recordErr pgPfe r eFormat (regAddr pgPfe (outOff k 0)) s
    else s) s

end Sys2Proof.Machine
end

