-- ==== Sys2Proof/Machine/Blocks.lean ====
section
/-! DEFINITION. The L3 reset of each block (R21, R31, R80, R149, R287, R355, R378, R398), the pins that its owner's reset
changes (R405, R406), and whether a block is processing an item (R17, R20). -/

namespace Sys2Proof.Machine

/-! ### Pins (R405, R406) -/

/-- The open-drain pins. -/
def openDrain (i : Nat) : Bool := decide (i < 8) || (decide (36 ≤ i) && decide (i < 40))

/-- The fused code of a pin; an unprogrammed field reads 0. -/
def pinCode (s : State) (i : Nat) : Nat := (storeGet (fun _ => (0 : BitVec 3)) s.fuses.pinCode i).toNat

/-- What a held value drives. -/
def holdDrive (i : Nat) (level : Bool) : PinDrive :=
  if openDrain i then (if level then .sink else .hiZ) else if level then .high else .low

/-- A pin that the boot flash, I2C, AVSBus or MGMT's firmware drives, by ways that are no register of the spec. -/
def unseenPin (i : Nat) : Bool := decide (24 ≤ i) && i != 44

/-- A pin's PD0 latch. What an unseen pin's owner drives is open, and so is its latch. -/
def pinLatch (s : State) (i : Nat) : Bool := if unseenPin i then Config.latchOpen i (now s) else (getPin s i).latch

/-- A pin takes its fused code at a reset that reaches its owner; `held` says that code 5 holds, which it does not at L0. -/
def pinReset (held : Bool) (i : Nat) (s : State) : State :=
  let p := getPin s i
  let (level, s) : Bool × State := if p.drive = .pwm then (let (b, s) := draw 1 s; (b == 1, s)) else (pinLatch s i, s)
  let d : PinDrive := match pinCode s i with
    | 1 => .pullDown
    | 2 => .pullUp
    | 3 => .low
    | 4 => if openDrain i then .hiZ else .high
    | 5 => if !held then .hiZ else if p.driven || unseenPin i then holdDrive i level else p.drive
    | _ => .hiZ
  modPins (fun m => storeSet (fun _ => {}) m i { drive := d, latch := held && level, driven := false }) s

def pinsReset (held : Bool) (is : List Nat) (s : State) : State := is.foldl (fun s i => pinReset held i s) s

def ctlioPins : List Nat := List.range 24
def mgmtPins : List Nat := (List.range 12).map (· + 24) ++ [42, 43, 45, 46, 47]
def powerPins : List Nat := [36, 37, 38, 39, 40, 41]
def timePins : List Nat := [44]

/-! ### Blocks -/

/-- CTLIO right after its reset: nothing queued, no rule held, inputs inactive until they are debounced again. -/
def ctlioReset (s : State) : State :=
  let c := s.ctlio
  let s := pinsReset true ctlioPins s
  modCtl (fun _ => {
    inPin := c.inPin, gpioIn := c.gpioIn
    changeAt := (List.range 16).foldl (fun m i => if bit c.inPin i then storeSet (fun _ => none) m i (some (now s)) else m) [] }) s

/-- A core's block reset: a running step is discarded (R60). -/
def coreBlockReset (n : Nat) (s : State) : State := pacerSettle (coreReset n true (stepDiscard n s))

/-- Pages that keep their contents through L3: those of PD0 (R31), and SEC, UPDATE and SSTORE (R436). -/
def pageKept (page : Nat) : Bool := pageDom page == 0 || page == pgSec || page == pgUpdate || page == pgSstore

/-- The pacer's and the HOSTQ's waits aside, what an L3 reset does to the state that a page's block keeps outside its
registers. -/
def blockState (page : Nat) (s : State) : State :=
  if page = pgDma then dmaReset s
  else if page = pgHostq then (List.range 68).foldl (fun s q => queueReset q s) s
  else if page = pgPcie then modPcie (fun p => { p with training := domOn s 15 && !p.perst }) (linkLoss s)
  else if page = pgHerd then modHerd (fun _ => {}) s
  else if page = pgEth then modMedia (fun m => { m with link := 0 }) s
  else if page = pgStrx then modMedia (fun m => { m with ents := [], quarantine := [], newKeys := [], keyValid := false, ageing := [] }) s
  else if page = pgCodec then
    modMedia (fun m => { m with decoding := none, encoding := none, lastEncoded := 0, forceKey := 0, sesWaitKey := 0, unitDrop := 0, unitAt := [] }) s
  else if page = pgCsi then modMedia (fun m => { m with csi := [] }) s
  else if page = pgPfe then
    modMedia (fun m => { m with csi := (List.range 4).foldl (fun c i => storeMod (fun _ => {}) c i fun x => { x with ready := none, taken := 0 }) m.csi }) s
  else if page = pgCtlio then ctlioReset s
  else if page = pgShm then modMem (fun m => { m with detLog := [], detLost := false, scrubBusy := false, scrubPos := 0 }) (semReset s)
  else if page = pgDdr then modMem (fun m => { m with ueSeen := false }) s
  else if page = pgLfi then lfiClear ((List.range 4).foldl (fun s c => lfiLetGo deliver c s) s)
  else s

/-- The L3 reset of a page's block: its own state, its pins and its registers; ERR_INFO and ERR_ADDR are kept when `keepErr` (R21). -/
def blockReset (page : Nat) (keepErr : Bool) (s : State) : State :=
  if pageKept page then pinsReset true (if page = pgPower then powerPins else if page = pgTime then timePins else []) s
  else if pgCore0 ≤ page ∧ page < pgMgmt then coreBlockReset (page - pgCore0) s
  else if page = pgMgmt then
    pinsReset true mgmtPins (pageClear page keepErr (modProc 6 (fun p => { p with faultValid := false, faultSlot := 0, faultCause := 0, faultPc := 0 })
      (modTime (fun t => { t with wdtTicks := 0 }) s)))
  else pageClear page keepErr (blockState page s)

/-- A block is processing an item (R17, R20). -/
def blockActive (s : State) (page : Nat) : Bool :=
  if page = pgPacer then s.pacer.running.isSome
  else if page = pgDma then dmaHeld s || (List.range 32).any fun c => (getChan s c).st == .active || !(getChan s c).wb.isEmpty
  else if page = pgCodec then s.media.decoding.isSome || s.media.encoding.isSome
  else if page = pgPfe then
    (List.range 4).any fun i => (getCsi s i).ready.isSome || (bit (getReg s pgPfe i 0x400) 0 && !(getCsi s i).lines.isEmpty)
  else if page = pgCsi then (List.range 4).any fun i => !(getCsi s i).lines.isEmpty
  else if page = pgHostq then !s.pcie.fetched.isEmpty
  else if page = pgShm then s.mem.scrubBusy || !s.mem.restores.isEmpty
  else if pgCore0 ≤ page ∧ page < pgMgmt then (getProc s (page - pgCore0)).runState != .idle
  else if page = pgUpdate then s.trust.upd == .checking || s.trust.upd == .writing
  else false

/-- `BLK_STAT.BUSY`: processing, or draining after ENABLE was cleared. -/
def blockBusy (s : State) (page : Nat) : Bool := if (getHdr s page).enable then blockActive s page else (getHdr s page).busy

end Sys2Proof.Machine
end

