-- ==== Sys2Proof/Machine/Power.lean ====
section
/-! DEFINITION. Power domains (R143, R144, R382 to R387), the core rail's poll (R389), drip mode (R413) and the I2C masters
(R414). -/

namespace Sys2Proof.Machine

/-! ### Entering a state (R383, R384, R387) -/

/-- The pages of a domain. -/
def domPages (n : Nat) : List Nat := (List.range 32).filter fun p => pageDom p == n

/-- What goes with a domain: the memory of a core, of a slice, DRAM; the links of PCIe and Ethernet (R387); queues, streams, frames and
codec work. -/
def domLoses (n : Nat) (s : State) : State :=
  if 3 ≤ n ∧ n ≤ 8 then coreOff (n - 3) s
  else if 9 ≤ n ∧ n ≤ 12 then modMem (·.lose (n - 1)) s
  else if n = 14 then modMem (fun m => { m.lose 12 with trained := false, selfRefresh := false, chOk := 0, dramGib := 0 }) s
  else if n = 15 then blockState pgHerd (blockState pgHostq (linkLoss s))
  else if 16 ≤ n ∧ n ≤ 18 then (domPages n).foldl (fun s p => blockState p s) s
  else s

/-- A domain enters a state; leaving OFF performs the L3 reset of its blocks (R383), and a fence that waited takes effect
(R386). -/
def domEnter (n : Nat) (st : BitVec 2) (s : State) : State :=
  let d := dom s n
  let s := if st = 0 then domLoses n s
    else if d.state = 0 then challengeDrop ((domPages n).foldl (fun s p => blockReset p false s) s)
    else if n = 14 then modMem (fun m => { m with selfRefresh := st == 1 }) s
    else s
  let s := modDom n (fun _ => { target := st, state := st, moving := false }) s
  let s := if 9 ≤ n ∧ n ≤ 12 then modSlice (n - 9) (fun x => { x with refusing := false, target := st }) s else s
  let s := raise pgPower 2 s
  if d.fenceWaits ≠ 0 ∧ 3 ≤ n ∧ n ≤ 8 then fenceCore (n - 3) d.fenceWaits s else s

/-- A requested change completes (R384). A slice that powers down does so through its drain (R143). -/
def domReached (n : Nat) (s : State) : State :=
  let d := dom s n
  if !d.moving || (9 ≤ n && n ≤ 12 && (getSlice s (n - 9)).refusing) then s else domEnter n d.target s

/-- The writes accepted before the request are acknowledged: the slice enters its state (R143, orders 2 and 3). -/
def sliceDrained (n : Nat) (s : State) : State :=
  if (getSlice s n).refusing && (dom s (9 + n)).moving && slicePend s n == 0 then domEnter (9 + n) (dom s (9 + n)).target s else s

/-- A slice has not drained within 5 µs of the request: the power-down is cancelled and SLICE_TIMEOUT raised (R143, order 3′). -/
def sliceTimeout (n : Nat) (s : State) : State :=
  if (getSlice s n).refusing && slicePend s n != 0 && decide ((getSlice s n).since + 5 * Config.us ≤ now s) then
    let s := modSlice n (fun x => { x with refusing := false, target := 2 }) s
    let s := modDom (9 + n) (fun d => { d with target := d.state, moving := false }) s
    raise pgShm 3 (recordErr pgShm 0xFF eTimeout (BitVec.ofNat 40 (shmBase + n * 0x1000000)) s)
  else s

/-! ### Requests (R144, R385) -/

/-- A slice that holds a valid golden region (R144). -/
def sliceGolden (s : State) (n : Nat) : Bool :=
  (List.range 16).any fun g =>
    let b := getReg s pgShm 0 (0x100 + 0x10 * g)
    bit b 31 && fld b 25 24 == n

/-- A core that holds shares or is the reserve (R385). -/
def coreHeld (s : State) (n : Nat) : Bool :=
  (placedNow s).any (·.core == n) || s.pacer.reserve == some (Fin.ofNat 6 n)

/-- A write of PDn_CTRL.TARGET (R385). A slice's refusal of OFF is recorded in the SHM page, with the address of the access (R34,
R144). -/
def domRequest (r : Requester) (n : Nat) (t : BitVec 2) (s : State) : State :=
  let d := dom s n
  let no (code : Byte) : State := regErr pgPower (0x080 + 4 * n) r code s
  let core := decide (3 ≤ n ∧ n ≤ 8)
  let slice := decide (9 ≤ n ∧ n ≤ 12)
  if !r.isOwner || (n == 15 && r != .mgmt) then no ePermission
  else if domFixed n || t == 3 || (t == 1 && !domRetains n) then no eFormat
  else if !domPresent s.fuses.variant n then no eAbsent
  else if d.moving then no eShadowBusy
  else if t = 1 ∧ d.state = 0 then no eFormat
  else if !core && !slice && t != 2 && (domPages n).any (fun p => (getHdr s p).enable || blockBusy s p) then no eWriteRunning
  else if core && ((t == 0 && coreHeld s (n - 3)) || (t == 2 && fenced s (n - 3))) then no ePermission
  else if slice && t == 0 && sliceGolden s (n - 9) then recordErr pgShm r.code ePermission (regAddr pgPower (0x080 + 4 * n)) s
  else if t = d.state then modDom n (fun d => { d with target := t }) s
  else
    let s := modDom n (fun d => { d with target := t, moving := true }) s
    if slice && t != 2 && d.state == 2 then modSlice (n - 9) (fun x => { x with refusing := true, target := t, since := now s }) s else s

/-! ### The core rail (R388, R389) -/

/-- The first frame that answers among the first and its three repeats, and how many were repeated. -/
def avsFirst : Nat → List (Option AvsReply) → Option AvsReply × Nat
  | 0, _ => (none, 0)
  | _, [] => (none, 0)
  | n + 1, none :: rs => let (a, k) := avsFirst n rs; (a, if n = 0 then k else k + 1)
  | _, some a :: _ => (some a, 0)

/-- The poll that follows a target write (R389). -/
def railPoll (replies : List (Option AvsReply)) (s : State) : State :=
  if !s.power.polling || !s.time.running then s
  else
    let (a, k) := avsFirst 4 replies
    let s := modPower (fun p => { p with retries := satInc p.retries k }) s
    match a with
    | none =>
      if 4 ≤ replies.length then raise pgPower 0 (modPower (fun p => { p with avsFault := true, polling := false }) s) else s
    | some a =>
      let s := modPower (fun p => { p with railMv := a.mv }) s
      let t := s.power.railTarget.toNat
      if a.done && decide (a.mv.toNat ≤ t + 10) && decide (t ≤ a.mv.toNat + 10) then
        railSettled (modPacer (fun p => { p with railMv := a.mv }) (modPower (fun p => { p with railSettled := true, polling := false }) s))
      else s

/-- The fused boot voltage is written (R390). AVSBus runs only once the crystal is stable. -/
def bootRail (s : State) : State := if s.time.running then railWrite s.fuses.bootMv.toNat .boot s else s

/-! ### Drip mode (R413) -/

/-- The domains match the table of R413. -/
def dripReady (s : State) : Bool :=
  let st (n : Nat) := (dom s n).state
  let has (n : Nat) := domPresent s.fuses.variant n
  ([3, 9, 10, 16, 17, 18].all fun n => !has n || st n == 2)
    && ([4, 5, 6, 7, 8].all fun n => !has n || st n == 0)
    && ([11, 12, 14].all fun n => !has n || st n != 2)

/-- A write of MODE.DRIP. The block code DRIP_CONFIG is 0x10. -/
def dripWrite (r : Requester) (v : Word) (s : State) : State :=
  if bit v 0 && !dripReady s then regErr pgPower 0x040 r 0x10 s
  else modPower (fun p => { p with drip := bit v 0 }) s

/-! ### I2C (R414) -/

def i2cOff (m o : Nat) : Nat := 0x0E0 + 0x10 * m + o

/-- A write of I2Cm_CTRL; a SPEED of 3 is FORMAT. -/
def i2cCtrlWrite (r : Requester) (m : Nat) (v : Word) (s : State) : State :=
  if fld v 2 1 = 3 then regErr pgPower (i2cOff m 0) r eFormat s else setReg pgPower 0 (i2cOff m 0) (v &&& 7) s

/-- A write of I2Cm_CMD; GO starts a transfer on an enabled master that has none under way. -/
def i2cCmdWrite (m : Nat) (v : Word) (s : State) : State :=
  if bit s.power.i2cBusy m then s
  else
    let s := setReg pgPower 0 (i2cOff m 4) (v &&& 0x7FF) s
    if bit v 31 && bit (getReg s pgPower 0 (i2cOff m 0)) 0 then
      send (.i2c (Fin.ofNat 2 m) (v &&& 0x7FF) (getPair s pgPower 0 (i2cOff m 8)))
        (modPower (fun p => { p with i2cBusy := p.i2cBusy ||| oneBit 2 m, i2cNack := p.i2cNack &&& ~~~(oneBit 2 m) }) s)
    else s

/-- A transfer ends; a read fills the data registers with its bytes. -/
def i2cDone (m : Nat) (nack : Bool) (data : DWord) (s : State) : State :=
  if !bit s.power.i2cBusy m then s
  else
    let cmd := getReg s pgPower 0 (i2cOff m 4)
    let keep : DWord := BitVec.ofNat 64 (2 ^ (8 * (fld cmd 10 8 + 1)) - 1)
    let s := modPower (fun p => { p with
      i2cBusy := p.i2cBusy &&& ~~~(oneBit 2 m), i2cNack := if nack then p.i2cNack ||| oneBit 2 m else p.i2cNack }) s
    let s := if bit cmd 7 && !nack then setPair pgPower 0 (i2cOff m 8) (data &&& keep) s else s
    raise pgPower (3 + m) s

/-! ### Views (R414) -/

/-- The hottest sensor and its reading. -/
def hottest (s : State) : Nat × BitVec 12 :=
  (List.range 7).foldl (fun (b : Nat × BitVec 12) i =>
    let t := storeGet (fun _ => (0 : BitVec 12)) s.power.temps i
    if b.2.toInt < t.toInt then (i, t) else b) (0, storeGet (fun _ => (0 : BitVec 12)) s.power.temps 0)

/-- The own registers of the POWER page. -/
def powerView (s : State) (off : Nat) : Word :=
  let p := s.power
  if off = 0x040 then flag 0 p.drip
  else if off = 0x044 then at_ 0 p.railTarget.toNat ||| at_ 16 p.railMv.toNat ||| flag 31 p.railSettled
  else if off = 0x048 then at_ 0 s.fuses.bootMv.toNat
  else if off = 0x04C then at_ 0 p.retries.toNat ||| flag 31 p.avsFault
  else if off = 0x050 then at_ 0 p.monMv.toNat ||| flag 31 (bit s.reset_.asserted 13)
  else if off = 0x058 then let h := hottest s; at_ 0 h.1 ||| at_ 16 h.2.toNat
  else if 0x060 ≤ off ∧ off < 0x07C then at_ 0 (storeGet (fun _ => (0 : BitVec 12)) p.temps ((off - 0x060) / 4)).toNat
  else if 0x080 ≤ off ∧ off < 0x0D0 then
    let n := (off - 0x080) / 4
    let d := dom s n
    at_ 0 d.target.toNat ||| at_ 4 d.state.toNat ||| flag 8 d.moving ||| flag 9 (domFixed n)
  else if off = 0x0E0 ∨ off = 0x0F0 then getReg s pgPower 0 off
  else if off = 0x0E4 ∨ off = 0x0F4 then getReg s pgPower 0 off ||| flag 29 (bit p.i2cNack ((off - 0x0E4) / 16))
  else 0

end Sys2Proof.Machine
end

