-- ==== Sys2Proof/Machine/Reset.lean ====
section
/-! DEFINITION. Reset levels and sources (R398 to R404, R408, R427, R464, R465), the start of the ROM, the watchdogs (R128,
R130), the sensors' trip (R392, R393) and the pins at a reset (R405, R407). -/

namespace Sys2Proof.Machine

/-! ### Sources and their levels (R399) -/

/-- A source's default level and its allowed range; a fixed source has one level. -/
def srcRange (c : Nat) : Nat × Nat × Nat :=
  match c with
  | 0 | 1 => (0, 0, 0)
  | 2 => (1, 0, 2)
  | 3 => (3, 1, 3)
  | 4 => (3, 2, 3)
  | 6 => (1, 1, 2)
  | 7 => (1, 0, 1)
  | 8 => (0, 0, 1)
  | 9 => (2, 1, 2)
  | 10 => (1, 0, 1)
  | 11 => (2, 1, 2)
  | 13 => (2, 1, 2)
  | _ => (3, 3, 3)

/-- The level of a source by RST_MAP; a level outside the allowed range acts as the default. -/
def srcLevel (s : State) (c : Nat) : Nat :=
  let (d, lo, hi) := srcRange c
  let f := fld s.fuses.rstMap (2 * c + 1) (2 * c)
  if lo ≤ f ∧ f ≤ hi then f else d

/-- Sources that assert for an instant and are stretched. -/
def srcPulse (c : Nat) : Bool := [5, 6, 8, 9, 10, 11, 12].contains c

/-- An episode of level `l` reaches the block of a source of level L3 (R400): the PCIe block and functions at L0 and L1, the
cores at L0 to L2. -/
def reaches (l c : Nat) : Bool := if c = 12 then true else decide (l ≤ 1)

/-! ### What each level does (R398) -/

/-- MGMT restarts; its SRAM's contents are lost and its pins take their codes. -/
def mgmtReset (s : State) : State :=
  let s := modProc 6 (fun _ => procReset 6) s
  let s := modMem (·.lose 6) (pageClear pgMgmt false s)
  pinsReset true mgmtPins (modTime (fun t => { t with wdtTicks := 0, wdtOn := false }) s)

/-- The part of every level from L2 on: cores, network-on-chip, transfer engine, pacer, semaphores, codec, STRX; HOSTQ queues are
disabled; fences, SHM and DRAM are kept. The controller writes the boot voltage (R390). -/
def fabricReset (s : State) : State :=
  let s := (List.range 6).foldl (fun s n =>
    let s := if (getHealth s n).hold then coreOff n s else s
    modMem (·.lose n) (coreReset n false s)) s
  let health : Store Health := (List.range 6).foldl (fun m n =>
    let h := getHealth s n
    storeSet (fun _ => {}) m n { fenced := h.fenced, fenceCause := h.fenceCause, det := h.det }) []
  let s := modPacer (fun _ => { health := health }) (modDma (fun _ => {}) s)
  let s := [pgShm, pgCodec, pgStrx, pgHostq, pgLfi].foldl (fun s p => blockState p s) s
  let s := [pgNoc, pgDma, pgPacer, pgShm, pgLfi, pgCodec, pgStrx].foldl (fun s p => pageClear p false s) { s with lfi := [] }
  let s := modMem (fun m => { m with selfRefresh := m.trained, restores := [] }) s
  bootRail <| mgmtReset (modTrust (fun t => { t with carafeLock := 0 }) s)

/-- PD2 at L1: SEC, UPDATE, SSTORE and DEBUG. The boot record, the tamper count and what lasts until L0 are kept. -/
def pd2Reset (s : State) : State :=
  let wr := getReg s pgSstore 0 0x04C
  let s := [pgSec, pgUpdate, pgSstore, pgDebug].foldl (fun s p => pageClear p false s) s
  let s := setReg pgSstore 0 0x04C wr s
  modTrust (fun t => { t with
    debugResult := 0, upd := .idle, updResult := 0, progress := 0, actTime := 0, stop := 0, dmax := 0, nextL2 := false, sstoreBusy := false
    sstoreAddr := 0, sstoreData := 0 }) s

/-- L1: everything outside PD0. -/
def deviceReset (s : State) : State :=
  let s := pd2Reset (fabricReset s)
  let s := modPacer (fun p => { p with health := [] }) s
  let s := modMem (fun m => { ([8, 9, 10, 11, 12].foldl (fun m u => m.lose u) m) with
    trained := false, selfRefresh := false, chOk := 0, dramGib := 0, eccOn := false, slices := [] }) s
  let s := linkLoss s
  let s := modPcie (fun p => { perst := p.perst }) s
  let s := modHerd (fun _ => {}) s
  let s := modMedia (fun _ => {}) s
  let s := modPower (fun p => { p with doms := [] }) s
  let s := ctlioReset s
  [pgDdr, pgPcie, pgHostq, pgHerd, pgEth, pgCsi, pgPfe, pgCtlio].foldl (fun s p => pageClear p false s) s

/-- BKP0 to BKP15 and the carafe are cleared to 0, with the cause that CARAFE.ERASED reports (R408, R417). -/
def carafeErase (cause : BitVec 3) (s : State) : State :=
  modTrust (fun t => { t with erased := true, erasedCause := cause }) (modMem (Mem.clear carafeBase (bkpBase + 0x40)) s)

/-- L0: PD0 as well. Every pin is high impedance until the fuses have been read (R407). The sensors keep running (R392). -/
def coldReset (s : State) : State :=
  let s := deviceReset s
  let s := [pgSys, pgPower, pgReset, pgFuse, pgTime, pgCarafe, pgSstore].foldl (fun s p => pageClear p false s) s
  let s := modTrust (fun t => { t with
    keysBlocked := s.fuses.lifecycle == .returned, tamperCnt := 0, debugOpen := false, detOffset := 0, detValid := false
    debug := if t.debug = .armed then .armed else .closed, fuseUntil := 0, debugResult := 0
    tapIr := 1 }) s
  let s := carafeErase 1 s
  let s := modPins (fun _ => []) s
  let s := modPower (fun p => { temps := p.temps, monMv := p.monMv }) s
  let s := modTime (fun t => { running := t.running }) s
  modReset (fun r => { asserted := r.asserted, stretch := r.stretch, ended := r.ended, epoch := 0, causeAcc := r.asserted }) s

/-- The effects of a level. -/
def levelReset (l : Nat) (s : State) : State :=
  match l with
  | 0 => coldReset s
  | 1 => deviceReset s
  | _ => fabricReset s

/-! ### Episodes (R400 to R403) -/

/-- The sources of an episode: those that reached it, and every asserted L3 source whose block it reaches. -/
def episodeSrcs (s : State) (l : Nat) (srcs : BitVec 14) : BitVec 14 :=
  (List.range 14).foldl (fun m c =>
    if bit s.reset_.asserted c && srcLevel s c == 3 && reaches l c then m ||| oneBit 14 c else m) srcs

/-- An episode begins or deepens to level `l`. POR and BOR reset again within an episode of L0 (R407, R443). -/
def episodeEnter (l c : Nat) (s : State) : State :=
  let set (l : Nat) (srcs : BitVec 14) (s : State) : State :=
    modReset (fun r => { r with
      episode := some (BitVec.ofNat 2 l, srcs), cause := srcs, lastLevel := BitVec.ofNat 2 l, exit := none, romStarted := false, service := 0 }) s
  match s.reset_.episode with
  | some (old, srcs) =>
    let s' := if l < old.toNat ∨ c ≤ 1 then levelReset l s else s
    let l' := min l old.toNat
    set l' (episodeSrcs s' l' (srcs ||| oneBit 14 c)) s'
  | none =>
    let l' := match s.reset_.exit with
      | some e => min l e.toNat
      | none => l
    let s' := levelReset l' s
    set l' (episodeSrcs s' l' (oneBit 14 c)) (modReset (fun r => { r with epoch := if l' = 0 then 0 else r.epoch + 1 }) s')

/-- An L3 source that reaches the block of the episode under way joins it (R400). -/
def episodeJoin (c : Nat) (s : State) : State :=
  match s.reset_.episode with
  | some (l, srcs) =>
    if reaches l.toNat c then modReset (fun r => { r with episode := some (l, srcs ||| oneBit 14 c), cause := r.cause ||| oneBit 14 c }) s else s
  | none => s

/-- A non-volatile write pulse is under way (R403). -/
def pulseBusy (s : State) : Bool := s.trust.sstoreBusy || decide (now s < s.trust.fuseUntil)

/-- The fused security version: the largest n such that bits 0 to n - 1 all read 1 (R423). -/
def svnCount (f : Fuses) : Nat := ((List.range 128).find? fun i => !bit f.svn i).getD 128

/-- The thermometer code of a security version. -/
def svnCode (v : Nat) : BitVec 128 := BitVec.ofNat 128 (2 ^ v - 1)

/-- The bits that a cut command was programming are undefined; the bits burnt before stay. -/
def cutBits {w : Nat} (old new free : BitVec w) : BitVec w := old ||| (new &&& ~~~old &&& free)

/-- A fuse command is cut (R403): each bit that it programs is undefined, but that a security version that was rising is left anywhere
between the old and the new (R423). -/
def cutFuses (old new : Fuses) (s : State) : Fuses × State :=
  let (v, s) := draw 8 s
  let (ok, s) := draw 4 s
  let (rev, s) := draw 4 s
  let (lc, s) := draw 1 s
  let (hashes, s) := (List.range 4).foldl (fun (m, s) i =>
    let (h, s) := draw 384 s
    (storeSet (fun _ => 0) m i (cutBits (storeGet (fun _ => 0) old.ownerHash i) (storeGet (fun _ => 0) new.ownerHash i) h), s)) (old.ownerHash, s)
  let lo := svnCount old
  ({ old with
    ownerHash := hashes, ownerValid := cutBits old.ownerValid new.ownerValid ok, ownerRevoked := cutBits old.ownerRevoked new.ownerRevoked rev
    lifecycle := if lc = 1 then new.lifecycle else old.lifecycle
    svn := svnCode (lo + v.toNat % (svnCount new - lo + 1)) }, s)

/-- POR or BOR cuts the write pulse of an SSTORE word, which is then undefined, and the pulses of a fuse command (R403). -/
def cutPulse (s : State) : State :=
  let s := if s.trust.sstoreBusy then
      let (w, s) := draw 32 s
      memPut (sstoreBase + s.trust.sstoreAddr.toNat) (bytesOf 4 w.toNat) (modTrust (fun t => { t with sstoreBusy := false }) s)
    else s
  match s.fuseOld with
  | some old =>
    if now s < s.trust.fuseUntil then
      let (f, s) := cutFuses old s.fuses s
      { s with fuseOld := none, fuses := f }
    else s
  | none => s

/-- A source takes effect (R400, R401): it is asserted for at least its stretch. PERST# at L3 leaves the own registers of the PCIE page,
CFG.ADOPT, IRQ_ROUTEn and GRANTg, as they are: R356 lists queues, MSI-X and classes, and R31, R398 and R399 do not settle it (DESIGN
CHOICE, in the log). -/
def sourceEffect (c : Nat) (s : State) : State :=
  let s := challengeDrop (if c ≤ 1 then cutPulse s else s)
  let s := modReset (fun r => { r with
    asserted := r.asserted ||| oneBit 14 c, stretch := r.stretch ||| oneBit 14 c, ended := r.ended &&& ~~~(oneBit 14 c)
    causeAcc := r.causeAcc ||| oneBit 14 c }) s
  let s := if c ≤ 1 then modTime (fun t => { t with running := false }) s else s
  let s := if c = 3 then modPcie (fun p => { p with perst := true }) s else s
  let s := if c = 3 ∨ c = 4 then linkLoss s else s
  if srcLevel s c = 3 then episodeJoin c s else episodeEnter (srcLevel s c) c s

/-- A source asserts. During a non-volatile write pulse it is held off, POR and BOR excepted (R403). -/
def sourceAssert (c : Nat) (s : State) : State :=
  if pulseBusy s && decide (2 ≤ c) then
    raise pgReset 2 (modReset (fun r => { r with deferred := r.deferred ||| oneBit 14 c, deferCnt := satInc r.deferCnt }) s)
  else sourceEffect c s

/-! ### The start of the ROM (R404, R410, R412, R427, R431) -/

/-- The erase that opens debug (R427). -/
def debugErase (s : State) : State :=
  let s := modMem (fun m => [0, 1, 2, 3, 4, 5, 8, 9, 10, 11].foldl (fun m u => m.wipe u)
    ([0, 1, 2, 3, 4, 5].foldl (fun m n => (m.zeroBuffers n).clear (winBase n + offAbuf) (winBase n + offSbuf)) m)) s
  modTrust (fun t => { t with imgKey := none, keysBlocked := true, debugOpen := true, debug := .opened }) (carafeErase 3 s)

/-- Debug opens in this episode: armed, or on a RETURNED device at L0 and at no other (R419, R426). -/
def debugOpens (s : State) (l : Nat) : Bool :=
  if s.fuses.lifecycle = .returned then l == 0 else s.trust.debug == .armed

/-- The boot record is written (R431, R434): into the copy that is not the newest, the header word last. -/
def bootPut (r : BootRecord) (s : State) : State :=
  let q := s.trust.bootSeq + 1
  let body := bytesOf 4 (at_ 0 Config.bootSchema.toNat ||| at_ 16 4 : Word).toNat ++ bytesOf 4 (Config.bootWord r.active r.trial r.tries).toNat
  let head := bytesOf 4 (at_ 0 Config.bootKey.toNat ||| at_ 16 q.toNat : Word).toNat
  let copy := sstoreBase + 32 * (Config.bootPlace % 0x4000) + 16 * (q.toNat % 2)
  let s := memPut copy (head ++ body ++ bytesOf 4 (Config.crc32 (head ++ body)).toNat) s
  modTrust (fun t => { t with boot := r, bootSeq := q }) (modReg pgSstore 0 0x04C (· + 4) s)

/-- The boot record selects the READY slot for a trial (R431). -/
def bootSwitch (s : State) : State := bootPut { active := !s.trust.boot.active, trial := true, tries := 0 } s

/-- An image armed for the next L2 becomes the active one (R433); the engine leaves ARMED. -/
def updateAtReset (s : State) : State :=
  if s.trust.upd ≠ .armed then s
  else
    let s := if s.trust.nextL2 && s.trust.actTime != 0 then bootSwitch s else s
    if s.trust.nextL2 || s.trust.actTime == 0 then modTrust (fun t => { t with upd := .idle, nextL2 := false }) s else s

/-- The history of episode starts (R404): the eighth within 10 s puts the device into recovery. -/
def historyAdd (s : State) : State :=
  let r := s.reset_
  let i := r.histNext.toNat
  let h := storeSet (fun _ => 0) r.history i s.time.now
  let n := min 8 (r.histCount.toNat + 1)
  let oldest := storeGet (fun _ => 0) h ((i + 1) % 8)
  let trip := decide (n = 8) && decide (s.time.now.toNat < oldest.toNat + 10000 * Config.ms)
  let s := modReset (fun r => { r with
    history := h, histNext := BitVec.ofNat 3 ((i + 1) % 8), histCount := BitVec.ofNat 4 n, recovery := r.recovery || trip }) s
  if trip then raise pgReset 1 s else s

/-- BKP0 [7:0] is incremented, saturating (R404, R408). -/
def bkpCount (s : State) : State := modMem (Mem.put bkpBase (satInc (memByte s bkpBase))) s

/-- The exit sequence of level `l` begins: the ROM starts (R402, R404), and after L0 and L1 it writes the boot voltage (R390). -/
def romStart (l : Nat) (s : State) : State :=
  let s := historyAdd (bkpCount s)
  let s := if debugOpens s l then debugErase s else s
  let s := updateAtReset s
  let s := modReset (fun r => { r with exit := some (BitVec.ofNat 2 l), romStarted := true, episode := none }) s
  let s := modTrust (fun t => { t with booted := false, bootWait := false }) s
  let s := modTime (fun t => { t with wdtOn := true, wdtTicks := 0 }) s
  if l ≤ 1 then bootRail s else s

/-- The episode ends when every source of it has released (R400); its exit sequence is that of the deepest level. -/
def episodeEnd (s : State) : State :=
  match s.reset_.episode with
  | some (l, srcs) => if s.reset_.asserted &&& srcs = 0 then romStart l.toNat s else s
  | none =>
    match s.reset_.exit with
    | some l => if !s.reset_.romStarted && s.reset_.asserted == 0 then romStart l.toNat s else s
    | none => s

/-- A source releases. One still within its stretch stays asserted until the stretch ends (R401), and one that is held off has
ended by the time it takes effect (R403). -/
def sourceRelease (c : Nat) (s : State) : State :=
  if c = 7 ∧ sensorsCool s = false then s
  else
    let s := if bit s.reset_.deferred c then modReset (fun r => { r with ended := r.ended ||| oneBit 14 c }) s else s
    let s := if c = 3 then modPcie (fun p => { p with perst := false }) s else s
    if bit s.reset_.asserted c && bit s.reset_.stretch c then
      if srcPulse c then s else modReset (fun r => { r with ended := r.ended ||| oneBit 14 c }) s
    else episodeEnd (modReset (fun r => { r with asserted := r.asserted &&& ~~~(oneBit 14 c) }) s)

/-- A source's 50 µs stretch ends (R401): a pulse releases, and so does a level whose condition has ended meanwhile. -/
def stretchEnd (c : Nat) (s : State) : State :=
  if !bit s.reset_.stretch c then s
  else
    let gone := srcPulse c || bit s.reset_.ended c
    let s := modReset (fun r => { r with
      stretch := r.stretch &&& ~~~(oneBit 14 c), ended := r.ended &&& ~~~(oneBit 14 c)
      asserted := if gone then r.asserted &&& ~~~(oneBit 14 c) else r.asserted }) s
    if gone then episodeEnd s else s

/-- An SSTORE word's write pulse ends (R438). -/
def sstoreDone (s : State) : State :=
  if !s.trust.sstoreBusy then s
  else
    let s := memPut (sstoreBase + s.trust.sstoreAddr.toNat) (bytesOf 4 s.trust.sstoreData.toNat) s
    raise pgSstore 0 (countWrap pgSstore 0 0x04C (modTrust (fun t => { t with sstoreBusy := false }) s))

/-- A fuse command's pulses have ended. -/
def fuseSettle (s : State) : State := if s.trust.fuseUntil ≤ now s then { s with fuseOld := none } else s

/-- Sources whose condition ended while they were held off: each stays asserted for its stretch alone (R401, R403). -/
def deferredEnded (gone : BitVec 14) (s : State) : State :=
  let s := modReset (fun r => { r with ended := r.ended ||| gone }) s
  if bit gone 3 then modPcie (fun p => { p with perst := false }) s else s

/-- A non-volatile write pulse ends and the sources it held off take effect (R403). -/
def deferralEnd (s : State) : State :=
  let d := s.reset_.deferred
  if d = 0 then s
  else
    let gone := d &&& s.reset_.ended
    let s := fuseSettle (modTrust (fun t => { t with fuseUntil := 0 }) (sstoreDone s))
    let fs := s.reset_.flrDeferred
    let s := modReset (fun r => { r with deferred := 0, flrDeferred := 0 }) s
    let s := deferredEnded gone ((List.range 14).foldl (fun s c => if bit d c then sourceEffect c s else s) s)
    (List.range 16).foldl (fun s f => if bit fs f then fnReset f s else s) s

/-- An FLR of a function that exists (R354): reset source 5, held off like any other during a write pulse (R403). -/
def flrAssert (f : Nat) (s : State) : State :=
  if !fnExists s f || !s.pcie.linkUp then s
  else if pulseBusy s then sourceAssert 5 (modReset (fun r => { r with flrDeferred := r.flrDeferred ||| oneBit 16 f }) s)
  else sourceAssert 5 (fnReset f s)

/-! ### Register commands (R404, R415, R464) -/

/-- SWRST: KEY 0x5E5E and LEVEL 0 or 2, from MGMT or PF0. -/
def swrstWrite (r : Requester) (v : Word) (s : State) : State :=
  if !r.isOwner then regErr pgReset 0x054 r ePermission s
  else if fld v 31 16 ≠ 0x5E5E ∨ (fld v 1 0 ≠ 0 ∧ fld v 1 0 ≠ 2) then regErr pgReset 0x054 r eFormat s
  else sourceAssert (if fld v 1 0 = 0 then 8 else 9) s

/-- RECOVER: the key 0xC1EA ends recovery and empties the history. -/
def recoverWrite (r : Requester) (v : Word) (s : State) : State :=
  if !r.isOwner then regErr pgReset 0x05C r ePermission s
  else if fld v 31 16 ≠ 0xC1EA then regErr pgReset 0x05C r eFormat s
  else modReset (fun r => { r with recovery := false, history := [], histNext := 0, histCount := 0 }) s

/-- SERVICE.LEVEL (R464): full service completes the exit sequence and raises RESTARTED; drip service completes it in recovery. -/
def serviceWrite (r : Requester) (v : Word) (s : State) : State :=
  let l := fld v 1 0
  if r ≠ .mgmt then regErr pgReset 0x0A4 r ePermission s
  else if l = 0 ∨ l = 3 then regErr pgReset 0x0A4 r eFormat s
  else if l = 2 then raise pgReset 0 (modReset (fun r => { r with service := 2, exit := none }) s)
  else modReset (fun r => { r with service := 1, exit := if r.recovery then none else r.exit }) s

/-- The own registers of the RESET page (R415). -/
def resetView (s : State) (off : Nat) : Word :=
  let r := s.reset_
  if off = 0x040 then at_ 0 r.cause.toNat
  else if off = 0x044 then at_ 0 r.causeAcc.toNat
  else if off = 0x048 then at_ 0 r.lastLevel.toNat ||| at_ 16 r.epoch.toNat
  else if off = 0x04C then at_ 0 r.asserted.toNat
  else if off = 0x050 then at_ 0 s.fuses.rstMap.toNat
  else if off = 0x058 then flag 0 r.recovery ||| flag 1 (r.deferred != 0) ||| at_ 8 r.deferCnt.toNat
  else if 0x060 ≤ off ∧ off < 0x0A0 then
    let h := storeGet (fun _ => 0) r.history ((off - 0x060) / 8)
    if off % 8 = 0 then lo32 h else hi32 h
  else if off = 0x0A0 then at_ 0 r.histNext.toNat ||| at_ 8 r.histCount.toNat
  else if off = 0x0A4 then at_ 0 r.service.toNat
  else if 0x0B0 ≤ off ∧ off < 0x0C8 then
    (List.range 8).foldl (fun m j => m ||| at_ (3 * j) (pinCode s (8 * ((off - 0x0B0) / 4) + j))) 0
  else if off = 0x0C8 then (List.range 32).foldl (fun m i => m ||| flag i (pinLatch s i)) 0
  else if off = 0x0CC then (List.range 16).foldl (fun m i => m ||| flag i (pinLatch s (32 + i))) 0
  else 0

/-! ### Watchdogs, sensors, fuses, crystal -/

/-- The core watchdog expires (R128): reset source 12, and a fence. Limits below 100 µs act as 100. -/
def coreWatchdog (n : Nat) (s : State) : State :=
  let p := getProc s n
  let limit := max 100 (fld (getReg s (pgCore n) 0 0x06C) 15 0) * Config.us
  if p.runState = .idle ∨ wdtBusyNs s p < limit then s
  else fenceCore n 3 (sourceAssert 12 (raise (pgCore n) 1 s))

/-- LIMIT_MS of the management watchdog. -/
def mgmtLimit (s : State) : Nat := fld (getReg s pgMgmt 0 0x050) 15 0

/-- The management watchdog expires (R130), on crystal time. -/
def mgmtWatchdog (s : State) : State :=
  if s.time.wdtOn && decide (mgmtLimit s * Config.crystalPerMs ≤ s.time.wdtTicks) then sourceAssert 6 s else s

/-- The seven sensors' readings (R392, R393): the warning, the thermal path at 110 °C, and the trip at 120 °C. -/
def sensorReading (ts : Vector (BitVec 12) 7) (s : State) : State :=
  let s := modPower (fun p => { p with temps := (ts.toList.zipIdx).foldl (fun m e => storeSet (fun _ => 0) m e.2 e.1) [] }) s
  let top := (hottest s).2.toInt
  let warn := ((fld (getReg s pgPower 0 0x054) 7 0 : Nat) : Int)
  let s := if 4 * warn ≤ top then raise pgPower 1 s else s
  let s := if 440 ≤ top ∧ inReset s = false ∧ (s.pacer.thermal = .none ∨ s.pacer.thermal = .restoring) then thermalEnter s else s
  let s := if 480 ≤ top ∧ bit s.reset_.asserted 7 = false then sourceAssert 7 s else s
  pacerSettle (thermalRestore s)

/-- The fuse read completes: the pins take their codes (R407, R410). -/
def fuseRead (s : State) : State :=
  if s.reset_.fusesRead then s
  else pinsReset false (List.range 48) (modReset (fun r => { r with fusesRead := true }) s)

/-- The crystal's first stable edge: device time starts (R394), and AVSBus may run (R410, order 4). -/
def crystalStart (s : State) : State :=
  if s.time.running then s
  else
    let s := modTime (fun t => { t with running := true }) s
    if s.reset_.romStarted then bootRail s else s

/-- A block's or a function's L3 reset finishes (R354, R402). The pacer's waits for its last job (R80). -/
def reportsReady (t : ReadyTarget) (s : State) : State :=
  match t with
  | .page n =>
    if n.val = pgPacer ∧ s.pacer.resetWait = true then s else modHdr n (fun h => { h with resetBusy := false }) s
  | .fn f => modFn f (fun x => { x with flrBusy := false }) s

end Sys2Proof.Machine
end

