-- ==== Sys2Proof/Machine/Trust.lean ====
section
/-! DEFINITION. Lifecycle, debug access, secure boot, the update engine and SSTORE's port (R418 to R438, R460). The
cryptography is taken from Config as functions that nothing is known of. -/

namespace Sys2Proof.Machine

/-! ### Fuses and signers (R418 to R420, R423) -/

/-- An owner hash that is valid and unrevoked. -/
def ownerGood (f : Fuses) (i : Nat) : Bool := bit f.ownerValid i && !bit f.ownerRevoked i

/-- The fused hash of signer index 0 to 4 where R419 allows that signer and its hash is unrevoked. -/
def signerHash (f : Fuses) (idx : Nat) : Option (BitVec 384) :=
  let owner : Option (BitVec 384) :=
    if 1 ≤ idx ∧ idx ≤ 4 ∧ ownerGood f (idx - 1) = true then some (storeGet (fun _ => 0) f.ownerHash (idx - 1)) else none
  match f.lifecycle with
  | .blank | .returned => if idx = 0 then some f.vendorHash else none
  | .provisioned => if idx = 0 then some f.vendorHash else owner
  | .deployed => owner

def modFuses (f : Fuses → Fuses) (s : State) : State := { s with fuses := f s.fuses }

/-- A fuse command is programmed: R403 defers resets during a pulse of at most 12 µs. What the fuses were is kept until the pulses
end, for a POR or BOR that cuts them. -/
def fuseProgram (f : Fuses → Fuses) (s : State) : State :=
  let s := if s.fuseOld.isSome && decide (now s < s.trust.fuseUntil) then s else { s with fuseOld := some s.fuses }
  modTrust (fun t => { t with fuseUntil := now s + 12 * Config.us }) (modFuses f s)

/-- The hash in HASH_IN0 to HASH_IN11. -/
def hashIn (s : State) : BitVec 384 :=
  BitVec.ofNat 384 (ofBytes ((List.range 12).flatMap fun i => bytesOf 4 (getReg s pgSec 0 (0x060 + 4 * i)).toNat))

/-- PROVISION: an owner hash is written. The first one moves a BLANK device to PROVISIONED, and firmware's key-store slot IMG
is there from then on, with a key that nothing is known of. -/
def provisionHash (r : Requester) (arg : Nat) (s : State) : State :=
  if bit s.fuses.ownerValid arg then regErr pgSec 0x048 r eFormat s
  else
    let (k, s) := draw 256 s
    let s := modTrust (fun t => { t with imgKey := t.imgKey.orElse fun _ => some k }) s
    fuseProgram (fun f => { f with
      ownerHash := storeSet (fun _ => 0) f.ownerHash arg (hashIn s), ownerValid := f.ownerValid ||| oneBit 4 arg
      lifecycle := if f.lifecycle = .blank then .provisioned else f.lifecycle }) s

/-- DEPLOY. Permission for fault injection may end with it (R378). -/
def deployDevice (r : Requester) (s : State) : State :=
  if s.fuses.lifecycle = .provisioned ∧ (List.range 4).any (ownerGood s.fuses) = true then
    lfiClose deliver (fuseProgram (fun f => { f with lifecycle := .deployed }) s)
  else regErr pgSec 0x048 r eFormat s

/-- RETURN: the device secret stays blocked for good (R419). -/
def returnDevice (r : Requester) (s : State) : State :=
  if s.fuses.lifecycle = .returned then regErr pgSec 0x048 r eFormat s
  else modTrust (fun t => { t with keysBlocked := true }) (fuseProgram (fun f => { f with lifecycle := .returned }) s)

/-- REVOKE of an owner hash. The block code KEY_LAST is 0x12. -/
def revokeHash (r : Requester) (arg : Nat) (s : State) : State :=
  if s.fuses.lifecycle = .deployed ∧ ((List.range 4).any fun i => i != arg && ownerGood s.fuses i) = false then
    regErr pgSec 0x048 r 0x12 s
  else fuseProgram (fun f => { f with ownerRevoked := f.ownerRevoked ||| oneBit 4 arg }) s

/-- A write of LC_CMD (R420). -/
def lcCmdWrite (r : Requester) (v : Word) (s : State) : State :=
  if r ≠ .mgmt ∨ fld v 31 16 ≠ 0x7A3C then regErr pgSec 0x048 r ePermission s
  else match fld v 3 0 with
    | 1 => provisionHash r (fld v 5 4) s
    | 2 => deployDevice r s
    | 3 => returnDevice r s
    | 4 => revokeHash r (fld v 5 4) s
    | _ => regErr pgSec 0x048 r eFormat s

/-- A tamper detection (R421): source 10, the count, derived keys blocked, and the erases of R408. -/
def tamperDetected (s : State) : State :=
  let s := modTrust (fun t => { t with tamperCnt := satInc t.tamperCnt, keysBlocked := true }) s
  sourceAssert 10 (raise pgSec 1 (carafeErase 2 s))

/-! ### Debug access (R426) -/

/-- The lifecycle's code in `SEC.LC.STATE`. -/
def Lifecycle.code : Lifecycle → Nat
  | .blank => 0
  | .provisioned => 1
  | .deployed => 2
  | .returned => 3

/-- The words of a challenge: the nonce, the die fingerprint, the epoch and the lifecycle state. -/
def challengeWords (s : State) (nonce : BitVec 256) : List Word :=
  (List.range 8).map (fun i => nonce.extractLsb' (32 * i) 32)
    ++ [lo32 s.fuses.dieFp, hi32 s.fuses.dieFp, at_ 0 s.reset_.epoch.toNat, at_ 0 s.fuses.lifecycle.code]

/-- A write of DBG_CTRL: REQ makes a challenge; a BLANK device opens without one, and a RETURNED one at L0 only (R419): there REQ does
nothing (DESIGN CHOICE: the spec gives no code). -/
def debugCtrlWrite (v : Word) (s : State) : State :=
  let s := setReg pgSec 0 0x050 (v &&& 0x30) s
  if !bit v 0 || s.trust.debug == .opened || s.fuses.lifecycle == .returned then s
  else if s.fuses.lifecycle = .blank then modTrust (fun t => { t with debug := .opened, debugOpen := true, debugResult := 0 }) s
  else
    let (nonce, s) := draw 256 s
    let s := (challengeWords s nonce).zipIdx.foldl (fun s e => setReg pgSec 0 (0x0A0 + 4 * e.2) e.1 s) s
    modTrust (fun t => { t with debug := .challenged, debugResult := 0, chalFrom := now s }) s

/-- Bytes of a run of registers. -/
def regBytes (s : State) (page off n : Nat) : List Byte := (List.range n).flatMap fun i => bytesOf 4 (getReg s page 0 (off + 4 * i)).toNat

/-- A write of DBG_SUBMIT verifies the response: the key's hash may match any unrevoked owner hash. Where the challenge has expired
it records EXPIRED, and without a challenge it changes nothing (DESIGN CHOICE: the spec gives neither). -/
def debugSubmit (r : Requester) (s : State) : State :=
  if s.trust.debug = .closed ∧ s.trust.debugResult = 0x11 then regErr pgSec 0x058 r 0x11 s
  else if s.trust.debug ≠ .challenged ∨ s.fuses.lifecycle = .returned then s
  else
    let key := regBytes s pgSec 0x180 24
    let h := Config.sha384 key
    let good := (List.range 4).any fun i => ownerGood s.fuses i && storeGet (fun _ => 0) s.fuses.ownerHash i == h
    if good && Config.ecdsaVerify key (Config.sha384 (regBytes s pgSec 0x0A0 12)) (regBytes s pgSec 0x100 24) then
      raise pgSec 0 (modTrust (fun t => { t with debug := .armed, debugResult := 0 }) s)
    else regErr pgSec 0x058 r 0x10 (modTrust (fun t => { t with debug := .closed, debugResult := 0x10 }) s)

/-- A challenge expires after 60 s of device time. -/
def challengeExpire (s : State) : State :=
  if s.trust.debug = .challenged ∧ s.trust.chalFrom + 60000 * Config.ms ≤ now s then
    challengeDrop s
  else s

/-! ### Images (R422 to R425). An image is read through a function of the offset. -/

def uBadHeader : Byte := 0x10
def uBadSig : Byte := 0x11
def uWrongHw : Byte := 0x12
def uWrongDie : Byte := 0x13
def uRollback : Byte := 0x14
def uSvnRange : Byte := 0x15
def uKeyRevoked : Byte := 0x16
def uAuthTag : Byte := 0x17
def uDigest : Byte := 0x18
def uBaseMismatch : Byte := 0x19
def uNotMember : Byte := 0x1B
def uLateAct : Byte := 0x1C

/-- Bytes and words of an image. -/
def imgBytes (g : Nat → Byte) (off n : Nat) : List Byte := (List.range n).map fun i => g (off + i)
def imgNat (g : Nat → Byte) (off n : Nat) : Nat := ofBytes (imgBytes g off n)

def imgKind (g : Nat → Byte) : Bool := bit (g 0x00A) 0
def imgEnc (g : Nat → Byte) : Bool := bit (g 0x00A) 1
def imgKeyIdx (g : Nat → Byte) : Nat := fld (g 0x00A) 4 2
def imgSvn (g : Nat → Byte) : Nat := imgNat g 0x010 1
def imgAct (g : Nat → Byte) : DWord := BitVec.ofNat 64 (imgNat g 0x020 8)
def imgGroup (g : Nat → Byte) : Nat := imgNat g 0x028 2
def imgLen (g : Nat → Byte) : Nat := imgNat g 0x02C 4
def imgDigest (g : Nat → Byte) (off : Nat) : BitVec 384 := BitVec.ofNat 384 (imgNat g off 48)

/-- Checks 1 to 6 of R422; the code of the first failure. -/
def headerCheck (f : Fuses) (g : Nat → Byte) : Option Byte :=
  if imgNat g 0 4 ≠ 0x4B524C55 ∨ imgNat g 4 2 ≠ 2 ∨ imgNat g 6 2 ≠ 0x0200 then some uBadHeader
  else if imgNat g 8 2 ≠ hwType f.variant then some uWrongHw
  else if imgNat g 0x018 8 ≠ 0 ∧ imgNat g 0x018 8 ≠ f.dieFp.toNat then some uWrongDie
  else match signerHash f (imgKeyIdx g) with
    | none => some uKeyRevoked
    | some h =>
      let key := imgBytes g 0x100 96
      if Config.sha384 key ≠ h ∨ Config.ecdsaVerify key (Config.sha384 (imgBytes g 0 0x160)) (imgBytes g 0x160 96) = false then some uBadSig
      else if 128 < imgSvn g then some uSvnRange
      else if imgSvn g < svnCount f then some uRollback
      else none

/-- Decryption under key-store slot IMG with header bytes 0x000 to 0x0BF as additional data (R425); blocked keys fail. -/
def imgOpen (t : Trust) (g : Nat → Byte) (iv : BitVec 96) (tag : BitVec 128) (data : List Byte) : Option (List Byte) :=
  if t.keysBlocked then none
  else match t.imgKey with
    | some k => Config.gcmOpen k iv (imgBytes g 0 0x0C0) data tag
    | none => none

/-- The plaintext of an image's own payload (check 8 for a full image, and LOAD's for either kind). -/
def imgPayload (t : Trust) (g : Nat → Byte) : Option (List Byte) :=
  let data := imgBytes g 512 (imgLen g)
  if imgEnc g then imgOpen t g (BitVec.ofNat 96 (imgNat g 0x0C0 12)) (BitVec.ofNat 128 (imgNat g 0x0CC 16)) data else some data

/-- The largest payloads: of a full image and of a delta's result. -/
def imgMaxFull : Nat := 24 * 2 ^ 20 - 512
def imgMaxDelta : Nat := 24 * 2 ^ 20 - 560

/-- Offset of the slot trailer behind a result of `n` bytes. -/
def trailerAt (n : Nat) : Nat := (512 + n + 15) / 16 * 16

/-- The trailer of a slot: the longest result whose length stands where its trailer would be. -/
def trailerFind (g : Nat → Byte) : Nat → Option Nat
  | 0 => none
  | n + 1 => if imgNat g (trailerAt (n + 1)) 4 = n + 1 then some (n + 1) else trailerFind g n

/-- Checks 7 to 9 of R422 on a slot: the plaintext payload that boots. -/
def slotPayload (t : Trust) (g : Nat → Byte) : Except Byte (List Byte) :=
  if imgKind g then
    match trailerFind g imgMaxDelta with
    | none => .error uBadHeader
    | some n =>
      let data := imgBytes g 512 n
      let a := trailerAt n
      let open_ : Option (List Byte) := if imgEnc g then
          imgOpen t g (BitVec.ofNat 96 (imgNat g (a + 0x08) 12)) (BitVec.ofNat 128 (imgNat g (a + 0x20) 16)) data else some data
      match open_ with
      | none => .error uAuthTag
      | some p => if Config.sha384 p = imgDigest g 0x090 then .ok p else .error uDigest
  else if imgMaxFull < imgLen g then .error uBadHeader
  else match imgPayload t g with
    | none => .error uAuthTag
    | some p => if Config.sha384 p = imgDigest g 0x030 then .ok p else .error uDigest

/-- All checks of R422 on a slot's image. -/
def slotCheck (f : Fuses) (t : Trust) (g : Nat → Byte) : Except Byte (List Byte) :=
  match headerCheck f g with
  | some code => .error code
  | none => slotPayload t g

/-! ### The boot flash (R428) -/

/-- Where slot A (`false`) or B lies. -/
def slotBase (b : Bool) : Nat := if b then 0x1800000 else 0

def flashByte (s : State) (a : Nat) : Byte := storeGet byteZero s.mem.flash a

/-- A slot as an image. -/
def slotImg (s : State) (b : Bool) : Nat → Byte := fun i => flashByte s (slotBase b + i)

/-- Erase part of the flash. -/
def flashErase (lo hi : Nat) (s : State) : State :=
  modMem (fun m => { m with flash := m.flash.filter fun e => !(decide (lo ≤ e.1) && decide (e.1 < hi)) }) s

/-- Program bytes of the flash. -/
def flashPut (a : Nat) (bs : List Byte) (s : State) : State :=
  modMem (fun m => { m with flash := bs.zipIdx.foldl (fun fl e => storeSet byteZero fl (a + e.2) e.1) m.flash }) s

/-- Erase the inactive slot's header. -/
def eraseInactive (s : State) : State :=
  let b := slotBase (!s.trust.boot.active)
  flashErase b (b + 512) s

/-- Write the inactive slot, which is erased first. -/
def writeInactive (bs : List Byte) (s : State) : State :=
  let b := slotBase (!s.trust.boot.active)
  flashPut b bs (flashErase b (b + 0x1800000) s)

/-! ### Secure boot (R422, R431) -/

/-- A slot boots: its header gives the running image, and the ROM takes DRAM out of self-refresh (R412). -/
def bootSlot (b : Bool) (s : State) : State :=
  let g := slotImg s b
  let s := modMem (fun m => { m with selfRefresh := false }) s
  modTrust (fun t => { t with
    runVer := BitVec.ofNat 32 (imgNat g 0x00C 4), runSchema := BitVec.ofNat 16 (imgNat g 0x014 2), runSvn := BitVec.ofNat 8 (imgSvn g)
    bootWait := false }) s

/-- The trial rule of R431 at a boot: TRIES counts the boots in trial; the one after the third reverts. -/
def trialStart (s : State) : State :=
  let r := s.trust.boot
  if !r.trial then s
  else if r.tries = 3 then raise pgUpdate 3 (bootPut { active := !r.active } s)
  else bootPut { r with tries := r.tries + 1 } s

/-- The ROM chooses a slot and checks its image; if that fails it tries the other; if both fail it waits for PF0, whose image it
finds when it looks again after the LOAD (R422). -/
def secureBoot (s : State) : State :=
  if !s.reset_.romStarted || (s.trust.booted && !s.trust.bootWait) then s
  else
    let s := modTrust (fun t => { t with booted := true, bootFail := 0 }) (if s.trust.bootWait then s else trialStart s)
    let a := s.trust.boot.active
    match slotCheck s.fuses s.trust (slotImg s a) with
    | .ok _ => bootSlot a s
    | .error code =>
      let s := modTrust (fun t => { t with bootFail := code }) s
      match slotCheck s.fuses s.trust (slotImg s (!a)) with
      | .ok _ => bootSlot (!a) s
      | .error code' => raise pgUpdate 4 (modTrust (fun t => { t with updResult := code', bootWait := true }) s)

/-! ### The update engine (R429 to R433, R437) -/

/-- A byte of LOAD's source: the host memory window is PF0's (R343). -/
def srcByte (s : State) (a : Nat) : Byte := if place a = .host then hostByte s (hostAddr s 0 a) else memByte s a

/-- Why LOAD's source cannot be read: DRAM, SHM or the host memory window, with MGMT's reach. -/
def srcRefusal (s : State) (a n : Nat) : Option Byte :=
  match place a with
  | .dram | .shm _ | .host =>
    if rangeMissing s a (a + n - 1) then some eAddrRange else rangeRefused (placeRefusal s none true false 0) a n
  | _ => some eAddrRange

/-- The delta's base payload and its digest: the active slot's (R429). -/
def baseDigest (g : Nat → Byte) : BitVec 384 := imgDigest g (if imgKind g then 0x090 else 0x030)

/-- A little-endian word at the head of a stream. -/
def streamWord (bs : List Byte) : Nat := ofBytes (bs.take 4)

/-- One operation's data, and the stream after its padding. -/
def streamData (n : Nat) (bs : List Byte) : Option (List Byte × List Byte) :=
  if bs.length < (n + 3) / 4 * 4 then none else some (bs.take n, bs.drop ((n + 3) / 4 * 4))

/-- Apply a delta stream to a base payload (R430); `fuel` bounds the operations. `none` is FORMAT. -/
def applyDelta (base : List Byte) : Nat → List Byte → List Byte → Option (List Byte)
  | 0, _, _ => none
  | fuel + 1, stream, out =>
    if stream.length < 4 then none
    else
      let w := streamWord stream
      let n := w % 2 ^ 30
      let after := stream.drop 4
      match w / 2 ^ 30 with
      | 0 =>
        let off := streamWord after
        if after.length < 4 ∨ base.length < off + n then none
        else applyDelta base fuel (after.drop 4) (out ++ (base.drop off).take n)
      | 1 =>
        let off := streamWord after
        if after.length < 4 ∨ base.length < off + n then none
        else match streamData n (after.drop 4) with
          | some (d, rest) => applyDelta base fuel rest (out ++ List.zipWith (· + ·) ((base.drop off).take n) d)
          | none => none
      | 2 => match streamData n after with
        | some (d, rest) => applyDelta base fuel rest (out ++ d)
        | none => none
      | _ => if n = out.length ∧ after = [] then some out else none

/-- LOAD: from IDLE the engine starts checking; in another state WRITE_WHILE_RUNNING. -/
def updLoad (r : Requester) (s : State) : State :=
  if s.trust.upd ≠ .idle then regErr pgUpdate 0x040 r eWriteRunning s
  else modTrust (fun t => { t with upd := .checking, updResult := 0, progress := 0 }) s

/-- A load ends in failure (R429). -/
def loadFail (code : Byte) (s : State) : State :=
  raise pgUpdate 0 (modTrust (fun t => { t with upd := .idle, updResult := code, progress := 0 }) (eraseInactive s))

/-- A load ends with the inactive slot written. -/
def loadReady (g : Nat → Byte) (slot : List Byte) (s : State) : State :=
  raise pgUpdate 0 (modTrust (fun t => { t with
    upd := .ready, updResult := 0, actTime := imgAct g, progress := BitVec.ofNat 16 (slot.length / 1024) }) (writeInactive slot s))

/-- A delta whose stream has been decrypted (R429, order 3). -/
def loadDelta (g : Nat → Byte) (stream : List Byte) (s : State) : State :=
  let a := slotImg s s.trust.boot.active
  if imgDigest g 0x060 ≠ baseDigest a then loadFail uBaseMismatch s
  else match slotPayload s.trust a with
    | .error code => loadFail code s
    | .ok base => match applyDelta base stream.length stream [] with
      | none => loadFail eFormat s
      | some out =>
        if imgMaxDelta < out.length then loadFail eFormat s
        else if Config.sha384 out ≠ imgDigest g 0x090 then loadFail uDigest s
        else
          let pad := List.replicate (trailerAt out.length - 512 - out.length) (0 : Byte)
          let head := imgBytes g 0 512
          let trailer (iv : Nat) (tag : Nat) : List Byte :=
            bytesOf 4 out.length ++ bytesOf 4 0 ++ bytesOf 12 iv ++ bytesOf 12 0 ++ bytesOf 16 tag
          if imgEnc g then
            match s.trust.imgKey with
            | none => loadFail uAuthTag s
            | some k =>
              let (iv, s) := draw 96 s
              let (c, tag) := Config.gcmSeal k iv (imgBytes g 0 0x0C0) out
              loadReady g (head ++ c ++ pad ++ trailer iv.toNat tag.toNat) s
          else loadReady g (head ++ out ++ pad ++ trailer 0 0) s

/-- The engine goes on with a load as time passes (R437): when it has checked and begins to write, and how fast it writes, is open. -/
def loadStep (s : State) : State :=
  match s.trust.upd with
  | .checking =>
    let (w, s) := draw 1 s
    if w = 1 then modTrust (fun t => { t with upd := .writing }) s else s
  | .writing =>
    let (k, s) := draw 16 s
    modTrust (fun t => { t with progress := BitVec.ofNat 16 (min ((getReg s pgUpdate 0 0x04C).toNat / 1024) (t.progress.toNat + k.toNat)) }) s
  | _ => s

/-- The engine's read of LOAD's source: the code with which it fails (R158, R160, R161). -/
def loadRead (a n : Nat) (x : Answered) (s : State) : Option Byte × State :=
  match srcRefusal s a n with
  | some code => (some code, devFails pgUpdate .other code a s)
  | none =>
    if place a = .host then (none, hostReadSent 0 a n s)
    else match devAnswer pgUpdate .other a n x s with
      | (.error code, s) => (some code, s)
      | (.ok _, s) => (none, s)

/-- A load finishes (R429). -/
def loadDone (x : Answered) (s : State) : State :=
  if (s.trust.upd ≠ .checking ∧ s.trust.upd ≠ .writing) ∨ inReset s = true then s
  else
    let src := (getAddr s pgUpdate 0 0x044).toNat
    let n := (getReg s pgUpdate 0 0x04C).toNat
    let g : Nat → Byte := fun i => srcByte s (src + i)
    if n < 512 then loadFail uBadHeader s
    else match loadRead src n x s with
      | (some code, s) => loadFail code s
      | (none, s) =>
        match headerCheck s.fuses g with
        | some code => loadFail code s
        | none =>
          if n < 512 + imgLen g ∨ (imgKind g = false ∧ imgMaxFull < imgLen g) then loadFail uBadHeader s
          else match imgPayload s.trust g with
            | none => loadFail uAuthTag s
            | some p =>
              if imgKind g then loadDelta g p s
              else if Config.sha384 p ≠ imgDigest g 0x030 then loadFail uDigest s
              else loadReady g (imgBytes g 0 (512 + imgLen g)) s

/-- Dmax: the largest D among ACCEPTED classes, in µs (R432). -/
def dMax (s : State) : Nat :=
  ((List.range 64).map fun k => let c := getClass s k; if c.st = .accepted then c.vals.deadline.toNat else 0).foldl max 0

/-- An ADMIT that waits for its rail when an activation is armed fails with ACTIVATING if its set has a class with D > Dmax (R433). -/
def planActivating (s : State) : State :=
  match s.pacer.plan with
  | some pl => if activating s (pl.classes.map fun (k : Fin 64) => (k.val, (getClass s k).vals)) then railUndo (cmdFinish rActivating 0 s) else s
  | none => s

/-- ARM (R431, R432). -/
def updArm (r : Requester) (s : State) : State :=
  let t := s.trust
  let no (code : Byte) : State := regErr pgUpdate 0x040 r code (modTrust (fun t => { t with updResult := code }) s)
  if t.upd ≠ .ready then regErr pgUpdate 0x040 r eWriteRunning s
  else if t.actTime = 0 then modTrust (fun t => { t with upd := .armed, updResult := 0 }) (bootSwitch s)
  else
    let group := imgGroup (slotImg s (!t.boot.active))
    if (group ≠ 0 ∧ group ≠ fld (getReg s pgUpdate 0 0x058) 15 0) ∨ (herdAlone s = false ∧ s.herd.locked = false) then no uNotMember
    else
      let d := dMax s
      let stop : Int := t.actTime.toNat - s.herd.hoffset - (d * Config.us : Nat)
      if stop < now s then no uLateAct
      else planActivating (modTrust (fun t => { t with upd := .armed, updResult := 0, dmax := d, stop := BitVec.ofInt 64 stop, nextL2 := false }) s)

/-- A boot record that ARM with ACT_TIME = 0 switched goes back. -/
def unswitch (s : State) : State :=
  if s.trust.upd = .armed ∧ s.trust.actTime = 0 then bootPut { active := !s.trust.boot.active } s else s

/-- DISARM: before the stop instant it cancels the activation; after it WRITE_WHILE_RUNNING (R433). -/
def updDisarm (r : Requester) (s : State) : State :=
  match s.trust.upd with
  | .armed => modTrust (fun t => { t with upd := .ready, nextL2 := false, stop := 0 }) (unswitch s)
  | .stopping => regErr pgUpdate 0x040 r eWriteRunning s
  | _ => s

/-- CONFIRM: TRIAL clears, then the fused version rises to the running image's SVN (R423, R431). -/
def updConfirm (s : State) : State :=
  let s := bootPut { s.trust.boot with trial := false, tries := 0 } s
  let v := min 128 s.trust.runSvn.toNat
  if v ≤ svnCount s.fuses then s
  else fuseProgram (fun f => { f with svn := f.svn ||| svnCode v }) s

/-- ABANDON: a READY or ARMED engine returns to IDLE and the inactive slot's header is erased (R437). -/
def updAbandon (s : State) : State :=
  if s.trust.upd = .ready ∨ s.trust.upd = .armed then
    modTrust (fun t => { t with upd := .idle, nextL2 := false, actTime := 0, stop := 0 }) (eraseInactive (unswitch s))
  else s

/-- A write of UPDATE.CMD. -/
def updCmdWrite (r : Requester) (v : Word) (s : State) : State :=
  match fld v 3 0 with
  | 1 => updLoad r s
  | 2 => updArm r s
  | 3 => updDisarm r s
  | 4 => updConfirm s
  | 5 => updAbandon s
  | _ => regErr pgUpdate 0x040 r eFormat s

/-- The activation instant in device time (R432). -/
def actInstant (s : State) : Int := s.trust.actTime.toNat - s.herd.hoffset

/-- A class is revoked with its notice ending at the instant `t` (R73, R433). -/
def revokeAt (t k : Nat) (s : State) : State :=
  match (getClass s k).st with
  | .free => s
  | .defined => raise pgPacer 7 (classFree k s)
  | .revoking => modClass k (fun c => { c with noticeEnd := min c.noticeEnd t }) s
  | .accepted | .shed => modClass k (fun c => { c with st := .revoking, noticeEnd := t, pend := none }) s

/-- The stop instant (R433, order 2): every class is revoked with its notice ending then, and an admission under way fails with
ACTIVATING. A herd member whose LOCKED has cleared does not stop. -/
def activationStop (s : State) : State :=
  let t := s.trust
  if t.upd ≠ .armed ∨ t.actTime = 0 ∨ t.nextL2 = true ∨ now s < t.stop.toNat then s
  else
    let s := raise pgUpdate 1 (modTrust (fun t => { t with upd := .stopping }) s)
    let s := if s.pacer.plan.isSome then railUndo (cmdFinish rActivating 0 s) else s
    pacerSettle ((List.range 64).foldl (fun s k => revokeAt t.stop.toNat k s) s)

/-- ACT_TIME (R433, order 3′): every job still uncommitted stops and completes LATE with the cause that delayed it. -/
def activationTime (s : State) : State :=
  if s.trust.upd ≠ .stopping ∨ (now s : Int) < actInstant s then s
  else pacerSettle ((s.pacer.jobs.filter (·.open_)).foldl (fun s j => jobStop j.id .late (lateCause j) 0 s) s)

/-- 10 µs later (R433, order 4): the boot record is set and reset source 9 asserts. -/
def activationReset (s : State) : State :=
  if s.trust.upd ≠ .stopping ∨ (now s : Int) < actInstant s + 10 * Config.us then s
  else sourceAssert 9 (modTrust (fun t => { t with upd := .idle }) (bootSwitch s))

/-! ### SSTORE's port (R434, R438) -/

/-- Writes of ADDR, DATA and CMD; while a word is being written they record SHADOW_BUSY. -/
def sstoreRegWrite (r : Requester) (off : Nat) (v : Word) (s : State) : State :=
  if s.trust.sstoreBusy then regErr pgSstore off r eShadowBusy s
  else if off = 0x040 then modTrust (fun t => { t with sstoreAddr := (v &&& 0x7FFFC).setWidth 19 }) s
  else if off = 0x044 then modTrust (fun t => { t with sstoreData := v }) s
  else if bit v 0 then modTrust (fun t => { t with sstoreBusy := true }) s
  else s

/-! ### Views -/

def DebugSt.code : DebugSt → Nat
  | .closed => 0
  | .challenged => 1
  | .armed => 2
  | .opened => 3

def UpdateSt.code : UpdateSt → Nat
  | .idle => 0
  | .checking => 1
  | .writing => 2
  | .ready => 3
  | .armed => 4
  | .stopping => 5

/-- The own registers of the SEC page (R436). -/
def secView (s : State) (off : Nat) : Word :=
  let f := s.fuses
  let t := s.trust
  if off = 0x040 then at_ 0 f.lifecycle.code ||| at_ 4 f.ownerValid.toNat ||| at_ 8 f.ownerRevoked.toNat ||| flag 16 t.keysBlocked
  else if off = 0x044 then at_ 0 (svnCount f)
  else if off = 0x04C then at_ 0 t.tamperCnt.toNat
  else if off = 0x050 then getReg s pgSec 0 0x050
  else if off = 0x054 then at_ 0 (DebugSt.code t.debug) ||| at_ 8 t.debugResult.toNat
  else 0

/-- The own registers of the UPDATE page (R437). -/
def updateView (s : State) (off : Nat) : Word :=
  let t := s.trust
  if off = 0x050 then at_ 0 t.upd.code ||| at_ 8 t.updResult.toNat ||| at_ 16 t.progress.toNat
  else if off = 0x054 then flag 0 t.boot.active ||| flag 1 t.boot.trial ||| at_ 4 t.boot.tries.toNat ||| at_ 8 t.bootFail.toNat
  else if off = 0x05C then lo32 t.actTime
  else if off = 0x060 then hi32 t.actTime
  else if off = 0x064 then lo32 t.stop
  else if off = 0x068 then hi32 t.stop
  else if off = 0x06C then t.runVer
  else if off = 0x070 then at_ 0 t.runSchema.toNat
  else 0

/-- The own registers of the SSTORE page (R438). -/
def sstoreView (s : State) (off : Nat) : Word :=
  if off = 0x040 then s.trust.sstoreAddr.setWidth 32
  else if off = 0x044 then s.trust.sstoreData
  else if off = 0x048 then flag 31 s.trust.sstoreBusy
  else 0

end Sys2Proof.Machine
end

