-- ==== Sys2Proof/Machine/Views.lean ====
section
/-! DEFINITION. What a read of a register shows: the common header (R17), the registers that are computed from other fields of
the state, staged copies (R23), and the reads that change something (RC registers, R30 latches are in Machine/Bus.lean). -/

namespace Sys2Proof.Machine

/-! ### Pages (R3, R17, R32) -/

/-- A page answers in full: present, its domain ON, not a fenced core's. -/
def pageUp (s : State) (page : Nat) : Bool :=
  pagePresent s page && domOn s (pageDom page) && !(decide (pgCore0 ≤ page) && decide (page < pgMgmt) && fenced s (page - pgCore0))

/-- `BLK_CTRL.ENABLE`. A core that is up is enabled, until the pacer writes 0 there (R128). -/
def pageEnable (s : State) (page : Nat) : Bool :=
  if pgCore0 ≤ page ∧ page < pgMgmt then pageUp s page && !(getHealth s (page - pgCore0)).disabled else (getHdr s page).enable

/-- Within an item when ENABLE is cleared: a core within a bundle, another block while it is active (R20). -/
def pageWithin (s : State) (page : Nat) : Bool :=
  if pgCore0 ≤ page ∧ page < pgMgmt then
    let p := getProc s (page - pgCore0)
    p.buf.syls != 0 || !p.buf.waits.isEmpty
  else blockActive s page

/-- `BLK_STAT.BUSY`. -/
def pageBusy (s : State) (page : Nat) : Bool := if pageEnable s page then blockActive s page else (getHdr s page).busy

/-- `BLK_STAT.PSTATE`: a fenced core reads 0 (R32). -/
def pageState (s : State) (page : Nat) : Nat :=
  if pgCore0 ≤ page ∧ page < pgMgmt ∧ fenced s (page - pgCore0) = true then 0 else (dom s (pageDom page)).state.toNat

/-- The word of BLK_CAP: PRESENT, COUNT, FEATURES. -/
def blkCap (s : State) (page : Nat) : Word :=
  flag 31 true ||| at_ 24 (pageCount s.fuses.variant page) ||| (features s.fuses.variant page &&& 0xFFFFFF)

/-- The copy of CH_SEL of a requester: 0 for MGMT and JTAG, 1 + f for a function, 17 + n for a core (R26). -/
def selCopy : Requester → Option Nat
  | .mgmt | .jtag => some 0
  | .fn f => some (1 + f)
  | .core n => some (17 + n)
  | _ => none

/-- A requester's CH_SEL of a page; 0 for a requester without a copy. -/
def chSel (s : State) (r : Requester) (page : Nat) : Word :=
  match selCopy r with
  | some c => storeGet (fun _ => 0) s.bus.chSel (page * 64 + c)
  | none => 0

/-- The channel of a requester's window, if its index is valid (R26, R27). -/
def selChan (s : State) (r : Requester) (page : Nat) : Option Nat :=
  let i := fld (chSel s r page) 7 0
  if (selCopy r).isSome && decide (i < pageCount s.fuses.variant page) then some i else none

/-- The error word of a header: VALID, REQ, ADDR_HI, CODE. -/
def Hdr.info (h : Hdr) : Word :=
  flag 31 h.errValid ||| at_ 16 h.errReq.toNat ||| at_ 8 (h.errAddr.toNat / 2 ^ 32) ||| at_ 0 h.errCode.toNat

/-- A header register (R17). -/
def hdrView (s : State) (r : Requester) (page off : Nat) : Word :=
  let h := getHdr s page
  match off with
  | 0x000 => at_ 16 page ||| (Config.blkVersion page).setWidth 32
  | 0x004 => blkCap s page
  | 0x008 => flag 0 (pageEnable s page)
  | 0x00C => flag 0 (pageBusy s page) ||| flag 1 h.commitPending ||| flag 2 h.resetBusy
      ||| flag 3 (decide (pgCore0 ≤ page ∧ page < pgMgmt) && fenced s (page - pgCore0)) ||| at_ 4 (pageState s page)
  | 0x010 => h.irqStat
  | 0x014 => h.irqEn
  | 0x01C => chSel s r page
  | 0x020 => h.info
  | 0x024 => h.errAddr.setWidth 32
  | 0x028 => h.stageSeq
  | _ => 0

/-! ### Own registers, page by page -/

/-- The pages for which `f` holds, as a word. -/
def pageBits (f : Nat → Bool) : Word := (List.range 32).foldl (fun w n => w ||| flag n (f n)) 0

/-- `SYS.IRQ_SUM` and `SYS.ERR_SUM` (R36). The bit of a page whose domain is OFF or in RETAIN, or of a fenced core, reads 0 whatever its
header holds (the spec is silent: DESIGN CHOICE, in the log). -/
def irqSum (s : State) : Word := pageBits fun n => pageUp s n && (getHdr s n).line
def errSum (s : State) : Word := pageBits fun n => pageUp s n && (getHdr s n).errValid

/-- SYS (R36). -/
def sysView (s : State) (off : Nat) : Word :=
  match off with
  | 0x040 => cap0 s.fuses.variant
  | 0x044 => at_ 0 (if s.mem.trained then s.mem.dramGib else 0) ||| at_ 8 s.fuses.step.toNat ||| flag 12 (s.power.drip || s.reset_.recovery) ||| flag 13 s.trust.debugOpen
  | 0x048 => at_ 0 (hwType s.fuses.variant)
  | 0x04C => at_ 0 0x1F5B ||| at_ 16 (hwType s.fuses.variant)
  | 0x050 => lo32 s.fuses.dieFp
  | 0x054 => hi32 s.fuses.dieFp
  | 0x058 => irqSum s
  | 0x060 => errSum s
  | _ => 0

/-- TIME (R416). -/
def timeView (s : State) (off : Nat) : Word :=
  match off with
  | 0x040 => lo32 s.time.now
  | 0x044 => hi32 s.time.now
  | 0x048 | 0x04C => getReg s pgTime 0 off
  | 0x058 => flag 0 s.time.far
  | 0x05C => s.time.errNs
  | _ => 0

/-- DMA (R292, R293). -/
def dmaView (s : State) (chan off : Nat) : Word :=
  let ch := getChan s chan
  if off = 0x040 then (List.range 32).foldl (fun w c => w ||| flag c (getChan s c).done) 0
  else if off = 0x044 then (List.range 32).foldl (fun w c => w ||| flag c ((getChan s c).st == .halted)) 0
  else if off = 0x054 then
    (List.range 4).foldl (fun w m => match (List.range 32).find? fun c => (getChan s c).mover == some (Fin.ofNat 4 m) with
      | some c => w ||| at_ (8 * m) c ||| flag (8 * m + 7) true
      | none => w) 0
  else if off = 0x400 then flag 0 ch.en ||| at_ 1 ch.prio.toNat ||| flag 3 ch.descMode
  else if off = 0x408 then
    at_ 0 ch.st.code ||| flag 3 ch.armed ||| flag 4 ch.disarmLate ||| flag 5 ch.done ||| at_ 8 ch.result.toNat ||| at_ 16 ch.seq.toNat
  else if off = 0x40C then flag 0 ch.armed
  else if off = 0x410 then at_ 0 (chanOwner s chan).toNat
  else if off = 0x414 then at_ 0 ch.rows.toNat
  else if off = 0x418 then ch.descPtr.setWidth 32 &&& 0xFFFFFFC0
  else if off = 0x41C then at_ 0 (ch.descPtr.toNat / 2 ^ 32)
  else if off = 0x420 then ch.descHome.setWidth 32
  else if off = 0x424 then at_ 0 (ch.descHome.toNat / 2 ^ 32)
  else if off = 0x428 then ch.actDesc.setWidth 32
  else if off = 0x42C then at_ 0 (ch.actDesc.toNat / 2 ^ 32)
  else if 0x440 ≤ off ∧ off < 0x480 then dw ch.act ((off - 0x440) / 4) &&& dwMask ((off - 0x440) / 4)
  else if 0x480 ≤ off ∧ off < 0x4C0 then dw ch.shadow ((off - 0x480) / 4) &&& dwMask ((off - 0x480) / 4)
  else 0

/-- DDR (R159). -/
def ddrView (s : State) (off : Nat) : Word :=
  match off with
  | 0x044 => flag 0 s.mem.trained ||| flag 1 s.mem.selfRefresh ||| at_ 16 s.mem.chOk.toNat
  | 0x048 => at_ 0 (usableMib s)
  | _ => 0

/-- ETH (R328): a port's link and PCS lock. -/
def ethView (s : State) (chan off : Nat) : Word :=
  if off = 0x404 then let up := portUp s chan; flag 0 up ||| flag 1 up else 0

/-- STRX (R329, R330). -/
def strxView (s : State) (chan off : Nat) : Word :=
  if off = 0x044 then at_ 0 s.media.quarantine.length ||| flag 31 s.media.keyValid
  else if off = 0x06C then at_ 0 (freeEntries s)
  else if off % 0x80 = 0 then getReg s pgStrx chan off
  else 0

/-- CSI (R333): SYNC beside the frame count. -/
def csiView (s : State) (chan off : Nat) : Word :=
  if off = 0x408 then getReg s pgCsi chan off ||| flag 0 (getCsi s chan).sync else getReg s pgCsi chan off

/-- CTLIO (R335). -/
def ctlioView (s : State) (off : Nat) : Word :=
  if off = 0x040 then at_ 0 s.ctlio.inLevel.toNat
  else if off = 0x058 then (List.range 8).foldl (fun w o => w ||| flag o ((getPin s o).drive == .sink || (getPin s o).drive == .low)) 0
  else if off = 0x064 then getReg s pgCtlio 0 0x064 ||| at_ 16 (gpioLevel s).toNat
  else if off = 0x06C then at_ 0 s.ctlio.events.length
  else if off = 0x0C8 ∨ off = 0x0D8 then
    let u := getUart s ((off - 0x0C8) / 0x10)
    at_ 0 u.tx.length ||| at_ 8 u.rx.length ||| flag 16 u.ovr ||| flag 17 u.perr ||| flag 18 u.ferr
  else getReg s pgCtlio 0 off

/-- The first semaphore of a window and the register's k: semaphore 4 × INDEX + k (R165). -/
def semOf (chan off : Nat) : Nat := 4 * chan + (off - 0x400) / 0x20

/-- SHM (R164, R165). -/
def shmView (s : State) (chan off : Nat) : Word :=
  if off = 0x040 then at_ 0 (fld (cap0 s.fuses.variant) 9 6) ||| (List.range 4).foldl (fun w n => w ||| flag (4 + n) (getSlice s n).refusing) 0
  else if 0x044 ≤ off ∧ off < 0x054 then at_ 0 (min 65535 (slicePend s ((off - 0x044) / 4)))
  else if off = 0x060 then getReg s pgShm 0 0x060 ||| flag 1 s.mem.scrubBusy
  else if off = 0x06C then at_ 0 s.mem.scrubPos.toNat
  else if 0x400 ≤ off ∧ off % 0x20 = 0 then at_ 0 (semCount s (semOf chan off)).toNat
  else 0

/-- CARAFE (R417). -/
def carafeView (s : State) (off : Nat) : Word :=
  match off with
  | 0x040 => at_ 0 s.trust.carafeLock.toNat
  | 0x048 => at_ 0 s.trust.detOffset.toNat ||| flag 31 s.trust.detValid
  | 0x04C => flag 0 s.trust.erased ||| at_ 1 s.trust.erasedCause.toNat
  | _ => 0

/-- `STATE.RUN_STATE` (R127). -/
def RunState.code : RunState → Nat
  | .idle => 0
  | .issue => 1
  | .wait => 2
  | .handler => 3
  | .drain => 4

/-- A processor's FAULT_INFO. -/
def ProcState.faultWord (p : ProcState) : Word := flag 31 p.faultValid ||| at_ 8 p.faultSlot.toNat ||| at_ 0 p.faultCause.toNat

/-- `WDT_CNT` of a core: µs of device time since the last STEPEND while busy (R127). -/
def wdtCount (s : State) (n : Nat) : Nat :=
  min 65535 (wdtBusyNs s (getProc s n) / Config.us)

/-- CORE0 to CORE5 (R127, R208). -/
def coreView (s : State) (n off : Nat) : Word :=
  let p := getProc s n
  let a := getArray s n
  match off with
  | 0x040 =>
    let tag := match p.run with
      | some (j, _) => match getJob s j with
        | some job => job.tag.toNat
        | none => 0
      | none => 0
    at_ 0 p.runState.code ||| flag 4 p.pmemAct ||| flag 5 p.ie ||| at_ 16 tag
  | 0x044 => at_ 0 (p.lastPc % 65536)
  | 0x048 => p.faultWord
  | 0x04C => p.faultPc &&& 0xFFFF
  | 0x050 => p.vfaultPc &&& 0xFFFF
  | 0x054 => p.vfaultInfo
  | 0x058 => flag 0 p.accOvf ||| flag 1 p.movSat
  | 0x05C => p.satCnt
  | 0x060 => lo32 p.stepCnt
  | 0x064 => hi32 p.stepCnt
  | 0x068 => p.stallCnt
  | 0x070 => at_ 0 (wdtCount s n)
  | 0x074 => at_ 0 a.queue.length ||| flag 8 (a.queue.any (·.started))
  | 0x078 => at_ 0 a.lastTag.toNat ||| at_ 8 a.lastOp.toNat ||| flag 16 a.lastEmpty ||| flag 31 a.lastValid
  | 0x07C => flag 0 a.emptySeen ||| flag 1 a.accWrap ||| flag 2 a.badScale
  | 0x080 => a.cmdCnt
  | 0x084 => lo32 a.waveCnt
  | 0x088 => hi32 a.waveCnt
  | 0x08C => flag 0 a.ti ||| flag 1 a.tw ||| flag 2 a.flip
  | _ => 0

/-- MGMT (R129, R130). -/
def mgmtView (s : State) (off : Nat) : Word :=
  let p := getProc s 6
  match off with
  | 0x040 => at_ 0 p.runState.code ||| flag 5 p.ie
  | 0x044 => BitVec.ofNat 32 p.lastPc
  | 0x048 => p.faultWord
  | 0x04C => p.faultPc
  | 0x050 => getReg s pgMgmt 0 0x050
  | 0x058 => at_ 0 (min 65535 (s.time.wdtTicks / Config.crystalPerMs))
  | _ => 0

/-- The staging copy of a cell, or its applied value (R23). -/
def stagedCell (s : State) (key : Nat) : Word :=
  (storeGet (fun _ => none) s.bus.staged key).getD (storeGet regReset s.bus.regs key)

/-- The table cells that GAMMA_DATA and COEF_DATA name: the index registers' staging copies select them. -/
def pfeTableKey (s : State) (chan off : Nat) : Nat :=
  if off = 0x42C then gammaKey chan (fld (stagedCell s (regKey pgPfe chan 0x428)) 10 0)
  else coefKey chan ((off - 0x480) / 0x40) (fld (stagedCell s (regKey pgPfe chan (off - 4))) 8 0)

/-- The own register of a page. -/
def ownView (s : State) (r : Requester) (page chan off : Nat) : Word :=
  match page with
  | 0x00 => sysView s off
  | 0x01 => pacerView s r chan off
  | 0x02 => powerView s off
  | 0x03 => resetView s off
  | 0x05 => timeView s off
  | 0x06 => secView s off
  | 0x07 => updateView s off
  | 0x08 => dmaView s chan off
  | 0x09 => getReg s pgNoc 0 off
  | 0x0A => ddrView s off
  | 0x0B => pcieView s chan off
  | 0x0C => if queueExists s chan then hostqView s chan off else 0
  | 0x0D => herdView s ((selCopy r).getD 63) chan off
  | 0x0E => ethView s chan off
  | 0x0F => strxView s chan off
  | 0x11 => csiView s chan off
  | 0x12 => if off = 0x42C ∨ (0x480 ≤ off ∧ off % 0x40 = 0x30) then stagedCell s (pfeTableKey s chan off) else 0
  | 0x13 => ctlioView s off
  | 0x14 => shmView s chan off
  | 0x15 => if off = 0x040 then getReg s pgLfi 0 off ||| flag 0 (lfiOpen s) else getReg s pgLfi chan off
  | 0x16 => carafeView s off
  | 0x17 => sstoreView s off
  | 0x1E => mgmtView s off
  | _ => if pgCore0 ≤ page ∧ page < pgMgmt then coreView s (page - pgCore0) off else 0

/-- What a register of a page's block shows. Templates exist for indices 0 to 7 only (R336); the window entries of a function
that does not exist read zero (R338). -/
def blockView (s : State) (r : Requester) (page chan off : Nat) : Word :=
  match regRow page off with
  | none => 0
  | some row =>
    if page = pgCtlio ∧ 0x420 ≤ off ∧ 8 ≤ chan then 0
    else if page = pgPcie ∧ 0x400 ≤ off ∧ fnExists s chan = false then 0
    else if page = pgHostq ∧ 0x400 ≤ off ∧ queueExists s chan = false then 0
    else if page = pgHerd ∧ 0x400 ≤ off ∧ chan = herdId s then 0
    else if row.own then ownView s r page chan off
    else
      let w := getReg s page chan off
      match storeGet (fun _ => none) s.bus.staged (regKey page chan off) with
      | some v => mix row.staged w v
      | none => w

/-! ### Reads that change something -/

/-- A read-to-clear register returns the bits of `mask` and clears them. -/
def readClear (r : Requester) (page chan off : Nat) (mask : Word) (s : State) : State :=
  let w := getReg s page chan off
  setAnswer r (w &&& mask) (setReg page chan off (w &&& ~~~mask) s)

/-- A read of a block register, answered to the requester: RC registers clear, FIFOs pop, semaphores decrement or park. The rail
monitor's reading is a value of the outside's, drawn at each read (R391). -/
def blockRead (r : Requester) (page chan off : Nat) (s : State) : State :=
  if page = pgShm ∧ off = 0x058 then detLogPop r s
  else if page = pgShm ∧ 0x400 ≤ off ∧ off < 0x480 ∧ off % 0x20 = 0x08 then semWait r (semOf chan off) s
  else if page = pgShm ∧ 0x400 ≤ off ∧ off < 0x480 ∧ off % 0x20 = 0x0C then semTake r (semOf chan off) s
  else if page = pgCsi ∧ off = 0x40C then readClear r pgCsi chan off 0xFFFFFFFF s
  else if page = pgHerd ∧ off = 0x420 then
    setAnswer r (herdView s 0 chan off) (if chan = herdId s then s else modPeer chan (fun x => { x with gapCnt := 0, badCnt := 0 }) s)
  else if page = pgCarafe ∧ off = 0x04C then
    setAnswer r (carafeView s off) (modTrust (fun t => { t with erased := false, erasedCause := 0 }) s)
  else if page = pgPower ∧ off = 0x050 then
    let (mv, s) := draw 10 s
    let s := modPower (fun p => { p with monMv := mv }) s
    setAnswer r (powerView s off) s
  else if page = pgCtlio ∧ (off = 0x0C4 ∨ off = 0x0D4) then
    let (w, s) := uartDataRead ((off - 0x0C4) / 0x10) s
    setAnswer r w s
  else if pgCore0 ≤ page ∧ page < pgMgmt ∧ off = 0x05C then
    setAnswer r (getProc s (page - pgCore0)).satCnt (modProc (page - pgCore0) (fun p => { p with satCnt := 0 }) s)
  else setAnswer r (blockView s r page chan off) s

end Sys2Proof.Machine
end

