-- ==== Sys2Proof/Machine/Bus.lean ====
section
/-! DEFINITION. Register accesses (R15 to R36): who may reach a page, the header's commands, the register classes, LO/HI pairs,
channel selection, and the registers whose write is a command of its block. -/

namespace Sys2Proof.Machine

/-! ### Who reaches a page (R16, R128, R160, R269, R340) -/

/-- What a virtual function reaches (R340). CH_SEL is written where its windows need it. -/
def vfReaches (s : State) (f page off : Nat) (write : Bool) : Bool :=
  let sel := selChan s (.fn (Fin.ofNat 16 f)) page
  if page = pgSys then !write
  else if page = pgPacer then true
  else if page = pgHostq then off == 0x01C || (decide (0x400 ≤ off) && sel.all fun q => q / 4 == f)
  else if page = pgDma then off == 0x01C || decide (0x400 ≤ off) || (decide (off < 0x040) && !write)
  else if page = pgShm then off == 0x01C || (decide (0x400 ≤ off) && !(off % 0x20 == 0x10))
  else if page = pgCtlio then (off == 0x068 && write) || ((off == 0x040 || off == 0x058) && !write)
  else false

/-- The reach of MGMT and PF0: theirs, and that of a channel that one of them owns, which has the whole map (R270, R342). -/
def pageOwner (s : State) (r : Requester) : Bool :=
  r.isOwner || match r with
    | .chan c => chanOwner s c == 0x00 || chanOwner s c == 0x10
    | _ => false

/-- What a channel's beats do not reach: of a core's channel, all but the core's own page (R270). -/
def chanRefused (s : State) (c page : Nat) : Bool :=
  match chanCore s c with
  | some n => page != pgCore n
  | none => !(chanOwner s c == 0x00 || chanOwner s c == 0x10)

/-- The channel windows of the transfer engine belong to the channel's owner, MGMT and PF0 (R269): so a core, as a register's requester,
reaches those of its channels, while its scalar accesses keep to R160 (DEDUCED). -/
def dmaRefused (s : State) (r : Requester) (page off : Nat) : Bool :=
  page == pgDma && decide (0x400 ≤ off) && !pageOwner s r && match selChan s r pgDma with
    | some c => chanOwner s c != r.code
    | none => false

/-- An access that a page refuses (R16). -/
def pageRefused (s : State) (r : Requester) (page off : Nat) (write : Bool) : Bool :=
  dmaRefused s r page off || (write && (page == pgUpdate || page == pgSstore) && !pageOwner s r) || match r with
    | .mgmt => false
    | .jtag => !s.trust.debugOpen && page != pgSec
    | .chan c => chanRefused s c page
    | .fn f => f != 0 && !vfReaches s f page off write
    | .core n => (page != pgShm && page != pgCore n && !(page == pgDma && (off == 0x01C || decide (0x400 ≤ off))))
        || (page == pgShm && decide (0x400 ≤ off) && off % 0x20 == (if write then 0x10 else 0x0C))
    | .pacer => !(decide (pgCore0 ≤ page) && decide (page < pgMgmt))
    | _ => true

/-- Why a write does not reach its register: the page that records the error, and the code (R3, R16, R21, R32). -/
def writeCheck (s : State) (r : Requester) (page off : Nat) : Option (Nat × Byte) :=
  if pageRefused s r page off true then some (page, ePermission)
  else if !pagePresent s page then some (pgSys, eAbsent)
  else if !pageUp s page then some (pgSys, ePoweredOff)
  else if (getHdr s page).resetBusy && off != 0x010 && off != 0x020 then some (page, eWriteRunning)
  else none

/-! ### Commits (R23, R24) -/

/-- The bits of a cell that a commit applies: a register's staged bits, or a table's whole cell. -/
def commitMask (key : Nat) : Word :=
  match regRow (keyPage key) (key % 0x1000) with
  | some row => row.staged
  | none => 0xFFFFFFFF

/-- The block's own part of a commit: the checks at a commit and what changed settings start anew. -/
def commitHook (page : Nat) (r : Byte) (before : Store Word) (written changed : List Nat) (s : State) : State :=
  if page = pgPacer then reserveCommit (bit (storeGet regReset before (regKey pgPacer 0 0x040)) 0) s
  else if page = pgShm then goldenCheck r s
  else if page = pgCtlio then ctlioCommit r changed s
  else if page = pgPfe then pfeCommit r before changed s
  else if page = pgHerd ∧ written.contains (regKey pgHerd 0 0x048) = true then bellCommit s
  else s

/-- Every staged register of a page is applied at one instant (R23). `r` is the requester named in an error record. -/
def commitApply (page : Nat) (r : Byte) (s : State) : State :=
  let mine (k : Nat) : Bool := keyPage k == page || (page == pgPfe && (keyPage k == 32 || keyPage k == 33))
  let before := s.bus.regs
  let waiting := s.bus.staged.filter fun e => mine e.1
  let apply (regs : Store Word) (e : Nat × Option Word) : Store Word :=
    match e.2 with
    | some v => storeMod regReset regs e.1 fun w => mix (commitMask e.1) w v
    | none => regs
  let s := modBus (fun b => { b with regs := waiting.foldl apply b.regs, staged := b.staged.filter fun e => !mine e.1 }) s
  let changed := (waiting.map (·.1)).filter fun k => storeGet regReset s.bus.regs k != storeGet regReset before k
  let s := modHdr page (fun h => { h with stageSeq := h.stageSeq + 1, commitPending := false }) s
  commitHook page r before (waiting.map (·.1)) changed s

/-- A block at rest at a safe point applies a commit at once. A herd that runs does so at its next status record. -/
def commitNow (s : State) (page : Nat) : Bool := !pageBusy s page && !(page == pgHerd && !herdAlone s)

/-- COMMIT (R23, R24): merged with a pending one, applied at once, or pending. -/
def commitAsk (page : Nat) (r : Byte) (s : State) : State :=
  if (getHdr s page).commitPending then s
  else if commitNow s page then commitApply page r s
  else modHdr page (fun h => { h with commitPending := true }) s

/-- A pending commit applies at the block's safe point. The requester that asked is no longer known: 0xFF. -/
def commitPoint (page : Nat) (s : State) : State :=
  if (getHdr s page).commitPending && pageUp s page then commitApply page 0xFF s else s

/-! ### ENABLE and FUNC_RESET (R20, R21, R128, R355) -/

/-- ENABLE and BUSY are set. A core's ENABLE is the pacer's hold on it. -/
def enableSet (page : Nat) (on busy : Bool) (s : State) : State :=
  if pgCore0 ≤ page ∧ page < pgMgmt then
    modHealth (page - pgCore0) (fun h => { h with disabled := !on }) (modHdr page (fun h => { h with busy := busy }) s)
  else modHdr page (fun h => { h with enable := on, busy := busy }) s

/-- ENABLE takes a value: what the block does as it starts, and the drain as it stops. -/
def enableWrite (page : Nat) (on : Bool) (s : State) : State :=
  let was := pageEnable s page
  if on = was then (if page = pgHerd ∧ on = true ∧ s.herd.st = .refused then herdEnable s else s)
  else if on then
    let s := enableSet page true false s
    let s := if page = pgDdr then ddrEnable s else s
    let s := if page = pgHerd then herdEnable s else s
    if page = pgPacer then nextCommand s else s
  else
    let busy := pageWithin s page
    let s := enableSet page false busy s
    let s := if page = pgHerd then herdDisable s else s
    if busy then s else commitPoint page s

/-- A block drains by an item's end, or at its item boundary within one: a beat, a line, an entry. -/
def drains (s : State) (page : Nat) : Bool :=
  (page == pgDma && !dmaHeld s) || page == pgShm || page == pgCsi || page == pgPfe || page == pgHostq || !pageWithin s page

/-- A disabled block has drained: BUSY falls, and a commit still pending applies (R20, R23). -/
def blockDrained (page : Nat) (s : State) : State :=
  if pageEnable s page || !(getHdr s page).busy || !drains s page then s
  else commitPoint page (modHdr page (fun h => { h with busy := false }) s)

/-- FUNC_RESET: the L3 reset of the block, busy until it reports ready (R21, R402). -/
def funcReset (r : Requester) (page : Nat) (s : State) : State :=
  if page = pgPcie ∧ r ≠ .mgmt then regErr page 0x008 r ePermission s
  else
    let s := challengeDrop (if page = pgPacer then pacerFuncReset s else blockReset page true s)
    modHdr page (fun h => { h with resetBusy := true }) s

/-- A write of BLK_CTRL (R20): FUNC_RESET alone, or COMMIT and then ENABLE. On a core's page ENABLE and FUNC_RESET are the
pacer's (R128): from another requester, only a COMMIT that leaves ENABLE at its value is taken (DEDUCED: the word of a COMMIT has to
carry the ENABLE bit). -/
def blkCtrlWrite (r : Requester) (page : Nat) (v : Word) (s : State) : State :=
  let core := decide (pgCore0 ≤ page) && decide (page < pgMgmt)
  if core && r != .pacer && (bit v 2 || bit v 0 != pageEnable s page || !bit v 1) then regErr page 0x008 r ePermission s
  else if bit v 2 then funcReset r page s
  else
    let s := if bit v 1 then commitAsk page r.code s else s
    enableWrite page (bit v 0) s

/-! ### The header's other registers (R18, R26, R27, R34) -/

/-- A W1C clear of IRQ_STAT; an event or an IRQ_SET write at the same instant leaves its bits set (R18). -/
def irqClear (page : Nat) (v coincident : Word) (s : State) : State :=
  modHdr page (fun h => { h with irqStat := (h.irqStat &&& ~~~v) ||| coincident }) s

/-- A write of CH_SEL. -/
def chSelWrite (r : Requester) (page : Nat) (v : Word) (s : State) : State :=
  match selCopy r with
  | none => regErr page 0x01C r ePermission s
  | some c =>
    let s := modBus (fun b => { b with chSel := storeSet (fun _ => 0) b.chSel (page * 64 + c) (v &&& 0x800000FF) }) s
    if fld v 7 0 < pageCount s.fuses.variant page then s else regErr page 0x01C r eBadSelect s

/-- ERR_INFO.VALID is W1C. On the DDR page the next uncorrectable error is captured again (R159). -/
def errClear (page : Nat) (v : Word) (s : State) : State :=
  if bit v 31 then
    let s := if page = pgDdr then modMem (fun m => { m with ueSeen := false }) s else s
    modHdr page (fun h => { h with errValid := false }) s
  else s

/-- A write of a header register. -/
def hdrWrite (r : Requester) (page off : Nat) (v : Word) (s : State) : State :=
  match off with
  | 0x008 => blkCtrlWrite r page v s
  | 0x010 => irqClear page v 0 s
  | 0x014 => modHdr page (fun h => { h with irqEn := v }) s
  | 0x018 => raiseBits page v s
  | 0x01C => chSelWrite r page v s
  | 0x020 => errClear page v s
  | _ => s

/-! ### Registers whose write is a command of the block -/

/-- CH_CMD (R275, R276): KICK, DISARM, CLEAR; a KICK that the state does not allow is FORMAT. -/
def chCmdWrite (r : Requester) (c : Nat) (v : Word) (pending : Bool) (s : State) : State :=
  let s := if bit v 2 then chanClear c s else s
  let s := if bit v 1 then disarm c pending s else s
  if !bit v 0 then s
  else if kickAllowed (getChan s c) then kick c s
  else regErr pgDma 0x404 r eFormat s

/-- The registers of a channel's window (R273, R293). -/
def dmaWrite (r : Requester) (c off : Nat) (v : Word) (s : State) : State :=
  let ch := getChan s c
  if off = 0x400 then chCtrlWrite c v s
  else if off = 0x404 then chCmdWrite r c v false s
  else if off = 0x408 then modChan c (fun ch => { ch with disarmLate := ch.disarmLate && !bit v 4, done := ch.done && !bit v 5 }) s
  else if off = 0x40C then
    if !bit v 0 then s else if ch.descMode then regErr pgDma off r eWriteRunning s else shadowArm c s
  else if off = 0x410 then
    if !r.isOwner then regErr pgDma off r ePermission s
    else if ch.st ≠ .disabled then regErr pgDma off r eWriteRunning s
    else setOwner c (v.setWidth 8) s
  else if off = 0x418 then modChan c (fun ch => { ch with descPtr := halfLo ch.descPtr (v &&& 0xFFFFFFC0) }) s
  else if off = 0x41C then modChan c (fun ch => { ch with descPtr := halfHi ch.descPtr v }) s
  else if off = 0x420 then modChan c (fun ch => { ch with descHome := halfLo ch.descHome v }) s
  else if off = 0x424 then modChan c (fun ch => { ch with descHome := halfHi ch.descHome v }) s
  else if 0x480 ≤ off ∧ off < 0x4C0 then
    if ch.descMode then regErr pgDma off r eWriteRunning s
    else if ch.armed then regErr pgDma off r eShadowBusy s
    else
      let k := (off - 0x480) / 4
      modChan c (fun ch => { ch with shadow := storeSet (fun _ => 0) ch.shadow k (v &&& dwMask k) }) s
  else s

/-- TIME.CFG and TIME.RATE (R416). -/
def timeWrite (r : Requester) (off : Nat) (v : Word) (s : State) : State :=
  if off = 0x048 then
    if fld v 1 0 = 3 then regErr pgTime off r eFormat s else setReg pgTime 0 off (v &&& 0xFFFF0003) s
  else if off = 0x04C then
    let ppb := (v.setWidth 20).toInt
    if fld (getReg s pgTime 0 0x048) 1 0 ≠ 2 then regErr pgTime off r ePermission s
    else if ppb < -200000 ∨ 200000 < ppb then regErr pgTime off r eFormat s
    else setReg pgTime 0 off (v &&& 0xFFFFF) s
  else s

/-- TIME.SET (R396): MGMT alone, while no class is ACCEPTED, REVOKING or SHED. -/
def timeStep (r : Requester) (hi lo : Word) (s : State) : State :=
  if r ≠ .mgmt ∨ ((List.range 64).any fun k => (getClass s k).st != .free && (getClass s k).st != .defined) = true then
    regErr pgTime 0x050 r ePermission s
  else modTime (fun t => { t with now := pair64 hi lo, frac := 0 }) s

/-- POWER (R414). -/
def powerWrite (r : Requester) (off : Nat) (v : Word) (s : State) : State :=
  if off = 0x044 then regErr pgPower off r ePermission s
  else if off = 0x040 then dripWrite r v s
  else if off = 0x04C then if bit v 31 then modPower (fun p => { p with avsFault := false }) s else s
  else if 0x080 ≤ off ∧ off < 0x0D0 then domRequest r ((off - 0x080) / 4) (v.setWidth 2) s
  else if off = 0x0E0 ∨ off = 0x0F0 then i2cCtrlWrite r ((off - 0x0E0) / 0x10) v s
  else if off = 0x0E4 ∨ off = 0x0F4 then i2cCmdWrite ((off - 0x0E4) / 0x10) v s
  else s

/-- RESET (R415). -/
def resetWrite (r : Requester) (off : Nat) (v : Word) (s : State) : State :=
  match off with
  | 0x044 => modReset (fun x => { x with causeAcc := x.causeAcc &&& ~~~(v.setWidth 14) }) s
  | 0x054 => swrstWrite r v s
  | 0x05C => recoverWrite r v s
  | 0x0A4 => serviceWrite r v s
  | _ => s

/-- CTLIO (R335). -/
def ctlioWrite (r : Requester) (off : Nat) (v : Word) (s : State) : State :=
  if off = 0x05C then outLevel (v.setWidth 8) true s
  else if off = 0x060 then outLevel (v.setWidth 8) false s
  else if off = 0x064 then gpioWrite v s
  else if off = 0x068 then postEvent (v.setWidth 16) r.code s
  else if 0x080 ≤ off ∧ off < 0x090 then pwmCfgWrite r ((off - 0x080) / 4) v s
  else if off = 0x0C0 ∨ off = 0x0D0 then uartCfgWrite r ((off - 0x0C0) / 0x10) v s
  else if off = 0x0C4 ∨ off = 0x0D4 then uartDataWrite ((off - 0x0C4) / 0x10) (v.setWidth 8) s
  else if off = 0x0C8 ∨ off = 0x0D8 then
    modUart ((off - 0x0C8) / 0x10) (fun u => { u with ovr := u.ovr && !bit v 16, perr := u.perr && !bit v 17, ferr := u.ferr && !bit v 18 }) s
  else s

/-- SHM (R145, R146, R164, R165). -/
def shmWrite (r : Requester) (chan off : Nat) (v : Word) (s : State) : State :=
  let n := semOf chan off
  if off = 0x060 then scrubCtrlWrite v s
  else if off < 0x400 then s
  else match off % 0x20 with
    | 0x04 => semPostBy r n (v.setWidth 16) s
    | 0x08 => semThreshold r n (v.setWidth 24) s
    | 0x10 => if r.isOwner then semWrite n (v.setWidth 24) s else regErr pgShm off r ePermission s
    | _ => s

/-- A core's page (R127, R208). -/
def coreWrite (n off : Nat) (v : Word) (s : State) : State :=
  match off with
  | 0x048 => if bit v 31 then modProc n (fun p => { p with faultValid := false }) s else s
  | 0x058 => modProc n (fun p => { p with accOvf := p.accOvf && !bit v 0, movSat := p.movSat && !bit v 1 }) s
  | 0x07C => modArray n (fun a => { a with emptySeen := a.emptySeen && !bit v 0, accWrap := a.accWrap && !bit v 1, badScale := a.badScale && !bit v 2 }) s
  | _ => s

/-- WDT_KICK restarts the management watchdog's count (R129). -/
def wdtKick (r : Requester) (v : Word) (s : State) : State :=
  if v = 0xA5 then modTime (fun t => { t with wdtTicks := 0 }) s else regErr pgMgmt 0x054 r eFormat s

/-- The MGMT page (R129). -/
def mgmtWrite (r : Requester) (off : Nat) (v : Word) (s : State) : State :=
  match off with
  | 0x048 => if bit v 31 then modProc 6 (fun p => { p with faultValid := false }) s else s
  | 0x050 =>
    if 10 ≤ fld v 15 0 ∧ fld v 15 0 ≤ 60000 then setReg pgMgmt 0 0x050 (flag 31 true ||| (v &&& 0xFFFF)) s
    else regErr pgMgmt 0x050 r eFormat s
  | 0x054 => wdtKick r v s
  | _ => s

/-- Free the buffers of a pool whose bits are written 1 (R308, R316, R332). -/
def poolRelease (page chan off : Nat) (v : Word) (s : State) : State := modReg page chan off (· ||| (v &&& 0xFFFF)) s

/-- PFE: buffer release, and the tables' data registers, which are staged. -/
def pfeWrite (r : Requester) (chan off : Nat) (v : Word) (s : State) : State :=
  if 0x480 ≤ off ∧ off % 0x40 = 0x24 then poolRelease pgPfe chan (off - 4) v s
  else if (getHdr s pgPfe).commitPending then regErr pgPfe off r eShadowBusy s
  else
    let mask : Word := if off = 0x42C then 0xFF else 0x3FF
    modBus (fun b => { b with staged := storeSet (fun _ => none) b.staged (pfeTableKey s chan off) (some (v &&& mask)) }) s

/-- HERD (R370, R371, R380). -/
def herdWrite (r : Requester) (chan off : Nat) (v mask : Word) (s : State) : State :=
  let copy := (selCopy r).getD 63
  if 0x080 ≤ off ∧ off < 0x0B8 then
    modHerd (fun h => { h with tx := storeSet (fun _ => 0) h.tx (copy * 16 + (off - 0x080) / 4 + 1) v }) s
  else if off = 0x0B8 then mbxSend copy v s
  else if off = 0x41C then if chan = herdId s then s else rxDoneWrite chan v s
  else if off = 0x404 ∨ off = 0x408 then if chan = herdId s then s else setReg pgHerd chan off (v &&& mask) s
  else if off = 0x400 ∨ off = 0x40C then peerRegWrite r chan off v mask s
  else s

/-- A write of an own register. -/
def ownWrite (r : Requester) (page chan off : Nat) (v mask : Word) (s : State) : State :=
  match page with
  | 0x01 =>
    if off = 0x054 then pacerCommand r.code (BitVec.ofNat 4 (fld v 3 0)) (BitVec.ofNat 6 (fld v 13 8)) s
    else if 0x400 ≤ off then classWrite r.code chan off v s
    else s
  | 0x02 => powerWrite r off v s
  | 0x03 => resetWrite r off v s
  | 0x05 => timeWrite r off v s
  | 0x06 => if off = 0x048 then lcCmdWrite r v s else if off = 0x050 then debugCtrlWrite v s else if off = 0x058 then debugSubmit r s else s
  | 0x07 => if off = 0x040 then updCmdWrite r v s else s
  | 0x08 => dmaWrite r chan off v s
  | 0x09 =>
    if 10 ≤ fld v 15 0 ∧ fld v 15 0 ≤ 10000 then setReg pgNoc 0 off (v &&& 0xFFFF) s else regErr pgNoc off r eFormat s
  | 0x0B =>
    if off = 0x048 then fnReset (fld v 3 0) s else if off = 0x070 then classGive r v s else s
  | 0x0C => if off = 0x400 then queueEval chan (qCtrlWrite r chan v s) else if off = 0x420 then sqDoorbell r chan v s
      else if off = 0x424 then cqDoorbell r chan v s else s
  | 0x0D => herdWrite r chan off v mask s
  | 0x0F => if off = 0x060 then
        let s := if bit v 0 then qDiscard s else s
        if bit v 1 then qNext s else s
      else s
  | 0x10 => if off = 0x440 then poolRelease pgCodec chan 0x43C v s else s
  | 0x12 => pfeWrite r chan off v s
  | 0x13 => ctlioWrite r off v s
  | 0x14 => shmWrite r chan off v s
  | 0x15 => if off = 0x400 then lfiCtrlWrite deliver r chan v s else s
  | 0x16 =>
    if off = 0x040 then modTrust (fun t => { t with carafeLock := t.carafeLock ||| v.setWidth 16 }) s
    else if off = 0x048 then if bit v 31 then modTrust (fun t => { t with detValid := false }) s else s
    else s
  | 0x17 => sstoreRegWrite r off v s
  | 0x1E => mgmtWrite r off v s
  | _ => if pgCore0 ≤ page ∧ page < pgMgmt then coreWrite (page - pgCore0) off v s else s

/-! ### The classes of a register (R22 to R25) -/

/-- A frozen register may be written: disabled and drained (R25). -/
def frozenOpen (s : State) (page : Nat) : Bool := !pageEnable s page && !pageBusy s page

/-- Why a whole write of a register is discarded: the class rules and the rules of single registers. -/
def cellRefusal (s : State) (r : Requester) (page chan off : Nat) (v : Word) (row : RegRow) : Option Byte :=
  if row.frozen ≠ 0 ∧ row.live = 0 ∧ row.staged = 0 ∧ frozenOpen s page = false then some eWriteRunning
  else if row.staged ≠ 0 ∧ (getHdr s page).commitPending = true then some eShadowBusy
  else if page = pgPcie then
    if r.isOwner || (row.live == 0 && !(off == 0x048 || off == 0x070)) then none else some ePermission
  else if page = pgHostq then
    if 0x404 ≤ off ∧ off ≤ 0x410 ∧ (getQueue s chan).en = true then some eWriteRunning else none
  else if page = pgLfi then
    if 0x404 ≤ off ∧ off ≤ 0x410 ∧ lfiEn s chan = true then some eWriteRunning else none
  else if page = pgStrx then
    if 0x400 ≤ off ∧ row.pair ≠ .single ∧ entValid s (8 * chan + (off - 0x400) / 0x80) = true then some eWriteRunning else none
  else if page = pgHerd then
    if off = 0x05C ∧ 5 ≤ fld v 2 0 then some eFormat
    else if (off = 0x404 ∨ off = 0x408) ∧ peerValid s chan = true then some eWriteRunning
    else none
  else if page = pgDma then
    if off = 0x420 ∨ off = 0x424 then
      if !r.isOwner then some ePermission else if (getChan s chan).st ≠ .disabled then some eWriteRunning else none
    else none
  else if page = pgCodec ∧ off = 0x400 then sesCtrlRefusal s chan v
  else none

/-- Store a word in a register that its classes alone govern. A write of the held frozen fields of a running block records
nothing. -/
def cellPut (r : Requester) (page chan off : Nat) (v : Word) (row : RegRow) (s : State) : State :=
  let w := getReg s page chan off
  let s := if row.w1c ≠ 0 then setReg page chan off (w &&& ~~~(v &&& row.w1c)) s else s
  let thaw := frozenOpen s page
  let s := if row.frozen != 0 && !thaw && (v &&& row.frozen) != (w &&& row.frozen) then regErr page off r eWriteRunning s else s
  let mask := row.live ||| (if thaw then row.frozen else 0)
  let s := if mask ≠ 0 then setReg page chan off (mix mask w v) s else s
  if row.staged = 0 then s
  else
    let key := regKey page chan off
    modBus (fun b => { b with staged := storeSet (fun _ => none) b.staged key (some (mix row.staged (stagedCell s key) v)) }) s

/-- The effect of a write that nothing refuses. -/
def cellApply (r : Requester) (page chan off : Nat) (v : Word) (row : RegRow) (s : State) : State :=
  if page = pgStrx ∧ 0x400 ≤ off then entWrite r chan ((off - 0x400) / 0x80) ((off - 0x400) % 0x80) v s
  else if row.own then ownWrite r page chan off v row.live s
  else if page = pgHostq ∧ off = 0x414 then queueEval chan (cellPut r page chan off v row s)
  else cellPut r page chan off v row s

/-! ### LO/HI pairs (R30) -/

/-- The key of a requester's hold registers of a pair, by its LO offset. -/
def pairKey (r : Requester) (page chan lo : Nat) : Nat := page * 0x10000000 + r.code.toNat * 0x100000 + chan * 0x1000 + lo

/-- The HI word a requester wrote since its previous LO write of a pair. -/
def hiHeld (s : State) (r : Requester) (page chan lo : Nat) : Option Word := storeGet (fun _ => none) s.bus.hiWritten (pairKey r page chan lo)

def setHiHeld (r : Requester) (page chan lo : Nat) (w : Option Word) (s : State) : State :=
  modBus (fun b => { b with hiWritten := storeSet (fun _ => none) b.hiWritten (pairKey r page chan lo) w }) s

/-- A write of LO applies LO together with the HI held, or with the present HI. -/
def pairWrite (r : Requester) (page chan off : Nat) (v : Word) (row : RegRow) (s : State) : State :=
  let hi := hiHeld s r page chan off
  let s := setHiHeld r page chan off none s
  if page = pgTime ∧ off = 0x050 then timeStep r (hi.getD (hi32 s.time.now)) v s
  else
    let s := match hi, regRow page (off + 4) with
      | some w, some rowHi => cellApply r page chan (off + 4) w rowHi s
      | _, _ => s
    cellApply r page chan off v row s

/-- A write of a block register. -/
def blockWrite (r : Requester) (page chan off : Nat) (v : Word) (s : State) : State :=
  match regRow page off with
  | none => s
  | some row =>
    if page = pgCtlio ∧ 0x420 ≤ off ∧ 8 ≤ chan then s
    else match cellRefusal s r page chan off v row with
      | some code => regErr page off r code s
      | none => match row.pair with
        | .hi => setHiHeld r page chan (off - 4) (some v) s
        | .lo => pairWrite r page chan off v row s
        | .single => cellApply r page chan off v row s

/-- A read of a block register: LO latches HI, and HI returns the latch. -/
def pairRead (r : Requester) (page chan off : Nat) (s : State) : State :=
  match regRow page off with
  | none => setAnswer r 0 s
  | some row => match row.pair with
    | .lo =>
      let hi := blockView s r page chan (off + 4)
      setAnswer r (blockView s r page chan off)
        (modBus (fun b => { b with hiLatch := storeSet (fun _ => 0) b.hiLatch (pairKey r page chan off) hi }) s)
    | .hi => setAnswer r (storeGet (fun _ => 0) s.bus.hiLatch (pairKey r page chan (off - 4))) s
    | .single => blockRead r page chan off s

/-! ### Accesses -/

/-- AUTO_INC (R28): after an access to the highest register of the window INDEX advances, wrapping without an error. -/
def autoInc (r : Requester) (page off : Nat) (s : State) : State :=
  match selCopy r with
  | none => s
  | some c =>
    let w := chSel s r page
    if bit w 31 && off == windowTop page then
      let next := flag 31 true ||| at_ 0 ((fld w 7 0 + 1) % pageCount s.fuses.variant page)
      modBus (fun b => { b with chSel := storeSet (fun _ => 0) b.chSel (page * 64 + c) next }) s
    else s

/-- The effect of an aligned write that reaches its page. While the ROM waits for an image CTLIO keeps its reset states (R422): writes to
its registers are discarded. -/
def pageWrite (r : Requester) (page off : Nat) (v : Word) (s : State) : State :=
  if page = pgCtlio ∧ s.trust.bootWait = true ∧ (off = 0x008 ∨ 0x040 ≤ off) then s else
  if off < 0x040 then hdrWrite r page off v s
  else if off < 0x400 ∨ windowed page = false then blockWrite r page 0 off v s
  else match selChan s r page with
    | none => s
    | some c => autoInc r page off (blockWrite r page c off v s)

/-- Count an access that a register page refuses (R161). A processor's and a channel's count where they fail (R109, R291). -/
def regRefused (r : Requester) (code : Byte) (s : State) : State :=
  match r with
  | .core _ | .chan _ => s
  | _ => countRefusal code s

/-- An aligned 32-bit write by a requester that waits for nothing (R147). -/
def busWrite (r : Requester) (page off : Nat) (v : Word) (s : State) : State :=
  if isParked s r then s
  else match writeCheck s r page off with
    | some (pg, code) => regRefused r code (recordErr pg r.code code (regAddr page off) s)
    | none => pageWrite r page off v s

/-- An aligned 32-bit read; the answer stands in `Bus.answer`. -/
def busRead (r : Requester) (page off : Nat) (s : State) : State :=
  if isParked s r then s
  else if pageRefused s r page off false then setAnswer r 0 (regRefused r ePermission (regErr page off r ePermission s))
  else if !pagePresent s page then setAnswer r 0 s
  else if !pageUp s page then setAnswer r (if off ≤ 0x00C then hdrView s r page off else 0) s
  else if off < 0x040 then setAnswer r (hdrView s r page off) s
  else if off < 0x400 ∨ windowed page = false then pairRead r page 0 off s
  else match selChan s r page with
    | none => setAnswer r 0 s
    | some c => autoInc r page off (pairRead r page c off s)

/-- Requests arrive but while the device is held in reset (R400): a function's while it exists and the link is up (R338, R356), the TAP's
through its SEC_ACCESS instruction, and once debug is open (R426, R461). -/
def reqLive (s : State) (r : Requester) : Bool :=
  !inReset s && match r with
    | .fn f => fnExists s f && s.pcie.linkUp && domOn s 15
    | .jtag => s.trust.debugOpen || s.trust.tapIr == 0x08
    | _ => true

/-- The part of BAR0 beyond the register pages (R339): doorbells and the MSI-X table. -/
def bar0Write (f : Fin 16) (off : Nat) (v : Word) (s : State) : State :=
  if 0x20000 ≤ off ∧ off < 0x20020 then
    let q := 4 * f.val + (off - 0x20000) / 8
    if off % 8 = 0 then sqDoorbell (.fn f) q v s else cqDoorbell (.fn f) q v s
  else if 0x30000 ≤ off ∧ off < 0x30200 then msixTableWrite f ((off - 0x30000) / 4) v s
  else s

def bar0Read (f : Fin 16) (off : Nat) (s : State) : State :=
  let w : Word :=
    if 0x20000 ≤ off ∧ off < 0x20020 then
      let q := getQueue s (4 * f.val + (off - 0x20000) / 8)
      if off % 8 = 0 then at_ 0 q.sqTail.toNat else at_ 0 q.cqHead.toNat
    else if 0x30000 ≤ off ∧ off < 0x30200 then msixWord s f ((off - 0x30000) / 4)
    else if off = 0x30800 then storeGet (fun _ => 0) s.pcie.msixPending f
    else 0
  setAnswer (.fn f) w s

/-- What a write access does of any size and alignment, at an offset of the register region or of a function's BAR0. -/
def regEffect (r : Requester) (off size : Nat) (v : Word) (s : State) : State :=
  if 0x20000 ≤ off then
    match r with
    | .fn f => if size = 4 ∧ off % 4 = 0 then bar0Write f off v s else s
    | _ => s
  else if size ≠ 4 ∨ off % 4 ≠ 0 then regErr (off / 0x1000) (off % 0x1000) r eAlignment s
  else busWrite r (off / 0x1000) (off % 0x1000) v s

/-- What a read access does of any size and alignment. -/
def regAnswer (r : Requester) (off size : Nat) (s : State) : State :=
  if 0x20000 ≤ off then
    match r with
    | .fn f => if size = 4 ∧ off % 4 = 0 then bar0Read f off s else setAnswer r 0 s
    | _ => setAnswer r 0 s
  else if size ≠ 4 ∨ off % 4 ≠ 0 then setAnswer r 0 (regErr (off / 0x1000) (off % 0x1000) r eAlignment s)
  else busRead r (off / 0x1000) (off % 0x1000) s

/-! ### Accesses as items of the network-on-chip (R376, R377) -/

/-- An item that has passed the injector lands. -/
def packetEnd : Held → State → State
  | .regs r off size v, s => regEffect r off size v s
  | h, s => deliver h s

/-- A register's write passes the injector. -/
def regPass (r : Requester) (off size : Nat) (v : Word) (s : State) : Option LfiAction × State :=
  if lfiQuiet s lfiNoc r.code.toNat 0 then (none, regEffect r off size v s)
  else lfiPass lfiNoc r.code.toNat 0 (.regs r off size v) packetEnd s

/-- An access that the injector drops or corrupts, as its requester's page records it. -/
def itemErr (r : Requester) (off : Nat) (code : Byte) (s : State) : State :=
  regErr (if off < 0x20000 then off / 0x1000 else pgHostq) (off % 0x1000) r code s

/-- A write access. -/
def regWrite (r : Requester) (off size : Nat) (v : Word) (s : State) : State :=
  if !reqLive s r || isParked s r then s
  else match regPass r off size v s with
    | (some .drop, s) => itemErr r off eLfi s
    | (_, s) => s

/-- A register's read passes the injector: dropped it answers nothing, and corrupted data fail their parity (R150). -/
def readPass (r : Requester) (off size : Nat) (s : State) : Option Byte × State :=
  if lfiQuiet s lfiNoc r.code.toNat 1 then (none, regAnswer r off size s)
  else match lfiItem lfiNoc r.code.toNat 1 s with
    | (some (.drop, _), s) => (some eLfi, setAnswer r 0 s)
    | (some (.corrupt, c), s) =>
      let x := lfiReg s c 0x40C
      let s := regAnswer r off size s
      if x = 0 ∨ isParked s r = true then (none, s) else (some eParity, setAnswer r (getAnswer s r ^^^ x) s)
    | (_, s) => (none, regAnswer r off size s)

/-- A read access. -/
def regRead (r : Requester) (off size : Nat) (s : State) : State :=
  if !reqLive s r || isParked s r then s
  else match readPass r off size s with
    | (some code, s) => itemErr r off code s
    | (none, s) => s

/-- A write and a read of one register of a page, as a row of the command table names it. -/
def pageReg (r : Requester) (page off : Nat) (v : Word) (s : State) : State := regWrite r (page * 0x1000 + off) 4 v s
def pageGet (r : Requester) (page off : Nat) (s : State) : State := regRead r (page * 0x1000 + off) 4 s

end Sys2Proof.Machine
end

