-- ==== Sys2Proof/Machine/Flags.lean ====
section
/-! DEFINITION. The control registers of a processor (R91), its flags (R112, R123), and the comparisons and overflow tests that
the operations share. -/

namespace Sys2Proof.Machine

/-- ESTAT (R91, R123). -/
def ProcState.estat (p : ProcState) : Word := flag 0 p.ie ||| flag 1 p.inIrq ||| flag 2 p.inFault ||| flag 3 p.pie

/-- LOOP (R91). The iterations left count the running one, and outside a loop it reads 0 (DESIGN CHOICE, in the log). -/
def ProcState.loopReg (p : ProcState) : Word :=
  match p.loop with
  | some l => at_ 0 l.pos ||| at_ 5 l.left ||| at_ 16 l.start
  | none => 0

/-- INTSTAT as it reads: on the management processor SYS follows SYS.IRQ_SUM AND SYS.IRQ_MGMT_EN (R126). -/
def intStatOf (s : State) (n : Nat) : BitVec 3 :=
  let p := getProc s n
  if n = mgmtNo then
    let sys := (irqSum s &&& getReg s pgSys 0 0x05C) != 0
    (p.intStat &&& 3) ||| (if sys then 4 else 0)
  else p.intStat &&& 3

/-- A control register as GETCR reads it; `none` for an unlisted number (R91). -/
def getCr (s : State) (n k : Nat) : Option Word :=
  let p := getProc s n
  match k with
  | 0 => some p.estat
  | 1 => some p.epc
  | 2 => some p.ivec
  | 3 => some p.fvec
  | 4 => some ((intStatOf s n).setWidth 32)
  | 5 => some (p.intEn.setWidth 32)
  | 6 => some p.accsh
  | 7 => some (flag 0 p.accSat)
  | 8 => some (p.mvsh.setWidth 32)
  | 9 => some (p.rrb.setWidth 32)
  | 10 => some (flag 0 p.accOvf ||| flag 1 p.movSat)
  | 11 => some (p.cb0Base.setWidth 32)
  | 12 => some ((p.cb0Base >>> 32).setWidth 32)
  | 13 => some p.cb0Len
  | 14 => some (p.cb1Base.setWidth 32)
  | 15 => some ((p.cb1Base >>> 32).setWidth 32)
  | 16 => some p.cb1Len
  | 17 => some p.vfaultPc
  | 18 => some p.vfaultInfo
  | 19 => some p.loopReg
  | 20 => some (BitVec.ofNat 32 p.stepPc)
  | 21 => some (BitVec.ofNat 32 (if n = mgmtNo then 7 else n))
  | _ => none

/-- FLAGS.ACC_OVF, set when the bundle issues, and the page's ACC_OVF (R112). -/
def setAccOvf (n : Nat) (on : Bool) (s : State) : State :=
  if on then raise (pgCore n) 2 (modProc n (fun p => { p with buf := { p.buf with accOvf := true } }) s) else s

/-- FLAGS.MOV_SAT, set when the bundle issues (R110, R242). -/
def setMovSat (n : Nat) (on : Bool) (s : State) : State :=
  if on then modProc n (fun p => { p with buf := { p.buf with movSat := true } }) s else s

/-- CORE.SAT_CNT counts saturations, and saturates itself (R127, R257). -/
def countSatEvents (n k : Nat) (s : State) : State := modProc n (fun p => { p with satCnt := satInc p.satCnt k }) s

/-- A signed value wrapped into w bits, and whether it left the signed range. -/
def wrapSigned (w : Nat) (x : Int) : BitVec w × Bool :=
  (BitVec.ofInt w x, decide (x < -(2 ^ (w - 1) : Int)) || decide ((2 ^ (w - 1) : Int) ≤ x))

/-- A comparison's answer in a general register. -/
def boolWord (b : Bool) : Word := if b then 1 else 0

end Sys2Proof.Machine
end

