-- ==== Sys2Proof/Machine/Operands.lean ====
section
/-! DEFINITION. The operand forms of the formats of R86, and lanes of vector registers (R87, R88). -/

namespace Sys2Proof.Machine

/-! ### MEM-format operands (R105, R106) -/

/-- The o register of a MEM format. -/
def memO (f : MemForm) : Fin 16 := Fin.ofNat 16 (fld f.low 9 6)

/-- A circular pointer: base + ((p − base + o) mod LEN); with LEN 0 the result is open. -/
def circular (base : Addr) (len : Word) (p : Addr) (o : Int) : Addr :=
  if len = 0 then Config.circularZero base.toNat p.toNat o
  else BitVec.ofInt 40 ((base.toNat : Int) + ((p.toNat : Int) - base.toNat + o) % len.toNat)

/-- The address of a MEM-format operation, and its pointer update. -/
def memAddress (p : ProcState) (f : MemForm) (unit : Nat) : Addr × Option Addr :=
  let a := p.rp f.p
  let o := (p.ro (memO f)).toInt
  let plus := BitVec.ofInt 40 ((a.toNat : Int) + o)
  match f.mode.toNat with
  | 0 | 7 => (a, none)
  | 1 => (a, some (BitVec.ofInt 40 ((a.toNat : Int) + f.low.toInt * unit)))
  | 2 | 6 => (a, some plus)
  | 3 => (plus, none)
  | 4 => (a, some (circular p.cb0Base p.cb0Len a o))
  | _ => (a, some (circular p.cb1Base p.cb1Len a o))

/-- A column strip (R105). -/
def memStrip (f : MemForm) : Bool := f.mode == 6 || f.mode == 7

/-! ### Immediates (R85, R86) -/

/-- An immediate of `w` bits: sign-extended, or with an extension syllable's 28 bits above it, cut to the destination's width. -/
def extImm {w : Nat} (n : Nat) (imm : BitVec w) (ext : Ext) : BitVec n :=
  match ext with
  | none => imm.signExtend n
  | some e => (e ++ imm).setWidth n

/-! ### Lanes (R87, R88) -/

/-- Lane types. -/
inductive LaneType where
  | i8 | u8 | i16 | u16 | i32 | f16 | bf16 | f32
  deriving DecidableEq, Repr

def LaneType.of (t : BitVec 3) : LaneType :=
  match t.toNat with
  | 0 => .i8
  | 1 => .u8
  | 2 => .i16
  | 3 => .u16
  | 4 => .i32
  | 5 => .f16
  | 6 => .bf16
  | _ => .f32

def LaneType.bits : LaneType → Nat
  | .i8 | .u8 => 8
  | .i16 | .u16 | .f16 | .bf16 => 16
  | .i32 | .f32 => 32

def LaneType.lanes (t : LaneType) : Nat := 1024 / t.bits

def LaneType.isInt : LaneType → Bool
  | .i8 | .u8 | .i16 | .u16 | .i32 => true
  | _ => false

def LaneType.signed : LaneType → Bool
  | .i8 | .i16 | .i32 => true
  | _ => false

/-- The least and greatest values of an integer type. -/
def LaneType.lo (t : LaneType) : Int := if t.signed then -(2 ^ (t.bits - 1) : Int) else 0
def LaneType.hi (t : LaneType) : Int := if t.signed then 2 ^ (t.bits - 1) - 1 else 2 ^ t.bits - 1

/-- Lane i of w bits, as a number. -/
def laneNat {w : Nat} (v : BitVec w) (bits i : Nat) : Nat := (v.extractLsb' (bits * i) bits).toNat

/-- An integer lane as a number, by its type. -/
def laneInt (t : LaneType) (v : BitVec 1024) (i : Nat) : Int :=
  if t.signed then (v.extractLsb' (t.bits * i) t.bits).toInt else laneNat v t.bits i

/-- A lane put in its place. -/
def putLane (w bits i : Nat) (x : Nat) : BitVec w := BitVec.ofNat w ((x % 2 ^ bits) <<< (bits * i))

/-- The bits of lane i. -/
def laneMask (w bits i : Nat) : BitVec w := BitVec.ofNat w ((2 ^ bits - 1) <<< (bits * i))

/-- Lane i is performed (R88). -/
def laneOn (f : VForm) (mask : BitVec 128) (i : Nat) : Bool := !f.masked || bit mask i

/-- A vector built of the performed lanes, and the bits that it writes. -/
def buildLanes (bits n : Nat) (on : Nat → Bool) (lane : Nat → Nat) : BitVec 1024 × BitVec 1024 :=
  (List.range n).foldl (fun acc i =>
    if on i then (acc.1 ||| putLane 1024 bits i (lane i), acc.2 ||| laneMask 1024 bits i) else acc) (0, 0)

/-- Accumulator lane i as a signed number (R89). -/
def accLane (a : BitVec 2560) (i : Nat) : Int := (a.extractLsb' (40 * i) 40).toInt

/-- An accumulator with its lanes changed; the answer also says whether a lane left the signed 40-bit range (R112). -/
def accMap (a : BitVec 2560) (f : Nat → Int → Int) : BitVec 2560 × Bool :=
  (List.range 64).foldl (fun (acc : BitVec 2560 × Bool) i =>
    let (w, o) := wrapSigned 40 (f i (accLane a i))
    (acc.1 ||| putLane 2560 40 i w.toNat, acc.2 || o)) (0, false)

end Sys2Proof.Machine
end

