-- ==== Sys2Proof/Machine/Issue.lean ====
section
/-! DEFINITION. The issue of bundles (R81 to R85, R97 to R104, R113, R114): syllables and their checks, the end of a bundle and
its memory operations, waits, remote accesses (R109, R160), gathers and scatters (R116 to R119), and interrupts (R122). -/

namespace Sys2Proof.Machine

/-! ### Steps (R101, R127) -/

/-- Count steps of a processor, and of the share that it runs. -/
def countSteps (n k : Nat) (s : State) : State :=
  let s := modProc n (fun p => { p with stepCnt := p.stepCnt + BitVec.ofNat 64 k }) s
  match (getProc s n).run with
  | some (j, i) => modShare j i (fun r => { r with steps := r.steps + k }) s
  | none => s

/-- Count waiting steps. -/
def countWaits (n k : Nat) (s : State) : State :=
  modProc n (fun p => { p with stallCnt := p.stallCnt + BitVec.ofNat 32 k }) (countSteps n k s)

/-- A fault of a processor: on a core it ends the step (R121). -/
def procFault (n slot : Nat) (cause : Byte) (s : State) : State :=
  if n = mgmtNo then mgmtFault slot cause s else coreFaultEnds n slot cause (getProc s n).pc s

/-! ### Parity detections by a processor's own reads (R126, R151, R152) -/

/-- The row lies in the carry range of the share that core `n` runs, and a step of the share has committed. -/
def inCarry (s : State) (n row : Nat) : Bool :=
  match (getProc s n).run with
  | some (j, i) => match getJob s j with
    | some job =>
      let r := getShare job i
      decide (r.committed ≠ 0) && decide (r.carryBase ≤ row) && decide (row < r.carryBase + r.carryRows)
    | none => false
  | none => false

/-- A detection by a core's own read of its CMEM (R152). -/
def cmemDetection (n : Nat) (byPreceding : Bool) (a : Nat) (s : State) : State :=
  let s := coreParity n (procReq n).code a s
  if byPreceding then carriedDetection n s else stepDetection n s

/-- A core's own read meets a byte of wrong parity. -/
def ownDetection (n a : Nat) (s : State) : State :=
  if n = mgmtNo then sramDetection s
  else match place a with
    | .shm _ => shmStepDetection n (shmLine a) (countDet n s)
    | .cmem _ =>
      let staged := (storeGet (fun _ => none) (getProc s n).stage a).isSome
      cmemDetection n (!staged && inCarry s n ((a - winBase n) / 128)) a s
    | _ => stepDetection n (coreParity n (procReq n).code a s)

/-- The first byte of wrong parity among some addresses. -/
def firstBad (s : State) (n : Nat) (as : List Nat) : Option Nat := as.find? (viewBad s (ownCore n))

/-! ### The bundle's memory operations (R102, R107, R108) -/

/-- Bytes of a column strip from a pointer, in vector order (R107). -/
def stripAddr (a i : Nat) : Nat := a + 128 * (i / 8) + i % 8

/-- The addresses that an operation reads. -/
def MemOp.reads : MemOp → List Nat
  | .load _ _ size _ a => (List.range size).map (a.toNat + ·)
  | .vload _ _ strip a => (List.range 128).map fun i => if strip then stripAddr a.toNat i else a.toNat + i
  | .vbroad _ _ a => (List.range 4).map (a.toNat + ·)
  | _ => []

def MemOp.isLoad : MemOp → Bool
  | .load .. | .vload .. | .vbroad .. => true
  | _ => false

/-- A scalar access that is not to the processor's own memory is remote (R109, R126). -/
def MemOp.isRemote (n : Nat) : MemOp → Bool
  | .load _ _ _ _ a | .store _ _ _ a => if n = mgmtNo then place a.toNat != .sram else place a.toNat != .cmem n
  | _ => false

/-- The value of loaded bytes in its register. -/
def loadLanding (dest : LoadDest) (size : Nat) (signed : Bool) (v : Nat) : Landing :=
  match dest with
  | .g r => .g r (if signed then (BitVec.ofNat (8 * size) v).signExtend 32 else BitVec.ofNat 32 v)
  | .f r => .f r (BitVec.ofNat 64 v)

/-- Serve one local load, or one local store (R102). -/
def serveOp (n : Nat) (op : MemOp) (s : State) : State :=
  let own := ownCore n
  let value : Nat := ofBytes (op.reads.map (viewByte s own))
  match op with
  | .load slot dest size signed _ => pushRes n slot 4 (loadLanding dest size signed value) s
  | .vload slot d _ _ => pushRes n slot 5 (.v d (BitVec.ofNat 1024 value) (BitVec.allOnes 1024)) s
  | .vbroad slot d _ =>
    pushRes n slot 5 (.v d (BitVec.ofNat 1024 (ofBytes ((List.range 32).flatMap fun _ => bytesOf 4 value))) (BitVec.allOnes 1024)) s
  | .store _ size v a => viewPut own a.toNat (bytesOf size v.toNat) s
  | .vstore _ v strip a =>
    let bs := bytesOf 128 v.toNat
    if strip then (List.range 16).foldl (fun s j => viewPut own (a.toNat + 128 * j) ((bs.drop (8 * j)).take 8) s) s
    else viewPut own a.toNat bs s
  | .gs .. => s

/-- The CMEM bank of an address (R133). -/
def bankOf (a : Nat) : Nat := (a / 8 + a / 128) % 16

/-- Port uses of a bundle's accesses, without the bank conflicts of a gather or scatter (R108): scalars pair up when their banks
differ. -/
def portUses (ops : List MemOp) : Nat :=
  let vecs := (ops.filter fun o => match o with
    | .vload .. | .vstore .. | .vbroad .. | .gs .. => true
    | _ => false).length
  let banks := ops.filterMap fun o => match o with
    | .load _ _ _ _ a | .store _ _ _ a => some (bankOf a.toNat)
    | _ => none
  let rec pairs : List Nat → Nat
    | [] => 0
    | [_] => 1
    | b :: c :: bs => if b = c then 1 + pairs (c :: bs) else 1 + pairs bs
  vecs + pairs banks

/-! ### Gathers and scatters (R116 to R119) -/

/-- Element k's address. The registers of the recorded form are physical. -/
def gsAddr (p : ProcState) (n : Nat) (f : GsForm) (k : Nat) : Nat :=
  let idx := ((p.rvp f.idx).extractLsb' (32 * k) 32).toInt
  unalias (ownCore n) (BitVec.ofInt 40 (((p.rp f.p).toNat : Int) + idx * (2 ^ f.scale.toNat : Nat))).toNat

/-- Element k takes part. -/
def gsOn (p : ProcState) (f : GsForm) (k : Nat) : Bool := !f.masked || bit (p.rm f.m) k

/-- Why element k faults. -/
def gsCheck (p : ProcState) (n : Nat) (f : GsForm) (k : Nat) : Option Byte :=
  let a := gsAddr p n f k
  if !gsOn p f k then none
  else if a % 2 ^ f.esize.toNat ≠ 0 then some eAlignment
  else if place a ≠ .cmem n then some eAddrRange
  else none

/-- Extra port steps: the most distinct bank words that one bank serves, less one (R108). -/
def gsConflicts (p : ProcState) (n : Nat) (f : GsForm) (ks : List Nat) : Nat :=
  let ws := ((ks.filter (gsOn p f)).map fun k => gsAddr p n f k / 8).eraseDups
  ((List.range 16).map fun b => (ws.filter fun w => bankOf (8 * w) == b).length).foldl max 0 - 1

/-- Run elements of a gather or scatter from `first` on: the state, and the element and cause of a fault. -/
def gsRun (n : Nat) (op : VecOp) (first : Nat) (s : State) : State × Option (Nat × Byte) :=
  let p := getProc s n
  let f := op.form
  let all := (List.range 16).filter fun k => decide (first ≤ k)
  let bad := all.find? fun k => (gsCheck p n f k).isSome
  let ks := (all.takeWhile fun k => bad != some k).filter (gsOn p f)
  let size := 2 ^ f.esize.toNat
  let s :=
    if op.scatter then
      ks.foldl (fun s k => viewPut (ownCore n) (gsAddr p n f k) (bytesOf size (laneNat (p.rvp f.d) (8 * size) k)) s) s
    else
      let lanes := ks.foldl (fun (acc : BitVec 1024 × BitVec 1024) k =>
        let v := ofBytes (viewBytes s (ownCore n) (gsAddr p n f k) size)
        (acc.1 ||| putLane 1024 (8 * size) k v, acc.2 ||| laneMask 1024 (8 * size) k)) (0, 0)
      modProc n (fun p => { p with
        inflight := p.inflight ++ [{ due := p.bundle + 8 + gsConflicts p n f ks, slot := if op.slotL1 then 3 else 2
                                     issued := p.bundle, land := .v f.d lanes.1 lanes.2, gather := true }] }) s
  (countWaits n (gsConflicts p n f ks) s, bad.map fun k => (k, (gsCheck p n f k).getD 0))

/-- A gather or scatter has faulted at element k (R118, R119): the bundle has advanced; the handler is entered, or the step ends. One
that RESUME runs within the handler goes back to it with EPC and PIE as they are (R123). `pc` is the faulting bundle's, `inLoop` says
that it stood in a REPEAT body. -/
def gsFault (n : Nat) (op : VecOp) (k : Nat) (cause : Byte) (resumed inLoop : Bool) (pc : Nat) (s : State) : State :=
  let p := getProc s n
  let old := p.vfaultInfo
  let info := at_ 0 k ||| at_ 8 cause.toNat ||| flag 16 op.slotL1 ||| flag 17 op.scatter ||| flag 31 true
    ||| (if resumed then old &&& 0x40000 else flag 18 (inLoop || p.loop.isSome))
  let s := modProc n (fun p => { p with
    vfaultInfo := info, vfaultOp := some op, vfaultPc := if resumed then p.vfaultPc else BitVec.ofNat 32 pc }) s
  if bit p.fvec 31 && (resumed || !p.inFault) then
    if resumed && p.inFault then
      modProc n (fun p =>
        let p := p.landEvery false
        { p with inFault := true, ie := false, pc := p.fvec.toNat % 2 ^ 31, runState := .handler, delay := none, loop := none }) s
    else modProc n (·.enter false true) s
  else coreFaultEnds n (if op.slotL1 then 3 else 2) cause pc s

/-! ### Finishing a bundle -/

/-- The end of a REPEAT's body, for a bundle that ends at `nxt`: none is LOOP_BODY (R113). -/
def repeatEnd (s : State) (n : Nat) (p : ProcState) : Option Nat :=
  match p.buf.rep with
  | some (len, _, _) => bundlesNext s n len (p.pc + 4 * p.buf.syls)
  | none => some 0

/-- The addresses that an operation of the bundle reads, those of a gather's elements before one that faults. -/
def opReads (s : State) (n : Nat) (op : MemOp) : List Nat :=
  let p := getProc s n
  match op with
  | .gs v first _ =>
    if v.scatter then []
    else (((List.range 16).filter fun k => decide (first ≤ k)).takeWhile fun k => (gsCheck p n v.form k).isNone).flatMap fun k =>
      if gsOn p v.form k then (List.range (2 ^ v.form.esize.toNat)).map (gsAddr p n v.form k + ·) else []
  | op => op.reads

/-- A gather or scatter that faulted: the operation, its element and cause, and whether RESUME had issued it again. -/
abbrev GsStop := VecOp × Nat × Byte × Bool

/-- Run the bundle's gathers, or its scatters. Of two that fault (one of RESUME and one of slot L), the first is reported
(DESIGN CHOICE). -/
def gsServe (n : Nat) (scatter : Bool) (ops : List MemOp) (x : State × Option GsStop) : State × Option GsStop :=
  ops.foldl (fun x o => match o with
    | .gs op first resumed =>
      if op.scatter == scatter then
        let r := gsRun n op first x.1
        (r.1, x.2.orElse fun _ => r.2.map fun e => (op, e.1, e.2, resumed))
      else x
    | _ => x) x

/-- The bundle issues: its local accesses are served, loads and gathers before stores and scatters (R102), and everything moves to
the next bundle. -/
def bundleFinish (n : Nat) (s : State) : State :=
  let p := getProc s n
  let skip := repeatEnd s n p
  let near := p.buf.mems.filter fun o => !o.isRemote n
  let s := countWaits n (portUses near - 1) (countSteps n 1 s)
  match firstBad s n (near.flatMap (opReads s n)) with
  | some a => ownDetection n a s
  | none =>
    let s := (near.filter MemOp.isLoad).foldl (fun s o => serveOp n o s) s
    let x := gsServe n false near (s, none)
    let s := (near.filter fun o => !o.isLoad).foldl (fun s o => serveOp n o s) x.1
    let x := gsServe n true near (s, x.2)
    let s := modProc n (·.advance (n == mgmtNo) skip) x.1
    match x.2 with
    | some (op, k, cause, resumed) => gsFault n op k cause resumed p.loop.isSome p.pc s
    | none => s

/-! ### Waits (R101, R103) -/

/-- Transfers that the core started in this step have ended. -/
def stepChansIdle (s : State) (n : Nat) : Bool :=
  (getProc s n).stepChans.all fun c =>
    let ch := getChan s c
    !(ch.st == .active || ch.st == .preempted) && ch.wb.isEmpty && !ch.fetching

/-- DMAWAIT's condition (R276). -/
def chanQuiet (s : State) (c : Nat) : Bool := !((getChan s c).st == .active || (getChan s c).st == .preempted)

/-- What a bundle waits for has come about. -/
def waitMet (s : State) (n : Nat) : WaitFor → Bool
  | .queueRoom _ => decide ((getArray s n).queue.length < Config.arrayQueue)
  | .arrayAtMost k => decide ((getArray s n).queue.length ≤ k)
  | .channelIdle c => chanQuiet s c
  | .storesAcked => !writesHeld s (procReq n).code
  | .stepDrained _ => (getArray s n).queue.isEmpty && stepChansIdle s n && !writesHeld s (procReq n).code
  | .kick _ => !writesHeld s (procReq n).code
  | .remote _ | .parkedRead _ => false

/-- Push an array command. -/
def arrayPush (n : Nat) (ws : List Word) (s : State) : State :=
  let pc := BitVec.ofNat 32 (getProc s n).pc
  modArray n (fun a => { a with queue := a.queue ++ [{ words := ws, pc := pc, started := false, empty := false }] }) s

/-- CH_CMD.KICK from a core on its own channel: a KICK that is FORMAT is recorded and faults; a kick whose first checks halt the
channel ends the step (R271, R272). -/
def coreKick (n c : Nat) (s : State) : State :=
  if !kickAllowed (getChan s c) then procFault n 6 eFormat (regErr pgDma 0x404 (procReq n) eFormat s)
  else
    let s' := kick c (modProc n (fun p => { p with
      stepChans := if p.stepChans.contains (Fin.ofNat 32 c) then p.stepChans else p.stepChans ++ [Fin.ofNat 32 c] }) s)
    if (getChan s' c).st = .halted then procFault n 6 (getChan s' c).result s' else s'

/-- What the end of a wait does. STEPEND's wait for results in flight lands them at once and counts no step for them (R103 does not say:
DESIGN CHOICE, in the log). -/
def waitDo (n : Nat) (w : WaitFor) (s : State) : State :=
  match w with
  | .queueRoom ws => arrayPush n ws s
  | .stepDrained last => modProc n (fun p => { p.landEvery false with commitAsked := some last }) s
  | .kick c => coreKick n c s
  | _ => s

/-- The processor's step has ended. -/
def stepOver (n : Nat) (before s : State) : Bool := (getProc before n).run.isSome && (getProc s n).run.isNone

/-- The waits that are left once the first ones have ended, in order; none where one of them ended the step. -/
def waitsRun (n : Nat) : List WaitFor → State → List WaitFor × State
  | [], s => ([], s)
  | w :: ws, s =>
    if !waitMet s n w then (w :: ws, s)
    else if stepOver n s (waitDo n w s) then ([], waitDo n w s)
    else waitsRun n ws (waitDo n w s)

def WaitFor.isDrain : WaitFor → Bool
  | .stepDrained _ => true
  | _ => false

/-- The bundle issues when nothing holds it; else the processor waits. A kick that ended the step leaves no bundle. -/
def settle (n : Nat) (s : State) : State :=
  let (ws, t) := waitsRun n (getProc s n).buf.waits s
  if stepOver n s t then t
  else
    let s := modProc n (fun p => { p with
      buf := { p.buf with waits := ws }
      waitFrom := now t
      runState := if ws.isEmpty then p.runState else if ws.any WaitFor.isDrain then .drain else .wait }) t
    if ws.isEmpty then bundleFinish n s else s

/-- A waiting bundle's condition is met (R101). -/
def waitRelease (n steps : Nat) (s : State) : State :=
  let p := getProc s n
  match p.buf.waits with
  | [] => s
  | w :: _ => if (p.runState = .wait ∨ p.runState = .drain) ∧ waitMet s n w = true then settle n (countWaits n steps s) else s

/-! ### The end of a bundle's syllables -/

/-- The END bit: remote accesses, loads before stores, and the waits of its operations hold the bundle until it issues. -/
def bundleEnd (n : Nat) (s : State) : State :=
  let p := getProc s n
  if (repeatEnd s n p).isNone then procFault n 0 fLoopBody s
  else
    let far := p.buf.mems.filter fun o => o.isRemote n
    let s :=
      if p.buf.call then
        match bundlesNext s n 3 (p.pc + 4 * p.buf.syls) with
        | some a => pushRes n 0 1 (.g 31 (BitVec.ofNat 32 a)) s
        | none => let (w, s) := draw 32 s; pushRes n 0 1 (.g 31 w) s
      else s
    let first := (far.filter MemOp.isLoad) ++ far.filter fun o => !o.isLoad
    settle n (modProc n (fun p => { p with buf := { p.buf with waits := first.map .remote ++ p.buf.waits } }) s)

/-! ### Syllables (R83, R84, R117, R125) -/

/-- A processor can take the next syllable. A core whose ENABLE is 0 stops at the next bundle boundary, its item boundary (R20, R128). -/
def canIssue (s : State) (n : Nat) : Bool :=
  let p := getProc s n
  (p.runState == .issue || p.runState == .handler) && !p.halted
    && (if n = mgmtNo then s.reset_.romStarted else p.run.isSome && (!(getHealth s n).disabled || p.buf.syls != 0))

/-- A bundle already holds a gather or scatter in L0. -/
def gsInL0 (p : ProcState) : Bool := p.buf.mems.any fun o => match o with
  | .gs op _ resumed => !op.slotL1 && !resumed
  | _ => false

/-- Why a syllable cannot stand where it does. `p` is the processor before it. A syllable past the half is no part of a bundle
(R82), so that comes first; and so for the management processor is one outside its ROM and SRAM (R126; DESIGN CHOICE: the spec names no
fault). -/
def sylCheck (n : Nat) (p : ProcState) (slot syls : Nat) (fin : Bool) : Option Byte :=
  if (n ≠ mgmtNo ∧ 0x8000 < p.pc + 4 * syls) ∨ fetchable n (p.pc + 4 * syls - 4) = false then some eAddrRange
  else if slot < p.buf.next ∨ 8 < syls ∨ (syls = 8 ∧ fin = false) then some fIllegalBundle
  else if slot = 3 ∧ gsInL0 p = true then some fIllegalBundle
  else if n = mgmtNo ∧ 2 ≤ slot then some fIllegalOp
  else none

/-- Why a syllable of some words faults before its operation does anything, as slot and cause: where it stands, or the word that is
fetched there (R82, R84, R92, R117, R125). Of a word that is not listed at a place that breaks the bundle's rules, the word's cause is
reported (DESIGN CHOICE, in the log). -/
def sylFault (s : State) (n slot words : Nat) (fin : Bool) : Option (Nat × Byte) :=
  let p := getProc s n
  match sylCheck n p slot (p.buf.syls + words) fin, wordFault (codeWord s n (p.pc + 4 * p.buf.syls)) with
  | none, w => w
  | some c, none => some (slot, c)
  | some c, some w => if c = eAddrRange then some (slot, c) else some w

/-- A syllable of one or two words takes its place in its bundle. -/
def BundleBuf.take (slot words : Nat) (b : BundleBuf) : BundleBuf :=
  { b with next := slot + 1, syls := b.syls + words, l0 := b.l0 || slot == 2 }

def sylPlace (n slot words : Nat) (s : State) : State := modProc n (fun p => { p with buf := p.buf.take slot words }) s

/-- A byte of wrong parity in the words of a syllable as they are fetched (R82, R126). -/
def fetchBad (s : State) (n words : Nat) : Option Nat :=
  let p := getProc s n
  firstDamaged s (codeAddr s n (p.pc + 4 * p.buf.syls)) (4 * words)

/-- One syllable of a slot, with its extension if it has one: its operation's own effect `f`, and at END the bundle's issue. A detection
in its words is handled first. Where the processor cannot issue, the command does nothing; where the effect itself ended the step, the
bundle does not go on. -/
def issue (a : At) (slot : Nat) (ext : Bool) (f : State → Except Byte State) (s : State) : State :=
  let n := a.p.num
  if !canIssue s n then s
  else
    let words := if ext then 2 else 1
    let t := sylPlace n slot words s
    match fetchBad s n words, sylFault s n slot words a.fin with
    | some b, _ => ownDetection n b t
    | none, some (k, c) => procFault n k c t
    | none, none => match f t with
      | .error c => procFault n slot c t
      | .ok s => if a.fin && canIssue s n then bundleEnd n s else s

/-- A syllable that only issues results, computed from the processor's registers. -/
def issueRes (a : At) (slot lat : Nat) (ext : Bool) (f : ProcState → Landing) (s : State) : State :=
  issue a slot ext (fun s => .ok (pushRes a.p.num slot lat (f (getProc s a.p.num)) s)) s

/-- The processor stands in a delay slot, or in a loop body (R100, R113). -/
def flowCheck (p : ProcState) : Except Byte Unit :=
  if p.delay.isSome then .error fDelaySlot else if p.loop.isSome then .error fLoopBody else .ok ()

/-- A gather's pending destination is touched: the bundle waits until the gather is complete (R116). -/
def touchV (n : Nat) (vs : List (Fin 32)) (s : State) : State :=
  let hit (e : Inflight) : Bool := e.gather && (match e.land with
    | .v r _ _ => vs.contains r
    | _ => false)
  let p := getProc s n
  let es := p.inflight.filter hit
  if es.isEmpty then s
  else
    let k := es.foldl (fun m e => max m (e.due - p.bundle)) p.buf.gatherWait
    countWaits n (k - p.buf.gatherWait) (modProc n (fun p => ({ p with
      inflight := p.inflight.filter fun e => !hit e, buf := { p.buf with gatherWait := k } } : ProcState).landList false es) s)

/-! ### Interrupts (R122) -/

/-- An interrupt is taken at a bundle boundary that is neither inside a REPEAT body nor before a pending delay slot. -/
def interruptEntry (n : Nat) (s : State) : State :=
  let p := getProc s n
  if canIssue s n && (intStatOf s n &&& p.intEn) != 0 && p.ie && p.buf.syls == 0 && p.loop.isNone && p.delay.isNone then
    modProc n (·.enter (n == mgmtNo) false) s
  else s

/-! ### Remote scalar accesses (R109, R160) -/

/-- How a remote access ended. -/
inductive Answer where
  | done (data : List Byte) (s : State)
  /-- The data came with the parity of other data. -/
  | spoiled (s : State)
  | failed (code : Byte) (s : State)
  | waits (s : State)

/-- A refusal by the network-on-chip or by the target (R109, R160). -/
def remoteRefusal (s : State) (n a : Nat) (write : Bool) : Option Byte :=
  if n = mgmtNo then
    placeRefusal s none true write 0 a
  else match place a with
    | .hole => some eAddrRange
    | .shm _ | .dram => placeRefusal s (some n) false write 0 a
    | .regs => if (a - regsBase) / 0x1000 = pgShm then none else some ePermission
    | .cmem k | .buffers k | .pmem k | .local k =>
      if !corePresent s k then some eAddrRange else if k = n then placeRefusal s (some n) false write 0 a else some ePermission
    | _ => some ePermission

/-- A remote load of `size` bytes. -/
def remoteLoad (n a size : Nat) (s : State) : Answer :=
  let r := procReq n
  match remoteRefusal s n a false with
  | some c => .failed c (countRefusal c s)
  | none =>
    match regsOf a with
    | some off =>
      let refused := pageRefused s r (off / 0x1000) (off % 0x1000) false
      (match readPass r off size s with
      | (some code, s) => if code = eLfi then .failed eLfi s else .spoiled s
      | (none, s) =>
        if isParked s r then .waits s
        else if refused then .failed ePermission (countRefusal ePermission s)
        else .done (bytesOf size (getAnswer s r).toNat) s)
    | none => match lfiItem lfiNoc r.code.toNat 1 s with
      | (some (.drop, _), s) => .failed eLfi s
      | (act, s) =>
        if lfiSpoils s act then .spoiled s
        else match place a with
          | .host => .done ((List.range size).map fun i => hostByte s (hostAddr s 0 a + i)) (hostReadSent 0 a size s)
          | .peer _ =>
            let (w, s) := draw 64 s
            .done (bytesOf size w.toNat) (send (.peerRead (peerBus s a) size) s)
          | _ => .done (memRead s (ownCore n) a size) s

/-- A remote store. -/
def remoteStore (n a size : Nat) (v : DWord) (s : State) : Answer :=
  let r := procReq n
  match remoteRefusal s n a true with
  | some c => .failed c (countRefusal c s)
  | none =>
    match regsOf a with
    | some off =>
      let refused := pageRefused s r (off / 0x1000) (off % 0x1000) true
      match regPass r off size (v.setWidth 32) s with
      | (some .drop, s) => .failed eLfi s
      | (_, s) => if refused then .failed ePermission (countRefusal ePermission s) else .done [] s
    | none =>
      match lfiPass lfiNoc r.code.toNat 0 (.write (ownCore n) r.code 0 (cellsAt a (bytesOf size v.toNat))) packetEnd s with
      | (some .drop, s) => .failed eLfi s
      | (_, s) => .done [] s

/-- The steps that a remote access took, at least one; how many more is open (R101). -/
def remoteWaited (n : Nat) (s : State) : State :=
  let (k, s) := draw 16 s
  countWaits n (1 + k.toNat) s

/-- The head wait is over: it leaves the list, and the bundle goes on. -/
def remoteOver (n : Nat) (s : State) : State :=
  let s := remoteWaited n s
  settle n (modProc n (fun p => { p with buf := { p.buf with waits := p.buf.waits.drop 1 }, runState := p.issuing }) s)

/-- A remote access fails after its wait (R101, R109). -/
def remoteFails (n slot : Nat) (cause : Byte) (s : State) : State := procFault n slot cause (remoteWaited n s)

/-- A load's bytes reach its register, or a detection in them is handled (R151). -/
def remoteLanded (n slot : Nat) (dest : LoadDest) (size : Nat) (signed : Bool) (a : Nat) (data : List Byte) (s : State) : State :=
  let land := pushRes n slot 4 (loadLanding dest size signed (ofBytes data))
  match firstBad s n ((List.range size).map (a + ·)) with
  | some b => if n = mgmtNo then remoteOver n (land (readerDetection 0 b s)) else ownDetection n b (remoteWaited n s)
  | none => remoteOver n (land s)

/-- The slot of a memory operation. -/
def MemOp.slot : MemOp → Nat
  | .load k .. | .store k .. | .vload k .. | .vbroad k .. | .vstore k .. => k
  | .gs op _ _ => if op.slotL1 then 3 else 2

/-- The causes that R120 admits: the common codes but PARITY, and its block codes. -/
def faultCauses : List Byte := (List.range 0x16).filterMap fun c => if c = 0 ∨ c = 4 then none else some (BitVec.ofNat 8 c)

/-- A remote load meets an uncorrectable DRAM error: the access fails (R109, R158). ECC_UE is no common code of R33, so which of its
causes the fault has is open. -/
def remoteEcc (n slot a : Nat) (s : State) : State :=
  let (w, s) := draw 8 (dramError (procReq n).code a s)
  remoteFails n slot (faultCauses.getD (w.toNat % faultCauses.length) 1) s

/-- A remote load's data come with wrong parity from the injector: for a core a detection of its step (R61, R377), for the management
processor a PARITY fault. -/
def remoteSpoiled (n slot a : Nat) (s : State) : State :=
  if n = mgmtNo then remoteFails n slot eParity s
  else stepDetection n (coreParity n (procReq n).code a (remoteWaited n s))

/-- A remote access is answered, or fails (R109). One that nothing answers goes on waiting. -/
def remoteDone (n : Nat) (x : Answered) (s : State) : State :=
  let p := getProc s n
  match p.buf.waits with
  | .remote op :: ws =>
    if x = .never then s
    else (match op with
    | .load slot dest size signed a =>
      (match remoteLoad n a.toNat size s with
      | .done bs s =>
        if dramFails s a.toNat x then remoteEcc n slot a.toNat s
        else remoteLanded n slot dest size signed a.toNat bs (dramCorrects a.toNat x s)
      | .spoiled s => remoteSpoiled n slot a.toNat s
      | .failed c s => remoteFails n slot c s
      | .waits s => modProc n (fun p => { p with buf := { p.buf with waits := .parkedRead op :: ws } }) s)
    | .store slot size v a =>
      (match remoteStore n a.toNat size v s with
      | .done _ s => remoteOver n s
      | .failed c s => remoteFails n slot c s
      | .spoiled s | .waits s => s)
    | _ => s)
  | .parkedRead (.load slot dest size signed _) :: _ =>
    if isParked s (procReq n) then s
    else remoteOver n (pushRes n slot 4 (loadLanding dest size signed (getAnswer s (procReq n)).toNat) s)
  | _ => s

/-- The limit of a remote access in nanoseconds, `NOC.CFG.TIMEOUT_US` (R160). -/
def nocLimit (s : State) : Nat := fld (getReg s pgNoc 0 0x040) 15 0 * Config.us

/-- A remote access of a processor, or the read of a step's code for a core, goes unanswered for TIMEOUT_US; a parked wait does not
time out (R82, R147, R160). -/
def nocTimeout (n : Nat) (s : State) : State :=
  let p := getProc s n
  match p.buf.waits with
  | .remote op :: _ => if now s < p.waitFrom + nocLimit s then s else remoteFails n op.slot eTimeout (countWrap pgNoc 0 0x044 s)
  | _ => if n = mgmtNo then s else codeTimeout n (nocLimit s) s

end Sys2Proof.Machine
end

