-- ==== Sys2Proof/Machine/Mover.lean ====
section
/-! DEFINITION. The movers of the transfer engine (R265 to R268, R279 to R291): which bytes a destination byte is made of, the
feature-map codec of R225 to R229, the grant of a mover and the beats that it moves, and what a halt does to a running step
(R272). With them, the handling of a parity detection by its place and reader (R151). -/

namespace Sys2Proof.Machine

/-! ### Feature-map blocks (R225 to R229) -/

/-- The elements of a block that lie in the map. -/
def fmcElems (m : Store Word) (b : Nat) : List Nat := (List.range 64).filter (fmcInside m b)

/-- Bits of a delta: 4 for FMC34, 3 for FMC26. -/
def fmcBits (m : Store Word) : Nat := if fmc26 m then 3 else 4

/-- The least k with n ≤ 2^k, for n up to 2^9. -/
def ceilLog2 (n : Nat) : Nat := ((List.range 10).find? fun k => decide (n ≤ 2 ^ k)).getD 9

/-- An encoded block (R226 to R228): its minimum, shift, and deltas by element. -/
structure FmcCode where
  min : Int
  shift : Nat
  exact : Bool
  deltas : List (Nat × Nat)
  deriving DecidableEq, Repr

/-- Encode the in-map elements, given with their values. -/
def fmcEncode (bits : Nat) (xs : List (Nat × Int)) : FmcCode :=
  let mn := xs.foldl (fun a x => if x.2 < a then x.2 else a) 127
  let mx := xs.foldl (fun a x => if a < x.2 then x.2 else a) (-128)
  let shift := ceilLog2 ((mx - mn).toNat + 1) - bits
  let ds := xs.map fun x => (x.1, (x.2 - mn).toNat / 2 ^ shift)
  { min := mn, shift := shift, deltas := ds, exact := (xs.zip ds).all fun p => decide (p.1.2 - mn = ((p.2.2 * 2 ^ shift : Nat) : Int)) }

/-- The data plane as one number: delta e at bit `bits` times e. -/
def FmcCode.plane (c : FmcCode) (bits : Nat) : Nat := c.deltas.foldl (fun n d => n + d.2 * 2 ^ (bits * d.1)) 0

/-- The header's bytes (R227). -/
def FmcCode.header (c : FmcCode) (mode26 : Bool) : List Byte :=
  [BitVec.ofInt 8 c.min, BitVec.ofNat 8 (c.shift + (if c.exact then 8 else 0) + (if mode26 then 0x20 else 0x10))]

/-- A header is malformed (R229). -/
def fmcMalformed (m : Store Word) (h1 : Byte) : Bool :=
  fld h1 5 4 != (if fmc26 m then 2 else 1) || decide ((if fmc26 m then 5 else 4) < fld h1 2 0)

/-- Decode one element (R229). -/
def fmcDecode (m : Store Word) (h0 h1 : Byte) (delta : Nat) : Byte :=
  if fmcMalformed m h1 then h0 else BitVec.ofInt 8 (min 127 (h0.toInt + ((delta * 2 ^ fld h1 2 0 : Nat) : Int)))

/-! ### What the byte at position k is made of (R280, R281, R283) -/

/-- The source addresses that position k needs, in the order in which `srcMake` takes their bytes. -/
def srcNeeds (own : Option Nat) (m : Store Word) (k : Nat) : List Nat :=
  let s := dSrc own m
  let e := dE m
  let p := dPlanes m
  let i := k / rowSize m
  let b := k % rowSize m
  let (q, n, o) := segAt m b
  match dMode m with
  | 0 => [if dDescends own m then s + (dLen m - 1 - k) else s + k]
  | 1 => [s + i % p * dPlaneStride m + i / p * dSrcStride m + b]
  | 2 => [s + i * dSrcStride m + ((q + o % (n * e) / e) * p + o / (n * e)) * e + o % e]
  | 3 => [s + b % (p * e) / e * dPlaneStride m + i * dSrcStride m + b / (p * e) * e + b % e]
  | 4 => (List.range 8).map fun j => s + i * dSrcStride m + (8 * (q + o % n) + j) * e + o / n / 8
  | 5 => ((List.range 8).filter fun t => decide (b % e * 8 + t < p)).map fun t =>
      s + (b % e * 8 + t) * dPlaneStride m + i * dSrcStride m + b / e / 8
  | 7 =>
    let blk := fmcOrder m (k / fmcSize m)
    (fmcElems m blk).map fun q => let x := fmcPixel m blk q; fmcElem m s (dSrcStride m) x.1 x.2.1 x.2.2
  | 8 =>
    let blk := fmcOrder m (k / 64)
    let bit0 := fmcBits m * (k % 64)
    [s + dSrcStride m + 2 * blk, s + dSrcStride m + 2 * blk + 1, s + blk * fmcDb m + bit0 / 8]
      ++ if bit0 % 8 + fmcBits m ≤ 8 then [] else [s + blk * fmcDb m + bit0 / 8 + 1]
  | 9 => [s + i * dSrcStride m + (q + o % n) * p * e + o / n]
  | _ => []

/-- The byte at position k from the bytes of `srcNeeds`. -/
def srcMake (m : Store Word) (k : Nat) (bs : List Byte) : Byte :=
  let b := k % rowSize m
  match dMode m with
  | 4 =>
    let (_, n, o) := segAt m b
    BitVec.ofNat 8 (bs.zipIdx.foldl (fun x y => x + (if bit y.1 (o / n % 8) then 2 ^ y.2 else 0)) 0)
  | 5 => BitVec.ofNat 8 (bs.zipIdx.foldl (fun x y => x + (if bit y.1 (b / dE m % 8) then 2 ^ y.2 else 0)) 0)
  | 6 =>
    let o := b % dE m
    BitVec.ofNat 8 (if o < 4 then (dw m 2).toNat >>> (8 * o) else (dw m 3).toNat >>> (8 * (o - 4)))
  | 7 =>
    let o := k % fmcSize m
    let code := fmcEncode (fmcBits m) ((fmcElems m (fmcOrder m (k / fmcSize m))).zip (bs.map (·.toInt)))
    if o < fmcDb m then BitVec.ofNat 8 (code.plane (fmcBits m) >>> (8 * o)) else (code.header (fmc26 m)).getD (o - fmcDb m) 0
  | 8 => fmcDecode m (bs.getD 0 0) (bs.getD 1 0) (ofBytes (bs.drop 2) / 2 ^ (fmcBits m * (k % 64) % 8) % 2 ^ fmcBits m)
  | _ => bs.getD 0 0

/-! ### A channel's accesses -/

/-- A channel's requester. -/
def chanReq (c : Nat) : Requester := .chan (Fin.ofNat 32 c)

/-- An owner with the reach of MGMT (R270, R342). -/
def chanPriv (s : State) (c : Nat) : Bool := chanOwner s c == 0x00 || chanOwner s c == 0x10

/-- Why a beat is refused at run time (R288). -/
def beatRefusal (s : State) (c : Nat) (write : Bool) (a : Nat) : Option Byte :=
  placeRefusal s (chanCore s c) (chanPriv s c) write (hostFn s (chanOwner s c)) a

/-- The bytes of `size` bytes at `a`, which lie in one place, as they come over the network-on-chip: with the first of them that
fails its parity, or a halt code. A peer's bytes are open; a register word is one access of its own (R279). Bytes of wrong parity in the
carafe are returned, and are no fault of their reader (R409). -/
def beatRead (c a size : Nat) (s : State) : Except Byte (List Byte × Option Nat) × State :=
  match beatRefusal s c false a with
  | some code => (.error code, s)
  | none => match regsOf a, place a with
    | some off, _ =>
      let refused := pageRefused s (chanReq c) (off / 0x1000) (off % 0x1000) false
      let s := busRead (chanReq c) (off / 0x1000) (off % 0x1000) s
      (if refused then .error ePermission else .ok (bytesOf size (getAnswer s (chanReq c)).toNat, none), s)
    | none, .host =>
      let f := hostFn s (chanOwner s c)
      (.ok ((List.range size).map fun i => hostByte s (hostAddr s f a + i), none),
        hostReadSent f a size s)
    | none, .peer _ =>
      let (w, s) := draw (8 * size) s
      (.ok (bytesOf size w.toNat, none), send (.peerRead (peerBus s a) size) s)
    | none, .carafe => (.ok (memRead s none a size, none), rangeDetected (chanCode c) a size s)
    | none, _ =>
      let own := chanCore s c
      (.ok (memRead s own a size, ((List.range size).map (a + ·)).find? (viewBad s own)), s)

/-! ### Halts (R272, R291) -/

/-- A channel that its core started in the running step has halted: a PARITY halt is a detection of the step, any other code a
core fault (R272). `before` is the state before the channel acted. -/
def haltCheck (c : Nat) (before s : State) : State :=
  if (getChan before c).st ≠ .halted ∧ (getChan s c).st = .halted then
    match chanCore s c with
    | some n =>
      if (getProc s n).stepChans.contains (Fin.ofNat 32 c) then
        let code := (getChan s c).result
        if code = eParity then stepDetection n s else coreFaultEnds n 6 code (getProc s n).lastPc s
      else s
    | none => s
  else s

/-- A parity detection by a channel's read (R151, R289): an SHM line of a running step's channel is a detection of that step. A
descriptor fetch halts the channel without a write-back. -/
def chanDetection (c a : Nat) (wbDesc : Bool) (s : State) : State :=
  let started : Option Nat := (chanCore s c).bind fun n =>
    if (getProc s n).stepChans.contains (Fin.ofNat 32 c) then some n else none
  match place a, started with
  | .shm _, some n => shmStepDetection n (shmLine a) (countDet n (chanHalt c eParity a wbDesc s))
  | _, _ => haltCheck c s (chanHalt c eParity a wbDesc (readerDetection (chanCode c) a s))

/-- A channel halts with a code at an address, in a beat or (without a write-back) in a descriptor fetch. -/
def chanFails (c : Nat) (code : Byte) (a : Nat) (wbDesc : Bool) (s : State) : State :=
  if code = eParity then chanDetection c a wbDesc s else haltCheck c s (chanHalt c code a wbDesc s)

/-! ### Beats (R265, R267, R279, R289) -/

/-- The bytes that the holding register and the segment buffer keep from one beat to the next: 128 and 2 KiB. -/
def holdBytes : Nat := 2176

/-- A source byte in the holding register or the segment buffer. -/
def heldByte (ch : Chan) (size a : Nat) : Option (Byte × Bool) :=
  (ch.hold.find? fun h => h.base == a / size * size).map fun h => (h.bytes.getD (a % size) 0, h.bad)

/-- What stops a channel: a halt code with its address, and whether it is a parity detection that the memory itself shows. -/
structure BeatStop where
  code : Byte
  addr : Nat
  inMemory : Bool := false
  deriving DecidableEq, Repr

/-- A source beat is read into the holding register. The read is an item to the channel's requester: one that the injector corrupts
carries the wrong parity there (R377). -/
def loadBeat (c a size : Nat) (s : State) : Option BeatStop × State :=
  match lfiItem lfiNoc (chanCode c).toNat 1 s with
  | (some (.drop, _), s) => (some { code := eLfi, addr := a }, s)
  | (act, s) => match beatRead c a size s with
    | (.error code, s) => (some { code := code, addr := a }, s)
    | (.ok (_, some b), s) => (some { code := eParity, addr := b, inMemory := true }, s)
    | (.ok (bs, none), s) =>
      let h : HeldBeat := match act with
        | some (.corrupt, f) => { base := a, bytes := xorBytes (lfiReg s f 0x40C) bs, bad := lfiReg s f 0x40C != 0 }
        | _ => { base := a, bytes := bs }
      (none, modChan c (fun ch => { ch with hold := ch.hold ++ [h] }) s)

/-- Read the beats of some source addresses that are not yet held, until one fails. -/
def loadBeats (c size : Nat) : List Nat → State → Option BeatStop × State
  | [], s => (none, s)
  | a :: as, s =>
    if (heldByte (getChan s c) size a).isSome then loadBeats c size as s
    else match loadBeat c (a / size * size) size s with
      | (some x, s) => (some x, s)
      | (none, s) => loadBeats c size as s

/-- A write of a channel leaves, at rising addresses: a register word, or one write packet, which passes the injector (R376). -/
def storeCells (c : Nat) (cells : List WriteCell) (s : State) : Option BeatStop × State :=
  match cells with
  | [] => (none, s)
  | x :: _ =>
    let a := x.addr.toNat
    match beatRefusal s c true a with
    | some code => (some { code := code, addr := a }, s)
    | none => match regsOf a with
      | some off =>
        let refused := pageRefused s (chanReq c) (off / 0x1000) (off % 0x1000) true
        (match regPass (chanReq c) off 4 (BitVec.ofNat 32 (ofBytes (cells.map (·.byte)))) s with
        | (some .drop, s) => (some { code := eLfi, addr := a }, s)
        | (_, s) => (if refused then some { code := ePermission, addr := a } else none, s))
      | none =>
        let packet : Held := .write (chanCore s c) (chanCode c) (Fin.ofNat 16 (hostFn s (chanOwner s c))) cells
        match lfiPass lfiNoc (chanCode c).toNat 0 packet packetEnd s with
        | (some .drop, s) => (some { code := eLfi, addr := a }, s)
        | (_, s) => (none, s)

/-- The cells of a beat at rising addresses: a copy from the top makes them at falling ones (R282). -/
def rising (descends : Bool) (cells : List WriteCell) : List WriteCell := if descends then cells.reverse else cells

/-- A malformed header of MODE 8 is remembered with its address (R283). -/
def noteMalformed (c k : Nat) (m : Store Word) (own : Option Nat) (bs : List Byte) (s : State) : State :=
  if dMode m = 8 ∧ fmcMalformed m (bs.getD 1 0) = true then
    modChan c (fun ch => { ch with
      malformed := ch.malformed.orElse fun _ => some (BitVec.ofNat 40 (dSrc own m + dSrcStride m + 2 * fmcOrder m (k / 64))) }) s
  else s

/-- The beat from the channel's position: its source beats are read where they are not held, its bytes made, and written. Then the
position moves on; a new row starts with nothing held. A beat that fails writes nothing and leaves the position (R289). -/
def moveBeat (c : Nat) (s : State) : Option BeatStop × State :=
  let m := (getChan s c).act
  let own := chanCore s c
  let pos := (getChan s c).pos
  let (ks, next) := beatAt own m pos
  let size := srcBeat m
  match loadBeats c size (ks.flatMap (srcNeeds own m)) s with
  | (some x, s) => (some x, s)
  | (none, s) =>
    let held (a : Nat) : Byte × Bool := (heldByte (getChan s c) size a).getD (0, false)
    match (ks.flatMap (srcNeeds own m)).find? fun a => (held a).2 with
    | some a => (some { code := eParity, addr := a }, s)
    | none =>
      let bytes (k : Nat) : List Byte := (srcNeeds own m k).map fun a => (held a).1
      let cells : List WriteCell := ks.map fun k => { addr := BitVec.ofNat 40 (dstAddr own m k), byte := srcMake m k (bytes k) }
      let s := match ks with
        | k :: _ => noteMalformed c k m own (bytes k) s
        | [] => s
      match storeCells c (rising (dDescends own m) cells) s with
      | (some x, s) => (some x, s)
      | (none, s) =>
        let s := setPair pgDma 0 0x048 (getPair s pgDma 0 0x048 + BitVec.ofNat 64 cells.length) s
        (none, modChan c (fun ch => { ch with
          pos := next, rows := BitVec.ofNat 24 (rowsDone m next), beatFrom := now s
          lastDst := (cells.getLast?.map (·.addr)).getD ch.lastDst
          hold := if next / rowSize m = pos / rowSize m then ch.hold.drop (ch.hold.length - holdBytes / size) else [] }) s)

/-- Up to n beats of the active transfer, until one fails. -/
def moveBeats (c : Nat) : Nat → State → Option BeatStop × State
  | 0, s => (none, s)
  | n + 1, s =>
    if dTotal (getChan s c).act ≤ (getChan s c).pos then (none, s)
    else match moveBeat c s with
      | (some x, s) => (some x, s)
      | (none, s) => moveBeats c n s

/-- What stopped a channel takes effect: a halt, or a detection where a memory showed it. `before` is the state before the channel
acted. -/
def beatStopped (c : Nat) (before : State) (x : Option BeatStop × State) : State :=
  match x with
  | (none, s) => s
  | (some x, s) => if x.inMemory then chanDetection c x.addr true s else haltCheck c before (chanHalt c x.code x.addr true s)

/-! ### The grant of a mover (R265 to R267, R285, R287) -/

/-- A channel waits for a mover. The first beat of a handed-over transfer follows the write-back of the one before (R285). -/
def chanWaits (ch : Chan) : Bool :=
  ch.st == .preempted && ch.mover.isNone && !transferDone ch && (ch.wb.all (·.issued == 2) || ch.pos != 0)

/-- The waiting channel that a mover goes to: highest priority, then longest waiting (R266). -/
def bestWaiter (s : State) : Option Nat :=
  ((List.range 32).filter fun c => chanWaits (getChan s c)).foldl (fun best c => match best with
    | none => some c
    | some b =>
      let x := getChan s b
      let y := getChan s c
      if x.prio.toNat < y.prio.toNat ∨ (x.prio = y.prio ∧ y.turn < x.turn) then some c else some b) none

/-- The channel on a mover. -/
def moverChan (s : State) (m : Fin 4) : Option Nat := (List.range 32).find? fun c => (getChan s c).mover == some m

/-- The running channel that gives its mover up to one of higher priority, when all four are busy: the lowest priority, the one
that took its mover last (R266). -/
def victim (s : State) (prio : Nat) : Option Nat :=
  if ((List.range 4).all fun m => (moverChan s (Fin.ofNat 4 m)).isSome) = false then none
  else
    ((List.range 32).filter fun c => (getChan s c).mover.isSome && decide ((getChan s c).prio.toNat < prio)).foldl (fun best c => match best with
      | none => some c
      | some b =>
        let x := getChan s b
        let y := getChan s c
        if y.prio.toNat < x.prio.toNat ∨ (x.prio = y.prio ∧ x.turn < y.turn) then some c else some b) none

/-- A channel takes a mover. -/
def takeMover (c : Nat) (m : Fin 4) (s : State) : State :=
  let (t, s) := takeTurn s
  modChan c (fun ch => { ch with st := .active, mover := some m, turn := t, beatFrom := now s }) s

/-- A running channel gives its mover up and waits (R267). -/
def preempt (c : Nat) (s : State) : State :=
  let (t, s) := takeTurn s
  countWrap pgDma 0 0x050 (modChan c (fun ch => { ch with st := .preempted, mover := none, turn := t }) s)

/-- Beats that moved a transfer on corrected some single-bit errors in DRAM (R158). -/
def beatsCorrected (c corrected : Nat) (before s : State) : State :=
  if dMode (getChan before c).act ≠ 6 ∧ place (dSrc (chanCore before c) (getChan before c).act) = .dram ∧ (getChan before c).pos < (getChan s c).pos then
    dramCorrected corrected s
  else s

/-- A mover carries a channel for some beats at most. The grant comes about where R266 gives the mover to that channel. -/
def moverGrant (c : Nat) (m : Fin 4) (beats corrected : Nat) (s : State) : State :=
  let ch := getChan s c
  let carry (t : State) : State :=
    let x := moveBeats c beats t
    beatStopped c s (x.1, beatsCorrected c corrected t x.2)
  if !pageUp s pgDma || !(getHdr s pgDma).enable then s
  else if ch.st == .active && ch.mover == some m && !transferDone ch then
    match bestWaiter s with
    | some w => if victim s (getChan s w).prio.toNat = some c then s else carry s
    | none => carry s
  else if bestWaiter s ≠ some c then s
  else match moverChan s m with
    | none => carry (takeMover c m s)
    | some v => if victim s ch.prio.toNat = some v then carry (takeMover c m (preempt v s)) else s

/-! ### Descriptors in memory (R277, R278, R285, R291) -/

/-- The descriptor at DESC_PTR arrives; one that nothing answers waits for its timeout. A fetch that fails halts the channel with no
write-back (R291). -/
def descFetched (c : Nat) (x : Answered) (s : State) : State :=
  let ch := getChan s c
  if !ch.fetching || !(getHdr s pgDma).enable || x == .never then s
  else
    let own := chanCore s c
    let a := unalias own ch.descPtr.toNat
    let fail (code : Byte) (a : Nat) (s : State) : State := chanHalt c code a false s
    if a % 64 ≠ 0 ∨ isRegs (place a) = true then fail eAlignment a s
    else match missingAt s a (a + 63), ownerBlocked s (chanOwner s c) false a (a + 63) with
      | some b, _ => fail eAddrRange b s
      | none, some b => fail ePermission b s
      | none, none =>
        if dramFails s a x then fail eEccUe a (dramError (chanCode c) a s)
        else match lfiItem lfiNoc (chanCode c).toNat 1 (dramCorrects a x s) with
        | (some (.drop, _), s) => fail eLfi a s
        | (act, s) => match beatRead c a 64 s with
          | (.error code, s) => fail code a s
          | (.ok (_, some b), s) => chanDetection c b false s
          | (.ok (bs, none), s) =>
            if lfiSpoils s act then fail eParity a s
            else
              let words := (List.range 16).foldl (fun m i =>
                storeSet (fun _ => 0) m i (BitVec.ofNat 32 (ofBytes ((bs.drop (4 * i)).take 4)))) ([] : Store Word)
              let idle := ch.st == .idle || ch.st == .waitOwn
              let s := modChan c (fun ch => { ch with
                shadow := words, shDesc := BitVec.ofNat 40 a, fetching := false, armed := dOwn words, prefetched := dOwn words }) s
              if dOwn words then if idle then handOver c s else s
              else modChan c (fun ch => if idle then { ch with st := .waitOwn } else { ch with ownZero := true }) s

/-- The channel's first write-back. -/
def headWb (s : State) (c : Nat) : Option WriteBack := (getChan s c).wb.head?

/-- A write of a write-back is refused or dropped: the write-back ends there, and the channel halts as at a beat, or where it has
halted already records the code (R290, R343). -/
def wbFails (c : Nat) (w : WriteBack) (x : BeatStop) (s : State) : State :=
  let s := modChan c (fun ch => { ch with wb := ch.wb.drop 1 }) s
  if w.halted then recordErr pgDma (chanCode c) x.code (BitVec.ofNat 40 x.addr) (countRefusal x.code s) else chanHalt c x.code x.addr false s

/-- Writes of the first write-back are issued, each an item from the channel's requester, until one fails. -/
def wbIssue (c : Nat) (w : WriteBack) (k : Nat) : List (Nat × List Byte) → State → State
  | [], s => s
  | (o, bs) :: rest, s =>
    match storeCells c (cellsAt (w.desc.toNat + o) bs) s with
    | (some x, s) => wbFails c w x s
    | (none, s) => wbIssue c w k rest (modChan c (fun ch => { ch with wb := { w with issued := k } :: ch.wb.drop 1 }) s)

/-- A write-back goes on by one of its orders (R285): STATUS and TIMESTAMP are issued; once they are acknowledged, CTRL with OWN = 0; once
that is, the transfer is done. -/
def wbAdvance (c : Nat) (s : State) : State :=
  match headWb s c with
  | none => s
  | some w =>
    if w.issued = 0 then wbIssue c w 1 [(0x34, bytesOf 4 w.status.toNat), (0x38, bytesOf 8 w.stamp.toNat)] s
    else if writesHeld s (chanCode c) then s
    else if w.issued = 1 then wbIssue c w 2 [(0, bytesOf 4 (w.ctrl &&& 0x7FFFFFFF).toNat)] s
    else
      let s := modChan c (fun ch => { ch with wb := ch.wb.drop 1 }) s
      if w.halted then s else chanDone c (bit w.ctrl 29) s

/-- A write-back goes on from the order that it stands at, while it is the same write-back. -/
def wbRest (c : Nat) (k : Nat) (s : State) : State :=
  if (headWb s c).map (·.issued) = some k then wbAdvance c s else s

/-- The write-back of a finished descriptor goes as far as its acknowledgements let it (R285, orders 2 to 6). -/
def writebackDone (c : Nat) (s : State) : State :=
  match headWb s c with
  | none => s
  | some w =>
    if w.issued = 0 then wbRest c 2 (wbRest c 1 (wbAdvance c s))
    else if w.issued = 1 then wbRest c 2 (wbAdvance c s)
    else wbAdvance c s

/-! ### TRANSFER_HALT -/

/-- The access that an address belongs to has not been answered for long enough to time out (R160). -/
def chanTimedOut (s : State) (ch : Chan) (fetch : Bool) : Bool :=
  decide ((if fetch then ch.fetchFrom else ch.beatFrom) + nocLimit s ≤ now s) && (fetch || ch.st == .active)

/-- A beat, or a descriptor fetch, is refused or fails for a reason that the state does not show: TIMEOUT, ECC_UE, PARITY and the
like (R158, R288, R291). -/
def transferHalt (c : Nat) (code : Byte) (addr : Addr) (s : State) : State :=
  let ch := getChan s c
  let a := addr.toNat
  let fetch := ch.fetching && a / 64 == unalias (chanCore s c) ch.descPtr.toNat / 64
  let running := ch.st == .active || ch.st == .preempted
  if !(getHdr s pgDma).enable || !(running || fetch) then s
  else if code = eTimeout ∧ chanTimedOut s ch fetch = false then s
  else if code = eEccUe ∧ s.mem.eccOn = false then s
  else
    let t := if code = eTimeout then countWrap pgNoc 0 0x044 s else if code = eEccUe then dramError (chanCode c) a s else s
    chanFails c code a (!fetch) t

/-! ### PARITY_DETECTION -/

/-- A parity detection by place and reader (R126, R151 to R153, R178, R409). -/
def parityAt (place : ParityPlace) (s : State) : State :=
  match place with
  | .buffers n reader => coreMemory n (winBase n + offWbuf) reader
  | .pmem n reader => coreMemory n (winBase n + offPmem) reader
  | .cmemOwn n row byPreceding =>
    if stepping s n then cmemDetection n byPreceding (winBase n + 128 * row.val) s else s
  | .cmemNoc n row reader =>
    (match reader with
    | .chan c => chanDetection c (winBase n + 128 * row.val) true s
    | r => coreParity n r.code (winBase n + 128 * row.val) s)
  | .shmStep n line => if stepping s n then shmStepDetection n line (countDet n s) else s
  | .shmOther line reader =>
    (match reader with
    | .chan c => chanDetection c (shmBase + 256 * line.toNat) true s
    | _ => shmOtherDetection line s)
  | .mgmtSram off reader =>
    (match reader with
    | .chan c => chanDetection c (sramBase + off.toNat) true s
    | _ => sramDetection s)
  | .carafe off => carafeDetection off s
where
  /-- A detection in the buffers or the PMEM of core `n`: the core's own is a detection of its step; another reader meets it through
  the network-on-chip. -/
  coreMemory (n a : Nat) (reader : Requester) : State :=
    match reader with
    | .chan c => chanDetection c a true s
    | .core k => if k.val = n ∧ stepping s n = true then stepDetection n (coreParity n reader.code a s) else coreParity n reader.code a s
    | r => coreParity n r.code a s

end Sys2Proof.Machine
end

