-- ==== Sys2Proof/Machine/Scalar.lean ====
section
/-! DEFINITION. The meanings of slot S (R92): integer arithmetic, branches, returns, loops, control registers, and the ends of
steps. Each is one syllable of its processor. -/

namespace Sys2Proof.Machine

/-- The outcome of a command that always answers. -/
abbrev Out := Host.Outcome State Fault Refusal

/-- A two-source integer operation into g(d). -/
def intOp (a : At) (d x y : Fin 32) (lat : Nat) (f : Word → Word → Word) (s : State) : State :=
  issueRes a 0 lat false (fun p => .g d (f (p.rg x) (p.rg y))) s

/-- The amount of a shift: gb[4:0], or SUB[4:0] when b = 0. -/
def shiftAmount (p : ProcState) (b : Fin 32) (sub : BitVec 7) : Nat := if b = 0 then fld sub 4 0 else fld (p.rg b) 4 0

/-- A shift into g(d). -/
def shiftOp (a : At) (d x b : Fin 32) (sub : BitVec 7) (f : Word → Nat → Word) (s : State) : State :=
  issueRes a 0 1 false (fun p => .g d (f (p.rg x) (shiftAmount p b sub))) s

/-- NOP, in any slot. -/
def execNop (a : At) (slot : Slot) (s : State) : Out := .next (issue a (slotNum slot) false (fun s => .ok s) s)

def execAdd (a : At) (d x y : Fin 32) (s : State) : Out := .next (intOp a d x y 1 (· + ·) s)

def execAddi (a : At) (d x : Fin 32) (imm : BitVec 12) (ext : Ext) (s : State) : Out :=
  .next (issueRes a 0 1 ext.isSome (fun p => .g d (p.rg x + extImm 32 imm ext)) s)

def execSub (a : At) (d x y : Fin 32) (s : State) : Out := .next (intOp a d x y 1 (· - ·) s)
def execAnd (a : At) (d x y : Fin 32) (s : State) : Out := .next (intOp a d x y 1 (· &&& ·) s)
def execOr (a : At) (d x y : Fin 32) (s : State) : Out := .next (intOp a d x y 1 (· ||| ·) s)
def execXor (a : At) (d x y : Fin 32) (s : State) : Out := .next (intOp a d x y 1 (· ^^^ ·) s)

def execShl (a : At) (d x b : Fin 32) (sub : BitVec 7) (s : State) : Out := .next (shiftOp a d x b sub (fun v n => v <<< n) s)
def execShr (a : At) (d x b : Fin 32) (sub : BitVec 7) (s : State) : Out := .next (shiftOp a d x b sub (fun v n => v >>> n) s)
def execSra (a : At) (d x b : Fin 32) (sub : BitVec 7) (s : State) : Out := .next (shiftOp a d x b sub (fun v n => v.sshiftRight n) s)

def execSlt (a : At) (d x y : Fin 32) (s : State) : Out := .next (intOp a d x y 1 (fun v w => boolWord (v.slt w)) s)
def execSltu (a : At) (d x y : Fin 32) (s : State) : Out := .next (intOp a d x y 1 (fun v w => boolWord (v.ult w)) s)
def execMul (a : At) (d x y : Fin 32) (s : State) : Out := .next (intOp a d x y 2 (· * ·) s)

/-- The high word of a signed product. -/
def mulHigh (v w : Word) : Word := BitVec.ofInt 32 (v.toInt * w.toInt / 2 ^ 32)

def execMulh (a : At) (d x y : Fin 32) (s : State) : Out := .next (intOp a d x y 2 mulHigh s)

def execMovi (a : At) (d : Fin 32) (imm : BitVec 17) (ext : Ext) (s : State) : Out :=
  .next (issueRes a 0 1 ext.isSome (fun _ => .g d (extImm 32 imm ext)) s)

/-! ### Branches (R86, R100) -/

/-- The width of a program address: 16 bits on a core, 32 on the management processor (R81, R126). -/
def pcSize (n : Nat) : Nat := if n = mgmtNo then 2 ^ 32 else 2 ^ 16

/-- A branch target: words from the branch's own bundle. -/
def branchTarget (n : Nat) (p : ProcState) (off : BitVec 17) : Nat :=
  (((p.pc : Int) + 4 * off.toInt) % (pcSize n : Int)).toNat

/-- Open a window of three delay slots, after which issue goes to `target`. -/
def openDelay (n : Nat) (target : Option Nat) (ret : ReturnKind) (s : State) : State :=
  modProc n (fun p => { p with buf := { p.buf with delay := some { left := 3, target := target, ret := ret } } }) s

/-- A control transfer of slot S: refused in delay slots and loop bodies, else it opens a window. -/
def transfer (a : At) (f : ProcState → Option Nat) (ret : ReturnKind) (s : State) : State :=
  let n := a.p.num
  issue a 0 false (fun s =>
    let p := getProc s n
    match flowCheck p with
    | .error c => .error c
    | .ok _ => .ok (openDelay n (f p) ret s)) s

def execBnz (a : At) (x : Fin 32) (off : BitVec 17) (s : State) : Out :=
  .next (transfer a (fun p => if p.rg x != 0 then some (branchTarget a.p.num p off) else none) .none s)

def execBz (a : At) (x : Fin 32) (off : BitVec 17) (s : State) : Out :=
  .next (transfer a (fun p => if p.rg x == 0 then some (branchTarget a.p.num p off) else none) .none s)

def execJmp (a : At) (off : BitVec 17) (s : State) : Out :=
  .next (transfer a (fun p => some (branchTarget a.p.num p off)) .none s)

/-- CALL: the return address is known at the bundle's end. -/
def execCall (a : At) (off : BitVec 17) (s : State) : Out :=
  let n := a.p.num
  .next (issue a 0 false (fun s =>
    let p := getProc s n
    match flowCheck p with
    | .error c => .error c
    | .ok _ =>
      .ok (openDelay n (some (branchTarget n p off)) .none (modProc n (fun p => { p with buf := { p.buf with call := true } }) s))) s)

/-- JR: bits [1:0] of the target are ignored (R81). -/
def execJr (a : At) (x : Fin 32) (s : State) : Out :=
  .next (transfer a (fun p => some ((p.rg x).toNat % pcSize a.p.num / 4 * 4)) .none s)

def execReti (a : At) (s : State) : Out := .next (transfer a (fun p => some p.epc.toNat) .reti s)

/-- RESUME: the recorded gather or scatter is issued again from its faulting element, and VALID clears (R119). It reads or writes
that operation's registers, so it waits for a gather that is to fill one (R116). -/
def execResume (a : At) (s : State) : Out :=
  let n := a.p.num
  .next (issue a 0 false (fun s =>
    let p := getProc s n
    match flowCheck p, p.vfaultOp with
    | .error c, _ => .error c
    | .ok _, none => .error fIllegalOp
    | .ok _, some op =>
      if bit p.vfaultInfo 31 = false then .error fIllegalOp
      else
        let s := modProc n (fun p => { p with
          vfaultInfo := p.vfaultInfo &&& 0x7FFFFFFF
          buf := { p.buf with mems := p.buf.mems ++ [.gs op (fld p.vfaultInfo 3 0) true] } }) (touchV n [op.form.d, op.form.idx] s)
        .ok (openDelay n (some p.epc.toNat) .resume s)) s)

/-- REPEAT (R113, R125). -/
def execRepeatOp (a : At) (len : Fin 32) (cnt : Fin 1024) (rot reg : Bool) (g : Fin 32) (s : State) : Out :=
  let n := a.p.num
  .next (issue a 0 false (fun s =>
    let p := getProc s n
    let count := if reg then (p.rg g).toNat else cnt.val + 1
    match flowCheck p with
    | .error c => .error c
    | .ok _ =>
      if n = mgmtNo ∧ rot = true then .error fIllegalOp
      else if 1024 < count then .error fLoopBody
      else .ok (modProc n (fun p => { p with buf := { p.buf with rep := some (len.val + 1, count, rot) } }) s)) s)

/-! ### Control registers, ends of steps, events -/

/-- GETCR: what an unlisted number reads is open (R91). -/
def execGetcr (a : At) (d : Fin 32) (sub : BitVec 7) (s : State) : Out :=
  let n := a.p.num
  .next (issue a 0 false (fun s =>
    match getCr s n (fld sub 4 0) with
    | some w => .ok (pushRes n 0 2 (.g d w) s)
    | none => let (w, s) := draw 32 s; .ok (pushRes n 0 2 (.g d w) s)) s)

def execSetcr (a : At) (x : Fin 32) (sub : BitVec 7) (s : State) : Out :=
  .next (issueRes a 0 2 false (fun p => .cr (BitVec.ofNat 5 (fld sub 4 0)) (p.rg x)) s)

/-- Add a wait to the bundle. -/
def addWait (n : Nat) (w : WaitFor) (s : State) : State :=
  modProc n (fun p => { p with buf := { p.buf with waits := p.buf.waits ++ [w] } }) s

/-- STEPEND (R103, R125). -/
def execStepend (a : At) (last : Bool) (s : State) : Out :=
  let n := a.p.num
  .next (issue a 0 false (fun s =>
    if n = mgmtNo then .error fIllegalOp
    else match flowCheck (getProc s n) with
      | .error c => .error c
      | .ok _ => .ok (addWait n (.stepDrained last) s)) s)

/-- EVPOST stages an event code (R103, R125). -/
def execEvpostOp (a : At) (x : Fin 32) (s : State) : Out :=
  let n := a.p.num
  .next (issue a 0 false (fun s =>
    if n = mgmtNo then .error fIllegalOp
    else .ok (modProc n (fun p => { p with stagedEvents := p.stagedEvents ++ [(p.rg x).setWidth 16] }) s)) s)

def execMfence (a : At) (s : State) : Out := .next (issue a 0 false (fun s => .ok (addWait a.p.num .storesAcked s)) s)

/-- TRAP: the code imm[7:0] is for the program's reader; no register holds it. -/
def execTrap (a : At) (_imm : BitVec 17) (ext : Ext) (s : State) : Out := .next (issue a 0 ext.isSome (fun _ => .error fTrap) s)

/-! ### Events of a processor -/

def execWaitRelease (p : Proc) (steps : Nat) (s : State) : Out := .next (waitRelease p.num steps s)
def execRemoteAccessComplete (p : Proc) (answered : Answered) (s : State) : Out := .next (remoteDone p.num answered s)
def execInterruptEntry (p : Proc) (s : State) : Out := .next (interruptEntry p.num s)
def execNocTimeout (p : Proc) (s : State) : Out := .next (nocTimeout p.num s)

end Sys2Proof.Machine
end

