-- ==== Sys2Proof/Machine/AddrMem.lean ====
section
/-! DEFINITION. The meanings of slot A (R92): pointers and offsets, scalar memory accesses, scalar floating point (IEEE 754, R94)
and short vectors. LDW and STW stand in A, L0 and L1. -/

namespace Sys2Proof.Machine

/-! ### Pointers and offsets -/

def execPaddi (a : At) (d x : Fin 16) (imm : BitVec 12) (ext : Ext) (s : State) : Out :=
  .next (issueRes a 1 1 ext.isSome (fun p => .p d (p.rp x + extImm 40 imm ext)) s)

def execPaddo (a : At) (d x : Fin 16) (b : Fin 32) (s : State) : Out :=
  .next (issueRes a 1 1 false (fun p => .p d (p.rp x + (p.ro (Fin.ofNat 16 b)).signExtend 40)) s)

def execPli (a : At) (d : Fin 16) (imm : BitVec 17) (ext : Ext) (s : State) : Out :=
  .next (issueRes a 1 1 ext.isSome (fun _ => .p d (extImm 40 imm ext)) s)

def execOli (a : At) (d : Fin 16) (imm : BitVec 17) (ext : Ext) (s : State) : Out :=
  .next (issueRes a 1 1 ext.isSome (fun _ => .o d (extImm 32 imm ext)) s)

def execGtop (a : At) (d : Fin 16) (x b : Fin 32) (s : State) : Out :=
  .next (issueRes a 1 1 false (fun p => .p d (addrOf (p.rg b) (p.rg x))) s)

def execPtog (a : At) (d : Fin 32) (x : Fin 16) (sub : BitVec 7) (s : State) : Out :=
  .next (issueRes a 1 1 false (fun p => .g d (if bit sub 0 then (p.rp x >>> 32).setWidth 32 else (p.rp x).setWidth 32)) s)

/-- RROT turns RRB after its own bundle (R114, R125). -/
def execRrot (a : At) (s : State) : Out :=
  let n := a.p.num
  .next (issue a 1 false (fun s =>
    if n = mgmtNo then .error fIllegalOp else .ok (modProc n (fun p => { p with buf := { p.buf with rrot := true } }) s)) s)

/-! ### Scalar memory accesses (R105 to R109) -/

/-- Add a memory operation to the bundle, with its pointer update. -/
def addMem (n slot : Nat) (p : Fin 16) (up : Option Addr) (op : MemOp) (s : State) : State :=
  let s := modProc n (fun q => { q with buf := { q.buf with mems := q.buf.mems ++ [op] } }) s
  match up with
  | some a => pushRes n slot 1 (.p p a) s
  | none => s

/-- A scalar access of `size` bytes. -/
def scalarMem (a : At) (slot : Nat) (f : MemForm) (size : Nat) (mk : ProcState → Addr → MemOp) (s : State) : State :=
  let n := a.p.num
  issue a slot false (fun s =>
    let p := getProc s n
    let (ad, up) := memAddress p f size
    if memStrip f then .error fIllegalOp
    else if ad.toNat % size ≠ 0 then .error eAlignment
    else .ok (addMem n slot f.p up (mk p (BitVec.ofNat 40 (unalias (ownCore n) ad.toNat))) s)) s

def wordSlot : WordSlot → Nat
  | .a => 1
  | .l0 => 2
  | .l1 => 3

def execLdw (a : At) (slot : WordSlot) (f : MemForm) (s : State) : Out :=
  .next (scalarMem a (wordSlot slot) f 4 (fun _ ad => .load (wordSlot slot) (.g f.r) 4 false ad) s)

def execLdh (a : At) (f : MemForm) (s : State) : Out := .next (scalarMem a 1 f 2 (fun _ ad => .load 1 (.g f.r) 2 true ad) s)
def execLdb (a : At) (f : MemForm) (s : State) : Out := .next (scalarMem a 1 f 1 (fun _ ad => .load 1 (.g f.r) 1 true ad) s)

def execStw (a : At) (slot : WordSlot) (f : MemForm) (s : State) : Out :=
  .next (scalarMem a (wordSlot slot) f 4 (fun p ad => .store (wordSlot slot) 4 ((p.rg f.r).setWidth 64) ad) s)

def execSth (a : At) (f : MemForm) (s : State) : Out :=
  .next (scalarMem a 1 f 2 (fun p ad => .store 1 2 ((p.rg f.r).setWidth 64) ad) s)

def execStb (a : At) (f : MemForm) (s : State) : Out :=
  .next (scalarMem a 1 f 1 (fun p ad => .store 1 1 ((p.rg f.r).setWidth 64) ad) s)

def execLdf (a : At) (f : MemForm) (s : State) : Out := .next (scalarMem a 1 f 8 (fun _ ad => .load 1 (.f f.r) 8 false ad) s)
def execStf (a : At) (f : MemForm) (s : State) : Out := .next (scalarMem a 1 f 8 (fun p ad => .store 1 8 (p.rf f.r) ad) s)

/-! ### Scalar floating point -/

/-- An FP32 result writes [31:0] and sets [63:32] to 0 (R89). -/
def fres32 (d : Fin 32) (n : Nat) : Landing := .f d (BitVec.ofNat 64 (n % 2 ^ 32))

def execFaddS (a : At) (d x y : Fin 32) (s : State) : Out :=
  .next (issueRes a 1 4 false (fun p => fres32 d (fpAdd fp32 (p.rfs x).toNat (p.rfs y).toNat)) s)

def execFmulS (a : At) (d x y : Fin 32) (s : State) : Out :=
  .next (issueRes a 1 4 false (fun p => fres32 d (fpMul fp32 (p.rfs x).toNat (p.rfs y).toNat)) s)

def execFmaS (a : At) (d x y : Fin 32) (s : State) : Out :=
  .next (issueRes a 1 4 false (fun p => fres32 d (fpFma fp32 (p.rfs d).toNat (p.rfs x).toNat (p.rfs y).toNat)) s)

def execFaddD (a : At) (d x y : Fin 32) (s : State) : Out :=
  .next (issueRes a 1 6 false (fun p => .f d (BitVec.ofNat 64 (fpAdd fp64 (p.rf x).toNat (p.rf y).toNat))) s)

def execFmulD (a : At) (d x y : Fin 32) (s : State) : Out :=
  .next (issueRes a 1 6 false (fun p => .f d (BitVec.ofNat 64 (fpMul fp64 (p.rf x).toNat (p.rf y).toNat))) s)

def execFdivS (a : At) (d x y : Fin 32) (s : State) : Out :=
  .next (issueRes a 1 12 false (fun p => fres32 d (fpDiv fp32 (p.rfs x).toNat (p.rfs y).toNat)) s)

/-- A conversion of FCVT. An INT32 result clears f's upper half, as R89 has it for FP32 (DESIGN CHOICE, in the log). -/
def fcvtLanding (k : Config.FcvtKind) (d : Fin 32) (v : DWord) : Landing :=
  let w := (v.setWidth 32).toNat
  let int := Q.ofInt (v.setWidth 32).toInt
  match k with
  | .s2d => .f d (BitVec.ofNat 64 (fp64.result .nearest false [w] (fp32.decode false w)))
  | .d2s => fres32 d (fp32.result .nearest false [v.toNat] (fp64.decode false v.toNat))
  | .s2i => fres32 d (fpToInt fp32 w).toNat
  | .d2i => fres32 d (fpToInt fp64 v.toNat).toNat
  | .i2s => fres32 d (fp32.encode .nearest false false int)
  | .i2d => .f d (BitVec.ofNat 64 (fp64.encode .nearest false false int))

/-- FCVT: R92 names the formats but not the codes of SUB[3:0] (Config.fcvtKind); a code that names none has an open result. -/
def execFcvt (a : At) (d x : Fin 32) (sub : BitVec 7) (s : State) : Out :=
  let n := a.p.num
  .next (issue a 1 false (fun s =>
    match Config.fcvtKind (sub.setWidth 4) with
    | some k => .ok (pushRes n 1 4 (fcvtLanding k d ((getProc s n).rf x)) s)
    | none => let (w, s) := draw 64 s; .ok (pushRes n 1 4 (.f d w) s)) s)

def execFcmp (a : At) (d x y : Fin 32) (sub : BitVec 7) (s : State) : Out :=
  .next (issueRes a 1 2 false (fun p =>
    .g d (boolWord (if Config.fcmpWide (fld sub 6 3) then fpCmp fp64 (fld sub 2 0) (p.rf x).toNat (p.rf y).toNat
      else fpCmp fp32 (fld sub 2 0) (p.rfs x).toNat (p.rfs y).toNat))) s)

/-- GTOF writes fd[31:0] alone. -/
def execGtof (a : At) (d x : Fin 32) (s : State) : Out :=
  .next (issueRes a 1 2 false (fun p => .fLow d (p.rg x)) s)

def execFtog (a : At) (d x : Fin 32) (s : State) : Out := .next (issueRes a 1 2 false (fun p => .g d (p.rfs x)) s)

/-! ### Short vectors in e and y registers (R89, R90, R92) -/

/-- A lane-wise result of 64-bit registers with lanes of `w` bits. -/
def svLanes (w : Nat) (f : Nat → Nat → Nat → Nat) (d x y : DWord) : DWord :=
  (List.range (64 / w)).foldl (fun acc i => acc ||| putLane 64 w i (f (laneNat d w i) (laneNat x w i) (laneNat y w i))) 0

/-- The f registers that an e or y register overlays: with SUB[6] = 1 y(n), else e(n). -/
def svRegs (wide : Bool) (n : Fin 32) : List (Fin 32) :=
  if wide then [Fin.ofNat 32 (2 * (n.val % 16)), Fin.ofNat 32 (2 * (n.val % 16) + 1)] else [n]

/-- A short-vector operation on every f register of its operands. -/
def svOp (a : At) (d x y : Fin 32) (sub : BitVec 7) (w lat : Nat) (f : Nat → Nat → Nat → Nat) (s : State) : State :=
  let n := a.p.num
  issue a 1 false (fun s =>
    if n = mgmtNo then .error fIllegalOp
    else
      let p := getProc s n
      let wide := bit sub 6
      let rs := (svRegs wide d).zip ((svRegs wide x).zip (svRegs wide y))
      .ok (rs.foldl (fun s r => pushRes n 1 lat (.f r.1 (svLanes w f (p.rf r.1) (p.rf r.2.1) (p.rf r.2.2))) s) s)) s

/-- The lane width by SUB[1:0]: 8, 16 or 32 bits. -/
def svWidth (sub : BitVec 7) : Option Nat :=
  match fld sub 1 0 with
  | 0 => some 8
  | 1 => some 16
  | 2 => some 32
  | _ => none

/-- An integer short-vector operation; SUB[1:0] = 3 names no lane width, and the result is then open. -/
def svInt (a : At) (d x y : Fin 32) (sub : BitVec 7) (f : Nat → Nat → Nat) (s : State) : State :=
  match svWidth sub with
  | some w => svOp a d x y sub w 2 (fun _ u v => f u v) s
  | none =>
    let n := a.p.num
    issue a 1 false (fun s =>
      if n = mgmtNo then .error fIllegalOp
      else .ok ((svRegs (bit sub 6) d).foldl (fun s r => let (w, s) := draw 64 s; pushRes n 1 2 (.f r w) s) s)) s

def execSvadd (a : At) (d x y : Fin 32) (sub : BitVec 7) (s : State) : Out := .next (svInt a d x y sub (· + ·) s)
def execSvmul (a : At) (d x y : Fin 32) (sub : BitVec 7) (s : State) : Out := .next (svInt a d x y sub (· * ·) s)
def execSvfma (a : At) (d x y : Fin 32) (sub : BitVec 7) (s : State) : Out := .next (svOp a d x y sub 16 3 (fpFma fp16) s)

end Sys2Proof.Machine
end

