-- ==== Sys2Proof/Machine/Vector.lean ====
section
/-! DEFINITION. The meanings of slots L0 and L1 for vectors (R105 to R108, R116, R117) and of the pixel vector unit's plain
operations in V0 and V1 (R87, R88, R92 to R94, R110 to R112). -/

namespace Sys2Proof.Machine

/-! ### Vector loads and stores -/

/-- Why a vector access cannot be made: alignment, own CMEM alone, a strip within CMEM (R107, R109). -/
def vecCheck (n a : Nat) (strip : Bool) (align : Nat) : Option Byte :=
  if a % align ≠ 0 then some eAlignment
  else if place a ≠ .cmem n then some eAddrRange
  else if strip = true ∧ 32767 < (a - winBase n) / 128 + 15 then some eAddrRange
  else none

/-- A vector access with unit `unit`; `mk` makes its operation. -/
def vectorMem (a : At) (l1 : Bool) (f : MemForm) (unit : Nat) (strips : Bool) (mk : ProcState → Fin 32 → Bool → Addr → MemOp)
    (s : State) : State :=
  let n := a.p.num
  issue a (lSlot l1) false (fun s =>
    let v := physV (getProc s n).rrb f.r
    let s := touchV n [v] s
    let p := getProc s n
    let (ad, up) := memAddress p f unit
    let ad := unalias (ownCore n) ad.toNat
    if memStrip f && !strips then .error fIllegalOp
    else match vecCheck n ad (memStrip f) (if memStrip f then 8 else unit) with
      | some c => .error c
      | none => .ok (addMem n (lSlot l1) f.p up (mk p v (memStrip f) (BitVec.ofNat 40 ad)) s)) s

def execVld (a : At) (l1 : Bool) (f : MemForm) (s : State) : Out :=
  .next (vectorMem a l1 f 128 true (fun _ v strip ad => .vload (lSlot l1) v strip ad) s)

def execVst (a : At) (l1 : Bool) (f : MemForm) (s : State) : Out :=
  .next (vectorMem a l1 f 128 true (fun p v strip ad => .vstore (lSlot l1) (p.rvp v) strip ad) s)

def execVldb (a : At) (l1 : Bool) (f : MemForm) (s : State) : Out :=
  .next (vectorMem a l1 f 4 false (fun _ v _ ad => .vbroad (lSlot l1) v ad) s)

/-- A gather or scatter: no syllable in the other L slot, no delay slot; its registers are bound now and its elements run when the
bundle issues. -/
def gsIssue (a : At) (l1 : Bool) (f : GsForm) (scatter : Bool) (s : State) : State :=
  let n := a.p.num
  issue a (lSlot l1) false (fun s =>
    let rrb := (getProc s n).rrb
    let s := touchV n [physV rrb f.d, physV rrb f.idx] s
    let p := getProc s n
    if l1 && p.buf.l0 then .error fIllegalBundle
    else if p.delay.isSome then .error fDelaySlot
    else
      let op : VecOp := { form := { f with d := physV rrb f.d, idx := physV rrb f.idx }, slotL1 := l1, scatter := scatter }
      .ok (modProc n (fun q => { q with buf := { q.buf with mems := q.buf.mems ++ [.gs op 0 false] } }) s)) s

def execGather (a : At) (l1 : Bool) (f : GsForm) (s : State) : Out := .next (gsIssue a l1 f false s)
def execScatter (a : At) (l1 : Bool) (f : GsForm) (s : State) : Out := .next (gsIssue a l1 f true s)

/-! ### The shape of a vector operation -/

/-- One syllable of a V slot. `f` sees the processor after any wait for a gather, the lane type and the physical registers of d, a
and b, and answers the state that the operation leaves. -/
def vOp (a : At) (v1 : Bool) (f : VForm) (accepts : LaneType → Bool) (touch : List (Fin 32))
    (body : Nat → ProcState → LaneType → State → Except Byte State) (s : State) : State :=
  let n := a.p.num
  issue a (vSlot v1) false (fun s =>
    let rrb := (getProc s n).rrb
    let s := touchV n (touch.map (physV rrb)) s
    let t := LaneType.of f.type
    if accepts t then body n (getProc s n) t s else .error fIllegalOp) s

/-- Write lanes of vd. -/
def putV (n : Nat) (v1 : Bool) (lat : Nat) (d : Fin 32) (x : BitVec 1024 × BitVec 1024) (s : State) : State :=
  pushRes n (vSlot v1) lat (.v (physV (getProc s n).rrb d) x.1 x.2) s

/-- A lane-wise operation on va and vb into vd. -/
def vLanes (a : At) (v1 : Bool) (f : VForm) (accepts : LaneType → Bool) (lat : Nat)
    (g : ProcState → LaneType → BitVec 1024 → BitVec 1024 → Nat → Nat) (s : State) : State :=
  vOp a v1 f accepts [f.d, f.a, f.b] (fun n p t s =>
    .ok (putV n v1 lat f.d (buildLanes t.bits t.lanes (laneOn f (p.rm f.m)) (g p t (p.rv f.a) (p.rv f.b))) s)) s

/-- A number as the bits of a lane. -/
def laneBits (t : LaneType) (x : Int) : Nat := (x % (2 ^ t.bits : Int)).toNat

/-- An integer lane operation; `g` gives the exact result that wraps into the lane. -/
def vInt (a : At) (v1 : Bool) (f : VForm) (g : LaneType → Int → Int → Int) (s : State) : State :=
  vLanes a v1 f LaneType.isInt 2 (fun _ t x y i => laneBits t (g t (laneInt t x i) (laneInt t y i))) s

/-- A lane operation on bits, of any type. -/
def vBits (a : At) (v1 : Bool) (f : VForm) (g : Nat → Nat → Nat) (s : State) : State :=
  vLanes a v1 f (fun _ => true) 2 (fun _ t x y i => g (laneNat x t.bits i) (laneNat y t.bits i)) s

/-- The format of a floating-point lane type. -/
def LaneType.fmt : LaneType → Fmt
  | .f16 => fp16
  | .bf16 => Sys2Proof.Machine.bf16
  | _ => fp32

def LaneType.isFp (t : LaneType) : Bool := !t.isInt

/-! ### Integer operations -/

def execVadd (a : At) (v1 : Bool) (f : VForm) (s : State) : Out := .next (vInt a v1 f (fun _ x y => x + y) s)
def execVsub (a : At) (v1 : Bool) (f : VForm) (s : State) : Out := .next (vInt a v1 f (fun _ x y => x - y) s)
def execVadds (a : At) (v1 : Bool) (f : VForm) (s : State) : Out := .next (vInt a v1 f (fun t x y => clampInt t.lo t.hi (x + y)) s)
def execVsubs (a : At) (v1 : Bool) (f : VForm) (s : State) : Out := .next (vInt a v1 f (fun t x y => clampInt t.lo t.hi (x - y)) s)
def execVmul (a : At) (v1 : Bool) (f : VForm) (s : State) : Out := .next (vInt a v1 f (fun _ x y => x * y) s)
def execVmulh (a : At) (v1 : Bool) (f : VForm) (s : State) : Out := .next (vInt a v1 f (fun t x y => x * y / (2 ^ t.bits : Int)) s)
def execVavg (a : At) (v1 : Bool) (f : VForm) (s : State) : Out := .next (vInt a v1 f (fun _ x y => (x + y) / 2) s)

/-- The sign bit of a lane alone: the zero that a subnormal operand is flushed to (R94). -/
def laneZero (t : LaneType) (u : Nat) : Nat := u / 2 ^ (t.bits - 1) % 2 * 2 ^ (t.bits - 1)

/-- The lesser or greater of two lanes. Floating-point lanes flush subnormal operands (R94); a NaN leaves the lane open, and of two zeros
of different sign the result is a zero whose sign is open. -/
def pickLane (t : LaneType) (takeB : Bool → Bool → Bool) (x y : BitVec 1024) (i : Nat) : Nat :=
  let u := laneNat x t.bits i
  let v := laneNat y t.bits i
  if t.isInt then
    let p := laneInt t x i
    let q := laneInt t y i
    if takeB (decide (p < q)) (decide (q < p)) then v else u
  else
    let p := t.fmt.decode true u
    let q := t.fmt.decode true v
    let u' := if p.isZero then laneZero t u else u
    let v' := if q.isZero then laneZero t v else v
    if p.isNan || q.isNan then (Config.fpOpen t.bits [u, v]).toNat
    else if p.isZero && q.isZero && u' != v' then laneZero t (Config.fpOpen t.bits [u, v]).toNat
    else if takeB (p.lt q) (q.lt p) then v' else u'

def execVmin (a : At) (v1 : Bool) (f : VForm) (s : State) : Out :=
  .next (vLanes a v1 f (fun _ => true) 2 (fun _ t x y i => pickLane t (fun _ gt => gt) x y i) s)

def execVmax (a : At) (v1 : Bool) (f : VForm) (s : State) : Out :=
  .next (vLanes a v1 f (fun _ => true) 2 (fun _ t x y i => pickLane t (fun lt _ => lt) x y i) s)

/-- |x − y| of a lane; a difference that the lane cannot hold is open. -/
def absDiff (t : LaneType) (x y : BitVec 1024) (i : Nat) : Nat :=
  if t.isInt then
    let d : Int := (laneInt t x i - laneInt t y i).natAbs
    if d ≤ t.hi then laneBits t d else Config.laneOpen 0 (laneNat x t.bits i) (laneNat y t.bits i)
  else
    let u := laneNat x t.bits i
    let v := laneNat y t.bits i
    match (t.fmt.decode true u).add .down (match t.fmt.decode true v with
      | .nan => .nan
      | .inf n => .inf (!n)
      | .fin n q => .fin (!n) q.neg) with
    | .nan => (Config.nanBits t.bits [u, v]).toNat
    | .inf _ => t.fmt.infBits false
    | .fin _ q => t.fmt.encode .down true false q.abs

def execVabsd (a : At) (v1 : Bool) (f : VForm) (s : State) : Out :=
  .next (vLanes a v1 f (fun _ => true) 2 (fun _ t x y i => absDiff t x y i) s)

def execVand (a : At) (v1 : Bool) (f : VForm) (s : State) : Out := .next (vBits a v1 f (· &&& ·) s)
def execVor (a : At) (v1 : Bool) (f : VForm) (s : State) : Out := .next (vBits a v1 f (· ||| ·) s)
def execVxor (a : At) (v1 : Bool) (f : VForm) (s : State) : Out := .next (vBits a v1 f (· ^^^ ·) s)

/-- A shift of a lane; by the lane width or more, or by a negative amount, its result is open. -/
def shiftLane (left : Bool) (t : LaneType) (x y : BitVec 1024) (i : Nat) : Nat :=
  let n := laneInt t y i
  if n < 0 ∨ t.bits ≤ n then Config.laneOpen (if left then 1 else 2) (laneNat x t.bits i) (laneNat y t.bits i)
  else if left then laneBits t (laneInt t x i * (2 ^ n.toNat : Int))
  else laneBits t (laneInt t x i / (2 ^ n.toNat : Int))

def execVshl (a : At) (v1 : Bool) (f : VForm) (s : State) : Out :=
  .next (vLanes a v1 f LaneType.isInt 2 (fun _ t x y i => shiftLane true t x y i) s)

def execVshr (a : At) (v1 : Bool) (f : VForm) (s : State) : Out :=
  .next (vLanes a v1 f LaneType.isInt 2 (fun _ t x y i => shiftLane false t x y i) s)

/-! ### Comparison, selection, permutation -/

/-- A comparison of a lane: (less, equal). A comparison with a NaN is false. -/
def cmpLane (t : LaneType) (x y : BitVec 1024) (i : Nat) : Bool × Bool :=
  if t.isInt then (decide (laneInt t x i < laneInt t y i), decide (laneInt t x i = laneInt t y i))
  else
    let p := t.fmt.decode true (laneNat x t.bits i)
    let q := t.fmt.decode true (laneNat y t.bits i)
    if p.isNan || q.isNan then (false, false) else (p.lt q, p.eq q)

/-- A lane comparison into m(d[2:0]). -/
def vCmp (a : At) (v1 : Bool) (f : VForm) (g : Bool → Bool → Bool) (s : State) : State :=
  vOp a v1 f (fun _ => true) [f.a, f.b] (fun n p t s =>
    let r := (List.range t.lanes).foldl (fun (acc : BitVec 128 × BitVec 128) i =>
      if laneOn f (p.rm f.m) i then
        let c := cmpLane t (p.rv f.a) (p.rv f.b) i
        (acc.1 ||| (if g c.1 c.2 then oneBit 128 i else 0), acc.2 ||| oneBit 128 i)
      else acc) (0, 0)
    .ok (pushRes n (vSlot v1) 2 (.m (Fin.ofNat 8 f.d) r.1 r.2) s)) s

def execVcmpeq (a : At) (v1 : Bool) (f : VForm) (s : State) : Out := .next (vCmp a v1 f (fun _ eq => eq) s)
def execVcmplt (a : At) (v1 : Bool) (f : VForm) (s : State) : Out := .next (vCmp a v1 f (fun lt _ => lt) s)
def execVcmple (a : At) (v1 : Bool) (f : VForm) (s : State) : Out := .next (vCmp a v1 f (fun lt eq => lt || eq) s)

/-- VSEL: MASKED is ignored. -/
def execVsel (a : At) (v1 : Bool) (f : VForm) (s : State) : Out :=
  .next (vOp a v1 f (fun _ => true) [f.d, f.a, f.b] (fun n p t s =>
    .ok (putV n v1 2 f.d (buildLanes t.bits t.lanes (fun _ => true) fun i =>
      laneNat (if bit (p.rm f.m) i then p.rv f.a else p.rv f.b) t.bits i) s)) s)

def execVperm (a : At) (v1 : Bool) (f : VForm) (s : State) : Out :=
  .next (vLanes a v1 f (fun _ => true) 2 (fun _ t x y i => laneNat x t.bits (laneNat y t.bits i % t.lanes)) s)

def execVbcast (a : At) (v1 : Bool) (f : VForm) (s : State) : Out :=
  .next (vOp a v1 f (fun _ => true) [f.d] (fun n p t s =>
    .ok (putV n v1 2 f.d (buildLanes t.bits t.lanes (laneOn f (p.rm f.m)) fun _ => (p.rg f.a).toNat % 2 ^ t.bits) s)) s)

/-! ### Accumulators (R93, R99, R110 to R112) -/

/-- The types that VMAC accepts. -/
def macType (t : LaneType) : Bool := t == .i8 || t == .u8 || t == .i16

/-- The products that accumulator lane i receives. -/
def macLane (f : VForm) (m : BitVec 128) (t : LaneType) (x y : BitVec 1024) (i : Nat) : Int :=
  let prod (j : Nat) : Int := if laneOn f m j then laneInt t x j * laneInt t y j else 0
  if t.bits = 8 then prod (2 * i) + prod (2 * i + 1) else prod i

/-- The accumulator that a field names. -/
def accNo (r : Fin 32) : Fin 4 := Fin.ofNat 4 r

/-- A result into acc(d[1:0]), which chains, with its overflow flag. -/
def putAcc (n : Nat) (v1 : Bool) (k : Fin 4) (x : BitVec 2560 × Bool) (s : State) : State :=
  setAccOvf n x.2 (pushChain n (vSlot v1) 3 3 (.acc k x.1) s)

def vMacOp (a : At) (v1 : Bool) (f : VForm) (sign : Int) (s : State) : State :=
  vOp a v1 f macType [f.a, f.b] (fun n p t s =>
    let m := p.rm f.m
    let x := p.rv f.a
    let y := p.rv f.b
    .ok (putAcc n v1 (accNo f.d) (accMap (p.chainAcc (accNo f.d)) fun i v => v + sign * macLane f m t x y i) s)) s

def execVmac (a : At) (v1 : Bool) (f : VForm) (s : State) : Out := .next (vMacOp a v1 f 1 s)
def execVmsu (a : At) (v1 : Bool) (f : VForm) (s : State) : Out := .next (vMacOp a v1 f (-1) s)

def execVacclr (a : At) (v1 : Bool) (f : VForm) (s : State) : Out :=
  .next (vOp a v1 f (fun _ => true) [] (fun n p _ s =>
    .ok (putAcc n v1 (accNo f.d) (accMap (p.chainAcc (accNo f.d)) fun i v => if laneOn f (p.rm f.m) i then 0 else v) s)) s)

/-- Shift right arithmetically and narrow to a type: the lane's bits, and whether it was clamped (R110). -/
def narrow (sat : Bool) (t : LaneType) (sh : Nat) (x : Int) : Nat × Bool :=
  let v := x / (2 ^ sh : Int)
  if sat then (laneBits t (clampInt t.lo t.hi v), decide (v < t.lo) || decide (t.hi < v)) else (laneBits t v, false)

/-- Narrowed lanes into vd, with MOV_SAT. `lanes` are the numbers of the lanes written. -/
def putNarrow (n : Nat) (v1 : Bool) (f : VForm) (p : ProcState) (t : LaneType) (lanes sh : Nat) (src : Nat → Int) (s : State) : State :=
  let on := laneOn f (p.rm f.m)
  let clamped := (List.range lanes).any fun i => on i && (narrow p.accSat t sh (src i)).2
  setMovSat n clamped (putV n v1 2 f.d (buildLanes t.bits lanes on fun i => (narrow p.accSat t sh (src i)).1) s)

def execVmova (a : At) (v1 : Bool) (f : VForm) (s : State) : Out :=
  .next (vOp a v1 f LaneType.isInt [f.d] (fun n p t s =>
    let k := accNo f.a
    let acc := p.racc k
    let base := if t = .i32 ∧ f.b.val % 2 = 1 then 32 else 0
    .ok (putNarrow n v1 f p t (if t = .i32 then 32 else 64) (fld p.accsh (8 * k.val + 4) (8 * k.val)) (fun i => accLane acc (base + i)) s)) s)

/-- VNARROW: the lower half from va, the upper from vb, as signed lanes of twice the width (R111). -/
def execVnarrow (a : At) (v1 : Bool) (f : VForm) (s : State) : Out :=
  .next (vOp a v1 f LaneType.isInt [f.d, f.a, f.b] (fun n p t s =>
    let half := t.lanes / 2
    let src (i : Nat) : Int :=
      ((if i < half then p.rv f.a else p.rv f.b).extractLsb' (2 * t.bits * (i % half)) (2 * t.bits)).toInt
    .ok (putNarrow n v1 f p t t.lanes p.mvsh.toNat src s)) s)

/-- VWIDEN: lanes of half the width, of the type's signedness. TYPEs other than INT16, UINT16 and INT32 raise ILLEGAL_OP (R87 does not say
which it takes: DESIGN CHOICE, in the log). -/
def execVwiden (a : At) (v1 : Bool) (f : VForm) (s : State) : Out :=
  .next (vOp a v1 f (fun t => t == .i16 || t == .u16 || t == .i32) [f.d, f.a] (fun n p t s =>
    let src (i : Nat) : Int :=
      let x := (p.rv f.a).extractLsb' (t.bits / 2 * (i + (if f.b.val % 2 = 1 then t.lanes else 0))) (t.bits / 2)
      if t.signed then x.toInt else x.toNat
    .ok (putV n v1 2 f.d (buildLanes t.bits t.lanes (laneOn f (p.rm f.m)) fun i => laneBits t (src i)) s)) s)

/-! ### Floating point and conversion -/

def execVfadd (a : At) (v1 : Bool) (f : VForm) (s : State) : Out :=
  .next (vLanes a v1 f LaneType.isFp 3 (fun _ t x y i => pvAdd t.fmt (laneNat x t.bits i) (laneNat y t.bits i)) s)

def execVfmul (a : At) (v1 : Bool) (f : VForm) (s : State) : Out :=
  .next (vLanes a v1 f LaneType.isFp 3 (fun _ t x y i => pvMul t.fmt (laneNat x t.bits i) (laneNat y t.bits i)) s)

def execVfma (a : At) (v1 : Bool) (f : VForm) (s : State) : Out :=
  .next (vLanes a v1 f LaneType.isFp 3
    (fun p t x y i => pvFma t.fmt (laneNat (p.rv f.d) t.bits i) (laneNat x t.bits i) (laneNat y t.bits i)) s)

/-- One element of VCVT: its bits, and whether MOV_SAT is set (R242). An integer outside a narrower integer type is open. -/
def cvtLane (src dst : LaneType) (x : BitVec 1024) (i : Nat) : Nat × Bool :=
  let u := laneNat x src.bits i
  if src.isInt then
    let v := laneInt src x i
    if dst.isInt then
      (if dst.lo ≤ v ∧ v ≤ dst.hi then laneBits dst v else Config.laneOpen 3 u dst.bits, false)
    else (dst.fmt.encode .down true false (Q.ofInt v), false)
  else
    let v := src.fmt.decode true u
    if dst.isInt then
      let (k, sat) := v.toRange dst.lo dst.hi
      (laneBits dst k, sat)
    else (dst.fmt.result .down true [u] v, false)

/-- VCVT converts the elements that both types have lanes for; other lanes of vd keep their value. -/
def execVcvt (a : At) (v1 : Bool) (f : VForm) (s : State) : Out :=
  .next (vOp a v1 f (fun _ => true) [f.d, f.a] (fun n p t s =>
    let src := LaneType.of (BitVec.ofNat 3 f.b)
    let lanes := min src.lanes t.lanes
    let on := laneOn f (p.rm f.m)
    let sat := (List.range lanes).any fun i => on i && (cvtLane src t (p.rv f.a) i).2
    .ok (setMovSat n sat (putV n v1 3 f.d (buildLanes t.bits lanes on fun i => (cvtLane src t (p.rv f.a) i).1) s))) s)

/-- VRED sums INT32 lanes into g(d). -/
def execVred (a : At) (v1 : Bool) (f : VForm) (s : State) : Out :=
  .next (vOp a v1 f (· == .i32) [f.a] (fun n p t s =>
    let sum := (List.range 32).foldl (fun (acc : Int) i =>
      if laneOn f (p.rm f.m) i then acc + laneInt t (p.rv f.a) i else acc) 0
    .ok (pushRes n (vSlot v1) 4 (.g f.d (BitVec.ofInt 32 sum)) s)) s)

end Sys2Proof.Machine
end

