-- ==== Sys2Proof/Machine/Quant.lean ====
section
/-! DEFINITION. The quantiser and the training operations of V0 and V1 (R234 to R262): scale records, codebooks, ranges, scales,
codes and moments. -/

namespace Sys2Proof.Machine

/-! ### Records, control words and codebooks (R234, R237, R244, R246) -/

/-- A scale that a record may hold: positive, finite, normal bfloat16 (R237). -/
def validScale (n : Nat) : Bool := decide (0x0080 ≤ n) && decide (n < 0x7F80)

/-- The scale that a record means; one that holds any other value is used as 1.0. -/
def scaleOf (n : Nat) : Q :=
  if validScale n then
    match bf16.decode false n with
    | .fin _ q => q
    | _ => ⟨1, 1⟩
  else ⟨1, 1⟩

def recScale (r : Word) : Q := scaleOf (fld r 31 16)
def recZp (r : Word) : Int := (r.extractLsb' 8 8).toInt
def recFmt (r : Word) : Nat := fld r 7 6
def recConst (r : Word) : Bool := bit r 5

/-- Crema slots in use: values 9 to 15 act as 8. -/
def recCnt (r : Word) : Nat := min (fld r 3 0) 8

/-- A record of v12, and a slot of v13. -/
def vWord (v : BitVec 1024) (i : Nat) : Word := BitVec.ofNat 32 (laneNat v 32 i)

/-- Put a 32-bit lane. -/
def setLane (v : BitVec 1024) (i : Nat) (w : Word) : BitVec 1024 := mix (laneMask 1024 32 i) v (putLane 1024 32 i w.toNat)

/-- The fields of a control word (R246). -/
def cwSb (c : Word) : Nat := fld c 3 0
def cwFmt (c : Word) : Nat := fld c 7 6
def cwPos (c : Word) : Nat := fld c 14 12
def cwOff (c : Word) : Nat := fld c 31 16

/-- The group length of a control word; `none` per channel. -/
def cwGroup (c : Word) : Option Nat := if fld c 5 4 = 0 then none else some (16 * 2 ^ fld c 5 4)

/-- Slot and offset of lane i (R247). -/
def laneSlot (c : Word) (i : Nat) : Nat := match cwGroup c with
  | some g => cwSb c + (cwOff c + i) / g
  | none => cwSb c
def laneOff (c : Word) (i : Nat) : Nat := match cwGroup c with
  | some g => (cwOff c + i) % g
  | none => cwOff c + i

/-- The largest uniform code. -/
def qMax (fmt : Nat) : Int := if fmt = 1 then 7 else 127

/-- Bits of a code, and the escape code (R234). -/
def codeBits (fmt : Nat) : Nat := if fmt = 0 ∨ fmt = 3 then 8 else 4
def escapeCode (fmt : Nat) : Nat := match fmt with
  | 0 => 0x80
  | 1 => 0x8
  | 2 => 15
  | _ => 255

/-- Entry i of the PVU codebook as a grid entry and as a value entry (R244). -/
def gridEntry (p : ProcState) (i : Nat) : Int := ((p.rv (Fin.ofNat 32 (8 + i / 128))).extractLsb' (8 * (i % 128)) 8).toInt
def valueEntry (p : ProcState) (i : Nat) : Num := bf16.decode false (laneNat (p.rv (Fin.ofNat 32 (8 + i / 64))) 16 (i % 64))

def cbEntry (p : ProcState) (value : Bool) (i : Nat) : Num :=
  if value then valueEntry p i else .fin (decide (gridEntry p i < 0)) (Q.ofInt (gridEntry p i))

/-- The lowest index of the entries that minimises |u − e| (R245); open where no entry is a number. -/
def nearest (es : List Num) (u : Q) : Nat :=
  let best := es.zipIdx.foldl (fun (acc : Option (Nat × Q)) e => match e.1 with
    | .fin _ q =>
      let d := (u.sub q).abs
      match acc with
      | some (_, d') => if d.lt d' then some (e.2, d) else acc
      | none => some (e.2, d)
    | _ => acc) none
  match best with
  | some (k, _) => k
  | none => Config.laneOpen 5 es.length 0 % es.length

/-- The usable entries of a codebook format. -/
def codebook (p : ProcState) (fmt : Nat) (value : Bool) : List Num :=
  (List.range (if fmt = 2 then 15 else 255)).map (cbEntry p value)

/-- The registers that hold codebooks, records and cremas (R248). VQUANT, VDEQ, VMOMENT and VCBFIT count as touching all
of them, a form that need not read one too (R116 does not say: DESIGN CHOICE, in the log). -/
def quantRegs : List (Fin 32) := [8, 9, 10, 11, 12, 13]

/-- A source lane as a number, subnormals kept. -/
def laneNum (t : LaneType) (x : BitVec 1024) (i : Nat) : Num :=
  if t.isInt then .fin (decide (laneInt t x i < 0)) (Q.ofInt (laneInt t x i)) else t.fmt.decode false (laneNat x t.bits i)

/-- The performed lanes. -/
def onLanes (f : VForm) (p : ProcState) (n : Nat) : List Nat := (List.range n).filter (laneOn f (p.rm f.m))

/-- A value through FP32. -/
def toF32 (mode : Mode) (x : Num) : Nat := fp32.result mode false [] x

/-! ### Chained vector results (R249) -/

/-- A chained update of lanes of a vector register. Lanes of updates in the same chain that land with it go with it, so that
the whole-register rule of R98 keeps them. -/
def pushChainV (n slot lat chain : Nat) (d : Fin 32) (v mask : BitVec 1024) (s : State) : State :=
  let p := getProc s n
  let mask := p.inflight.foldl (fun m e => match e.land with
    | .v d' _ m' => if d' = d ∧ e.chain = chain ∧ e.due = p.bundle + lat then m ||| m' else m
    | _ => m) mask
  pushChain n slot lat chain (.v d v mask) s

/-! ### VRANGE (R250) -/

/-- An element's contribution to the minimum and to the maximum of its slot, as FP32; a NaN has none. -/
def rangeParts (x : Num) : Option (Nat × Nat) :=
  match x with
  | .nan => none
  | .inf neg => let b := fp32.infBits neg - 1; some (b, b)
  | x => some (toF32 .down x, toF32 .up x)

/-- The least or the greatest of `a` and further FP32 numbers. With a NaN among them it is open; where it is a zero and zeros of
both signs are among them, the sign is open. -/
def f32Extreme (greater : Bool) (a : Nat) (xs : List Nat) : Nat :=
  let num := fp32.decode false
  let best := xs.foldl (fun m x => if (if greater then (num m).lt (num x) else (num x).lt (num m)) then x else m) a
  if (a :: xs).any fun x => (num x).isNan then (Config.fpOpen 32 (a :: xs)).toNat
  else if (num best).isZero && (a :: xs).any fun x => (num x).isZero && x != best then
    2 ^ 31 * (Config.fpOpen 1 (a :: xs)).toNat
  else best

/-- The range of one slot after its elements. -/
def rangeSlot (start : Nat × Nat) (xs : List Num) : Nat × Nat :=
  let ps := xs.filterMap rangeParts
  (f32Extreme false start.1 (ps.map (·.1)), f32Extreme true start.2 (ps.map (·.2)))

def execVrange (a : At) (v1 : Bool) (f : VForm) (s : State) : Out :=
  .next (vOp a v1 f (fun _ => true) [f.d, f.a] (fun n p t s =>
    let c := p.rg f.b
    let on := onLanes f p t.lanes
    if on.any fun i => decide (15 < laneSlot c i) then .error eShape
    else
      let d := physV p.rrb f.d
      let old := p.chainV 1 d
      let x := p.rv f.a
      let r := (List.range 16).foldl (fun (acc : BitVec 1024 × BitVec 1024) k =>
        let mine := on.filter fun i => laneSlot c i == k
        if mine.isEmpty then acc
        else
          let start := if bit c 8 then (fp32.infBits false, fp32.infBits true) else (laneNat old 32 (2 * k), laneNat old 32 (2 * k + 1))
          let (lo, hi) := rangeSlot start (mine.map (laneNum t x))
          (setLane (setLane acc.1 (2 * k) (BitVec.ofNat 32 lo)) (2 * k + 1) (BitVec.ofNat 32 hi),
            acc.2 ||| laneMask 1024 64 k)) (old, 0)
      .ok (pushChainV n (vSlot v1) 4 1 d r.1 r.2 s)) s)

/-! ### VSCALE (R251, R252) -/

/-- Rounded toward plus infinity to bfloat16, and no more than its largest finite value. -/
def scaleUp (q : Q) : Nat := min (bf16.encode .up false false q) 0x7F7F

/-- A record's word. -/
def recordWord (sc : Nat) (zp : Int) (fmt : Nat) (const : Bool) : Word :=
  at_ 16 sc ||| at_ 8 (zp % 256).toNat ||| at_ 6 fmt ||| flag 5 const

/-- A scale that R251 and R252 do not state: open, among those that a record may hold. -/
def openScale (lo hi c : Nat) : Nat :=
  let sc := (Config.fpOpen 16 [lo, hi, c]).toNat
  if validScale sc then sc else 0x3F80

/-- The record of a range that R251 does not state: scale and zero point are open. -/
def openRecord (fmt lo hi c : Nat) (zeroZp : Bool) : Word :=
  recordWord (openScale lo hi c) (if zeroZp then 0 else (Config.fpOpen 8 [lo, hi, c]).toNat) fmt false

/-- The record of a range from a to b (a ≤ 0 ≤ b) that is not constant. -/
def scaleRecord (fmt : Nat) (sym value : Bool) (a b : Q) : Word :=
  let qm := qMax fmt
  let wide := a.neg.max b
  let (sc, zp) : Nat × Int :=
    if value then (scaleUp wide, 0)
    else if sym then (scaleUp (wide.div (Q.ofInt qm)), 0)
    else
      let sc := scaleUp ((b.sub a).div (Q.ofInt (2 * qm)))
      match bf16.decode false sc with
      | .fin _ sq => (sc, clampInt (-qm) qm ((Q.ofInt (-qm)).sub (a.div sq)).round)
      | _ => (sc, 0)
  recordWord (max sc 0x0080) zp fmt false

/-- The record of one slot from its range in FP32. -/
def slotRecord (c : Word) (lo hi : Nat) : Word :=
  let fmt := cwFmt c
  let value := decide (2 ≤ fmt) && bit c 11
  let sym := bit c 9
  let a := fp32.decode false lo
  let b := fp32.decode false hi
  let clip := bf16.decode false (cwOff c % 0x8000)
  if lo = fp32.infBits false ∧ hi = fp32.infBits true then recordWord 0x3F80 0 fmt true
  else match a, b with
    | .fin _ x, .fin _ y =>
      if x.eq y then
        if x.num = 0 then recordWord 0x3F80 0 fmt true
        else recordWord (max (scaleUp (if value then x.abs else x.abs.div (Q.ofInt (qMax fmt)))) 0x0080) 0 fmt true
      else if y.lt x then openRecord fmt lo hi c.toNat (value || sym)
      else
        let zero : Q := ⟨0, 1⟩
        match clip with
        | .nan => openRecord fmt lo hi c.toNat (value || sym)
        | .inf _ => scaleRecord fmt sym value (x.min zero) (y.max zero)
        | .fin _ k =>
          if k.num = 0 then scaleRecord fmt sym value (x.min zero) (y.max zero)
          else scaleRecord fmt sym value ((x.max k.neg).min zero) ((y.min k).max zero)
    | a, b =>
      -- constant at an infinity: its scale alone is open (R252)
      if lo = hi ∧ a.isNan = false then recordWord (openScale lo hi c.toNat) 0 fmt true
      -- an infinite end that the clip cuts
      else match clip with
      | .fin _ k =>
        if k.num ≠ 0 ∧ a.lt b = true ∧ a.isNan = false ∧ b.isNan = false then
          let zero : Q := ⟨0, 1⟩
          let cut (x : Num) : Q := match x with
            | .fin _ q => q
            | .inf neg => if neg then k.neg else k
            | .nan => zero
          scaleRecord fmt sym value (((cut a).max k.neg).min zero) (((cut b).min k).max zero)
        else openRecord fmt lo hi c.toNat (value || sym)
      | _ => openRecord fmt lo hi c.toNat (value || sym)

def execVscale (a : At) (v1 : Bool) (f : VForm) (s : State) : Out :=
  .next (vOp a v1 f (· == .f32) [f.d, f.a] (fun n p _ s =>
    let c := p.rg f.b
    let x := p.rv f.a
    .ok (putV n v1 4 f.d (buildLanes 32 16 (laneOn f (p.rm f.m)) fun k =>
      (slotRecord c (laneNat x 32 (2 * k)) (laneNat x 32 (2 * k + 1))).toNat) s)) s)

/-! ### Codes (R253 to R255) -/

/-- What an element becomes. -/
inductive Coded where
  | code (q : Int)              -- within its range
  | beyond (low : Bool)         -- beyond it, below or above
  | zero (q : Int)              -- a NaN, coded as the real value 0
  deriving DecidableEq, Repr

/-- x / s of a finite value, or its infinity. -/
def overScale (x : Num) (s : Q) : Num := match x with
  | .fin n q => .fin n (q.div s)
  | x => x

/-- The code of an element in a uniform format (R253 to R255). -/
def codeUniform (r : Word) (fmt : Nat) (x : Num) : Coded :=
  let m := qMax fmt
  match x with
  | .nan => .zero (recZp r)
  | .inf neg => if recConst r then .code (if neg then -m else m) else .beyond neg
  | .fin _ q =>
    if recConst r then .code (if q.num = 0 then 0 else if q.num < 0 then -m else m)
    else
      let k := (q.div (recScale r)).round + recZp r
      if k < -m then .beyond true else if m < k then .beyond false else .code k

/-- An entry moved by half a unit, for the grid's beyond test. -/
def widen (x : Num) (by_ : Q) : Num := match x with
  | .fin n q => .fin n (q.add by_)
  | x => x

/-- The code of an element in a codebook format. `es` are the usable entries. -/
def codeBook (r : Word) (es : List Num) (value : Bool) (x : Num) : Coded :=
  let z : Q := if value then ⟨0, 1⟩ else Q.ofInt (recZp r)
  let half : Q := if value then ⟨0, 1⟩ else ⟨1, 2⟩
  match x with
  | .nan => .zero (nearest es z)
  | .inf neg => .beyond neg
  | .fin n q =>
    let u := (q.div (recScale r)).add z
    let below := Num.lt (.fin n u) (widen (es.headD .nan) half.neg)
    let above := Num.lt (widen (es.getLastD .nan) half) (.fin n u)
    if below then .beyond true else if above then .beyond false else .code (nearest es u)

/-- What VQUANT has built so far. -/
structure QuantRun where
  recs : BitVec 1024
  recMask : BitVec 1024
  crema : BitVec 1024
  cremaMask : BitVec 1024
  out : BitVec 1024
  outMask : BitVec 1024
  sat : Nat

/-- Put the code of lane i in its place. -/
def QuantRun.put (q : QuantRun) (bits i code : Nat) : QuantRun :=
  { q with out := q.out ||| putLane 1024 bits i code, outMask := q.outMask ||| laneMask 1024 bits i }

/-- Change the record of a slot. -/
def QuantRun.record (q : QuantRun) (k : Nat) (w : Word) : QuantRun :=
  { q with recs := setLane q.recs k w, recMask := q.recMask ||| laneMask 1024 32 k }

/-- One element of VQUANT. `base` is the window's first code. -/
def quantStep (c : Word) (fmt base : Nat) (value : Bool) (es : List Num) (q : QuantRun) (i : Nat) (x : Num) : QuantRun :=
  let k := laneSlot c i
  let off := laneOff c i
  let r := vWord q.recs k
  let bits := codeBits fmt
  let place (q : QuantRun) (code : Int) : QuantRun := q.put bits (base + i) (code % (2 ^ bits : Int)).toNat
  match (if 2 ≤ fmt then codeBook r es value x else codeUniform r fmt x) with
  | .code v => place q v
  | .zero v => { place q v with sat := q.sat + 1 }
  | .beyond low =>
    if bit c 10 && decide (fld r 3 0 < 8) && decide (off < 0x10000) then
      let cnt := fld r 3 0
      let lane := 8 * (k % 4) + cnt
      let q := place q (escapeCode fmt)
      let q := q.record k (mix 0xF r (at_ 0 (cnt + 1)))
      { q with
        crema := setLane q.crema lane (at_ 16 (bf16.result .nearest false [] x) ||| at_ 0 off)
        cremaMask := q.cremaMask ||| laneMask 1024 32 lane }
    else
      let limit : Int := if 2 ≤ fmt then (if low then 0 else es.length - 1) else if low then -qMax fmt else qMax fmt
      let q := { place q limit with sat := q.sat + 1 }
      if bit c 10 then q.record k (r ||| 0x10) else q

/-- Two touched slots share a lane group of v13. -/
def slotsClash (ks : List Nat) : Bool := ks.any fun x => ks.any fun y => x != y && x % 4 == y % 4

/-- The window of POS does not reach past the vector (R253). -/
def windowFits (bits pos n : Nat) : Bool := decide (bits * (pos * n + n) ≤ 1024)

/-- The shape of a coded operation: slots within 15, one format, the window within the vector. -/
def shapeOk (c : Word) (recs : BitVec 1024) (lanes : List Nat) (n : Nat) : Bool :=
  let fmt := recFmt (vWord recs (cwSb c))
  (lanes.all fun i => decide (laneSlot c i ≤ 15) && recFmt (vWord recs (laneSlot c i)) == fmt)
    && windowFits (codeBits fmt) (cwPos c) n

/-- The types that VQUANT accepts. -/
def quantType (t : LaneType) : Bool := t != .i8 && t != .u8

def execVquant (a : At) (v1 : Bool) (f : VForm) (s : State) : Out :=
  .next (vOp a v1 f quantType (f.d :: f.a :: quantRegs) (fun n p t s =>
    let c := p.rg f.b
    let on := onLanes f p t.lanes
    let recs := p.chainV 2 12
    let crema := p.chainV 2 13
    let fmt := recFmt (vWord recs (cwSb c))
    let value := decide (2 ≤ fmt) && bit c 11
    if !shapeOk c recs on t.lanes || (bit c 10 && slotsClash (on.map (laneSlot c))) then .error eShape
    else
      let es := if 2 ≤ fmt then codebook p fmt value else []
      let x := p.rv f.a
      let q := on.foldl (fun q i => quantStep c fmt (cwPos c * t.lanes) value es q i (laneNum t x i))
        { recs := recs, recMask := 0, crema := crema, cremaMask := 0, out := 0, outMask := 0, sat := 0 }
      let s := putV n v1 4 f.d (q.out, q.outMask) s
      let s := if q.recMask = 0 then s else pushChainV n (vSlot v1) 4 2 12 q.recs q.recMask s
      let s := if q.cremaMask = 0 then s else pushChainV n (vSlot v1) 4 2 13 q.crema q.cremaMask s
      .ok (countSatEvents n q.sat s)) s)

/-! ### VDEQ (R256) -/

/-- The value of a code taken plainly (R234, R236). -/
def plainValue (p : ProcState) (r : Word) (value : Bool) (code : Nat) : Num :=
  let fmt := recFmt r
  if 2 ≤ fmt then
    if value then
      match valueEntry p code with
      | .fin n q => .fin n (q.mul (recScale r))
      | e => e
    else let v := (Q.ofInt (gridEntry p code - recZp r)).mul (recScale r); .fin (decide (v.num < 0)) v
  else
    let v := (Q.ofInt ((BitVec.ofNat (codeBits fmt) code).toInt - recZp r)).mul (recScale r)
    .fin (decide (v.num < 0)) v

/-- The crema value of an escaped element, if its list has its offset. -/
def cremaFind (crema : BitVec 1024) (r : Word) (k off : Nat) : Option Num :=
  match (List.range (recCnt r)).find? fun j => fld (vWord crema (8 * (k % 4) + j)) 15 0 == off with
  | some j => some (bf16.decode false (fld (vWord crema (8 * (k % 4) + j)) 31 16))
  | none => none

/-- One element of VDEQ: its value, and whether an escape had no crema slot. -/
def deqValue (p : ProcState) (c : Word) (value : Bool) (base : Nat) (x : BitVec 1024) (i : Nat) : Num × Bool :=
  let k := laneSlot c i
  let r := vWord (p.rv 12) k
  let code := laneNat x (codeBits (recFmt r)) (base + i)
  if code = escapeCode (recFmt r) then
    match cremaFind (p.rv 13) r k (laneOff c i) with
    | some v => (v, false)
    | none => (plainValue p r value code, true)
  else (plainValue p r value code, false)

/-- A value rounded half to even to an output type: its bits, and whether an INT16 saturated. -/
def deqRound (t : LaneType) (v : Num) : Nat × Bool :=
  if t.isInt then
    match v with
    | .nan => (Config.laneOpen 6 0 0, false)
    | .inf neg => (laneBits t (if neg then t.lo else t.hi), true)
    | .fin _ q => (laneBits t (clampInt t.lo t.hi q.round), decide (q.round < t.lo) || decide (t.hi < q.round))
  else (t.fmt.result .nearest false [] v, false)

def execVdeq (a : At) (v1 : Bool) (f : VForm) (s : State) : Out :=
  .next (vOp a v1 f (fun t => t == .i16 || t.isFp) (f.d :: f.a :: quantRegs) (fun n p t s =>
    let c := p.rg f.b
    let on := onLanes f p t.lanes
    let fmt := recFmt (vWord (p.rv 12) (cwSb c))
    let value := decide (2 ≤ fmt) && bit c 11
    if !shapeOk c (p.rv 12) on t.lanes then .error eShape
    else
      let el (i : Nat) : Num × Bool := deqValue p c value (cwPos c * t.lanes) (p.rv f.a) i
      let sat := on.foldl (fun k i =>
        let e := el i
        k + (if e.2 || (deqRound t e.1).2 then 1 else 0)) 0
      let s := putV n v1 4 f.d (buildLanes t.bits t.lanes (laneOn f (p.rm f.m)) fun i => (deqRound t (el i).1).1) s
      .ok (countSatEvents n sat s)) s)

/-! ### The training operations (R259 to R263) -/

/-- A training operation: absent on a variant without TRAIN (R95, R263). -/
def trainOp (a : At) (v1 : Bool) (f : VForm) (accepts : LaneType → Bool) (touch : List (Fin 32))
    (body : Nat → ProcState → LaneType → State → Except Byte State) (s : State) : State :=
  vOp a v1 f (fun _ => true) touch (fun n p t s =>
    if !trainPresent s then .error fNoTrain else if accepts t then body n p t s else .error fIllegalOp) s

/-- Codes of performed lanes placed at the byte window of POS. -/
def placeBytes (base : Nat) (codes : List (Nat × Nat)) : BitVec 1024 × BitVec 1024 :=
  codes.foldl (fun acc e => (acc.1 ||| putLane 1024 8 (base + e.1) e.2, acc.2 ||| laneMask 1024 8 (base + e.1))) (0, 0)

/-- The code of a gradient, and whether it saturated (R259). -/
def gradCode (r : Word) (x : Num) : Int × Bool :=
  match codeUniform (r &&& ~~~0xFF00) 0 x with
  | .code v => (v, false)
  | .beyond low => (if low then -127 else 127, true)
  | .zero v => (v, true)

def execVgquant (a : At) (v1 : Bool) (f : VForm) (s : State) : Out :=
  .next (trainOp a v1 f (fun t => t == .i32 || t == .bf16 || t == .f32) [f.d, f.a, 12] (fun n p t s =>
    let c := p.rg f.b
    let r := vWord (p.rv 12) (cwSb c)
    let x := p.rv f.a
    if !windowFits 8 (cwPos c) t.lanes then .error eShape
    else
      let codes := (onLanes f p t.lanes).map fun i => (i, gradCode r (laneNum t x i))
      let s := putV n v1 4 f.d (placeBytes (cwPos c * t.lanes) (codes.map fun e => (e.1, (e.2.1 % 256).toNat))) s
      .ok (countSatEvents n (codes.filter (·.2.2)).length s)) s)

/-- A step of R260: rounded half to even to FP32. -/
def f32Step (x : Num) : Num := fp32.decode false (toF32 .nearest x)

/-- The new index of a moment, and whether it counts a saturation (R260). -/
def momentIndex (es : List Num) (old beta g : Num) (s : Q) (second : Bool) : Nat × Bool :=
  let sn : Num := .fin false s
  let rest : Num := match beta with
    | .fin _ b => let q := (Q.ofInt 1).sub b; .fin (decide (q.num < 0)) q
    | .inf n => .inf (!n)
    | .nan => .nan
  let mOld := f32Step (old.mul sn)
  let t1 := f32Step (beta.mul mOld)
  let t2 := f32Step (rest.mul (if second then g.mul g else g))
  match codeBook 0x3F800000 es true (overScale (f32Step (t1.add .nearest t2)) s) with
  | .code k => (k.toNat, false)
  | .beyond low => (if low then 0 else 254, true)
  | .zero k => (k.toNat, true)

def execVmoment (a : At) (v1 : Bool) (f : VForm) (s : State) : Out :=
  .next (trainOp a v1 f (fun t => t == .bf16 || t == .f32) (f.d :: f.a :: quantRegs) (fun n p t s =>
    let c := p.rg f.b
    let r := vWord (p.rv 12) (cwSb c)
    let x := p.rv f.a
    let base := cwPos c * t.lanes
    if recFmt r ≠ 3 ∨ windowFits 8 (cwPos c) t.lanes = false then .error eShape
    else
      let es := codebook p 3 true
      let beta := bf16.decode false (cwOff c)
      let codes := (onLanes f p t.lanes).map fun i =>
        let idx := laneNat (p.rv f.d) 8 (base + i)
        (i, momentIndex es (if idx = 255 then .fin false ⟨0, 1⟩ else valueEntry p idx) beta (laneNum t x i) (recScale r) (bit c 8))
      let s := putV n v1 4 f.d (placeBytes base (codes.map fun e => (e.1, e.2.1))) s
      .ok (countSatEvents n (codes.filter (·.2.2)).length s)) s)

/-- An element's entry, and what it adds to that entry's accumulator lane (R261). -/
def fitPart (es : List Num) (sum : Bool) (u : Num) : Nat × Int :=
  match u with
  | .fin _ q => (nearest es q, if sum then (q.mul (Q.ofInt 65536)).round else 1)
  | .inf neg => (if neg then 0 else 254, if sum then (Config.laneOpen 7 (if neg then 1 else 0) 0 : Nat) else 1)
  | .nan => (nearest es ⟨0, 1⟩, if sum then 0 else 1)

/-- The parts that fall on lane j of accumulator k, summed in order; each addition wraps and flags alike. -/
def fitAcc (parts : List (Nat × Int)) (k : Nat) (acc : BitVec 2560) : BitVec 2560 × Bool :=
  parts.foldl (fun (x : BitVec 2560 × Bool) e =>
    if e.1 / 64 = k then
      let (v, o) := wrapSigned 40 (accLane x.1 (e.1 % 64) + e.2)
      (mix (laneMask 2560 40 (e.1 % 64)) x.1 (putLane 2560 40 (e.1 % 64) v.toNat), x.2 || o)
    else x) (acc, false)

def execVcbfit (a : At) (v1 : Bool) (f : VForm) (s : State) : Out :=
  .next (trainOp a v1 f (fun t => t == .bf16 || t == .f32) (f.a :: quantRegs) (fun n p t s =>
    let c := p.rg f.b
    let sc := recScale (vWord (p.rv 12) (cwSb c))
    let x := p.rv f.a
    let es := codebook p 3 true
    let parts := (onLanes f p t.lanes).map fun i => fitPart es (bit c 8) (overScale (laneNum t x i) sc)
    .ok ((List.range 4).foldl (fun s k =>
      if parts.any fun e => e.1 / 64 == k then
        let r := fitAcc parts k (p.chainFit (Fin.ofNat 4 k))
        setAccOvf n r.2 (pushChain n (vSlot v1) 4 4 (.acc (Fin.ofNat 4 k) r.1) s)
      else s) s)) s)

/-- A master weight after its update, and whether it was clamped (R262). -/
def masterStep (w : Int) (d : Num) : Int × Bool :=
  match d with
  | .fin _ q => let v := w + q.round; (clampInt (-32767) 32767 v, decide (v < -32767) || decide (32767 < v))
  | .inf neg => (if neg then -32767 else 32767, true)
  | .nan => (clampInt (-32767) 32767 w, true)

def execVmwupd (a : At) (v1 : Bool) (f : VForm) (s : State) : Out :=
  .next (trainOp a v1 f (· == .bf16) [f.d, f.a, 12] (fun n p t s =>
    let c := p.rg f.b
    let sc := recScale (vWord (p.rv 12) (cwSb c))
    let x := p.rv f.a
    let d := p.rv f.d
    let el (i : Nat) : Int × Bool := masterStep (laneInt .i16 d i) (overScale (laneNum t x i) sc)
    let s := putV n v1 3 f.d (buildLanes 16 64 (laneOn f (p.rm f.m)) fun i => ((el i).1 % 65536).toNat) s
    .ok (countSatEvents n ((onLanes f p 64).filter fun i => (el i).2).length s)) s)

end Sys2Proof.Machine
end

