-- ==== Sys2Proof/Machine/Array.lean ====
section
/-! DEFINITION. Slot X and the neural array (R96, R166 to R208, R233): the checks of NAQ, the array queue and its hazards,
weights, waves, the output stage and argmax. -/

namespace Sys2Proof.Machine

/-! ### Fields of a command (R172, R179, R182, R184, R196, R199, R206) -/

/-- Word i of a command. -/
def cw (ws : List Word) (i : Nat) : Word := ws.getD i 0

/-- Bits [hi:lo] of word i. -/
def cf (ws : List Word) (i hi lo : Nat) : Nat := fld (cw ws i) hi lo

def opOf (ws : List Word) : Nat := cf ws 0 5 0
def opLoadw : Nat := 1
def opConv : Nat := 2
def opWino : Nat := 3
def opMatmul : Nat := 4
def opEpilog : Nat := 5
def opArgmax : Nat := 6
def opSync : Nat := 7
def opTrain : Nat := 8

/-- An array command, and a command that the output stage takes. -/
def isArrayOp (op : Nat) : Bool := op == opConv || op == opWino || op == opMatmul
def isOutOp (op : Nat) : Bool := op == opEpilog || op == opArgmax

def wMode (ws : List Word) : Nat := cf ws 0 18 17
def wQ0 (ws : List Word) : Nat := cf ws 0 20 19
def wAcc (ws : List Word) : Bool := bit (cw ws 0) 16

/-- The fields of WSPEC (R179). -/
def wsCmem (ws : List Word) : Bool := bit (cw ws 1) 31
def wsFmt (ws : List Word) : Nat := cf ws 1 19 18
def wsCb (ws : List Word) : Nat := cf ws 1 25 20
def wsT (ws : List Word) : Bool := bit (cw ws 1) 26

/-- Kernel, stride, dilation and padding of CONV and WINO, row then column. -/
def kH (ws : List Word) : Nat := cf ws 2 2 0 + 1
def kW (ws : List Word) : Nat := cf ws 2 5 3 + 1
def strH (ws : List Word) : Nat := cf ws 2 8 6 + 1
def strW (ws : List Word) : Nat := cf ws 2 11 9 + 1
def dilH (ws : List Word) : Nat := cf ws 2 14 12 + 1
def dilW (ws : List Word) : Nat := cf ws 2 17 15 + 1
def padT (ws : List Word) : Nat := cf ws 2 20 18
def padB (ws : List Word) : Nat := cf ws 2 23 21
def padL (ws : List Word) : Nat := cf ws 2 26 24
def padR (ws : List Word) : Nat := cf ws 2 29 27
def inRow (ws : List Word) : Nat := cf ws 3 14 0
def inW (ws : List Word) : Nat := cf ws 3 27 15 + 1
def inH (ws : List Word) : Nat := cf ws 4 15 0

/-- Planes of the input map: 16 × CPD. -/
def inPlanes (ws : List Word) : Nat := 16 * (if opOf ws = opMatmul then cf ws 4 8 0 else cf ws 4 24 16)
def inSegs (ws : List Word) : Nat := cdiv (inW ws) 128
def firstCh (ws : List Word) : Nat := 16 * cf ws 5 8 0

/-- Input channels of CONV and WINO; rows of a MATMUL's last tile. -/
def chans (ws : List Word) : Nat := cf ws 5 15 9 + 1
def outY0 (ws : List Word) : Nat := cf ws 5 31 16
def outX0 (ws : List Word) : Nat := cf ws 6 12 0
def passW (ws : List Word) : Nat := cf ws 6 21 13 + 1
def passH (ws : List Word) : Nat := cf ws 6 30 22 + 1
def accBase (ws : List Word) : Nat := if isOutOp (opOf ws) then cf ws 1 8 0 else cf ws 7 8 0
def padCode (ws : List Word) : Int := ((cw ws 7).extractLsb' 9 8).toInt
def expSb (ws : List Word) : Nat := cf ws 7 27 17

/-- Tiles of a MATMUL, and rows of its product. -/
def mmTiles (ws : List Word) : Nat := cf ws 5 19 16 + 1
def mmRows (ws : List Word) : Nat := cf ws 6 21 13 + 1

/-- The tiles that an array command uses (R183). -/
def tileCount (ws : List Word) : Nat :=
  if opOf ws = opConv then kH ws * kW ws else if opOf ws = opWino then 16 else mmTiles ws

/-- Rows between CMEM source tiles. -/
def wStep (ws : List Word) : Nat := if opOf ws = opConv then cf ws 7 31 17 else cf ws 2 14 0

/-- Pass width and height, and entries per pass row, of EPILOG and ARGMAX. -/
def oW (ws : List Word) : Nat := cf ws 2 28 20 + 1
def oH (ws : List Word) : Nat := cf ws 3 30 22 + 1
def oStr (ws : List Word) : Nat := cf ws 4 19 11 + 1
def oY0 (ws : List Word) : Nat := cf ws 7 12 0
def oX0 (ws : List Word) : Nat := cf ws 7 25 13
def oSegs (ws : List Word) : Nat := cf ws 7 31 26 + 1
def oType (ws : List Word) : Nat := cf ws 0 20 19

/-- The bytes of a type code (R204). -/
def typeBytes (t : Nat) : Nat := 2 ^ t
def oBytes (ws : List Word) : Nat := typeBytes (oType ws)

/-- The first channel and the channels of EPILOG. -/
def oCh0 (ws : List Word) : Nat := 16 * cf ws 1 16 9
def oChans (ws : List Word) : Nat := cf ws 1 23 17 + 1

/-- The written pixels: row and column in the pass, and ACCBUF entry. -/
def outPixels (ws : List Word) : List (Nat × Nat × Nat) :=
  (List.range (oH ws)).flatMap fun r => (List.range (oW ws)).map fun x => (r, x, accBase ws + r * oStr ws + x)

/-- The ACCBUF entries of a command (R175). -/
def accEntries (ws : List Word) : List Nat :=
  let op := opOf ws
  if op = opConv ∨ op = opWino then (List.range (passW ws * passH ws)).map (accBase ws + ·)
  else if op = opMatmul then (List.range (mmRows ws)).map (accBase ws + ·)
  else if isOutOp op then (outPixels ws).map (·.2.2)
  else []

/-! ### Tiles (R180, R183) -/

/-- Whether a format has 4-bit elements, and the bytes of a tile in SHM. -/
def fourBit (fmt : Nat) : Bool := fmt == 1 || fmt == 2
def tileSize (fmt : Nat) : Nat := if fourBit fmt then 8192 else 16384

/-- The address of tile t's element at input row k and output column n. -/
def tileAddr (core : Nat) (ws : List Word) (t k n : Nat) : Nat :=
  if wsCmem ws then
    winBase core + 128 * (cf ws 1 14 0 + t * wStep ws + (if wsT ws then n else k)) + (if wsT ws then k else n)
  else shmBase + 256 * cf ws 1 17 0 + t * tileSize (wsFmt ws) + (if fourBit (wsFmt ws) then 64 * k + n / 2 else 128 * k + n)

/-- A byte, and a word, of SBUF. -/
def sbufByte (s : State) (core i : Nat) : Byte := memByte s (winBase core + offSbuf + i)
def sbufWord (s : State) (core i : Nat) : Word := memWord s (winBase core + offSbuf + 4 * i)

/-- An element decoded to INT8 on its way into WBUF. -/
def tileByte (s : State) (core : Nat) (ws : List Word) (t k n : Nat) : Byte :=
  let b := viewByte s (some core) (tileAddr core ws t k n)
  let nib : BitVec 4 := b.extractLsb' (4 * (n % 2)) 4
  if wsCmem ws then b
  else match wsFmt ws with
    | 0 => b
    | 1 => nib.signExtend 8
    | 2 => sbufByte s core (0x1C00 + 16 * wsCb ws + nib.toNat)
    | _ => sbufByte s core (0x1C00 + 16 * wsCb ws + b.toNat)

/-- The bytes that a tile is read from. -/
def tileReads (core : Nat) (ws : List Word) (t : Nat) : List Nat :=
  (List.range 128).flatMap fun k => (List.range 128).map fun n => tileAddr core ws t k n

/-- The bytes that LOADW copies into SBUF. -/
def sbSource (core : Nat) (ws : List Word) : Nat :=
  if wsCmem ws then winBase core + 128 * cf ws 1 14 0 else shmBase + 256 * cf ws 1 17 0
def sbOff (ws : List Word) : Nat := cf ws 2 10 0
def sbLen (ws : List Word) : Nat := cf ws 2 22 11
def toSbuf (ws : List Word) : Bool := bit (cw ws 0) 16

/-- The tiles that a command fetches from WSPEC. -/
def fetchTiles (ws : List Word) : Nat :=
  let op := opOf ws
  if op = opLoadw then (if toSbuf ws then 0 else 1) else if isArrayOp op ∧ wMode ws = 0 then tileCount ws else 0

/-! ### The checks of NAQ (R171, R179 to R206) -/

/-- The training mode that a command will meet: the last TRAINMODE queued before it, else the present mode. -/
def trainAt (a : ArrayState) : Bool × Bool × Bool :=
  match (a.queue.filter fun c => opOf c.words == opTrain).getLast? with
  | some c => (bit (cw c.words 0) 16, bit (cw c.words 0) 17, bit (cw c.words 0) 18)
  | none => (a.ti, a.tw, a.flip)

def signed16 (w : Word) (lo : Nat) : Int := (w.extractLsb' lo 16).toInt

/-- FORMAT: an unknown OP, or a field value marked FORMAT. -/
def naqFormat (ws : List Word) : Bool :=
  let op := opOf ws
  op == 0 || decide (8 < op)
    || ((isArrayOp op || op == opLoadw) && wsCmem ws && wsFmt ws ≠ 0)
    || (op == opLoadw && toSbuf ws && wsFmt ws ≠ 0)
    || (isArrayOp op && wMode ws == 3)
    || (op == opEpilog && (cf ws 0 17 16 == 3 || oType ws == 3 || decide (4 < cf ws 0 23 21)
      || (cf ws 0 23 21 == 4 && oType ws ≠ 0) || decide (signed16 (cw ws 5) 16 < signed16 (cw ws 5) 0)))

/-- SHAPE: the checks of geometry, counts and ranges. -/
def naqShape (ws : List Word) (mode : Bool × Bool × Bool) : Bool :=
  let op := opOf ws
  let (ti, tw, flip) := mode
  let codebook := (isArrayOp op || op == opLoadw) && wsCmem ws == false && wsFmt ws == 3 && wsCb ws % 16 ≠ 0
  let tiles := isArrayOp op && ((wMode ws == 1 && decide (4 - wQ0 ws < tileCount ws)) || (wMode ws == 2 && decide (16 < tileCount ws)))
  let map := (op == opConv || op == opWino)
    && (kH ws == 8 || kW ws == 8 || inH ws == 0 || inPlanes ws == 0 || decide (inPlanes ws < firstCh ws + chans ws)
      || decide (512 < accBase ws + passW ws * passH ws) || decide (32768 < inRow ws + inH ws * inSegs ws * inPlanes ws) || ti)
  let wino := op == opWino
    && (kH ws ≠ 3 || kW ws ≠ 3 || strH ws ≠ 1 || strW ws ≠ 1 || dilH ws ≠ 1 || dilW ws ≠ 1 || outY0 ws % 2 ≠ 0 || outX0 ws % 2 ≠ 0
      || passW ws % 2 ≠ 0 || passH ws % 2 ≠ 0 || wsCmem ws || wMode ws == 1 || decide (0x700 < expSb ws + 128) || tw || flip)
  let matmul := op == opMatmul && decide (512 < accBase ws + mmRows ws)
  let load := op == opLoadw && toSbuf ws && (sbLen ws == 0 || decide (2048 < sbOff ws + sbLen ws))
  let out := isOutOp op && (accEntries ws).any (fun e => decide (512 ≤ e))
  let epi := op == opEpilog
    && (decide (0x700 < cf ws 3 10 0 + 4 * oChans ws)
      || (cf ws 0 23 21 == 4 && decide (0x700 < cf ws 4 10 0 + 64))
      || decide (16 * cf ws 6 23 15 < (oCh0 ws + oChans ws) * oBytes ws))
  codebook || tiles || map || wino || matmul || load || out || epi

/-- Tile t lies within its memory: within CMEM, or within the present slices of SHM. -/
def tileInside (s : State) (ws : List Word) (t : Nat) : Bool :=
  if wsCmem ws then decide (cf ws 1 14 0 + t * wStep ws + 128 ≤ 32768)
  else
    let a := 256 * cf ws 1 17 0 + t * tileSize (wsFmt ws)
    let b := a + tileSize (wsFmt ws) - 1
    decide (b < 0x4000000) && slicePresent s (a / 0x1000000) && slicePresent s (b / 0x1000000)

/-- The CMEM row that holds byte b of channel c of an output pixel of EPILOG (R204). -/
def outRow (ws : List Word) (r x plane : Nat) : Nat :=
  cf ws 6 14 0 + ((oY0 ws + r) * oSegs ws + (oX0 ws + x) / 128) * (16 * cf ws 6 23 15) + plane

/-- The CMEM row of byte b of a plane set of ARGMAX (R233). -/
def argRow (ws : List Word) (base r x b : Nat) : Nat := base + ((oY0 ws + r) * oSegs ws + (oX0 ws + x) / 128) * 16 + b

def idxBytes (ws : List Word) : Nat := if cf ws 1 24 9 < 256 then 1 else 2

/-- The CMEM row of a MATMUL operand: row m of A in tile t, channel k (R197, R198), and the byte in it. -/
def mmAt (ws : List Word) (ti : Bool) (m t k : Nat) : Nat × Nat :=
  if ti then (inRow ws + t * inPlanes ws + firstCh ws + m, k)
  else
    let px := cf ws 6 12 0 + m
    (inRow ws + px / 128 * inPlanes ws + firstCh ws + 128 * t + k, px % 128)

/-- The rows of tile t of a MATMUL that feed values. -/
def mmDepth (ws : List Word) (t : Nat) : Nat := if t + 1 = mmTiles ws then chans ws else 128

/-- The CMEM rows from its first that a MATMUL reads for tile t: whole strips of 16 rows, or with TI one row for each row of A (R136,
R197, R198). -/
def mmRowsRead (ws : List Word) (ti : Bool) (t : Nat) : Nat := if ti then mmRows ws else 16 * cdiv (mmDepth ws t) 16

/-- The type of the EPILOG that started an entry's argmax state, as a command behind the present queue will meet it (R205, R206):
the state's valid bit and type now, changed in order by the commands that have not started. -/
def argTypeAt (a : ArrayState) (e : Nat) : Nat :=
  let now : Bool × Nat := match storeGet (fun _ => none) a.argmax e with
    | some x => (x.valid, x.otype.toNat)
    | none => (false, 0)
  ((a.queue.filter fun c => !c.started).foldl (fun (st : Bool × Nat) c =>
    if !(accEntries c.words).contains e then st
    else if opOf c.words = opArgmax then (false, st.2)
    else if opOf c.words = opEpilog ∧ (cf c.words 0 17 16 = 1 ∨ (cf c.words 0 17 16 = 2 ∧ st.1 = false)) then (true, oType c.words)
    else st) now).2

/-- ADDRESS_RANGE: a CMEM row or SHM tile outside its memory, or in an absent slice. -/
def naqRange (s : State) (n : Nat) (ws : List Word) (mode : Bool × Bool × Bool) : Bool :=
  let op := opOf ws
  let load := op == opLoadw && toSbuf ws &&
    (if wsCmem ws then decide (0x400000 < 128 * cf ws 1 14 0 + 4 * sbLen ws)
      else
        let a := 256 * cf ws 1 17 0
        let b := a + 4 * sbLen ws - 1
        decide (0x4000000 ≤ b) || !slicePresent s (a / 0x1000000) || !slicePresent s (b / 0x1000000))
  let tiles := !(List.range (fetchTiles ws)).all (tileInside s ws)
  let mm := op == opMatmul && (List.range (mmTiles ws)).any fun t =>
    decide (32768 < (mmAt ws mode.1 (if mode.1 then 0 else mmRows ws - 1) t 0).1 + mmRowsRead ws mode.1 t)
  let epi := op == opEpilog && !bit (cw ws 0) 18 &&
    decide (32768 ≤ outRow ws (oH ws - 1) (oW ws - 1) ((oCh0 ws + oChans ws) * oBytes ws - 1))
  let arg := op == opArgmax && (decide (32768 ≤ argRow ws (cf ws 5 14 0) (oH ws - 1) (oW ws - 1) (idxBytes ws - 1))
    || (bit (cw ws 0) 16 && (outPixels ws).any fun p =>
      decide (32768 ≤ argRow ws (cf ws 5 29 15) p.1 p.2.1 (typeBytes (argTypeAt (getArray s n) p.2.2) - 1))))
  load || tiles || mm || epi || arg

/-- Why NAQ does not take a command. -/
def naqCheck (s : State) (n : Nat) (ws : List Word) : Option Byte :=
  let mode := trainAt (getArray s n)
  if naqFormat ws then some eFormat
  else if opOf ws = opTrain ∧ trainPresent s = false then some fNoTrain
  else if naqShape ws mode then some eShape
  else if naqRange s n ws mode then some eAddrRange
  else none

/-! ### Slot X (R96, R171, R271, R276) -/

/-- The command in quarter q of a vector register. -/
def naqWords (v : BitVec 1024) (q : Fin 4) : List Word := (List.range 8).map fun i => v.extractLsb' (256 * q.val + 32 * i) 32

def execNaq (a : At) (v : Fin 32) (q : Fin 4) (s : State) : Out :=
  let n := a.p.num
  .next (issue a 6 false (fun s =>
    let r := physV (getProc s n).rrb v
    let s := touchV n [r] s
    let ws := naqWords ((getProc s n).rvp r) q
    match naqCheck s n ws with
    | some c => .error c
    | none => .ok (addWait n (.queueRoom ws) s)) s)

def execNawait (a : At) (k : BitVec 5) (s : State) : Out :=
  .next (issue a 6 false (fun s => .ok (addWait a.p.num (.arrayAtMost k.toNat) s)) s)

/-- The transfer channel that g[4:0] names. -/
def chanOf (p : ProcState) (g : Fin 32) : Nat := fld (p.rg g) 4 0

/-- DMAKICK on the issuing core's own channel. While a store of the core is not acknowledged, the kick waits for it (R271). -/
def execDmakick (a : At) (g : Fin 32) (s : State) : Out :=
  let n := a.p.num
  .next (issue a 6 false (fun s =>
    let c := chanOf (getProc s n) g
    if chanCore s c ≠ some n then .error ePermission
    else .ok (if writesHeld s (procReq n).code then addWait n (.kick (Fin.ofNat 32 c)) s else coreKick n c s)) s)

def execDmawait (a : At) (g : Fin 32) (s : State) : Out :=
  let n := a.p.num
  .next (issue a 6 false (fun s =>
    let c := chanOf (getProc s n) g
    if chanCore s c ≠ some n then .error ePermission else .ok (addWait n (.channelIdle (Fin.ofNat 32 c)) s)) s)

/-! ### Starting a command (R173 to R175) -/

/-- The ACCBUF entries that a command writes: values, or argmax state. -/
def accWrites (ws : List Word) : List Nat :=
  let op := opOf ws
  if isArrayOp op ∨ op = opArgmax ∨ (op = opEpilog ∧ cf ws 0 17 16 ≠ 0) then accEntries ws else []

def accReads (ws : List Word) : List Nat := if isOutOp (opOf ws) then accEntries ws else []

/-- The WBUF quarters that a command writes, and reads. -/
def wbufWrites (ws : List Word) : List Nat :=
  if opOf ws = opLoadw ∧ toSbuf ws = false then [cf ws 0 18 17]
  else if isArrayOp (opOf ws) ∧ wMode ws = 0 then [0, 1, 2, 3] else []
def wbufReads (ws : List Word) : List Nat :=
  if isArrayOp (opOf ws) ∧ wMode ws = 1 then (List.range (tileCount ws)).map (wQ0 ws + ·) else []

/-- The SBUF words that a command writes, and reads. -/
def sbufWrites (ws : List Word) : List Nat :=
  if opOf ws = opLoadw ∧ toSbuf ws = true then (List.range (sbLen ws)).map (sbOff ws + ·) else []
def sbufReads (ws : List Word) : List Nat :=
  let op := opOf ws
  let cb := if fetchTiles ws ≠ 0 ∧ wsCmem ws = false then
      (if wsFmt ws = 2 then (List.range 4).map (0x700 + 4 * wsCb ws + ·)
        else if wsFmt ws = 3 then (List.range 64).map (0x700 + 4 * wsCb ws + ·) else [])
    else []
  let exps := if op = opWino then (List.range 128).map (expSb ws + ·) else []
  let epi := if op = opEpilog then
      (List.range (4 * oChans ws)).map (cf ws 3 10 0 + ·) ++ [cf ws 3 21 11]
        ++ (if cf ws 0 23 21 = 4 then (List.range 64).map (cf ws 4 10 0 + ·) else [])
    else []
  cb ++ exps ++ epi

/-- Whether a command counts as a writer of the weight banks, and whether it uses kept ones (R175). -/
def bankWrites (ws : List Word) : Bool := isArrayOp (opOf ws)
def bankReads (ws : List Word) : Bool := isArrayOp (opOf ws) && wMode ws == 2

def overlaps (xs ys : List Nat) : Bool := xs.any fun x => ys.contains x

/-- A checked hazard between two commands, in either order (R175). -/
def hazard (a b : List Word) : Bool :=
  let one (w r : List Word) : Bool :=
    overlaps (accWrites w) (accReads r) || overlaps (wbufWrites w) (wbufReads r) || overlaps (sbufWrites w) (sbufReads r)
      || (bankWrites w && bankReads r)
  one a b || one b a

/-- The weight sets of an array command: up to 16 tiles each; kept tiles are one (R168, R183). -/
def setCount (ws : List Word) : Nat := if wMode ws = 2 then 1 else cdiv (tileCount ws) 16

/-- The tiles of a set. -/
def setTiles (ws : List Word) (j : Nat) : List Nat := (List.range (min 16 (tileCount ws - 16 * j))).map (16 * j + ·)

/-- The set of tiles that a command takes in place j. With FLIP the sets run from the last, since the taps run in order (R188, R198).
DESIGN CHOICE: with FLIP too a set holds the tiles of one run of 16, and entry i tile i of it. -/
def setIndex (ws : List Word) (flip : Bool) (j : Nat) : Nat := if flip then setCount ws - 1 - j else j

/-- A started array command whose last set has not finished loading: a set is loaded when its waves begin. -/
def ArrayCmd.loading (c : ArrayCmd) : Bool :=
  isArrayOp (opOf c.words) && wMode c.words ≠ 2 && decide (c.sets < setCount c.words)

/-- The unit of a command is free among the started commands before it (R167, R174): the WBUF loader works on one LOADW or on the
weight sets of one array command, the output stage on one command. -/
def unitFree (earlier : List ArrayCmd) (ws : List Word) : Bool :=
  let op := opOf ws
  let loader := !earlier.any fun c => opOf c.words == opLoadw || c.loading
  if op = opLoadw then loader
  else if isOutOp op then !earlier.any fun c => isOutOp (opOf c.words)
  else if isArrayOp op then if wMode ws = 2 then !earlier.any ArrayCmd.loading else loader
  else earlier.isEmpty

/-- The first command that has not started, with the commands before it. -/
def nextToStart : List ArrayCmd → List ArrayCmd → Option (List ArrayCmd × ArrayCmd)
  | _, [] => none
  | before, c :: cs => if c.started then nextToStart (before ++ [c]) cs else some (before, c)

/-- The command of operation `op` that may start now, and its place in the queue. -/
def startable1 (s : State) (n op : Nat) : Option (Nat × ArrayCmd) :=
  if !stepping s n then none
  else match nextToStart [] (getArray s n).queue with
    | some (before, c) =>
      if opOf c.words = op ∧ unitFree before c.words = true ∧ (before.any fun b => hazard b.words c.words) = false
        ∧ (bit (cw c.words 0) 7 = false ∨ before.isEmpty = true) then some (before.length, c)
      else none
    | none => none

/-- Mark a queued command as started. -/
def markStarted (n i : Nat) (empty : Bool) (s : State) : State :=
  modArray n (fun a => { a with queue := a.queue.modify i fun c => { c with started := true, empty := empty } }) s

/-! ### Flags and completion (R176, R208) -/

/-- Change NA_FLAGS; a bit that becomes 1 raises NA_FLAG. -/
def naFlags (n : Nat) (f : ArrayState → ArrayState) (s : State) : State :=
  let a := getArray s n
  let b := f a
  let s := modArray n f s
  if (b.emptySeen && !a.emptySeen) || (b.accWrap && !a.accWrap) || (b.badScale && !a.badScale) then raise (pgCore n) 3 s else s

/-- A command completes: its entry is freed, NA_LAST, NA_CMD_CNT and INTSTAT.ARRAY follow. -/
def arrayComplete (n i : Nat) (s : State) : State :=
  match (getArray s n).queue[i]? with
  | none => s
  | some c =>
    let s := modArray n (fun a => { a with
      queue := a.queue.eraseIdx i
      lastTag := BitVec.ofNat 8 (cf c.words 0 15 8), lastOp := BitVec.ofNat 6 (opOf c.words), lastEmpty := c.empty, lastValid := true
      cmdCnt := a.cmdCnt + 1 }) s
    let s := naFlags n (fun a => { a with emptySeen := a.emptySeen || c.empty }) s
    if bit (cw c.words 0) 6 then modProc n (fun p => { p with intStat := p.intStat ||| 1 }) s else s

/-! ### What stops a command (R178) -/

/-- A command's reads meet a refusal, or a byte of wrong parity. `probes` are addresses at which each memory is asked. -/
def readsStop (s : State) (n : Nat) (probes : List Nat) : Option Byte := probes.findSome? fun a => placeRefusal s (some n) false false 0 a

/-- Change a queued command. -/
def modCmd (n i : Nat) (f : ArrayCmd → ArrayCmd) (s : State) : State := modArray n (fun a => { a with queue := a.queue.modify i f }) s

/-- Run a command's effect unless its reads stop it: a refusal ends the step with the NAQ bundle's pc, a detection reruns it. -/
def guarded (n : Nat) (c : ArrayCmd) (probes reads : List Nat) (f : State → State) (s : State) : State :=
  match readsStop s n probes with
  | some code => coreFaultEnds n 6 code c.pc.toNat (countRefusal code s)
  | none => match firstBad s n reads with
    | some a => ownDetection n a s
    | none => f s

/-! ### Loading weights (R168, R182, R183) -/

/-- Put a decoded tile into a WBUF quarter. -/
def wbufPut (n q : Nat) (tile : Nat → Nat → Byte) (s : State) : State :=
  memPut (winBase n + offWbuf + 0x4000 * q) ((List.range 128).flatMap fun k => (List.range 128).map fun j => tile k j) s

/-- A byte of a WBUF quarter. -/
def wbufByte (s : State) (n q k j : Nat) : Byte := memByte s (winBase n + offWbuf + 0x4000 * q + 128 * k + j)

/-- The place of a weight in the banks. -/
def bankKey (bank : Bool) (e k j : Nat) : Nat := ((if bank then 16 else 0) + e) * 16384 + 128 * k + j

/-- A tile enters entry e of a bank, transposed in training mode TW (R198). -/
def loadTile (bank tw : Bool) (e : Nat) (tile : Nat → Nat → Byte) (m : Store Byte) : Store Byte :=
  (List.range 128).foldl (fun m k => (List.range 128).foldl (fun m j =>
    storeSet (fun _ => 0) m (bankKey bank e k j) (if tw then tile j k else tile k j)) m) m

/-- The tile of a command before it enters the cells: from its source, or from WBUF. -/
def rawTile (s : State) (n : Nat) (ws : List Word) (t k j : Nat) : Byte :=
  if wMode ws = 1 then wbufByte s n (wQ0 ws + t) k j else tileByte s n ws t k j

/-- The weights of a command as its waves use them: tile t at row k and column j of the bank that holds its set. -/
def weightOf (s : State) (n : Nat) (c : ArrayCmd) (t k j : Nat) : Int :=
  (storeGet (fun _ => 0) (getArray s n).banks (bankKey c.bank (t % 16) k j)).toInt

/-- Set j of a command's weights enters the bank that does not hold the last set; a streamed tile passes through WBUF quarter
t mod 4. Kept tiles stand in the bank of the last set (R168, R183). -/
def loadSet (n i j : Nat) (ws : List Word) (s : State) : State :=
  let a := getArray s n
  if wMode ws = 2 then modCmd n i (fun c => { c with bank := a.lastBank }) s
  else
    let bank := !a.lastBank
    let banks := (setTiles ws j).foldl (fun m t => loadTile bank a.tw (t % 16) (rawTile s n ws t) m) a.banks
    let s' := modCmd n i (fun c => { c with bank := bank }) (modArray n (fun a => { a with lastBank := bank, banks := banks }) s)
    if wMode ws = 0 then (setTiles ws j).foldl (fun s' t => wbufPut n (t % 4) (fun k j => tileByte s n ws t k j) s') s' else s'

/-- LOADW: one tile into a WBUF quarter, or raw words into SBUF. -/
def loadw (n : Nat) (s : State) : State :=
  match startable1 s n opLoadw with
  | none => s
  | some (i, c) =>
    let ws := c.words
    if toSbuf ws then
      let src := sbSource n ws
      let reads := (List.range (4 * sbLen ws)).map (src + ·)
      guarded n c [src, src + 4 * sbLen ws - 1] reads (fun s =>
        memPut (winBase n + offSbuf + 4 * sbOff ws) (viewBytes s (some n) src (4 * sbLen ws)) (markStarted n i false s)) s
    else
      guarded n c [tileAddr n ws 0 0 0, tileAddr n ws 0 127 127] (tileReads n ws 0) (fun s =>
        wbufPut n (cf ws 0 18 17) (fun k j => tileByte s n ws 0 k j) (markStarted n i false s)) s

def execLoadw (core : Fin 6) (s : State) : Out := .next (loadw core s)

/-! ### Accumulation (R170) -/

/-- One addition into a 32-bit accumulator; none is an entry whose first value replaces it. -/
def accAdd (x : Option Word × Bool) (v : Int) : Option Word × Bool :=
  match x.1 with
  | none => (some (BitVec.ofInt 32 v), x.2)
  | some w => let (r, o) := wrapSigned 32 (w.toInt + v); (some r, x.2 || o)

/-- A column of an ACCBUF entry, and its activation-sum lane. -/
def accWord (s : State) (n e j : Nat) : Word := memWord s (winBase n + offAcc + 512 * e + 4 * j)
def accSum (s : State) (n e : Nat) : Word := storeGet (fun _ => 0) (getArray s n).sums e

/-- Values of each column, and of the activation-sum lane, into an entry: the first replaces it, or all add (R184). -/
def accWrite (n e : Nat) (add : Bool) (vals : Nat → List Int) (sums : List Int) (s : State) : State :=
  let start (w : Word) : Option Word × Bool := (if add then some w else none, false)
  let col (j : Nat) : Option Word × Bool := (vals j).foldl accAdd (start (accWord s n e j))
  let sum := sums.foldl accAdd (start (accSum s n e))
  let wrapped := sum.2 || (List.range 128).any fun j => (col j).2
  let s := memPut (winBase n + offAcc + 512 * e) ((List.range 128).flatMap fun j => bytesOf 4 ((col j).1.getD 0).toNat) s
  let s := modArray n (fun a => { a with sums := storeSet (fun _ => 0) a.sums e (sum.1.getD 0) }) s
  naFlags n (fun a => { a with accWrap := a.accWrap || wrapped }) s

/-- The column sum of a wave. -/
def waveSum (w : Nat → Nat → Int) (xs : List Int) (j : Nat) : Int := (xs.zipIdx).foldl (fun acc e => acc + e.1 * w e.2 j) 0

/-- Entries built of waves: each a tile and an input vector, in order. -/
def waveEntry (n e : Nat) (add : Bool) (w : Nat → Nat → Nat → Int) (waves : List (Nat × List Int)) (s : State) : State :=
  accWrite n e add (fun j => waves.map fun v => waveSum (w v.1) v.2 j) (waves.map fun v => v.2.foldl (· + ·) 0) s

def countWaves (n k : Nat) (s : State) : State := modArray n (fun a => { a with waveCnt := a.waveCnt + BitVec.ofNat 64 k }) s

/-! ### CONV and WINO (R186 to R193) -/

/-- Output size on one axis (R186). -/
def outSize (inp lo hi k d st : Nat) : Int := ((inp : Int) + lo + hi - ((k - 1) * d + 1 : Nat)) / st + 1

def outHt (ws : List Word) : Int := outSize (inH ws) (padT ws) (padB ws) (kH ws) (dilH ws) (strH ws)
def outWd (ws : List Word) : Int := outSize (inW ws) (padL ws) (padR ws) (kW ws) (dilW ws) (strW ws)

/-- The positions of the pass that lie in the output map: row, column. -/
def inMap (ws : List Word) : List (Nat × Nat) :=
  ((List.range (passH ws)).flatMap fun r => (List.range (passW ws)).map fun x => (r, x)).filter fun p =>
    decide (((outY0 ws + p.1 : Nat) : Int) < outHt ws) && decide (((outX0 ws + p.2 : Nat) : Int) < outWd ws)

/-- The CMEM address of a channel of an input pixel inside the map (R187). -/
def inputAddr (n : Nat) (ws : List Word) (iy ix c : Nat) : Nat :=
  winBase n + 128 * (inRow ws + (iy * inSegs ws + ix / 128) * inPlanes ws + c) + ix % 128

def insideMap (ws : List Word) (iy ix : Int) : Bool :=
  decide (0 ≤ iy) && decide (iy < inH ws) && decide (0 ≤ ix) && decide (ix < inW ws)

/-- A channel of an input pixel: ZA outside the map. -/
def inputCode (s : State) (n : Nat) (ws : List Word) (iy ix : Int) (j : Nat) : Int :=
  if insideMap ws iy ix then (viewByte s (some n) (inputAddr n ws iy.toNat ix.toNat (firstCh ws + j))).toInt else padCode ws

/-- The bytes of the column group that holds byte `col`, in 16-row strips over `count` rows from `row` (R136, R189). -/
def stripReads (n row col count : Nat) : List Nat :=
  (List.range (16 * cdiv count 16)).flatMap fun j => (List.range 8).map fun k => winBase n + 128 * (row + j) + 8 * (col / 8) + k

/-- What the input loader reads for a pixel inside the map: the strips of its column group. -/
def inputReads (n : Nat) (ws : List Word) (iy ix : Int) : List Nat :=
  if insideMap ws iy ix then
    stripReads n (inRow ws + (iy.toNat * inSegs ws + ix.toNat / 128) * inPlanes ws + firstCh ws) (ix.toNat % 128) (chans ws)
  else []

/-- The input pixel of a pass position and a tap (R187). -/
def tapPixel (ws : List Word) (p : Nat × Nat) (t : Nat) : Int × Int :=
  (((outY0 ws + p.1) * strH ws : Nat) - (padT ws : Int) + (t / kW ws * dilH ws : Nat),
    ((outX0 ws + p.2) * strW ws : Nat) - (padL ws : Int) + (t % kW ws * dilW ws : Nat))

/-- The addresses at which the weight memories of set j are asked, and the bytes that its fetch reads. -/
def weightProbes (n : Nat) (ws : List Word) (j : Nat) : List Nat :=
  if wMode ws = 0 then (setTiles ws j).flatMap fun t => [tileAddr n ws t 0 0, tileAddr n ws t 127 127] else []
def weightReads (n : Nat) (ws : List Word) (j : Nat) : List Nat :=
  if wMode ws = 0 then (setTiles ws j).flatMap (tileReads n ws) else []

/-- The taps of the set that runs in place j with their tiles, in the order of the taps: tap t uses tile t, or from the last with FLIP
(R188, R198). -/
def setTaps (ws : List Word) (flip : Bool) (j : Nat) : List (Nat × Nat) :=
  let taps := kH ws * kW ws
  ((List.range taps).map fun t => (t, if flip then taps - 1 - t else t)).filter fun e => (setTiles ws (setIndex ws flip j)).contains e.2

/-- The waves of CONV's set in place j over the pass. -/
def convRun (n : Nat) (c : ArrayCmd) (j : Nat) (s : State) : State :=
  let ws := c.words
  let taps := setTaps ws (getArray s n).flip j
  let pos := inMap ws
  let s' := pos.foldl (fun s' p =>
    let waves := taps.map fun e =>
      let px := tapPixel ws p e.1
      (e.2, (List.range (chans ws)).map fun k => inputCode s n ws px.1 px.2 k)
    waveEntry n (accBase ws + p.1 * passW ws + p.2) (wAcc ws || decide (j ≠ 0)) (weightOf s n c) waves s') s
  countWaves n (taps.length * pos.length) s'

def convReads (n : Nat) (a : ArrayState) (ws : List Word) (j : Nat) : List Nat :=
  (inMap ws).flatMap fun p => (setTaps ws a.flip j).flatMap fun e => inputReads n ws (tapPixel ws p e.1).1 (tapPixel ws p e.1).2

/-- The input pixel (i, j) of the 4 × 4 tile of block (bY, bX) (R190). -/
def winoPixel (ws : List Word) (bY bX i j : Nat) : Int × Int :=
  ((outY0 ws + 2 * bY + i : Nat) - (padT ws : Int), (outX0 ws + 2 * bX + j : Nat) - (padL ws : Int))

/-- A row of Bᵀ, applied to four values (R191). -/
def bRow (u : Nat) (x : Nat → Int) : Int :=
  match u with
  | 0 => x 0 - x 2
  | 1 => x 1 + x 2
  | 2 => x 2 - x 1
  | _ => x 1 - x 3

/-- A row of Aᵀ, applied to four values (R191). -/
def aRow (u : Nat) (x : Nat → Int) : Int := if u = 0 then x 0 + x 1 + x 2 else x 1 - x 2 - x 3

/-- V[u][v] of one channel of a tile d (R191). -/
def winoV (d : Nat → Nat → Int) (u v : Nat) : Int := bRow v fun j => bRow u fun i => d i j

/-- Y[p][q] of one column from its 16 sums and its exponent word (R192, R193). -/
def winoY (m : Nat → Int) (e : Word) (p q : Nat) : Int :=
  let x (u v : Nat) : Int := m (4 * u + v) * (2 ^ (3 - fld e (2 * (4 * u + v) + 1) (2 * (4 * u + v))) : Int)
  aRow q fun v => aRow p fun u => x u v

/-- WINO over its pass, block by block. -/
def winoRun (n : Nat) (c : ArrayCmd) (s : State) : State :=
  let ws := c.words
  let w := weightOf s n c
  let bw := passW ws / 2
  let blocks := passH ws / 2 * bw
  let s' := (List.range blocks).foldl (fun s' b =>
    let bY := b / bw
    let bX := b % bw
    let tile (c i j : Nat) : Int := let px := winoPixel ws bY bX i j; inputCode s n ws px.1 px.2 c
    let vec (p : Nat) : List Int := (List.range (chans ws)).map fun c => winoV (tile c) (p / 4) (p % 4)
    let y (p q j : Nat) : Int := winoY (fun k => waveSum (w k) (vec k) j) (sbufWord s n (expSb ws + j)) p q
    (List.range 4).foldl (fun s' k =>
      accWrite n (accBase ws + (2 * bY + k / 2) * passW ws + 2 * bX + k % 2) (wAcc ws) (fun j => [y (k / 2) (k % 2) j])
        (if wAcc ws then [] else [0]) s') s') s
  countWaves n (16 * blocks) s'

def winoReads (n : Nat) (ws : List Word) : List Nat :=
  (List.range (passH ws + 2)).flatMap fun i => (List.range (passW ws + 2)).flatMap fun j =>
    inputReads n ws (winoPixel ws 0 0 i j).1 (winoPixel ws 0 0 i j).2

/-! ### MATMUL (R197, R198) -/

def mmAddr (n : Nat) (ws : List Word) (ti : Bool) (m t k : Nat) : Nat :=
  let x := mmAt ws ti m t k
  winBase n + 128 * x.1 + x.2

def matmulRun (n : Nat) (c : ArrayCmd) (s : State) : State :=
  let ws := c.words
  let ti := (getArray s n).ti
  let w := weightOf s n c
  let s' := (List.range (mmRows ws)).foldl (fun s' m =>
    let waves := (List.range (mmTiles ws)).map fun t =>
      (t, (List.range (mmDepth ws t)).map fun k => (viewByte s (some n) (mmAddr n ws ti m t k)).toInt)
    waveEntry n (accBase ws + m) (wAcc ws) w waves s') s
  countWaves n (mmTiles ws * mmRows ws) s'

def matmulReads (n : Nat) (a : ArrayState) (ws : List Word) : List Nat :=
  (List.range (mmRows ws)).flatMap fun m => (List.range (mmTiles ws)).flatMap fun t =>
    if a.ti then (List.range 128).map fun k => mmAddr n ws true m t k
    else let x := mmAt ws false m t 0; stripReads n x.1 x.2 (mmDepth ws t)

/-! ### The course of an array command (R168, R173, R174, R176) -/

/-- An array command that has no output (R186). -/
def arrayEmpty (ws : List Word) : Bool := opOf ws ≠ opMatmul && (inMap ws).isEmpty

/-- What the input loader reads for set j. -/
def arrayReads (n : Nat) (a : ArrayState) (c : ArrayCmd) (j : Nat) : List Nat :=
  if c.empty then []
  else if opOf c.words = opConv then convReads n a c.words j
  else if opOf c.words = opWino then winoReads n c.words
  else matmulReads n a c.words

/-- The waves of set j. -/
def arrayRun (n : Nat) (c : ArrayCmd) (j : Nat) (s : State) : State :=
  if c.empty then s
  else if opOf c.words = opConv then convRun n c j s
  else if opOf c.words = opWino then winoRun n c s
  else matmulRun n c s

/-- Set j begins to load, unless its reads stop it. DESIGN CHOICE: all of a set is read in the instant at which its load begins. -/
def setLoad (n i j : Nat) (c : ArrayCmd) (s : State) : State :=
  let k := setIndex c.words (getArray s n).flip j
  guarded n c (weightProbes n c.words k) (weightReads n c.words k) (loadSet n i k c.words) s

/-- An array command's present set is loaded and its waves run; the next set loads. -/
def arrayAdvance (n i : Nat) (c : ArrayCmd) (s : State) : State :=
  let reads := arrayReads n (getArray s n) c c.sets
  guarded n c (if reads.isEmpty then [] else [winBase n]) reads (fun s =>
    let s := modCmd n i (fun c => { c with sets := c.sets + 1 }) (arrayRun n c c.sets s)
    if c.sets + 1 < setCount c.words then setLoad n i (c.sets + 1) c s else s) s

/-- The started array command whose waves have not all run: the first of them, since the computations run in order (R174). -/
def computing (s : State) (n : Nat) : Option (Nat × ArrayCmd) :=
  ((getArray s n).queue.zipIdx.find? fun e =>
    e.1.started && isArrayOp (opOf e.1.words) && decide (e.1.sets < setCount e.1.words)).map fun e => (e.2, e.1)

/-- A row of the table for an array command. It starts the next command of its kind, whose first set begins to load; sent while
that command's set loads, it says that the set is loaded, and the set's waves run. DESIGN CHOICE: the spec gives these instants
no rows of their own. -/
def arrayStage (n op : Nat) (s : State) : State :=
  match startable1 s n op with
  | some (i, c) => setLoad n i 0 c (markStarted n i (arrayEmpty c.words) s)
  | none => match computing s n with
    | some (i, c) => if stepping s n ∧ opOf c.words = op then arrayAdvance n i c s else s
    | none => s

def execConvPass (core : Fin 6) (s : State) : Out := .next (arrayStage core opConv s)
def execWino (core : Fin 6) (s : State) : Out := .next (arrayStage core opWino s)
def execMatmul (core : Fin 6) (s : State) : Out := .next (arrayStage core opMatmul s)

/-! ### The output stage (R200 to R205) -/

/-- M of a channel: rounded to FP32 twice (R202). -/
def requantM (sa sw sy : Q) (ash : Nat) : Num :=
  match fp32.decode false (toF32 .nearest (.fin false (sa.mul sw))) with
  | .fin n q => fp32.decode false (toF32 .nearest (.fin n ((q.mul (Q.pow2 (-(ash : Int)))).div sy)))
  | x => x

/-- round(u × M); with an infinite M the result is open. -/
def requant (u : Int) (m : Num) : Int :=
  match m with
  | .fin _ q => ((Q.ofInt u).mul q).round
  | _ => (BitVec.ofNat 32 (Config.laneOpen 8 (u % 2 ^ 48).toNat 0)).toInt

/-- The activation of R202, on codes. -/
def activate (s : State) (n : Nat) (ws : List Word) (zp q : Int) : Int :=
  match cf ws 0 23 21 with
  | 1 => max q zp
  | 2 => min (max q (signed16 (cw ws 5) 0)) (signed16 (cw ws 5) 16)
  | 3 => if zp ≤ q then q else zp + (Q.round ⟨q - zp, 2 ^ cf ws 0 27 24⟩)
  | 4 => (sbufByte s n (4 * cf ws 4 10 0 + (q + 128).toNat)).toInt
  | _ => q

/-- One output value: its code, and whether a saturation counts (R201 to R203). -/
def outValue (s : State) (n : Nat) (ws : List Word) (e ch : Nat) : Int × Bool :=
  let table := cf ws 3 10 0 + 4 * ch
  let bias := (sbufWord s n table).toInt
  let wsum := (sbufWord s n (table + 1)).toInt
  let wrec := sbufWord s n (table + 2)
  let yrec := sbufWord s n (table + 3)
  let arec := sbufWord s n (cf ws 3 21 11)
  let t := (accWord s n e ch).toInt + bias
  let u := t - recZp wrec * (accSum s n e).toInt - recZp arec * wsum + (cf ws 2 19 0 : Int) * recZp arec * recZp wrec
  if oType ws = 2 then (clampInt (-2147483648) 2147483647 u, false)
  else
    let m := requantM (recScale arec) (recScale wrec) (recScale yrec) (cf ws 0 29 28)
    let q := requant u m + recZp yrec
    let lim : Int := if oType ws = 0 then 127 else 32767
    let a := clampInt (-lim) lim q
    let b := activate s n ws (recZp yrec) a
    let c := clampInt (-lim) lim b
    (c, a ≠ q || c ≠ b)

/-- A record that the output stage uses holds a scale that is no positive, finite, normal bfloat16 (R200). -/
def scalesBad (s : State) (n : Nat) (ws : List Word) : Bool :=
  oType ws ≠ 2 && (!validScale (fld (sbufWord s n (cf ws 3 21 11)) 31 16)
    || (List.range (oChans ws)).any fun ch =>
      !validScale (fld (sbufWord s n (cf ws 3 10 0 + 4 * ch + 2)) 31 16) || !validScale (fld (sbufWord s n (cf ws 3 10 0 + 4 * ch + 3)) 31 16))

/-- Byte b of a value. -/
def planeByte (v : Int) (b : Nat) : Byte := BitVec.ofInt 8 (v / (256 ^ b : Int))

/-- The strips that the output stage writes, row by row, each with its bytes: for every pass row, column group and block of 16
planes, the planes of the pixels in it (R204). `cell` gives a plane's row and byte, and none where a pixel has no such plane. -/
def outStrips (n : Nat) (ws : List Word) (planes : Nat) (cell : Nat × Nat × Nat → Nat → Option (Nat × Byte)) : List (List (Nat × Byte)) :=
  (List.range (oH ws)).flatMap fun r =>
    let row := (outPixels ws).filter fun p => p.1 == r
    let groups := (List.range (cdiv (oX0 ws % 8 + oW ws) 8)).map (oX0 ws / 8 + ·)
    groups.flatMap fun g => (List.range (cdiv planes 16)).map fun k =>
      (List.range (min 16 (planes - 16 * k))).flatMap fun q =>
        (row.filter fun p => (oX0 ws + p.2.1) / 8 == g).filterMap fun p =>
          (cell p (16 * k + q)).map fun x => (winBase n + 128 * x.1 + (oX0 ws + p.2.1) % 128, x.2)

/-- A strip lands. -/
def stripPut (n : Nat) (strip : List (Nat × Byte)) (s : State) : State := strip.foldl (fun s e => viewPut (some n) e.1 [e.2] s) s

/-- The first strip of a command in the output stage lands. -/
def landOne (n i : Nat) (s : State) : State :=
  match (getArray s n).queue[i]? with
  | some c => match c.lands with
    | strip :: rest => modCmd n i (fun c => { c with lands := rest }) (stripPut n strip s)
    | [] => s
  | none => s

/-- The place in the queue of the command of operation `op` that the output stage works on. -/
def outBusy (s : State) (n op : Nat) : Option Nat :=
  (getArray s n).queue.findIdx? fun c => c.started && opOf c.words == op

/-- The argmax state of an entry after a channel's value (R205). -/
def argStep (otype : Nat) (st : Option Argmax) (ch : Nat) (v : Int) : Option Argmax :=
  match st with
  | some a =>
    if a.valid then
      if a.value < v ∨ (a.value = v ∧ ch < a.index) then some { a with value := v, index := ch } else some a
    else some { valid := true, value := v, index := ch, otype := BitVec.ofNat 2 otype }
  | none => some { valid := true, value := v, index := ch, otype := BitVec.ofNat 2 otype }

/-- The strips that EPILOG writes (R204): none with NOWR. -/
def epilogLands (s : State) (n : Nat) (ws : List Word) : List (List (Nat × Byte)) :=
  if bit (cw ws 0) 18 then []
  else outStrips n ws (oChans ws * oBytes ws) fun p q =>
    some (outRow ws p.1 p.2.1 (oCh0 ws * oBytes ws + q), planeByte (outValue s n ws p.2.2 (q / oBytes ws)).1 (q % oBytes ws))

/-- What EPILOG does beside its writes (R199 to R205): argmax state, saturations and BAD_SCALE. -/
def epilogRun (n : Nat) (ws : List Word) (s : State) : State :=
  let pixels := outPixels ws
  let val (e ch : Nat) : Int × Bool := outValue s n ws e ch
  let amx := cf ws 0 17 16
  let sat := pixels.foldl (fun k p => k + ((List.range (oChans ws)).filter fun ch => (val p.2.2 ch).2).length) 0
  let s' := if amx = 0 then s
    else pixels.foldl (fun s' p => modArray n (fun a =>
      let st : Option Argmax := if amx = 1 then none else storeGet (fun _ => none) a.argmax p.2.2
      let st := (List.range (oChans ws)).foldl (fun st ch => argStep (oType ws) st (oCh0 ws + ch) (val p.2.2 ch).1) st
      { a with argmax := storeSet (fun _ => none) a.argmax p.2.2 st }) s') s
  countSatEvents n sat (naFlags n (fun a => { a with badScale := a.badScale || scalesBad s n ws }) s')

/-- The row of EPILOG starts the next such command, whose results are then formed; sent while the command is in the output stage, it
lands the next strip. DESIGN CHOICE: the strips land in rising order, and the spec gives their instants no row of their own. -/
def epilog (n : Nat) (s : State) : State :=
  match startable1 s n opEpilog with
  | some (i, c) => markStarted n i false (modCmd n i (fun x => { x with lands := epilogLands s n c.words }) (epilogRun n c.words s))
  | none => match outBusy s n opEpilog with
    | some i => if stepping s n then landOne n i s else s
    | none => s

def execEpilog (core : Fin 6) (s : State) : Out := .next (epilog core s)

/-! ### ARGMAX (R206, R233) -/

/-- The most negative value of a type. -/
def typeMin (t : Nat) : Int := -(2 ^ (8 * typeBytes t - 1) : Int)

/-- The strips that ARGMAX writes: the index planes, then with MAXW the value planes (R206, R233). -/
def argmaxLands (s : State) (n : Nat) (ws : List Word) : List (List (Nat × Byte)) :=
  let st (e : Nat) : Option Argmax := storeGet (fun _ => none) (getArray s n).argmax e
  let index (e : Nat) : Nat := match st e with
    | some a => if a.valid then a.index else 0
    | none => 0
  let otype (e : Nat) : Nat := match st e with
    | some a => a.otype.toNat
    | none => 0
  let value (e : Nat) : Int := match st e with
    | some a => if a.valid then a.value else typeMin (otype e)
    | none => typeMin (otype e)
  outStrips n ws (idxBytes ws) (fun p b => some (argRow ws (cf ws 5 14 0) p.1 p.2.1 b, planeByte (index p.2.2) b))
    ++ (if bit (cw ws 0) 16 then outStrips n ws 4 fun p b =>
        if b < typeBytes (otype p.2.2) then some (argRow ws (cf ws 5 29 15) p.1 p.2.1 b, planeByte (value p.2.2) b) else none
      else [])

/-- ARGMAX clears the valid bits of its entries. -/
def argmaxRun (n : Nat) (ws : List Word) (s : State) : State :=
  modArray n (fun a => { a with
    argmax := (outPixels ws).foldl (fun m p => storeMod (fun _ => none) m p.2.2 fun x => x.map fun y => { y with valid := false }) a.argmax }) s

/-- The row of ARGMAX, as EPILOG's. -/
def argmax (n : Nat) (s : State) : State :=
  match startable1 s n opArgmax with
  | some (i, c) => markStarted n i false (modCmd n i (fun x => { x with lands := argmaxLands s n c.words }) (argmaxRun n c.words s))
  | none => match outBusy s n opArgmax with
    | some i => if stepping s n then landOne n i s else s
    | none => s

def execArgmax (core : Fin 6) (s : State) : Out := .next (argmax core s)

/-! ### SYNC, TRAINMODE and completions (R174, R176, R198) -/

/-- SYNC completes as it starts. -/
def syncCmd (n : Nat) (s : State) : State :=
  match startable1 s n opSync with
  | none => s
  | some (i, _) => arrayComplete n i s

def execSync (core : Fin 6) (s : State) : Out := .next (syncCmd core s)

/-- TRAINMODE sets the mode and completes as it starts. -/
def trainCmd (n : Nat) (s : State) : State :=
  match startable1 s n opTrain with
  | none => s
  | some (i, c) =>
    arrayComplete n i (modArray n (fun a => { a with
      ti := bit (cw c.words 0) 16, tw := bit (cw c.words 0) 17, flip := bit (cw c.words 0) 18 }) s)

def execTrainmode (core : Fin 6) (s : State) : Out := .next (trainCmd core s)

/-- Two commands of one unit end in their order. -/
def sameUnit (a b : Nat) : Bool := (a == opLoadw && b == opLoadw) || (isArrayOp a && isArrayOp b) || (isOutOp a && isOutOp b)

/-- What a started command has still to do is done: its remaining sets load and their waves run, its remaining strips land. -/
def arrayFinish (n i : Nat) (c : ArrayCmd) (s : State) : State :=
  if isArrayOp (opOf c.words) then
    (List.range (setCount c.words - c.sets)).foldl (fun s _ => match (getArray s n).queue[i]? with
      | some c => arrayAdvance n i c s
      | none => s) s
  else c.lands.foldl (fun s strip => stripPut n strip s) s

/-- A started command's last write lands; what its reads stop does not complete. -/
def arrayDone (n i : Nat) (s : State) : State :=
  let q := (getArray s n).queue
  match q[i]? with
  | some c =>
    if c.started && !((q.take i).any fun b => sameUnit (opOf b.words) (opOf c.words)) then arrayComplete n i (arrayFinish n i c s) else s
  | none => s

def execArrayCommandComplete (core : Fin 6) (index : Fin 16) (s : State) : Out := .next (arrayDone core index s)

end Sys2Proof.Machine
end

