-- ==== Sys2Proof/Machine/Bar2.lean ====
section
/-! DEFINITION. BAR2 requests (R341, R342, R366, R371): of the host through a function, and of peer devices. -/

namespace Sys2Proof.Machine

/-- The function whose BAR2 a request addresses: a request by requester ID alone goes to PF0's. -/
def bar2Fn : Bar2Source → Fin 16
  | .host f => f
  | .rid _ => 0

/-- The peer whose entry a requester ID matches (R366). -/
def bar2Peer (s : State) : Bar2Source → Option Nat
  | .host _ => none
  | .rid r => ridPeer s r

/-- A refused request: a read completes with Unsupported Request, a write is discarded; it is counted and recorded (R341). -/
def bar2Refuse (src : Bar2Source) (page : Nat) (req code : Byte) (a : Nat) (write : Bool) (s : State) : State :=
  let s := recordErr page req code (BitVec.ofNat 40 a) (raise pgPcie 2 (countWrap pgPcie 0 0x06C s))
  if write then s else send (.unsupported src) s

/-- A request lies within the inbound aperture, with the permission that it needs (R366). -/
def inAperture (s : State) (write : Bool) (off len : Nat) : Bool :=
  let base := fld (getReg s pgHerd 0 0x060) 23 0 * 4096
  let l := getReg s pgHerd 0 0x064
  decide (base ≤ off) && decide (off + len ≤ base + fld l 23 0 * 4096) && bit l (if write then 31 else 30)

/-- The words of a 64-byte write. -/
def messageWords (bs : List Byte) : Vector Word 16 :=
  Vector.ofFn fun i => BitVec.ofNat 32 (ofBytes ((bs.drop (4 * i.val)).take 4))

/-- A peer's write into this device's mailbox slots is a message or a record (R368, R371); `none` where it is neither. -/
def mailboxWrite (s : State) (rid : BitVec 16) (p a : Nat) (bs : List Byte) : Option State :=
  let o := a - mbxBase s
  let d := mbxDepth s
  if herdAlone s = true ∨ a < mbxBase s ∨ 1024 + 1024 * d ≤ o then none
  else
    let whole := decide (bs.length = 64) && decide (o % 64 = 0)
    if o < 1024 then
      if whole then some (recordArrive rid (messageWords bs) s) else some (modPeer p (fun x => { x with badCnt := satInc x.badCnt }) s)
    else
      some (messageArrive rid (Fin.ofNat 16 ((o - 1024) / 64 / d)) ((o - 1024) / 64 % d) whole (messageWords bs) s)

/-- A status record that a requester without a matching peer entry writes into a status slot of the bellwether, which judges it
(R362). Any other request of such a requester follows R341 (R366). -/
def strangerRecord (s : State) (src : Bar2Source) (a : Nat) (write : Option (List Byte)) : Option State :=
  match src, write with
  | .rid rid, some bs =>
    if s.herd.st == .bellwether && decide (bs.length = 64) && decide (mbxBase s ≤ a) && decide (a < mbxBase s + 1024) && a % 64 == 0
        && recordGood (messageWords bs) then some (recordArrive rid (messageWords bs) s)
    else none
  | _, _ => none

/-- A request's data passes the injector (R376) and lands, or is read: a dropped request is refused, and a read that was corrupted
fails its parity. -/
def bar2Serve (src : Bar2Source) (req : Byte) (a : Nat) (write : Option (List Byte)) (len : Nat) (s : State) : State :=
  match write with
  | some bs =>
    (match lfiPass lfiNoc req.toNat 0 (.write none req 0 (cellsAt a bs)) packetEnd s with
    | (some .drop, s) => bar2Refuse src pgPcie req eLfi a true s
    | (_, s) => s)
  | none => match lfiItem lfiNoc req.toNat 1 s with
    | (some (.drop, _), s) => bar2Refuse src pgPcie req eLfi a false s
    | (act, s) =>
      if lfiSpoils s act then bar2Refuse src pgPcie req eParity a false s
      else
        let s := match (List.range len).find? fun i => viewBad s none (a + i) with
          | some i => readerDetection req (a + i) s
          | none => s
        send (.bar2Data src (memRead s none a len)) s

/-- A request that reaches its memory, by how the memory answers it: served, unanswered within the limit (R160), or a read that met
an uncorrectable error, whose error response completes it as a refusal does (R158). -/
def bar2Answer (src : Bar2Source) (req : Byte) (a : Nat) (write : Option (List Byte)) (len : Nat) (x : Answered) (s : State) : State :=
  if x = .never then bar2Refuse src pgPcie req eTimeout a write.isSome (countWrap pgNoc 0 0x044 s)
  else if write.isNone && dramFails s a x then send (.unsupported src) (dramError req a s)
  else bar2Serve src req a write len (if write.isNone then dramCorrects a x s else s)

/-- A BAR2 request of `len` bytes at an offset of the 64 GiB window; `write` holds the bytes of a write. -/
def bar2Access (src : Bar2Source) (off : Nat) (write : Option (List Byte)) (len : Nat) (x : Answered) (s : State) : State :=
  let f := bar2Fn src
  let w := write.isSome
  let n := match write with
    | some bs => bs.length
    | none => len
  let a := bar2Addr off
  let hi := a + n - 1
  if inReset s || !s.pcie.linkUp || !domOn s 15 || !fnExists s f || n == 0 then s
  else match bar2Peer s src, src with
    | some p, .rid rid =>
      let req := (Requester.peer (Fin.ofNat 16 p)).code
      if !inAperture s w off n then bar2Refuse src pgHerd req ePermission a w (countRefusal ePermission s)
      else match rangeRefused (placeRefusal s none false w 0) a n with
        | some code => bar2Refuse src pgPcie req code a w (countRefusal code s)
        | none =>
          if rangeMissing s a hi then bar2Refuse src pgPcie req eAddrRange a w (countRefusal eAddrRange s)
          else match write.bind (mailboxWrite s rid p a) with
            | some s => s
            | none => bar2Answer src req a write n x s
    | _, _ =>
      match strangerRecord s src a write with
      | some s => s
      | none =>
      let req := (Requester.fn f).code
      if !grantCovers s f w off (off + n - 1) then bar2Refuse src pgPcie req ePermission a w (countRefusal ePermission s)
      else if rangeMissing s a hi then bar2Refuse src pgPcie req eAddrRange a w (countRefusal eAddrRange s)
      else match rangeRefused (placeRefusal s none false w 0) a n with
        | some code => bar2Refuse src pgPcie req code a w (countRefusal code s)
        | none => bar2Answer src req a write n x s

/-- The write of a record or a message at an address of the mailbox region arrives as the BAR2 request that it is (R366): `f` takes it
where a peer's request lies in the aperture of a herd's device. -/
def slotRequest (rid : BitVec 16) (a : Nat) (bs : List Byte) (f : State → State) (s : State) : State :=
  match bar2Offset a with
  | none => s
  | some off =>
    if !inReset s && (ridPeer s rid).isSome && !herdAlone s && inAperture s true off bs.length && s.pcie.linkUp && domOn s 15 then f s
    else bar2Access (.rid rid) off (some bs) bs.length .good s

end Sys2Proof.Machine
end

