-- ==== Sys2Proof/Machine/RegCmds.lean ====
section
/-! DEFINITION. The commands on register pages (R15 to R36): accesses, the header's commands, commits, and the reads that
change something. -/

namespace Sys2Proof.Machine

/-- Every channel that has halted since `before` is looked at for the step that started it (R272). -/
def haltChecks (before s : State) : State := (List.range 32).foldl (fun s c => haltCheck c before s) s

/-! ### Accesses -/

def execRegisterWrite (req : Requester) (off : BitVec 18) (size : Nat) (value : Word) (s : State) : Out :=
  .next (haltChecks s (regWrite req off.toNat size value s))

def execRegisterRead (req : Requester) (off : BitVec 18) (size : Nat) (s : State) : Out := .next (regRead req off.toNat size s)

def execPairLoRead (req : Requester) (off : BitVec 18) (s : State) : Out := .next (regRead req off.toNat 4 s)

def execPairLoWrite (req : Requester) (off : BitVec 18) (value : Word) (s : State) : Out :=
  .next (regWrite req off.toNat 4 value s)

/-! ### The header (R18, R20, R21, R23, R26, R34) -/

def execEnable (req : Requester) (page : Fin 32) (on : Bool) (s : State) : Out := .next (pageReg req page 0x008 (flag 0 on) s)

/-- COMMIT leaves ENABLE as it is. -/
def execCommit (req : Requester) (page : Fin 32) (s : State) : Out :=
  .next (pageReg req page 0x008 (flag 0 (pageEnable s page) ||| 2) s)

def execFuncReset (req : Requester) (page : Fin 32) (s : State) : Out := .next (pageReg req page 0x008 4 s)

/-- The safe point of a block. A running herd's is its next status record (R24). -/
def execStagedCommitApply (page : Fin 32) (s : State) : Out :=
  .next (if page.val = pgHerd ∧ pageEnable s page = true then s else commitPoint page s)

def execBlockDrained (page : Fin 32) (s : State) : Out := .next (blockDrained page s)

/-- A W1C write of IRQ_STAT, with the bits that events set at the same instant: they stay set. -/
def irqStatWrite (r : Requester) (page : Nat) (v coincident : Word) (s : State) : State :=
  let events (s : State) : State := if pageUp s page then raiseBits page coincident s else s
  if !reqLive s r || isParked s r then events s
  else if !lfiQuiet s lfiNoc r.code.toNat 0 then events (pageReg r page 0x010 v s)
  else match writeCheck s r page 0x010 with
    | some (pg, code) => events (regRefused r code (recordErr pg r.code code (regAddr page 0x010) s))
    | none => irqClear page v coincident s

def execIrqStatClear (req : Requester) (page : Fin 32) (value coincident : Word) (s : State) : Out :=
  .next (irqStatWrite req page value coincident s)

def execIrqSet (req : Requester) (page : Fin 32) (value : Word) (s : State) : Out := .next (pageReg req page 0x018 value s)

def execChSelWrite (req : Requester) (page : Fin 32) (value : Word) (s : State) : Out := .next (pageReg req page 0x01C value s)

def execErrInfoClear (req : Requester) (page : Fin 32) (value : Word) (s : State) : Out := .next (pageReg req page 0x020 value s)

/-! ### Reads that clear or pop (R127, R164, R333, R380, R417) -/

def execDetLogRead (req : Requester) (s : State) : Out := .next (pageGet req pgShm 0x058 s)
def execSatCntRead (req : Requester) (core : Fin 6) (s : State) : Out := .next (pageGet req (pgCore core) 0x05C s)
def execCsiErrRead (req : Requester) (s : State) : Out := .next (pageGet req pgCsi 0x40C s)
def execPeerErrRead (req : Requester) (s : State) : Out := .next (pageGet req pgHerd 0x420 s)
def execErasedRead (req : Requester) (s : State) : Out := .next (pageGet req pgCarafe 0x04C s)

end Sys2Proof.Machine
end

