-- ==== Sys2Proof/Machine/HostCmds.lean ====
section
/-! DEFINITION. The commands and events of the host interface (R337 to R359), of herds (R360 to R375) and of the link fault
injector (R376 to R381). -/

namespace Sys2Proof.Machine

/-! ### Queues -/

/-- A doorbell of one of a requester's four queues: a function's in its BAR0 (R339), firmware's in the HOSTQ window of queue
64 + q (R344, R359). No other requester has queues. -/
def ringDoorbell (r : Requester) (q : Nat) (cq : Bool) (v : Word) (s : State) : State :=
  match r with
  | .fn _ => regWrite r (0x20000 + 8 * q + if cq then 4 else 0) 4 v s
  | .mgmt =>
    if !reqLive s r || isParked s r || !pageUp s pgHostq || (getHdr s pgHostq).resetBusy then s
    else
      let ring (v : Word) (s : State) : State := if cq then cqDoorbell r (64 + q) v s else sqDoorbell r (64 + q) v s
      match lfiItem lfiNoc r.code.toNat 0 s with
      | (some (.drop, _), s) => regErr pgHostq (if cq then 0x424 else 0x420) r eLfi s
      | (some (.corrupt, c), s) => ring (v ^^^ lfiReg s c 0x40C) s
      | (_, s) => ring v s
  | _ => s

def execSqDoorbell (req : Requester) (q : Fin 4) (value : Word) (s : State) : Out := .next (ringDoorbell req q false value s)
def execCqDoorbell (req : Requester) (q : Fin 4) (value : Word) (s : State) : Out := .next (ringDoorbell req q true value s)
def execQueueEnable (req : Requester) (value : Word) (s : State) : Out := .next (pageReg req pgHostq 0x400 value s)
def execSqEntryFetch (q : Fin 68) (x : Answered) (s : State) : Out := .next (sqFetch q x s)
def execJobEntry (x : Answered) (s : State) : Out := .next (jobEntry x s)
def execAbortEntry (s : State) : Out := .next (abortEntry s)
def execIrqAggTimeout (q : Fin 68) (s : State) : Out := .next (irqAggTimeout q s)

/-! ### Functions and the link -/

def execFlr (f : Fin 16) (s : State) : Out := .next (flrAssert f s)
def execFnReset (req : Requester) (f : Fin 16) (s : State) : Out := .next (pageReg req pgPcie 0x048 (at_ 0 f) s)

/-- The link is lost (R356): PERST# and a hot reset act whatever the link's state, link down only on a link that was up. -/
def linkLost (k : LinkLossKind) (s : State) : State :=
  match k with
  | .perst => linkLoss (modPcie (fun p => { p with perst := true }) s)
  | .hotReset => linkLoss s
  | .linkDown => if s.pcie.linkUp then linkLoss s else s

def execLinkLoss (kind : LinkLossKind) (s : State) : Out := .next (linkLost kind s)
def execLinkTrainingStart (s : State) : Out := .next (linkTrain s)
def execPcieLinkUp (speed : BitVec 3) (width : BitVec 4) (s : State) : Out := .next (linkUp speed width s)
def execConfigurationRequest (r : ConfigRequest) (s : State) : Out := .next (configRequest r s)

def execBar2Access (src : Bar2Source) (off : BitVec 36) (write : Option (List Byte)) (len : Nat) (answered : Answered) (s : State) : Out :=
  .next (bar2Access src off.toNat write len answered s)

def execPtmDialogue (ok : Bool) (master : DWord) (delay : BitVec 16) (s : State) : Out := .next (ptmDialogue ok master delay s)

def execClassGive (req : Requester) (cls : Fin 64) (owner : Byte) (s : State) : Out :=
  .next (pageReg req pgPcie 0x070 (at_ 0 cls ||| at_ 8 owner.toNat) s)

/-! ### Herds -/

/-- The records of a period go out; a JOINING device then reads the refusal word of the bellwether, which may name it with a
code (R362); and a commit that waited for the record applies (R24). -/
def statusRecords (refused : Option Byte) (s : State) : State :=
  if herdAlone s || !recordsDue s then s
  else
    let s := refusalRead (recordsSend (modHerd (fun h => { h with sentAt := some (now s) }) s))
    let s := match refused with
      | some code => beRefused code s
      | none => s
    commitPoint pgHerd s

def execStatusRecordSend (refused : Option Byte) (s : State) : Out := .next (statusRecords refused s)
def execStatusRecordRx (rid : BitVec 16) (record : Vector Word 16) (s : State) : Out :=
  .next (slotRequest rid (mbxBase s + 64 * msgSrc record) (wordsBytes record.toList) (recordArrive rid record) s)
def execPeerMiss (peer : Fin 16) (s : State) : Out := .next (peerMiss peer s)
def execMbxSend (req : Requester) (value : Word) (s : State) : Out := .next (pageReg req pgHerd 0x0B8 value s)

def execMessageRx (rid : BitVec 16) (sender : Fin 16) (slot : Nat) (aligned : Bool) (message : Vector Word 16) (s : State) : Out :=
  .next (slotRequest rid (mbxBase s + 1024 + 64 * (sender * mbxDepth s + slot)) (wordsBytes message.toList)
    (messageArrive rid sender slot aligned message) s)

def execGapTimeout (peer : Fin 16) (s : State) : Out := .next (gapTimeout peer s)
def execRxDone (req : Requester) (value : Word) (s : State) : Out := .next (pageReg req pgHerd 0x41C value s)

/-! ### The link fault injector -/

def execLfiEnable (req : Requester) (value : Word) (s : State) : Out := .next (pageReg req pgLfi 0x400 value s)
def execLfiReorderTimeout (ch : Fin 4) (s : State) : Out := .next (lfiTimeout packetEnd ch s)

end Sys2Proof.Machine
end

