-- ==== Sys2Proof/Machine/MediaCmds.lean ====
section
/-! DEFINITION. The commands and events of Ethernet, the stream receiver, the codec, the sensors (R294 to R316), and of
control I/O and its rules (R317 to R336). -/

namespace Sys2Proof.Machine

/-! ### Ethernet and streams -/

def execEthFrameRx (port : Fin 2) (frame : RxFrame) (s : State) : Out := .next (ethArrive port frame s)
def execEthTx (port : Fin 2) (x : Answered) (s : State) : Out := .next (ethTransmit port x s)
def execEthLinkChange (port : Fin 2) (up : Bool) (s : State) : Out := .next (ethLink port up s)
def execReorderTimeout (entry : Fin 512) (s : State) : Out := .next (reorderTimeout entry s)
def execFrameTimeout (entry : Fin 512) (s : State) : Out := .next (frameTimeout entry s)
def execStreamEntryWrite (req : Requester) (k : Fin 8) (value : Word) (s : State) : Out :=
  .next (pageReg req pgStrx (0x400 + 0x80 * k) value s)
def execQcmdDiscard (req : Requester) (s : State) : Out := .next (pageReg req pgStrx 0x060 1 s)
def execQcmdNext (req : Requester) (s : State) : Out := .next (pageReg req pgStrx 0x060 2 s)
def execOutRelease (req : Requester) (k : Fin 8) (value : Word) (s : State) : Out :=
  .next (pageReg req pgStrx (0x450 + 0x80 * k) value s)

/-! ### Codec -/

def execDecodeStart (x : Answered) (s : State) : Out := .next (decodeStart x s)
def execDecodeDone (res : DecodeResult) (s : State) : Out := .next (pacerSettle (framesReady (decodeDone res s)))
def execOutputBufferTimeout (s : State) : Out := .next (pacerSettle (outputTimeout s))
def execEncodeStart (x : Answered) (s : State) : Out := .next (encodeStart x s)
def execEncodeDone (key : Bool) (bits : List Byte) (s : State) : Out := .next (encodeDone key bits s)
def execDoutRelease (req : Requester) (value : Word) (s : State) : Out := .next (pageReg req pgCodec 0x440 value s)

/-! ### Sensors and the pixel front end -/

def execCsiPacket (input : Fin 4) (pkt : CsiPacket) (s : State) : Out := .next (csiPacket input pkt s)
def execCsiFrameEnd (input : Fin 4) (s : State) : Out := .next (csiFrameEnd input s)
def execPfeFrameWritten (input out : Fin 4) (s : State) : Out := .next (frameWritten input out s)
def execBufRelease (req : Requester) (out : Fin 4) (value : Word) (s : State) : Out :=
  .next (pageReg req pgPfe (0x4A4 + 0x40 * out) value s)

/-- CSI_STAT.SYNC of an input (R333). -/
def csiSync (input : Nat) (sync : Bool) (s : State) : State := modCsi input (fun c => { c with sync := sync }) s

def execCsiSyncChange (input : Fin 4) (sync : Bool) (s : State) : Out := .next (csiSync input sync s)

/-! ### Control I/O -/

def execInputPinChange (pin : Fin 16) (level : Bool) (s : State) : Out := .next (inputPin pin level s)
def execDebounceExpiry (pin : Fin 16) (s : State) : Out := .next (debounced pin s)
def execOutSet (req : Requester) (value : Word) (s : State) : Out := .next (pageReg req pgCtlio 0x05C value s)
def execOutClr (req : Requester) (value : Word) (s : State) : Out := .next (pageReg req pgCtlio 0x060 value s)
def execPwmPeriodBoundary (p : Fin 4) (s : State) : Out := .next (pwmBoundary p s)
def execUartDataWrite (req : Requester) (u : Fin 2) (value : Word) (s : State) : Out :=
  .next (pageReg req pgCtlio (0x0C4 + 0x10 * u) value s)
def execUartDataRead (req : Requester) (u : Fin 2) (s : State) : Out := .next (pageGet req pgCtlio (0x0C4 + 0x10 * u) s)
def execUartRxByte (u : Fin 2) (data : Byte) (perr ferr : Bool) (s : State) : Out := .next (uartReceive u data perr ferr s)
def execUartTxByte (u : Fin 2) (s : State) : Out := .next (uartSend u s)
def execEvPost (req : Requester) (value : Word) (s : State) : Out := .next (pageReg req pgCtlio 0x068 value s)
def execRulePass (s : State) : Out := .next (rulePass s)
def execRuleTimerExpiry (t : Fin 8) (s : State) : Out := .next (timerExpire t s)
def execPulseEnd (out : Fin 8) (s : State) : Out := .next (pulseEnd out s)
def execWindowExpiry (rule : Fin 64) (condB : Bool) (s : State) : Out := .next (windowEnd rule condB s)
def execTemplateTx (port : Fin 2) (s : State) : Out := .next (templateTx port s)
def execGpioPinChange (pin : Fin 8) (level : Bool) (s : State) : Out := .next (gpioPin pin level s)

end Sys2Proof.Machine
end

