-- ==== Sys2Proof/Machine/MemCmds.lean ====
section
/-! DEFINITION. The commands and events of shared memory (R143 to R159) and of the transfer engine (R265 to R293). -/

namespace Sys2Proof.Machine

/-! ### Shared memory -/

def execGoldenRestoreComplete (line : BitVec 18) (dramOk : Bool) (s : State) : Out := .next (restoreDone line dramOk s)
def execRestoreWaitEnd (line : BitVec 18) (s : State) : Out := .next (lineArrived line s)
def execSliceDrained (n : Fin 4) (s : State) : Out := .next (sliceDrained n s)
def execSlicePowerTimeout (n : Fin 4) (s : State) : Out := .next (sliceTimeout n s)

/-- The offset of register `o` of semaphore `k` of the window (R165). -/
def semOff (o : Nat) (k : Fin 4) : Nat := 0x400 + o + 0x20 * k

def execSemPost (req : Requester) (k : Fin 4) (value : Word) (s : State) : Out := .next (pageReg req pgShm (semOff 0x04 k) value s)
def execSemWaitThreshold (req : Requester) (k : Fin 4) (value : Word) (s : State) : Out :=
  .next (pageReg req pgShm (semOff 0x08 k) value s)
def execSemWait (req : Requester) (k : Fin 4) (s : State) : Out := .next (pageGet req pgShm (semOff 0x08 k) s)
def execSemWaitTimeout (req : Requester) (s : State) : Out := .next (semTimeout req s)
def execSemTake (req : Requester) (k : Fin 4) (s : State) : Out := .next (pageGet req pgShm (semOff 0x0C k) s)
def execSemSet (req : Requester) (k : Fin 4) (value : Word) (s : State) : Out := .next (pageReg req pgShm (semOff 0x10 k) value s)

def execScrubStart (req : Requester) (value : Word) (s : State) : Out := .next (pageReg req pgShm 0x060 value s)
def execScrubDone (s : State) : Out := .next (scrubEnd s)
def execPatrolPass (corrected : Nat) (s : State) : Out := .next (patrolPass corrected s)

/-! ### The transfer engine -/

def execKick (req : Requester) (s : State) : Out := .next (haltChecks s (pageReg req pgDma 0x404 1 s))

/-- A write of CH_CMD.DISARM, with whether a hand-over asks at the same instant (R268, R275). -/
def disarmWrite (r : Requester) (pending : Bool) (s : State) : State :=
  if !reqLive s r || isParked s r then s
  else if !lfiQuiet s lfiNoc r.code.toNat 0 then haltChecks s (pageReg r pgDma 0x404 2 s)
  else match writeCheck s r pgDma 0x404 with
    | some (pg, code) => regRefused r code (recordErr pg r.code code (regAddr pgDma 0x404) s)
    | none => match selChan s r pgDma with
      | some c => haltCheck c s (chCmdWrite r c 2 pending s)
      | none => s

def execDisarm (req : Requester) (handoverPending : Bool) (s : State) : Out := .next (disarmWrite req handoverPending s)
def execClear (req : Requester) (s : State) : Out := .next (pageReg req pgDma 0x404 4 s)
def execShadowArm (req : Requester) (s : State) : Out := .next (pageReg req pgDma 0x40C 1 s)

/-- A write of CH_CTRL that changes EN alone. -/
def chEnWrite (r : Requester) (on : Bool) (s : State) : State :=
  let ctrl := match selChan s r pgDma with
    | some c => dmaView s c 0x400
    | none => 0
  pageReg r pgDma 0x400 (mix 1 ctrl (flag 0 on)) s

def execChannelDisable (req : Requester) (s : State) : Out := .next (chEnWrite req false s)
def execChannelEnable (req : Requester) (s : State) : Out := .next (chEnWrite req true s)

def execDescriptorFetch (ch : Fin 32) (answered : Answered) (s : State) : Out := .next (haltCheck ch s (descFetched ch answered s))
def execMoverGrant (ch : Fin 32) (mover : Fin 4) (beats corrected : Nat) (s : State) : Out := .next (moverGrant ch mover beats corrected s)
def execTransferEnd (ch : Fin 32) (s : State) : Out := .next (haltCheck ch s (transferEnd ch s))
def execWritebackComplete (ch : Fin 32) (s : State) : Out := .next (haltCheck ch s (writebackDone ch s))
def execTransferHalt (ch : Fin 32) (code : Byte) (addr : Addr) (s : State) : Out := .next (transferHalt ch code addr s)

end Sys2Proof.Machine
end

