-- ==== Sys2Proof/Machine/PacerCmds.lean ====
section
/-! DEFINITION. The pacer's commands and events (R37 to R80), the watchdogs (R128 to R130) and the sensors (R392). -/

namespace Sys2Proof.Machine

/-- A write of PACER.CMD: OP and ARG (R78). -/
def pacerOp (r : Requester) (op arg : Nat) (s : State) : State := pageReg r pgPacer 0x054 (at_ 0 op ||| at_ 8 arg) s

def execClassEntryWrite (req : Requester) (off : BitVec 12) (value : Word) (s : State) : Out :=
  .next (pageReg req pgPacer off.toNat value s)

def execAdmitCmd (req : Requester) (s : State) : Out := .next (pacerOp req 1 0 s)
def execRevoke (req : Requester) (cls : Fin 64) (s : State) : Out := .next (pacerOp req 2 cls s)
def execShrink (req : Requester) (cls : Fin 64) (s : State) : Out := .next (pacerOp req 3 cls s)
def execRelease (req : Requester) (cls : Fin 64) (s : State) : Out := .next (pacerOp req 4 cls s)
def execFence (req : Requester) (arg : Fin 64) (s : State) : Out := .next (pacerOp req 5 arg s)
def execUnfence (req : Requester) (arg : Fin 64) (s : State) : Out := .next (pacerOp req 6 arg s)
def execReadmit (req : Requester) (cls : Fin 64) (s : State) : Out := .next (pacerOp req 7 cls s)

def execNextCommandStart (s : State) : Out := .next (nextCommand s)
def execRailTimeout (s : State) : Out := .next (railTimeout s)

def execJobRelease (job : Nat) (s : State) : Out := .next (jobRelease job s)
def execJobReady (job : Nat) (s : State) : Out := .next (jobReady job s)
def execStepStart (core : Fin 6) (answered : Answered) (s : State) : Out := .next (stepBegin core answered s)
def execStepCommit (core : Fin 6) (s : State) : Out := .next (stepCommit core s)
def execCompletionHandoff (job : Nat) (s : State) : Out := .next (completionHandoff job s)
def execDeadlinePass (job : Nat) (s : State) : Out := .next (deadlinePass job s)
def execOverrun (core : Fin 6) (s : State) : Out := .next (overrun core s)
def execParityDetection (place : ParityPlace) (s : State) : Out := .next (parityAt place s)
def execCarryCopyComplete (job : Nat) (share : Fin 6) (s : State) : Out := .next (carryDone job share s)
def execFenceHoldEnd (core : Fin 6) (s : State) : Out := .next (fenceHoldEnd core s)
def execPaceWindow (core : Fin 6) (busy : Bool) (steps : Nat) (s : State) : Out := .next (paceWindow core busy steps s)
def execSensorReading (readings : Vector (BitVec 12) 7) (s : State) : Out := .next (sensorReading readings s)
def execThermalDrained (s : State) : Out := .next (thermalLower s)
def execThermalRetry (s : State) : Out := .next (thermalRetry s)
def execCoreWatchdogExpiry (core : Fin 6) (s : State) : Out := .next (coreWatchdog core s)
def execWdtKick (req : Requester) (value : Word) (s : State) : Out := .next (pageReg req pgMgmt 0x054 value s)
def execMgmtWatchdogExpiry (s : State) : Out := .next (mgmtWatchdog s)

end Sys2Proof.Machine
end

