-- ==== Sys2Proof/Machine/PowerCmds.lean ====
section
/-! DEFINITION. The commands and events of power domains, resets and time (R382 to R417). -/

namespace Sys2Proof.Machine

/-! ### Power -/

def execPowerDomainRequest (req : Requester) (n : Fin 20) (value : Word) (s : State) : Out :=
  .next (pageReg req pgPower (0x080 + 4 * n) value s)

def execDomainStateReached (n : Fin 20) (s : State) : Out := .next (domReached n s)
def execDramTrained (gib : Fin 65) (channels : BitVec 16) (s : State) : Out := .next (dramTrain gib channels s)
def execRailPoll (replies : List (Option AvsReply)) (s : State) : Out := .next (railPoll replies s)
def execDripModeWrite (req : Requester) (value : Word) (s : State) : Out := .next (pageReg req pgPower 0x040 value s)

def execI2cGo (req : Requester) (m : Fin 2) (value : Word) (s : State) : Out :=
  .next (pageReg req pgPower (0x0E4 + 0x10 * m) value s)

def execI2cDone (m : Fin 2) (nack : Bool) (data : DWord) (s : State) : Out := .next (i2cDone m nack data s)

/-! ### Resets -/

def execResetSourceAssert (src : Fin 14) (s : State) : Out := .next (sourceAssert src s)
def execResetSourceRelease (src : Fin 14) (s : State) : Out := .next (sourceRelease src s)
def execResetStretchEnd (src : Fin 14) (s : State) : Out := .next (stretchEnd src s)
def execDeferralEnd (s : State) : Out := .next (deferralEnd s)
def execSwrst (req : Requester) (value : Word) (s : State) : Out := .next (pageReg req pgReset 0x054 value s)
def execRecover (req : Requester) (value : Word) (s : State) : Out := .next (pageReg req pgReset 0x05C value s)
def execServiceDeclare (req : Requester) (value : Word) (s : State) : Out := .next (pageReg req pgReset 0x0A4 value s)
def execFuseReadComplete (s : State) : Out := .next (fuseRead s)
def execBlockReportsReady (target : ReadyTarget) (s : State) : Out := .next (reportsReady target s)

/-! ### Time -/

def execCrystalStart (s : State) : Out := .next (crystalStart s)
def execTimeSet (req : Requester) (lo : Word) (s : State) : Out := .next (pageReg req pgTime 0x050 lo s)

/-- The index of PPS_OUT among the controllable pins (R405). -/
def ppsPin : Nat := 44

/-- The period of the crystal with which device time reaches a whole second has just passed. -/
def atWholeSecond (s : State) : Bool := s.time.running && decide (now s % 1000000000 ≤ 40)

/-- A whole second of device time (R416). -/
def ppsStart (s : State) : State :=
  if bit (getReg s pgTime 0 0x060) 0 && atWholeSecond s then
    levelPin ppsPin true (modTime (fun t => { t with ppsHigh := true, ppsFrom := now s }) s)
  else s

def execPpsPulse (s : State) : Out := .next (ppsStart s)

/-- PPS_OUT has been high for WIDTH_MS (R416). -/
def ppsStop (s : State) : State :=
  if s.time.ppsHigh && decide (s.time.ppsFrom + fld (getReg s pgTime 0 0x060) 15 8 * Config.ms ≤ now s) then
    levelPin ppsPin false (modTime (fun t => { t with ppsHigh := false }) s)
  else s

def execPpsWidthEnd (s : State) : Out := .next (ppsStop s)

end Sys2Proof.Machine
end

