-- ==== Sys2Proof/Machine/TrustCmds.lean ====
section
/-! DEFINITION. The commands and events of the lifecycle, debug access and firmware update (R418 to R438), and of the TAP
(R460, R461). -/

namespace Sys2Proof.Machine

/-! ### Lifecycle -/

/-- A write of SEC.LC_CMD: OP, ARG and KEY (R420). -/
def lcWrite (r : Requester) (op arg : Nat) (key : BitVec 16) (s : State) : State :=
  pageReg r pgSec 0x048 (at_ 0 op ||| at_ 4 arg ||| at_ 16 key.toNat) s

def execProvision (req : Requester) (arg : Fin 4) (key : BitVec 16) (s : State) : Out := .next (lcWrite req 1 arg key s)
def execDeploy (req : Requester) (key : BitVec 16) (s : State) : Out := .next (lcWrite req 2 0 key s)
def execReturnLc (req : Requester) (key : BitVec 16) (s : State) : Out := .next (lcWrite req 3 0 key s)
def execRevokeOwnerHash (req : Requester) (arg : Fin 4) (key : BitVec 16) (s : State) : Out := .next (lcWrite req 4 arg key s)

def execTamper (s : State) : Out := .next (tamperDetected s)
def execSecureBoot (s : State) : Out := .next (secureBoot s)

/-! ### Debug access -/

def execDebugRequest (req : Requester) (value : Word) (s : State) : Out := .next (pageReg req pgSec 0x050 value s)
def execDbgSubmit (req : Requester) (s : State) : Out := .next (pageReg req pgSec 0x058 1 s)
def execChallengeExpiry (s : State) : Out := .next (challengeExpire s)

/-! ### Update -/

/-- A write of UPDATE.CMD (R437). -/
def updWrite (r : Requester) (op : Nat) (s : State) : State := pageReg r pgUpdate 0x040 (at_ 0 op) s

def execLoad (req : Requester) (s : State) : Out := .next (updWrite req 1 s)
def execLoadDone (answered : Answered) (s : State) : Out := .next (loadDone answered s)
def execArm (req : Requester) (s : State) : Out := .next (updWrite req 2 s)
def execUpdateDisarm (req : Requester) (s : State) : Out := .next (updWrite req 3 s)
def execConfirm (req : Requester) (s : State) : Out := .next (updWrite req 4 s)
def execAbandon (req : Requester) (s : State) : Out := .next (updWrite req 5 s)
def execActivationStop (s : State) : Out := .next (activationStop s)
def execActivationTime (s : State) : Out := .next (activationTime s)
def execActivationReset (s : State) : Out := .next (activationReset s)

/-! ### SSTORE -/

def execSstoreWrite (req : Requester) (value : Word) (s : State) : Out := .next (pageReg req pgSstore 0x048 value s)
def execSstoreWriteDone (s : State) : Out := .next (sstoreDone s)

/-! ### The TAP (R460, R461) -/

def tapExtest : BitVec 5 := 0x00
def tapIdcode : BitVec 5 := 0x01
def tapSample : BitVec 5 := 0x02
def tapHighz : BitVec 5 := 0x03
def tapClamp : BitVec 5 := 0x04
def tapSec : BitVec 5 := 0x08
def tapBypass : BitVec 5 := 0x1F

/-- The cells of the boundary-scan chain (R457, R461): the 48 controllable pins by index, IN0 to IN15, the two RXD, AVS_SDATA, RESET_N,
PERST_N and DDR_RESET_N. Clock, calibration, sense and TAP pins have none. DESIGN CHOICE: the spec gives the chain no order. -/
def scanCells : Nat := 70

/-- The instruction that a code acts as: the boundary-scan instructions only while debug is open, any unlisted code as BYPASS. -/
def tapActs (dbgOpen : Bool) (code : BitVec 5) : BitVec 5 :=
  if code = tapIdcode ∨ code = tapSec then code
  else if dbgOpen && (code == tapExtest || code == tapSample || code == tapHighz || code == tapClamp) then code
  else tapBypass

/-- The TAP updates its instruction register. The scan data that SAMPLE/PRELOAD and EXTEST bring come from outside, or from the pins. -/
def tapUpdate (code : BitVec 5) (s : State) : State :=
  if code = tapExtest ∨ code = tapSample then
    let (d, s) := draw scanCells s
    modTrust (fun t => { t with tapIr := code, tapScan := d }) s
  else modTrust (fun t => { t with tapIr := code }) s

/-- The instruction that is in force, by whether debug is open now. -/
def tapNow (s : State) : BitVec 5 := tapActs s.trust.debugOpen s.trust.tapIr

def execTapInstruction (code : BitVec 5) (s : State) : Out := .next (tapUpdate code s)
def execTapReset (s : State) : Out := .next (modTrust (fun t => { t with tapIr := tapIdcode }) s)

/-- What a controllable pin shows at its ball: its owner's drive, or what the boundary scan puts there. -/
def pinOut (s : State) (i : Nat) : PinDrive :=
  if tapNow s = tapHighz then .hiZ
  else if tapNow s = tapExtest ∨ tapNow s = tapClamp then
    if bit s.trust.tapScan i then (if openDrain i then .hiZ else .high) else if openDrain i then .sink else .low
  else (getPin s i).drive

/-- The level that the scan chain puts on DDR_RESET_N, the one output that is not controllable; `none` where the DRAM controller drives
it. -/
def ddrResetScan (s : State) : Option Bool :=
  if tapNow s = tapExtest ∨ tapNow s = tapClamp then some (bit s.trust.tapScan 69) else none

/-- The IDCODE register (R460). -/
def idcode (s : State) : Word := at_ 28 (s.fuses.step.toNat % 2) ||| at_ 12 0x6480 ||| at_ 1 0x3D5 ||| 1

end Sys2Proof.Machine
end

