-- ==== Sys2Proof/Machine/Dispatch.lean ====
section
/-! DEFINITION. The meaning of every command: one arm per constructor of `Instr`, each a direct call of its meaning. -/

namespace Sys2Proof.Machine

/-- The effect of a command on everything but the queue. -/
def exec (i : Instr) (s : State) : Host.Outcome State Fault Refusal :=
  match i with
  | .registerWrite req off size value => Sys2Proof.Machine.execRegisterWrite req off size value s
  | .enable req page on => Sys2Proof.Machine.execEnable req page on s
  | .commit req page => Sys2Proof.Machine.execCommit req page s
  | .funcReset req page => Sys2Proof.Machine.execFuncReset req page s
  | .stagedCommitApply page => Sys2Proof.Machine.execStagedCommitApply page s
  | .blockDrained page => Sys2Proof.Machine.execBlockDrained page s
  | .irqStatClear req page value coincident => Sys2Proof.Machine.execIrqStatClear req page value coincident s
  | .irqSet req page value => Sys2Proof.Machine.execIrqSet req page value s
  | .chSelWrite req page value => Sys2Proof.Machine.execChSelWrite req page value s
  | .errInfoClear req page value => Sys2Proof.Machine.execErrInfoClear req page value s
  | .pairLoRead req off => Sys2Proof.Machine.execPairLoRead req off s
  | .pairLoWrite req off value => Sys2Proof.Machine.execPairLoWrite req off value s
  | .detLogRead req => Sys2Proof.Machine.execDetLogRead req s
  | .satCntRead req core => Sys2Proof.Machine.execSatCntRead req core s
  | .csiErrRead req => Sys2Proof.Machine.execCsiErrRead req s
  | .peerErrRead req => Sys2Proof.Machine.execPeerErrRead req s
  | .erasedRead req => Sys2Proof.Machine.execErasedRead req s
  | .classEntryWrite req off value => Sys2Proof.Machine.execClassEntryWrite req off value s
  | .admitCmd req => Sys2Proof.Machine.execAdmitCmd req s
  | .revoke req cls => Sys2Proof.Machine.execRevoke req cls s
  | .shrink req cls => Sys2Proof.Machine.execShrink req cls s
  | .release req cls => Sys2Proof.Machine.execRelease req cls s
  | .fence req arg => Sys2Proof.Machine.execFence req arg s
  | .unfence req arg => Sys2Proof.Machine.execUnfence req arg s
  | .readmit req cls => Sys2Proof.Machine.execReadmit req cls s
  | .nextCommandStart => Sys2Proof.Machine.execNextCommandStart s
  | .railTimeout => Sys2Proof.Machine.execRailTimeout s
  | .jobRelease job => Sys2Proof.Machine.execJobRelease job s
  | .jobReady job => Sys2Proof.Machine.execJobReady job s
  | .stepStart core answered => Sys2Proof.Machine.execStepStart core answered s
  | .stepCommit core => Sys2Proof.Machine.execStepCommit core s
  | .completionHandoff job => Sys2Proof.Machine.execCompletionHandoff job s
  | .deadlinePass job => Sys2Proof.Machine.execDeadlinePass job s
  | .overrun core => Sys2Proof.Machine.execOverrun core s
  | .parityDetection place => Sys2Proof.Machine.execParityDetection place s
  | .carryCopyComplete job share => Sys2Proof.Machine.execCarryCopyComplete job share s
  | .fenceHoldEnd core => Sys2Proof.Machine.execFenceHoldEnd core s
  | .paceWindow core busy steps => Sys2Proof.Machine.execPaceWindow core busy steps s
  | .sensorReading readings => Sys2Proof.Machine.execSensorReading readings s
  | .thermalDrained => Sys2Proof.Machine.execThermalDrained s
  | .thermalRetry => Sys2Proof.Machine.execThermalRetry s
  | .coreWatchdogExpiry core => Sys2Proof.Machine.execCoreWatchdogExpiry core s
  | .nop at_ slot => Sys2Proof.Machine.execNop at_ slot s
  | .add at_ d a b => Sys2Proof.Machine.execAdd at_ d a b s
  | .addi at_ d a imm ext => Sys2Proof.Machine.execAddi at_ d a imm ext s
  | .sub at_ d a b => Sys2Proof.Machine.execSub at_ d a b s
  | .and at_ d a b => Sys2Proof.Machine.execAnd at_ d a b s
  | .or at_ d a b => Sys2Proof.Machine.execOr at_ d a b s
  | .xor at_ d a b => Sys2Proof.Machine.execXor at_ d a b s
  | .shl at_ d a b sub => Sys2Proof.Machine.execShl at_ d a b sub s
  | .shr at_ d a b sub => Sys2Proof.Machine.execShr at_ d a b sub s
  | .sra at_ d a b sub => Sys2Proof.Machine.execSra at_ d a b sub s
  | .slt at_ d a b => Sys2Proof.Machine.execSlt at_ d a b s
  | .sltu at_ d a b => Sys2Proof.Machine.execSltu at_ d a b s
  | .mul at_ d a b => Sys2Proof.Machine.execMul at_ d a b s
  | .mulh at_ d a b => Sys2Proof.Machine.execMulh at_ d a b s
  | .movi at_ d imm ext => Sys2Proof.Machine.execMovi at_ d imm ext s
  | .bnz at_ a off => Sys2Proof.Machine.execBnz at_ a off s
  | .bz at_ a off => Sys2Proof.Machine.execBz at_ a off s
  | .jmp at_ off => Sys2Proof.Machine.execJmp at_ off s
  | .call at_ off => Sys2Proof.Machine.execCall at_ off s
  | .jr at_ a => Sys2Proof.Machine.execJr at_ a s
  | .reti at_ => Sys2Proof.Machine.execReti at_ s
  | .resume at_ => Sys2Proof.Machine.execResume at_ s
  | .repeatOp at_ len cnt rot reg g => Sys2Proof.Machine.execRepeatOp at_ len cnt rot reg g s
  | .getcr at_ d sub => Sys2Proof.Machine.execGetcr at_ d sub s
  | .setcr at_ a sub => Sys2Proof.Machine.execSetcr at_ a sub s
  | .stepend at_ last => Sys2Proof.Machine.execStepend at_ last s
  | .evpostOp at_ a => Sys2Proof.Machine.execEvpostOp at_ a s
  | .mfence at_ => Sys2Proof.Machine.execMfence at_ s
  | .trap at_ imm ext => Sys2Proof.Machine.execTrap at_ imm ext s
  | .paddi at_ d a imm ext => Sys2Proof.Machine.execPaddi at_ d a imm ext s
  | .paddo at_ d a b => Sys2Proof.Machine.execPaddo at_ d a b s
  | .pli at_ d imm ext => Sys2Proof.Machine.execPli at_ d imm ext s
  | .oli at_ d imm ext => Sys2Proof.Machine.execOli at_ d imm ext s
  | .gtop at_ d a b => Sys2Proof.Machine.execGtop at_ d a b s
  | .ptog at_ d a sub => Sys2Proof.Machine.execPtog at_ d a sub s
  | .rrot at_ => Sys2Proof.Machine.execRrot at_ s
  | .ldw at_ slot f => Sys2Proof.Machine.execLdw at_ slot f s
  | .ldh at_ f => Sys2Proof.Machine.execLdh at_ f s
  | .ldb at_ f => Sys2Proof.Machine.execLdb at_ f s
  | .stw at_ slot f => Sys2Proof.Machine.execStw at_ slot f s
  | .sth at_ f => Sys2Proof.Machine.execSth at_ f s
  | .stb at_ f => Sys2Proof.Machine.execStb at_ f s
  | .ldf at_ f => Sys2Proof.Machine.execLdf at_ f s
  | .stf at_ f => Sys2Proof.Machine.execStf at_ f s
  | .faddS at_ d a b => Sys2Proof.Machine.execFaddS at_ d a b s
  | .fmulS at_ d a b => Sys2Proof.Machine.execFmulS at_ d a b s
  | .fmaS at_ d a b => Sys2Proof.Machine.execFmaS at_ d a b s
  | .faddD at_ d a b => Sys2Proof.Machine.execFaddD at_ d a b s
  | .fmulD at_ d a b => Sys2Proof.Machine.execFmulD at_ d a b s
  | .fdivS at_ d a b => Sys2Proof.Machine.execFdivS at_ d a b s
  | .fcvt at_ d a sub => Sys2Proof.Machine.execFcvt at_ d a sub s
  | .fcmp at_ d a b sub => Sys2Proof.Machine.execFcmp at_ d a b sub s
  | .gtof at_ d a => Sys2Proof.Machine.execGtof at_ d a s
  | .ftog at_ d a => Sys2Proof.Machine.execFtog at_ d a s
  | .svadd at_ d a b sub => Sys2Proof.Machine.execSvadd at_ d a b sub s
  | .svmul at_ d a b sub => Sys2Proof.Machine.execSvmul at_ d a b sub s
  | .svfma at_ d a b sub => Sys2Proof.Machine.execSvfma at_ d a b sub s
  | .vld at_ l1 f => Sys2Proof.Machine.execVld at_ l1 f s
  | .vst at_ l1 f => Sys2Proof.Machine.execVst at_ l1 f s
  | .vldb at_ l1 f => Sys2Proof.Machine.execVldb at_ l1 f s
  | .gather at_ l1 f => Sys2Proof.Machine.execGather at_ l1 f s
  | .scatter at_ l1 f => Sys2Proof.Machine.execScatter at_ l1 f s
  | .vadd at_ v1 f => Sys2Proof.Machine.execVadd at_ v1 f s
  | .vsub at_ v1 f => Sys2Proof.Machine.execVsub at_ v1 f s
  | .vadds at_ v1 f => Sys2Proof.Machine.execVadds at_ v1 f s
  | .vsubs at_ v1 f => Sys2Proof.Machine.execVsubs at_ v1 f s
  | .vmul at_ v1 f => Sys2Proof.Machine.execVmul at_ v1 f s
  | .vmulh at_ v1 f => Sys2Proof.Machine.execVmulh at_ v1 f s
  | .vmin at_ v1 f => Sys2Proof.Machine.execVmin at_ v1 f s
  | .vmax at_ v1 f => Sys2Proof.Machine.execVmax at_ v1 f s
  | .vabsd at_ v1 f => Sys2Proof.Machine.execVabsd at_ v1 f s
  | .vand at_ v1 f => Sys2Proof.Machine.execVand at_ v1 f s
  | .vor at_ v1 f => Sys2Proof.Machine.execVor at_ v1 f s
  | .vxor at_ v1 f => Sys2Proof.Machine.execVxor at_ v1 f s
  | .vshl at_ v1 f => Sys2Proof.Machine.execVshl at_ v1 f s
  | .vshr at_ v1 f => Sys2Proof.Machine.execVshr at_ v1 f s
  | .vavg at_ v1 f => Sys2Proof.Machine.execVavg at_ v1 f s
  | .vcmpeq at_ v1 f => Sys2Proof.Machine.execVcmpeq at_ v1 f s
  | .vcmplt at_ v1 f => Sys2Proof.Machine.execVcmplt at_ v1 f s
  | .vcmple at_ v1 f => Sys2Proof.Machine.execVcmple at_ v1 f s
  | .vsel at_ v1 f => Sys2Proof.Machine.execVsel at_ v1 f s
  | .vperm at_ v1 f => Sys2Proof.Machine.execVperm at_ v1 f s
  | .vbcast at_ v1 f => Sys2Proof.Machine.execVbcast at_ v1 f s
  | .vmac at_ v1 f => Sys2Proof.Machine.execVmac at_ v1 f s
  | .vmsu at_ v1 f => Sys2Proof.Machine.execVmsu at_ v1 f s
  | .vacclr at_ v1 f => Sys2Proof.Machine.execVacclr at_ v1 f s
  | .vmova at_ v1 f => Sys2Proof.Machine.execVmova at_ v1 f s
  | .vnarrow at_ v1 f => Sys2Proof.Machine.execVnarrow at_ v1 f s
  | .vwiden at_ v1 f => Sys2Proof.Machine.execVwiden at_ v1 f s
  | .vfadd at_ v1 f => Sys2Proof.Machine.execVfadd at_ v1 f s
  | .vfmul at_ v1 f => Sys2Proof.Machine.execVfmul at_ v1 f s
  | .vfma at_ v1 f => Sys2Proof.Machine.execVfma at_ v1 f s
  | .vcvt at_ v1 f => Sys2Proof.Machine.execVcvt at_ v1 f s
  | .vred at_ v1 f => Sys2Proof.Machine.execVred at_ v1 f s
  | .vrange at_ v1 f => Sys2Proof.Machine.execVrange at_ v1 f s
  | .vscale at_ v1 f => Sys2Proof.Machine.execVscale at_ v1 f s
  | .vquant at_ v1 f => Sys2Proof.Machine.execVquant at_ v1 f s
  | .vdeq at_ v1 f => Sys2Proof.Machine.execVdeq at_ v1 f s
  | .vgquant at_ v1 f => Sys2Proof.Machine.execVgquant at_ v1 f s
  | .vmoment at_ v1 f => Sys2Proof.Machine.execVmoment at_ v1 f s
  | .vcbfit at_ v1 f => Sys2Proof.Machine.execVcbfit at_ v1 f s
  | .vmwupd at_ v1 f => Sys2Proof.Machine.execVmwupd at_ v1 f s
  | .naq at_ v q => Sys2Proof.Machine.execNaq at_ v q s
  | .nawait at_ n => Sys2Proof.Machine.execNawait at_ n s
  | .dmakick at_ g => Sys2Proof.Machine.execDmakick at_ g s
  | .dmawait at_ g => Sys2Proof.Machine.execDmawait at_ g s
  | .waitRelease p steps => Sys2Proof.Machine.execWaitRelease p steps s
  | .remoteAccessComplete p answered => Sys2Proof.Machine.execRemoteAccessComplete p answered s
  | .interruptEntry p => Sys2Proof.Machine.execInterruptEntry p s
  | .wdtKick req value => Sys2Proof.Machine.execWdtKick req value s
  | .mgmtWatchdogExpiry => Sys2Proof.Machine.execMgmtWatchdogExpiry s
  | .loadw core => Sys2Proof.Machine.execLoadw core s
  | .convPass core => Sys2Proof.Machine.execConvPass core s
  | .wino core => Sys2Proof.Machine.execWino core s
  | .matmul core => Sys2Proof.Machine.execMatmul core s
  | .epilog core => Sys2Proof.Machine.execEpilog core s
  | .argmax core => Sys2Proof.Machine.execArgmax core s
  | .sync core => Sys2Proof.Machine.execSync core s
  | .trainmode core => Sys2Proof.Machine.execTrainmode core s
  | .arrayCommandComplete core index => Sys2Proof.Machine.execArrayCommandComplete core index s
  | .goldenRestoreComplete line dramOk => Sys2Proof.Machine.execGoldenRestoreComplete line dramOk s
  | .restoreWaitEnd line => Sys2Proof.Machine.execRestoreWaitEnd line s
  | .sliceDrained n => Sys2Proof.Machine.execSliceDrained n s
  | .slicePowerTimeout n => Sys2Proof.Machine.execSlicePowerTimeout n s
  | .semPost req k value => Sys2Proof.Machine.execSemPost req k value s
  | .semWaitThreshold req k value => Sys2Proof.Machine.execSemWaitThreshold req k value s
  | .semWait req k => Sys2Proof.Machine.execSemWait req k s
  | .semWaitTimeout req => Sys2Proof.Machine.execSemWaitTimeout req s
  | .semTake req k => Sys2Proof.Machine.execSemTake req k s
  | .semSet req k value => Sys2Proof.Machine.execSemSet req k value s
  | .scrubStart req value => Sys2Proof.Machine.execScrubStart req value s
  | .scrubDone => Sys2Proof.Machine.execScrubDone s
  | .patrolPass corrected => Sys2Proof.Machine.execPatrolPass corrected s
  | .nocTimeout p => Sys2Proof.Machine.execNocTimeout p s
  | .kick req => Sys2Proof.Machine.execKick req s
  | .disarm req handoverPending => Sys2Proof.Machine.execDisarm req handoverPending s
  | .clear req => Sys2Proof.Machine.execClear req s
  | .shadowArm req => Sys2Proof.Machine.execShadowArm req s
  | .channelDisable req => Sys2Proof.Machine.execChannelDisable req s
  | .channelEnable req => Sys2Proof.Machine.execChannelEnable req s
  | .descriptorFetch ch answered => Sys2Proof.Machine.execDescriptorFetch ch answered s
  | .moverGrant ch mover beats corrected => Sys2Proof.Machine.execMoverGrant ch mover beats corrected s
  | .transferEnd ch => Sys2Proof.Machine.execTransferEnd ch s
  | .writebackComplete ch => Sys2Proof.Machine.execWritebackComplete ch s
  | .transferHalt ch code addr => Sys2Proof.Machine.execTransferHalt ch code addr s
  | .ethFrameRx port frame => Sys2Proof.Machine.execEthFrameRx port frame s
  | .ethTx port answered => Sys2Proof.Machine.execEthTx port answered s
  | .ethLinkChange port up => Sys2Proof.Machine.execEthLinkChange port up s
  | .reorderTimeout entry => Sys2Proof.Machine.execReorderTimeout entry s
  | .frameTimeout entry => Sys2Proof.Machine.execFrameTimeout entry s
  | .streamEntryWrite req k value => Sys2Proof.Machine.execStreamEntryWrite req k value s
  | .qcmdDiscard req => Sys2Proof.Machine.execQcmdDiscard req s
  | .qcmdNext req => Sys2Proof.Machine.execQcmdNext req s
  | .outRelease req k value => Sys2Proof.Machine.execOutRelease req k value s
  | .decodeStart answered => Sys2Proof.Machine.execDecodeStart answered s
  | .decodeDone res => Sys2Proof.Machine.execDecodeDone res s
  | .outputBufferTimeout => Sys2Proof.Machine.execOutputBufferTimeout s
  | .encodeStart answered => Sys2Proof.Machine.execEncodeStart answered s
  | .encodeDone key bits => Sys2Proof.Machine.execEncodeDone key bits s
  | .doutRelease req value => Sys2Proof.Machine.execDoutRelease req value s
  | .csiPacket input pkt => Sys2Proof.Machine.execCsiPacket input pkt s
  | .csiFrameEnd input => Sys2Proof.Machine.execCsiFrameEnd input s
  | .pfeFrameWritten input out => Sys2Proof.Machine.execPfeFrameWritten input out s
  | .bufRelease req out value => Sys2Proof.Machine.execBufRelease req out value s
  | .inputPinChange pin level => Sys2Proof.Machine.execInputPinChange pin level s
  | .debounceExpiry pin => Sys2Proof.Machine.execDebounceExpiry pin s
  | .outSet req value => Sys2Proof.Machine.execOutSet req value s
  | .outClr req value => Sys2Proof.Machine.execOutClr req value s
  | .pwmPeriodBoundary p => Sys2Proof.Machine.execPwmPeriodBoundary p s
  | .uartDataWrite req u value => Sys2Proof.Machine.execUartDataWrite req u value s
  | .uartDataRead req u => Sys2Proof.Machine.execUartDataRead req u s
  | .uartRxByte u data perr ferr => Sys2Proof.Machine.execUartRxByte u data perr ferr s
  | .uartTxByte u => Sys2Proof.Machine.execUartTxByte u s
  | .evPost req value => Sys2Proof.Machine.execEvPost req value s
  | .rulePass => Sys2Proof.Machine.execRulePass s
  | .ruleTimerExpiry t => Sys2Proof.Machine.execRuleTimerExpiry t s
  | .pulseEnd out => Sys2Proof.Machine.execPulseEnd out s
  | .windowExpiry rule condB => Sys2Proof.Machine.execWindowExpiry rule condB s
  | .templateTx port => Sys2Proof.Machine.execTemplateTx port s
  | .sqDoorbell req q value => Sys2Proof.Machine.execSqDoorbell req q value s
  | .cqDoorbell req q value => Sys2Proof.Machine.execCqDoorbell req q value s
  | .queueEnable req value => Sys2Proof.Machine.execQueueEnable req value s
  | .sqEntryFetch q answered => Sys2Proof.Machine.execSqEntryFetch q answered s
  | .jobEntry answered => Sys2Proof.Machine.execJobEntry answered s
  | .abortEntry => Sys2Proof.Machine.execAbortEntry s
  | .irqAggTimeout q => Sys2Proof.Machine.execIrqAggTimeout q s
  | .flr f => Sys2Proof.Machine.execFlr f s
  | .fnReset req f => Sys2Proof.Machine.execFnReset req f s
  | .linkLoss kind => Sys2Proof.Machine.execLinkLoss kind s
  | .linkTrainingStart => Sys2Proof.Machine.execLinkTrainingStart s
  | .bar2Access src off write len answered => Sys2Proof.Machine.execBar2Access src off write len answered s
  | .ptmDialogue ok master delay => Sys2Proof.Machine.execPtmDialogue ok master delay s
  | .classGive req cls owner => Sys2Proof.Machine.execClassGive req cls owner s
  | .statusRecordSend refused => Sys2Proof.Machine.execStatusRecordSend refused s
  | .statusRecordRx rid record => Sys2Proof.Machine.execStatusRecordRx rid record s
  | .peerMiss peer => Sys2Proof.Machine.execPeerMiss peer s
  | .mbxSend req value => Sys2Proof.Machine.execMbxSend req value s
  | .messageRx rid sender slot aligned message => Sys2Proof.Machine.execMessageRx rid sender slot aligned message s
  | .gapTimeout peer => Sys2Proof.Machine.execGapTimeout peer s
  | .rxDone req value => Sys2Proof.Machine.execRxDone req value s
  | .lfiEnable req value => Sys2Proof.Machine.execLfiEnable req value s
  | .lfiReorderTimeout ch => Sys2Proof.Machine.execLfiReorderTimeout ch s
  | .powerDomainRequest req n value => Sys2Proof.Machine.execPowerDomainRequest req n value s
  | .domainStateReached n => Sys2Proof.Machine.execDomainStateReached n s
  | .dramTrained gib channels => Sys2Proof.Machine.execDramTrained gib channels s
  | .railPoll replies => Sys2Proof.Machine.execRailPoll replies s
  | .resetSourceAssert src => Sys2Proof.Machine.execResetSourceAssert src s
  | .resetSourceRelease src => Sys2Proof.Machine.execResetSourceRelease src s
  | .resetStretchEnd src => Sys2Proof.Machine.execResetStretchEnd src s
  | .deferralEnd => Sys2Proof.Machine.execDeferralEnd s
  | .swrst req value => Sys2Proof.Machine.execSwrst req value s
  | .recover req value => Sys2Proof.Machine.execRecover req value s
  | .serviceDeclare req value => Sys2Proof.Machine.execServiceDeclare req value s
  | .fuseReadComplete => Sys2Proof.Machine.execFuseReadComplete s
  | .crystalStart => Sys2Proof.Machine.execCrystalStart s
  | .timeSet req lo => Sys2Proof.Machine.execTimeSet req lo s
  | .ppsPulse => Sys2Proof.Machine.execPpsPulse s
  | .dripModeWrite req value => Sys2Proof.Machine.execDripModeWrite req value s
  | .i2cGo req m value => Sys2Proof.Machine.execI2cGo req m value s
  | .i2cDone m nack data => Sys2Proof.Machine.execI2cDone m nack data s
  | .provision req arg key => Sys2Proof.Machine.execProvision req arg key s
  | .deploy req key => Sys2Proof.Machine.execDeploy req key s
  | .returnLc req key => Sys2Proof.Machine.execReturnLc req key s
  | .revokeOwnerHash req arg key => Sys2Proof.Machine.execRevokeOwnerHash req arg key s
  | .tamper => Sys2Proof.Machine.execTamper s
  | .secureBoot => Sys2Proof.Machine.execSecureBoot s
  | .debugRequest req value => Sys2Proof.Machine.execDebugRequest req value s
  | .dbgSubmit req => Sys2Proof.Machine.execDbgSubmit req s
  | .challengeExpiry => Sys2Proof.Machine.execChallengeExpiry s
  | .load req => Sys2Proof.Machine.execLoad req s
  | .loadDone answered => Sys2Proof.Machine.execLoadDone answered s
  | .arm req => Sys2Proof.Machine.execArm req s
  | .updateDisarm req => Sys2Proof.Machine.execUpdateDisarm req s
  | .confirm req => Sys2Proof.Machine.execConfirm req s
  | .abandon req => Sys2Proof.Machine.execAbandon req s
  | .activationStop => Sys2Proof.Machine.execActivationStop s
  | .activationTime => Sys2Proof.Machine.execActivationTime s
  | .activationReset => Sys2Proof.Machine.execActivationReset s
  | .sstoreWrite req value => Sys2Proof.Machine.execSstoreWrite req value s
  | .sstoreWriteDone => Sys2Proof.Machine.execSstoreWriteDone s
  | .registerRead req off size => Sys2Proof.Machine.execRegisterRead req off size s
  | .gpioPinChange pin level => Sys2Proof.Machine.execGpioPinChange pin level s
  | .pcieLinkUp speed width => Sys2Proof.Machine.execPcieLinkUp speed width s
  | .configurationRequest r => Sys2Proof.Machine.execConfigurationRequest r s
  | .csiSyncChange input sync => Sys2Proof.Machine.execCsiSyncChange input sync s
  | .ppsWidthEnd => Sys2Proof.Machine.execPpsWidthEnd s
  | .blockReportsReady target => Sys2Proof.Machine.execBlockReportsReady target s
  | .tapInstruction code => Sys2Proof.Machine.execTapInstruction code s
  | .tapReset => Sys2Proof.Machine.execTapReset s

end Sys2Proof.Machine
end

