-- ==== Sys2Proof/Machine/Tick.lean ====
section
/-! DEFINITION. What a period of the 25 MHz crystal does: the step of an empty queue. -/

namespace Sys2Proof.Machine

/-- The rate correction in force, in parts per billion: 0 with DISC = 0, else `TIME.RATE` (R395). -/
def ratePpb (s : State) : Int :=
  if fld (getReg s pgTime 0 0x048) 1 0 = 0 then 0 else ((getReg s pgTime 0 0x04C).setWidth 20).toInt

/-- One period of the crystal in units of 2^-32 ns: 40 ns plus the rate correction (R394). -/
def tickUnits (s : State) : Int := 40 * 2 ^ 32 + 40 * ratePpb s * 2 ^ 32 / 1000000000

/-- The notices that end between two instants: a revocation's, or a SHRINK's (R73, R74). -/
def noticeBetween (s : State) (lo hi : Nat) : Bool :=
  (List.range 64).any fun k =>
    let c := getClass s k
    (decide (c.st = .revoking) && decide (lo < c.noticeEnd) && decide (c.noticeEnd ≤ hi))
      || c.shrinks.any fun x => decide (lo < x.1) && decide (x.1 ≤ hi)

/-- One period of the crystal, once it is stable: device time advances (R394), and so does the management watchdog's count,
which is of crystal time and not of device time (R130). A notice that ends takes effect (R73, R74), a scrub under way goes on
(R156), a load goes on (R437), a UART's direction pin drops after TRAIL (R319), and the pulses of a fuse command end (R403). -/
def tick (s : State) : State :=
  if !s.time.running then s
  else
    let total := ((s.time.now.toNat * 2 ^ 32 + s.time.frac.toNat : Nat) : Int) + tickUnits s
    let t := modTime (fun t => { t with
      now := BitVec.ofInt 64 (total / 2 ^ 32)
      frac := BitVec.ofInt 32 (total % 2 ^ 32)
      wdtTicks := t.wdtTicks + (if t.wdtOn then 1 else 0) }) s
    loadStep <| fuseSettle <| uartTrail 0 <| uartTrail 1 <| scrubAdvance (if noticeBetween s (now s) (now t) then pacerSettle t else t)

end Sys2Proof.Machine
end

