-- ==== Sys2Proof/Safety.lean ====
section
/-! DEFINITION. The terms in which claims are stated: runs and when one is safe, the one-way fuses, and the processors' syllables. -/

namespace Sys2Proof.Machine

/-! ### Runs -/

/-- The device with a command at the front of its queue. -/
def State.queued (c : Instr) (s : State) : State := { s with pending := c :: s.pending }

/-- `t` is what `s` becomes in `n` steps. -/
def Runs : Nat → State → State → Prop
  | 0, s, t => t = s
  | n + 1, s, t => ∃ u, step s = .next u ∧ Runs n u t

/-- A run from `s` never stops: every state that it reaches has a next one. -/
def SafeFrom (s : State) : Prop := ∀ n t, Runs n s t → ∃ u, step t = .next u

/-! ### The fuses (R418, R419, R423) -/

/-- How far the lifecycle has moved: its steps are one-way. -/
def Lifecycle.rank : Lifecycle → Nat
  | .blank => 0
  | .provisioned => 1
  | .deployed => 2
  | .returned => 3

/-- A thermometer code: the lowest k bits are set and no other. -/
def Thermometer (w : BitVec 128) : Prop := ∃ k, k ≤ 128 ∧ w = BitVec.ofNat 128 (2 ^ k - 1)

/-- What no command may undo: the lifecycle only moves forward, a burnt bit of the security version and of the revoke bits stays
burnt, and the values fixed in production stay. -/
structure OneWay (a b : Fuses) : Prop where
  lifecycle : a.lifecycle.rank ≤ b.lifecycle.rank
  svn : a.svn &&& b.svn = a.svn
  revoked : a.ownerRevoked &&& b.ownerRevoked = a.ownerRevoked
  valid : a.ownerValid &&& b.ownerValid = a.ownerValid
  fixed : b.variant = a.variant ∧ b.step = a.step ∧ b.dieFp = a.dieFp ∧ b.gsr = a.gsr ∧ b.bootMv = a.bootMv
    ∧ b.rstMap = a.rstMap ∧ b.pinCode = a.pinCode ∧ b.secret = a.secret ∧ b.vendorHash = a.vendorHash

/-- What `base` has burnt stays burnt, in the fuses and in what a cut of the pulses under way would leave of them. -/
structure FuseBound (base : Fuses) (s : State) : Prop where
  fuses : OneWay base s.fuses ∧ Thermometer s.fuses.svn
  cut : ∀ old, s.fuseOld = some old → OneWay base old ∧ Thermometer old.svn

/-! ### What a command leaves alone -/

/-- The parts of the state. -/
inductive Part where
  | pending | bus | fuses | fuseOld | procs | arrays | pacer | mem | dma | media | ctlio | pcie | herd | lfi | power | reset | pins | time | trust | sent | free
  deriving DecidableEq, Repr

/-- A part is the same in two states. -/
def Part.same : Part → State → State → Prop
  | .pending, s, t => t.pending = s.pending
  | .bus, s, t => t.bus = s.bus
  | .fuses, s, t => t.fuses = s.fuses
  | .fuseOld, s, t => t.fuseOld = s.fuseOld
  | .procs, s, t => t.procs = s.procs
  | .arrays, s, t => t.arrays = s.arrays
  | .pacer, s, t => t.pacer = s.pacer
  | .mem, s, t => t.mem = s.mem
  | .dma, s, t => t.dma = s.dma
  | .media, s, t => t.media = s.media
  | .ctlio, s, t => t.ctlio = s.ctlio
  | .pcie, s, t => t.pcie = s.pcie
  | .herd, s, t => t.herd = s.herd
  | .lfi, s, t => t.lfi = s.lfi
  | .power, s, t => t.power = s.power
  | .reset, s, t => t.reset_ = s.reset_
  | .pins, s, t => t.pins = s.pins
  | .time, s, t => t.time = s.time
  | .trust, s, t => t.trust = s.trust
  | .sent, s, t => t.sent = s.sent
  | .free, s, t => t.free = s.free

/-- Every part outside a list is unchanged. -/
def unchangedBut (l : List Part) (s t : State) : Prop := ∀ p, p ∉ l → p.same s t

/-! ### Register accesses that arrive -/

/-- A write that the register bus takes: the requester's link is live, it waits for no semaphore, the injector leaves its writes alone
(R376), and the page refuses it on none of the grounds of R3, R16, R21 and R32, nor is it one to CTLIO while the ROM waits for an image
(R422). -/
structure Taken (s : State) (r : Requester) (page off : Nat) : Prop where
  live : reqLive s r = true
  free : isParked s r = false
  quiet : lfiQuiet s lfiNoc r.code.toNat 0 = true
  check : writeCheck s r page off = none
  open_ : ¬ (page = pgCtlio ∧ s.trust.bootWait = true ∧ (off = 0x008 ∨ 0x040 ≤ off))

/-- A read that the register bus takes, of a page that answers in full. -/
structure Readable (s : State) (r : Requester) (page off : Nat) : Prop where
  live : reqLive s r = true
  free : isParked s r = false
  quiet : lfiQuiet s lfiNoc r.code.toNat 1 = true
  reach : pageRefused s r page off false = false
  up : pageUp s page = true

/-- Semaphore k of the window that the requester's copy of CH_SEL names (R165). -/
def semNamed (s : State) (r : Requester) (k : Fin 4) (n : Nat) : Prop := ∃ c, selChan s r pgShm = some c ∧ n = 4 * c + k.val

/-- The core's step runs, so what it posts and stores is staged (R60, R146). -/
def coreStages (s : State) : Requester → Bool
  | .core c => stepping s c
  | _ => false

/-! ### The pacer at rest -/

/-- Nothing in the pacer waits to settle: no revocation or SHRINK is under way, an aborted job still has a step running, the floor need
not fall and no FUNC_RESET waits. -/
structure PacerAtRest (s : State) : Prop where
  classes : ∀ k, k < 64 → (getClass s k).st ≠ .revoking ∧ (getClass s k).shrinks = []
  aborts : ∀ j ∈ s.pacer.jobs, j.open_ = true → j.abort = true →
    ∃ x i, getJob s j.id = some x ∧ i < x.nShares ∧ (getShare x i).st = .running
  fall : s.pacer.fallDue = false
  reset : s.pacer.resetWait = false

/-- The pacer runs, and no command of it waits or runs. -/
structure PacerIdle (s : State) : Prop extends PacerAtRest s where
  on : (getHdr s pgPacer).enable = true
  running : s.pacer.running = none
  queue : s.pacer.queue = []

/-- A requester's command has started in an idle pacer (R59, R79). -/
def started (req : Byte) (op : BitVec 4) (arg : BitVec 6) (s : State) : State :=
  modPacer (fun p => { p with running := some { req := req, op := op, arg := arg }, plan := none })
    (modResult req (fun x => { x with done := false }) s)

/-- What ADMIT_RES shows of a requester's command that has completed with a result (R76, R79), for a requester that holds a copy: DONE once
none of its commands waits. -/
def answered (s t : State) (req : Byte) (res : Byte) (which : BitVec 6) : Prop :=
  resultCopy req ≠ none → getResult t req = { result := res, seq := (getResult s req).seq + 1, which := which
                                              done := !s.pacer.queue.any fun c => resultCopy c.req == resultCopy req }

/-! ### What a pass accepts (R48 to R54) -/

/-- The classes that a pass counts device-wide: the standing ones and the set (R52, R53). -/
def countedVals (s : State) (set : List (Nat × ClassVals)) : List ClassVals :=
  ((List.range 64).filterMap fun k =>
    let c := getClass s k
    if (c.st = .accepted ∨ c.st = .revoking ∨ c.st = .shed) ∧ set.any (·.1 == k) = false then some c.vals else none) ++ set.map (·.2)

/-- A placement that passes every test at floor `v`: the accepted shares have not moved, and `new` holds the shares of the set, each on a
usable core of its own that is not the reserve. -/
structure Admissible (s : State) (set : List (Nat × ClassVals)) (v : Nat) (ps new : List Placed) (r : Option Nat) : Prop where
  stay : ps = placedNow s ++ new
  whole : ∀ c ∈ set, ∀ i, i < c.2.spread.toNat → ∃ p ∈ new, p.cls = c.1 ∧ p.share = i ∧ p.vals = c.2
  only : ∀ p ∈ new, (p.cls, p.vals) ∈ set ∧ p.share < p.vals.spread.toNat
  core : ∀ p ∈ new, p.core < 6 ∧ coreUsable s p.core = true ∧ r ≠ some p.core
  apart : new.Pairwise (fun p q => p.cls = q.cls → p.core ≠ q.core) ∧ ∀ p ∈ new, ∀ q ∈ placedNow s, q.cls = p.cls → q.core ≠ p.core
  rate : ∀ p ∈ new, (leftSide ps p.core).le (gsr s p.core v) = true
  step : ∀ p ∈ ps, p.vals.stepMax.toNat ≤ 50 * gsr s p.core v
  dram : (dramSum (countedVals s set)).le 191000 = true
  codec : codecOk s v (countedVals s set) = true
  reserved : reserveOn s = true → ∃ x, r = some x ∧ boundOk s v x ps = true ∧ (∀ p ∈ ps, p.cls < 64 → slackOk s v ps p = true)
    ∧ (∀ y, s.pacer.reserve = some y → x = y.val) ∧ (s.pacer.reserve = none → x ∈ reserveCandidates s (placedNow s))
  unreserved : reserveOn s = false → r = none

/-! ### Fences (R65 to R67, R462) -/

/-- A present core that is about to be fenced, its domain at rest, while the pacer has nothing else to settle and no pass waits for its
rail. -/
structure Fencing (s : State) (n : Fin 6) : Prop extends PacerAtRest s where
  present : corePresent s n = true
  open_ : fenced s n = false
  still : (dom s (3 + n.val)).moving = false
  plan : s.pacer.plan = none
  aborted : ∀ j ∈ s.pacer.jobs, j.open_ = true → j.abort = false

/-- Another present, unfenced core is ON. -/
def Survives (s : State) (n : Fin 6) : Prop := ∃ m, m < 6 ∧ m ≠ n.val ∧ coreUsable s m = true

/-! ### Commits (R23, R24) -/

/-- The keys that a page's commit applies: the page's registers, and the tables of the pixel front end with its page. -/
def commitOwns (page k : Nat) : Prop := keyPage k = page ∨ (page = pgPfe ∧ (keyPage k = 32 ∨ keyPage k = 33))

/-- What a cell holds once its staged bits are applied: `w`. -/
def appliesTo (s : State) (k : Nat) (w : Word) : Prop :=
  (s.bus.staged.filter (fun e => e.1 == k) = [] ∧ w = storeGet regReset s.bus.regs k)
  ∨ ∃ v, s.bus.staged.filter (fun e => e.1 == k) = [(k, some v)] ∧ w = mix (commitMask k) (storeGet regReset s.bus.regs k) v

/-- The keys of an output of an input of the pixel front end: its registers and its scaler coefficients. -/
def outputKey (input out k : Nat) : Prop :=
  (∃ o, o < 0x40 ∧ k = regKey pgPfe input (0x480 + 0x40 * out + o)) ∨ ∃ o, o < 512 ∧ k = coefKey input out o

/-- The parts of the state that a page's own part of a commit may change beside its registers and header. -/
def commitParts (page : Nat) : List Part :=
  (if page = pgPacer then [.pacer] else if page = pgCtlio then [.ctlio] else if page = pgHerd then [.herd] else []) ++ [.bus, .pcie, .sent]

/-- A page's commit has been applied at one instant: every staged register of the page, but what its own check at a commit refuses (a
golden region reads VALID = 0, R164; an output of the pixel front end keeps its previous settings, R315). -/
structure Committed (s t : State) (page : Nat) : Prop where
  seq : (getHdr t page).stageSeq = (getHdr s page).stageSeq + 1
  pending : (getHdr t page).commitPending = false
  enable : (getHdr t page).enable = (getHdr s page).enable
  plain : page ∉ [pgPacer, pgShm, pgCtlio, pgPfe, pgHerd] →
    getHdr t page = { getHdr s page with stageSeq := (getHdr s page).stageSeq + 1, commitPending := false }
  headers : ∀ q, q ≠ page → getHdr t q = getHdr s q
  staged : ∀ k, commitOwns page k → storeGet (fun _ => none) t.bus.staged k = none
  applied : ∀ k w, commitOwns page k → appliesTo s k w → (∀ n, n < 16 → k ≠ regKey pgShm 0 (0x100 + 0x10 * n)) →
    (∀ input out, input < 4 → out < 4 → ¬ outputKey input out k) → storeGet regReset t.bus.regs k = w
  golden : ∀ n w, n < 16 → page = pgShm → appliesTo s (regKey pgShm 0 (0x100 + 0x10 * n)) w →
    getReg t pgShm 0 (0x100 + 0x10 * n) = if w.getLsbD 31 = true ∧ goldenFits t n = false then w &&& 0x7FFFFFFF else w
  outputs : ∀ input out, input < 4 → out < 4 → page = pgPfe →
    (∀ k w, outputKey input out k → appliesTo s k w → storeGet regReset t.bus.regs k = w)
    ∨ ((getHdr t page).irqStat.getLsbD 31 = true
      ∧ ∀ k, outputKey input out k → storeGet regReset t.bus.regs k = storeGet regReset s.bus.regs k)
  others : ∀ k, ¬ commitOwns page k → storeGet regReset t.bus.regs k = storeGet regReset s.bus.regs k
    ∧ storeGet (fun _ => none) t.bus.staged k = storeGet (fun _ => none) s.bus.staged k
  rest : unchangedBut (commitParts page) s t

/-! ### Writes turned away -/

/-- Nothing has changed but what an error record in one page changes: its header, and the MSI-X message that follows. -/
structure RecordsOnly (s t : State) (page : Nat) : Prop where
  bus : t.bus = { s.bus with hdrs := t.bus.hdrs, answer := t.bus.answer }
  headers : ∀ q, q ≠ page → getHdr t q = getHdr s q
  pcie : t.pcie = { s.pcie with msixPending := t.pcie.msixPending }
  rest : unchangedBut [.bus, .pcie, .sent] s t

/-- Every register but `NOC.REFUSE_CNT`, which counts a refused access of a requester that is neither a core nor a channel (R161). -/
def countsOnly (s t : State) (r : Requester) (code : Byte) : Prop :=
  (∀ p c o, regKey p c o ≠ regKey pgNoc 0 0x048 → getReg t p c o = getReg s p c o)
  ∧ getReg t pgNoc 0 0x048 = getReg s pgNoc 0 0x048 + (match r with
    | .core _ | .chan _ => 0
    | _ => if code = ePermission ∨ code = ePoweredOff ∨ code = eFenced ∨ code = eAddrRange then 1 else 0)

/-- A write that the page refuses, with the page that records the error and its code. -/
structure TurnedAway (s : State) (r : Requester) (page off : Nat) (pg : Nat) (code : Byte) : Prop where
  live : reqLive s r = true
  free : isParked s r = false
  quiet : lfiQuiet s lfiNoc r.code.toNat 0 = true
  check : writeCheck s r page off = some (pg, code)

/-- The register is one of a page's own block, outside a channel window, and no rule but its classes governs it. -/
def plainRow (page off : Nat) (row : RegRow) : Prop :=
  regRow page off = some row ∧ row.own = false ∧ row.pair = .single ∧ row.w1c = 0 ∧ 0x040 ≤ off ∧ off < 0x400 ∧ off % 4 = 0

/-! ### Syllables (R83 to R85, R97) -/

/-- A syllable that issues: its processor takes syllables, no byte of its words has wrong parity, this one may stand where it does, and
the word there is listed (R82 to R84, R92, R125). -/
structure Issues (s : State) (a : At) (slot : Nat) (ext : Bool) : Prop where
  can : canIssue s a.p.num = true
  clean : fetchBad s a.p.num (if ext then 2 else 1) = none
  fits : sylFault s a.p.num slot (if ext then 2 else 1) a.fin = none

/-- The syllable's place in its bundle is taken. -/
def placed (a : At) (slot : Nat) (ext : Bool) (s : State) : State := sylPlace a.p.num slot (if ext then 2 else 1) s

/-- A syllable with END closes its bundle. -/
def closed (a : At) (s : State) : State := if a.fin && canIssue s a.p.num then bundleEnd a.p.num s else s

/-- The command issues one result of a latency, and changes nothing else: `l` lands after `lat` bundles. -/
def Yields (i : Instr) (a : At) (slot lat : Nat) (ext : Bool) (l : Landing) (s : State) : Prop :=
  exec i s = .next (closed a (modProc a.p.num (fun p => { p with
    inflight := p.inflight ++ [{ due := p.bundle + lat, slot := slot, issued := p.bundle, land := l }] }) (placed a slot ext s)))

/-- The command faults its processor with a cause (R120, R121, R126). -/
def Faults (i : Instr) (a : At) (slot : Nat) (ext : Bool) (cause : Byte) (s : State) : Prop :=
  exec i s = .next (procFault a.p.num slot cause (placed a slot ext s))

/-- The processor stands neither in a delay slot nor in a loop body. -/
def straight (s : State) (a : At) : Prop := (getProc s a.p.num).delay = none ∧ (getProc s a.p.num).loop = none

/-- Any change of its own processor's bundle in progress. -/
def buffers (f : BundleBuf → BundleBuf) (a : At) (s : State) : State := modProc a.p.num (fun p => { p with buf := f p.buf }) s

/-- Nothing in the bundle under assembly acts at its end: no memory operation, wait, control transfer, REPEAT, CALL or RROT. -/
structure PlainBundle (b : BundleBuf) : Prop where
  mems : b.mems = []
  waits : b.waits = []
  flow : b.delay = none ∧ b.rep = none ∧ b.call = false ∧ b.rrot = false

/-- The same registers in two states of a processor, but for the pc's and the counters of bundles and steps. -/
def sameFiles (p q : ProcState) : Prop :=
  q.g = p.g ∧ q.p = p.p ∧ q.o = p.o ∧ q.f = p.f ∧ q.v = p.v ∧ q.acc = p.acc ∧ q.m = p.m ∧ q.epc = p.epc ∧ q.ivec = p.ivec
    ∧ q.fvec = p.fvec ∧ q.accsh = p.accsh ∧ q.mvsh = p.mvsh ∧ q.cb0Base = p.cb0Base ∧ q.cb0Len = p.cb0Len ∧ q.cb1Base = p.cb1Base
    ∧ q.cb1Len = p.cb1Len ∧ q.vfaultPc = p.vfaultPc ∧ q.vfaultInfo = p.vfaultInfo ∧ q.stage = p.stage ∧ q.run = p.run

/-- The syllable's place is taken, and each pending gather into a register that it touches is complete (R116). -/
def touched (a : At) (slot : Nat) (vs : List (Fin 32)) (s : State) : State :=
  touchV a.p.num (vs.map (physV (getProc s a.p.num).rrb)) (placed a slot false s)

/-- A vector syllable issues one vector result: the lanes that a mask or none performs take the given values, and no other bit of the
destination, which is bound to a physical register now, is written (R88, R114). -/
def YieldsLanes (i : Instr) (a : At) (v1 : Bool) (f : VForm) (lat : Nat) (touch : List (Fin 32)) (s : State)
    (lane : ProcState → Nat → Nat) : Prop :=
  let t := touched a (vSlot v1) touch s
  let p := getProc t a.p.num
  let w := (LaneType.of f.type).bits
  ∃ bits mask : BitVec 1024,
    exec i s = .next (closed a (pushRes a.p.num (vSlot v1) lat (.v (physV p.rrb f.d) bits mask) t))
    ∧ ∀ k, k < 1024 / w → laneNat mask w k = (if laneOn f (p.rm f.m) k then 2 ^ w - 1 else 0)
      ∧ (laneOn f (p.rm f.m) k = true → laneNat bits w k = lane p k)

/-- The bundle sets MOV_SAT when it issues, where a lane saturated (R110, R242). -/
def flagged (a : At) (sat : Bool) (s : State) : State := if sat then buffers (fun b => { b with movSat := true }) a s else s

/-- The injector acts on nothing: no channel is enabled, and none holds an item (R376, R377). -/
def injectorOff (s : State) : Prop := ∀ c, c < 4 → lfiEn s c = false ∧ (getLfi s c).held = none

/-- A bundle that waits for one thing and does nothing else at its end, outside delay slots and loops: its memory operations are the
remote ones, which are over when it issues. -/
structure WaitsFor (s : State) (n : Nat) (w : WaitFor) : Prop where
  waits : (getProc s n).buf.waits = [w]
  plain : PlainBundle { (getProc s n).buf with waits := [], mems := [] }
  straight : (getProc s n).delay = none ∧ (getProc s n).loop = none ∧ (getProc s n).commitAsked = none
  mems : ∀ o ∈ (getProc s n).buf.mems, o.isRemote n = true
  waiting : (getProc s n).runState = .wait ∨ (getProc s n).runState = .drain

end Sys2Proof.Machine
end

