-- ==== Sys2Proof/Certificates/Slice0/Obligations.lean ====
section
/-! DEFINITION. The statements for the provers. Each docstring names the rules it is made from; what rests on a choice of the model's
names its entry in notes/assumptions. -/

open Sys2Proof Sys2Proof.Machine

/-- R18 and R34: what a taken write of IRQ_SET, of IRQ_STAT and of ERR_INFO does to its page's header. Nothing else changes but what
an MSI-X message needs; a clear of the DRAM controller's VALID lets its next uncorrectable error be captured (R159). A refused write
of a register changes one header, by the first-error capture of R34, and the counter of refused accesses (R161). The model's choices
in it: log entries 16, 21, 24 and 176. -/
def Obligations.headerWrites : Prop :=
  ((∀ (s : State) (r : Requester) (page : Fin 32) (v : Word), Taken s r page 0x018 →
    ∃ t, exec (.irqSet r page v) s = .next t
      ∧ getHdr t page = { getHdr s page with irqStat := (getHdr s page).irqStat ||| v }
      ∧ (∀ q, q ≠ page.val → getHdr t q = getHdr s q) ∧ (∀ p c o, getReg t p c o = getReg s p c o)
      ∧ unchangedBut [.bus, .pcie, .sent] s t)
  ∧ (∀ (s : State) (r : Requester) (page : Fin 32) (v coincident : Word), Taken s r page 0x010 →
    ∃ t, exec (.irqStatClear r page v coincident) s = .next t
      ∧ getHdr t page = { getHdr s page with irqStat := ((getHdr s page).irqStat &&& ~~~v) ||| coincident }
      ∧ (∀ q, q ≠ page.val → getHdr t q = getHdr s q) ∧ (∀ p c o, getReg t p c o = getReg s p c o)
      ∧ unchangedBut [.bus, .pcie, .sent] s t)
  ∧ (∀ (s : State) (r : Requester) (page : Fin 32) (v : Word), Taken s r page 0x020 →
    ∃ t, exec (.errInfoClear r page v) s = .next t
      ∧ getHdr t page = { getHdr s page with errValid := (getHdr s page).errValid && !v.getLsbD 31 }
      ∧ (∀ q, q ≠ page.val → getHdr t q = getHdr s q) ∧ (∀ p c o, getReg t p c o = getReg s p c o)
      ∧ t.mem = (if page.val = pgDdr ∧ v.getLsbD 31 = true then { s.mem with ueSeen := false } else s.mem)
      ∧ unchangedBut [.bus, .mem, .pcie, .sent] s t))
  ∧ (∀ (s : State) (r : Requester) (page : Fin 32) (off : BitVec 12) (v : Word) (pg : Nat) (code : Byte),
    off.toNat % 4 = 0 → TurnedAway s r page off.toNat pg code →
    let records (i : Instr) : Prop := ∃ t, exec i s = .next t
      ∧ getHdr t pg = (if (getHdr s pg).errValid then { getHdr s pg with irqStat := (getHdr s pg).irqStat ||| 0xC0000000 }
          else { getHdr s pg with irqStat := (getHdr s pg).irqStat ||| 0x80000000, errValid := true, errReq := r.code
                                  errCode := code, errAddr := BitVec.ofNat 40 (0x40000000 + page.val * 0x1000 + off.toNat) })
      ∧ (∀ q, q ≠ pg → getHdr t q = getHdr s q) ∧ countsOnly s t r code
      ∧ t.bus.staged = s.bus.staged ∧ t.bus.chSel = s.bus.chSel ∧ t.bus.hiWritten = s.bus.hiWritten
      ∧ unchangedBut [.bus, .pcie, .sent] s t
    records (.registerWrite r (BitVec.ofNat 18 (page.val * 0x1000 + off.toNat)) 4 v)
    ∧ records (.pairLoWrite r (BitVec.ofNat 18 (page.val * 0x1000 + off.toNat)) v))

/-- R27: an index at or beyond COUNT records BAD_SELECT when it is written to CH_SEL; window accesses through that copy then read zero
and ignore writes, until a valid index is written (whose write records nothing). -/
def Obligations.selectBeyondCount : Prop :=
  (∀ (s : State) (r : Requester) (page : Fin 32) (v : Word) (c : Nat), Taken s r page 0x01C → selCopy r = some c →
    ∃ t, exec (.chSelWrite r page v) s = .next t
      ∧ chSel t r page = v &&& 0x800000FF
      ∧ getHdr t page = (if v.toNat % 256 < pageCount s.fuses.variant page then getHdr s page
          else (getHdr s page).capture r.code eBadSelect (regAddr page 0x01C))
      ∧ (v.toNat % 256 < pageCount s.fuses.variant page → selChan t r page = some (v.toNat % 256))
      ∧ (pageCount s.fuses.variant page ≤ v.toNat % 256 → selChan t r page = none))
  ∧ (∀ (s : State) (r : Requester) (page : Fin 32) (off : BitVec 12) (v : Word), 0x400 ≤ off.toNat → off.toNat % 4 = 0 →
    windowed page = true → selChan s r page = none →
    (Taken s r page off.toNat → exec (.registerWrite r (BitVec.ofNat 18 (page.val * 0x1000 + off.toNat)) 4 v) s = .next s)
    ∧ (Readable s r page off.toNat → ∃ t, exec (.registerRead r (BitVec.ofNat 18 (page.val * 0x1000 + off.toNat)) 4) s = .next t
        ∧ getAnswer t r = 0 ∧ (∀ q, getHdr t q = getHdr s q) ∧ (∀ p k o, getReg t p k o = getReg s p k o) ∧ unchangedBut [.bus] s t))

/-- R29: registers are accessed only by aligned 32-bit reads and writes. An access of any other size or alignment records ALIGNMENT in
its page; such a read returns 0, and such a write is discarded. Neither changes a register, a staging copy, a copy of CH_SEL, a HI
half or another page's header; of the rest, only the message of the page's interrupt may follow (R353). The model's choices in it: log
entries 52 and 176. -/
def Obligations.registersAreWords : Prop :=
  ∀ (s : State) (r : Requester) (off : BitVec 18) (size : Nat) (v : Word), reqLive s r = true → isParked s r = false →
    off.toNat < 0x20000 → (size ≠ 4 ∨ off.toNat % 4 ≠ 0) →
    let recorded (t : State) : Prop := getHdr t (off.toNat / 0x1000) = (getHdr s (off.toNat / 0x1000)).capture r.code eAlignment
        (regAddr (off.toNat / 0x1000) (off.toNat % 0x1000)) ∧ RecordsOnly s t (off.toNat / 0x1000)
    (lfiQuiet s lfiNoc r.code.toNat 1 = true → ∃ t, exec (.registerRead r off size) s = .next t ∧ getAnswer t r = 0 ∧ recorded t)
    ∧ (lfiQuiet s lfiNoc r.code.toNat 0 = true →
        ∃ t, exec (.registerWrite r off size v) s = .next t ∧ t.bus.answer = s.bus.answer ∧ recorded t)

/-- R22, R23 and R25: a taken write of a register that only its class governs. A live register takes the value, a staged one leaves it
in the staging copy, and a frozen one takes it only while ENABLE = 0 and BUSY = 0; at any other time it records WRITE_WHILE_RUNNING.
Every other register keeps its value. R23 and R24: a write to a staged register while COMMIT_PENDING = 1 is discarded and records
SHADOW_BUSY; a COMMIT then changes nothing. Any other COMMIT applies every staged register of its page at one instant where the block
is at a safe point, and is pending where it is not; with no staged change it still advances STAGE_SEQ. A commit that clears the
pacer's RESERVE releases the reserve (R54). The model's choices in it: log entries 2, 17 and 18. -/
def Obligations.registerClasses : Prop :=
  (∀ (s : State) (r : Requester) (page : Fin 32) (off : Nat) (v : Word) (row : RegRow), plainRow page off row → Taken s r page off →
    (row.live ≠ 0 → row.staged = 0 → row.frozen = 0 → cellRefusal s r page 0 off v row = none →
      ∃ t, exec (.registerWrite r (BitVec.ofNat 18 (page.val * 0x1000 + off)) 4 v) s = .next t
        ∧ (∀ k, storeGet regReset t.bus.regs k = if k = regKey page 0 off
            then (getReg s page 0 off &&& ~~~row.live) ||| (v &&& row.live) else storeGet regReset s.bus.regs k)
        ∧ (∀ q, getHdr t q = getHdr s q) ∧ t.bus.staged = s.bus.staged ∧ unchangedBut [.bus] s t)
    ∧ (row.live = 0 → row.staged ≠ 0 → row.frozen = 0 → cellRefusal s r page 0 off v row = none →
      ∃ t, exec (.registerWrite r (BitVec.ofNat 18 (page.val * 0x1000 + off)) 4 v) s = .next t
        ∧ t.bus.regs = s.bus.regs
        ∧ (∀ k, stagedCell t k = if k = regKey page 0 off
            then (stagedCell s k &&& ~~~row.staged) ||| (v &&& row.staged) else stagedCell s k)
        ∧ (∀ q, getHdr t q = getHdr s q) ∧ unchangedBut [.bus] s t)
    ∧ (row.live = 0 → row.staged = 0 → row.frozen ≠ 0 → cellRefusal s r page 0 off v row = none →
      ∃ t, exec (.registerWrite r (BitVec.ofNat 18 (page.val * 0x1000 + off)) 4 v) s = .next t
        ∧ (∀ k, storeGet regReset t.bus.regs k = if k = regKey page 0 off
            then (getReg s page 0 off &&& ~~~row.frozen) ||| (v &&& row.frozen) else storeGet regReset s.bus.regs k)
        ∧ (∀ q, getHdr t q = getHdr s q) ∧ t.bus.staged = s.bus.staged ∧ unchangedBut [.bus] s t)
    ∧ (row.live = 0 → row.staged = 0 → row.frozen ≠ 0 → pageEnable s page = true ∨ pageBusy s page = true →
      ∃ t, exec (.registerWrite r (BitVec.ofNat 18 (page.val * 0x1000 + off)) 4 v) s = .next t
        ∧ t.bus.regs = s.bus.regs ∧ t.bus.staged = s.bus.staged
        ∧ getHdr t page = (getHdr s page).capture r.code eWriteRunning (regAddr page off)
        ∧ (∀ q, q ≠ page.val → getHdr t q = getHdr s q) ∧ unchangedBut [.bus, .pcie, .sent] s t))
  ∧ ((∀ (s : State) (r : Requester) (page : Fin 32) (off : Nat) (v : Word) (row : RegRow), plainRow page off row →
    Taken s r page off → row.staged ≠ 0 → row.frozen = 0 → (getHdr s page).commitPending = true →
    ∃ t, exec (.registerWrite r (BitVec.ofNat 18 (page.val * 0x1000 + off)) 4 v) s = .next t
      ∧ t.bus.regs = s.bus.regs ∧ t.bus.staged = s.bus.staged
      ∧ getHdr t page = (getHdr s page).capture r.code eShadowBusy (regAddr page off)
      ∧ (∀ q, q ≠ page.val → getHdr t q = getHdr s q) ∧ unchangedBut [.bus, .pcie, .sent] s t)
  ∧ (∀ (s : State) (r : Requester) (page : Fin 32), Taken s r page 0x008 → (getHdr s page).commitPending = true → (page.val = pgHerd → s.herd.st ≠ .refused) → exec (.commit r page) s = .next s)
  ∧ (∀ (s : State) (r : Requester) (page : Fin 32), Taken s r page 0x008 → (getHdr s page).commitPending = false →
    (page.val = pgHerd → s.herd.st ≠ .refused) →
    (commitNow s page = true → ∃ t, exec (.commit r page) s = .next t ∧ Committed s t page
      ∧ (page.val = pgPacer → (getReg s pgPacer 0 0x040).getLsbD 0 = true → (getReg t pgPacer 0 0x040).getLsbD 0 = false →
          t.pacer = { s.pacer with reserve := none })
      ∧ (page.val = pgPacer → (getReg t pgPacer 0 0x040).getLsbD 0 = (getReg s pgPacer 0 0x040).getLsbD 0 → t.pacer = s.pacer))
    ∧ (commitNow s page = false → ∃ t, exec (.commit r page) s = .next t
      ∧ getHdr t page = { getHdr s page with commitPending := true } ∧ (∀ q, q ≠ page.val → getHdr t q = getHdr s q)
      ∧ (∀ p c o, getReg t p c o = getReg s p c o) ∧ t.bus.staged = s.bus.staged ∧ unchangedBut [.bus, .pcie, .sent] s t)))

/-- R20: a taken write of ENABLE. Of a page that is neither a core's nor the pacer's, the DRAM controller's or the herd block's,
ENABLE takes the value, and a block that stops is BUSY while an item is under way. On a core's page ENABLE is the pacer's alone
(R128). R20, R21 and R23: a FUNC_RESET returns every register of its page to its reset value, discards the staging copies and the
interrupt status, and leaves the page busy in reset; of the network-on-chip's page, which has no state outside its registers, the
error record stays, and a debug challenge expires (R426). A drained block is no longer BUSY; a commit that waits for the safe point
applies there. The model's choices in it: log entries 2, 18, 19, 20 and 135. -/
def Obligations.blockControl : Prop :=
  ((∀ (s : State) (r : Requester) (page : Fin 32), ¬ (pgCore0 ≤ page.val ∧ page.val < pgMgmt) → Taken s r page 0x008 →
    page.val ∉ [pgPacer, pgDdr, pgHerd] → (getHdr s page).commitPending = false →
    (∃ t, exec (.enable r page true) s = .next t
      ∧ getHdr t page = (if (getHdr s page).enable then getHdr s page else { getHdr s page with enable := true, busy := false })
      ∧ (∀ q, q ≠ page.val → getHdr t q = getHdr s q) ∧ (∀ p c o, getReg t p c o = getReg s p c o)
      ∧ unchangedBut [.bus, .pcie, .sent] s t)
    ∧ (∃ t, exec (.enable r page false) s = .next t
      ∧ getHdr t page = (if (getHdr s page).enable then { getHdr s page with enable := false, busy := blockActive s page }
          else getHdr s page)
      ∧ (∀ q, q ≠ page.val → getHdr t q = getHdr s q) ∧ (∀ p c o, getReg t p c o = getReg s p c o)
      ∧ unchangedBut [.bus, .pcie, .sent] s t))
  ∧ (∀ (s : State) (r : Requester) (page : Fin 32) (on : Bool), page.val ∈ [pgPacer, pgDdr, pgHerd] → Taken s r page 0x008 →
    exec (.enable r page on) s = .next (enableWrite page on s))
  ∧ (∀ (s : State) (r : Requester) (page : Fin 32) (on : Bool), pgCore0 ≤ page.val → page.val < pgMgmt → Taken s r page 0x008 →
    r ≠ .pacer →
    ∃ t, exec (.enable r page on) s = .next t ∧ getHdr t page = (getHdr s page).capture r.code ePermission (regAddr page 0x008)
      ∧ (∀ q, q ≠ page.val → getHdr t q = getHdr s q) ∧ unchangedBut [.bus, .pcie, .sent] s t)
  ∧ (∀ (s : State) (page : Fin 32) (on : Bool), pgCore0 ≤ page.val → page.val < pgMgmt → Taken s .pacer page 0x008 →
    (getHdr s page).commitPending = false →
    ∃ t, exec (.enable .pacer page on) s = .next t ∧ pageEnable t page = on
      ∧ (∀ q, q ≠ page.val → getHdr t q = getHdr s q) ∧ (∀ p c o, getReg t p c o = getReg s p c o)
      ∧ unchangedBut [.bus, .pcie, .sent, .pacer] s t))
  ∧ ((∀ (s : State) (r : Requester) (page : Fin 32), ¬ (pgCore0 ≤ page.val ∧ page.val ≤ pgMgmt) → Taken s r page 0x008 →
    pageKept page = false → page.val ≠ pgPacer → (page.val = pgPcie → r = .mgmt) →
    ∃ t, exec (.funcReset r page) s = .next t
      ∧ (getHdr t page).resetBusy = true ∧ (getHdr t page).irqStat = 0 ∧ (getHdr t page).enable = false
      ∧ (∀ k, keyPage k = page.val → storeGet regReset t.bus.regs k = regReset k ∧ storeGet (fun _ => none) t.bus.staged k = none)
      ∧ (page.val = pgNoc →
          getHdr t page = { errValid := (getHdr s page).errValid, errReq := (getHdr s page).errReq
                            errCode := (getHdr s page).errCode, errAddr := (getHdr s page).errAddr, resetBusy := true }
          ∧ t.trust = (challengeDrop s).trust ∧ unchangedBut [.bus, .trust, .pcie, .sent] s t))
  ∧ (∀ (s : State) (page : Fin 32), pageEnable s page = false → (getHdr s page).busy = true → drains s page = true →
    (getHdr s page).commitPending = false →
    ∃ t, exec (.blockDrained page) s = .next t ∧ getHdr t page = { getHdr s page with busy := false }
      ∧ (∀ q, q ≠ page.val → getHdr t q = getHdr s q) ∧ unchangedBut [.bus, .pcie, .sent] s t)
  ∧ (∀ (s : State) (page : Fin 32), (getHdr s page).commitPending = true → pageUp s page = true →
    ¬ (page.val = pgHerd ∧ pageEnable s page = true) → ∃ t, exec (.stagedCommitApply page) s = .next t ∧ Committed s t page))

/-- Reads. A read of a header register answers it and changes nothing else (R17, R18, R26, R34); a read of a register that its class
alone governs returns the applied value, and a staged one its staging copy (R22, R23). R30 on a pair whose halves their class alone
governs: reading LO answers it and latches HI for this requester and pair, and a read of HI returns that latch; a write of LO applies
LO together with the HI that this requester wrote since its previous LO write, or keeps the present HI. R26: a taken write of CH_SEL
sets the copy that the requester's identity selects, and no other requester's; a requester without a copy changes none, and the write
records PERMISSION. The model's choices in it: log entries 7, 23, 32, 52, 141, 158, 159 and 171. -/
def Obligations.registerReads : Prop :=
  (∀ (s : State) (r : Requester) (page : Fin 32), reqLive s r = true → isParked s r = false → lfiQuiet s lfiNoc r.code.toNat 1 = true →
    pageUp s page = true → (∀ off, pageRefused s r page off false = false) →
    (∃ t, exec (.registerRead r (BitVec.ofNat 18 (page.val * 0x1000 + 0x010)) 4) s = .next t
      ∧ getAnswer t r = (getHdr s page).irqStat ∧ unchangedBut [.bus] s t)
    ∧ (∃ t, exec (.registerRead r (BitVec.ofNat 18 (page.val * 0x1000 + 0x014)) 4) s = .next t
      ∧ getAnswer t r = (getHdr s page).irqEn ∧ unchangedBut [.bus] s t)
    ∧ (∃ t, exec (.registerRead r (BitVec.ofNat 18 (page.val * 0x1000 + 0x028)) 4) s = .next t
      ∧ getAnswer t r = (getHdr s page).stageSeq ∧ unchangedBut [.bus] s t)
    ∧ (∀ off row, plainRow page off row → ¬ (page.val = pgShm ∧ off = 0x058) → ¬ (page.val = pgCarafe ∧ off = 0x04C) →
        ¬ (page.val = pgCtlio ∧ (off = 0x0C4 ∨ off = 0x0D4)) → ¬ (pgCore0 ≤ page.val ∧ page.val < pgMgmt) →
        ∃ t, exec (.registerRead r (BitVec.ofNat 18 (page.val * 0x1000 + off)) 4) s = .next t
          ∧ getAnswer t r = (match storeGet (fun _ => none) s.bus.staged (regKey page 0 off) with
              | some v => mix row.staged (getReg s page 0 off) v
              | none => getReg s page 0 off)
          ∧ t.bus.regs = s.bus.regs ∧ t.bus.hdrs = s.bus.hdrs ∧ unchangedBut [.bus] s t))
  ∧ (∀ (s : State) (r : Requester) (page : Fin 32) (off : Nat) (v : Word), 0x040 ≤ off → off < 0x3FC → off % 4 = 0 →
    ∀ lo hi, regRow page off = some lo → regRow page (off + 4) = some hi → lo.pair = .lo → hi.pair = .hi →
    lo.own = false → hi.own = false → page.val ∉ [pgStrx] →
    (reqLive s r = true → isParked s r = false → lfiQuiet s lfiNoc r.code.toNat 1 = true → pageUp s page = true →
        (∀ o, pageRefused s r page o false = false) →
      (∃ t, exec (.pairLoRead r (BitVec.ofNat 18 (page.val * 0x1000 + off))) s = .next t
        ∧ getAnswer t r = blockView s r page 0 off
        ∧ storeGet (fun _ => 0) t.bus.hiLatch (pairKey r page 0 off) = blockView s r page 0 (off + 4)
        ∧ t.bus.regs = s.bus.regs ∧ t.bus.staged = s.bus.staged ∧ t.bus.hdrs = s.bus.hdrs ∧ unchangedBut [.bus] s t)
      ∧ (∃ t, exec (.registerRead r (BitVec.ofNat 18 (page.val * 0x1000 + off + 4)) 4) s = .next t
        ∧ getAnswer t r = storeGet (fun _ => 0) s.bus.hiLatch (pairKey r page 0 off) ∧ unchangedBut [.bus] s t))
    ∧ (Taken s r page off → cellRefusal s r page 0 off v lo = none → lo.live = 0xFFFFFFFF → lo.w1c = 0 → lo.frozen = 0 →
      lo.staged = 0 → hi.w1c = 0 → hi.frozen = 0 → hi.staged = 0 → hi.live ≠ 0 → ¬ (page.val = pgTime ∧ off = 0x050) →
      ∃ t, exec (.pairLoWrite r (BitVec.ofNat 18 (page.val * 0x1000 + off)) v) s = .next t
        ∧ getReg t page 0 off = v
        ∧ getReg t page 0 (off + 4) = (match hiHeld s r page 0 off with
            | some w => mix hi.live (getReg s page 0 (off + 4)) w
            | none => getReg s page 0 (off + 4))
        ∧ hiHeld t r page 0 off = none ∧ unchangedBut [.bus] s t))
  ∧ (∀ (s : State) (r : Requester) (page : Fin 32) (v : Word), Taken s r page 0x01C →
    ∃ t, exec (.chSelWrite r page v) s = .next t
      ∧ unchangedBut [.bus, .pcie, .sent] s t ∧ (∀ p c o, getReg t p c o = getReg s p c o)
      ∧ (∀ q, q ≠ page.val → getHdr t q = getHdr s q)
      ∧ (∀ c, selCopy r = some c → ∀ k, k ≠ page.val * 64 + c →
          storeGet (fun _ => 0) t.bus.chSel k = storeGet (fun _ => 0) s.bus.chSel k)
      ∧ (selCopy r = none → (∀ k, storeGet (fun _ => 0) t.bus.chSel k = storeGet (fun _ => 0) s.bus.chSel k)
          ∧ getHdr t page = (getHdr s page).capture r.code ePermission (regAddr page 0x01C)))

/-- The reads that clear or pop (R127, R164, R333, R380, R417): each answers the register and clears what the rule says, and nothing
else of the block. -/
def Obligations.readsThatClear : Prop :=
  (∀ (s : State) (r : Requester), Readable s r pgShm 0x058 →
    ∃ t, exec (.detLogRead r) s = .next t ∧ t.mem.detLog = s.mem.detLog.tail ∧ t.mem.detLost = false
      ∧ getAnswer t r = (flag 28 s.mem.detLost ||| match s.mem.detLog with
          | [] => 0
          | e :: _ => 0x80000000 ||| flag 30 e.restored ||| flag 29 e.fail ||| at_ 18 e.region.toNat ||| e.line.setWidth 32)
      ∧ t.mem.bytes = s.mem.bytes ∧ t.mem.sems = s.mem.sems ∧ unchangedBut [.bus, .mem] s t)
  ∧ (∀ (s : State) (r : Requester) (n : Fin 6), Readable s r (pgCore n.val) 0x05C →
    ∃ t, exec (.satCntRead r n) s = .next t ∧ getAnswer t r = (getProc s n).satCnt
      ∧ getProc t n = { getProc s n with satCnt := 0 } ∧ (∀ j, j ≠ n.val → getProc t j = getProc s j)
      ∧ unchangedBut [.bus, .procs] s t)
  ∧ (∀ (s : State) (r : Requester) (c : Nat), Readable s r pgCsi 0x40C → selChan s r pgCsi = some c →
    ∃ t, exec (.csiErrRead r) s = .next t ∧ getAnswer t r = getReg s pgCsi c 0x40C ∧ getReg t pgCsi c 0x40C = 0
      ∧ (∀ k, k ≠ regKey pgCsi c 0x40C → storeGet regReset t.bus.regs k = storeGet regReset s.bus.regs k)
      ∧ unchangedBut [.bus] s t)
  ∧ (∀ (s : State) (r : Requester) (c : Nat), Readable s r pgHerd 0x420 → selChan s r pgHerd = some c → c ≠ herdId s →
    ∃ t, exec (.peerErrRead r) s = .next t ∧ getAnswer t r = (at_ 0 (getPeer s c).gapCnt.toNat ||| at_ 16 (getPeer s c).badCnt.toNat)
      ∧ getPeer t c = { getPeer s c with gapCnt := 0, badCnt := 0 } ∧ (∀ p, p ≠ c → getPeer t p = getPeer s p)
      ∧ unchangedBut [.bus, .herd] s t)
  ∧ (∀ (s : State) (r : Requester), Readable s r pgCarafe 0x04C →
    ∃ t, exec (.erasedRead r) s = .next t ∧ getAnswer t r = (flag 0 s.trust.erased ||| at_ 1 s.trust.erasedCause.toNat)
      ∧ t.trust = { s.trust with erased := false, erasedCause := 0 } ∧ unchangedBut [.bus, .trust] s t)

/-- R145, R146 and R148: the counts. SEM_POST adds the low half of its value modulo 2^24, and a core's is staged while its step runs;
SEM_SET replaces the count, for MGMT and PF0 alone; every parked wait that is then met is answered with MET = 1 and the count, and
waits no more. Memory and every other semaphore keep their contents. R145 and R147: the waits. A write of SEM_WAIT sets this
requester's threshold; a read returns MET = 1 and the count where the semaphore is met, and parks the requester where it is not; a
wait whose limit has passed returns MET = 0 with the count and records TIMEOUT; SEM_TAKE takes one of a count that is not 0. The
model's choices in it: log entries 2, 3 and 64. -/
def Obligations.semaphores : Prop :=
  ((∀ (s : State) (r : Requester) (k : Fin 4) (v : Word) (n : Nat), Taken s r pgShm (0x404 + 0x20 * k.val) → semNamed s r k n →
    coreStages s r = false →
    ∃ t, exec (.semPost r k v) s = .next t
      ∧ semCount t n = semCount s n + BitVec.ofNat 24 (v.toNat % 0x10000) ∧ (∀ m, m ≠ n → semCount t m = semCount s m)
      ∧ t.mem.parked = s.mem.parked.filter (fun p => !(p.sem.val == n && semMet (semCount t n) p.threshold))
      ∧ (∀ p ∈ s.mem.parked, p.sem.val = n → semMet (semCount t n) p.threshold = true →
          getAnswer t p.req = (0x80000000 ||| (semCount t n).setWidth 32))
      ∧ t.mem.bytes = s.mem.bytes ∧ t.mem.thresholds = s.mem.thresholds ∧ unchangedBut [.bus, .mem] s t)
  ∧ (∀ (s : State) (c : Fin 6) (k : Fin 4) (v : Word) (n : Nat), Taken s (.core c) pgShm (0x404 + 0x20 * k.val) →
    semNamed s (.core c) k n → coreStages s (.core c) = true →
    ∃ t, exec (.semPost (.core c) k v) s = .next t
      ∧ (getProc t c).stagedPosts = (getProc s c).stagedPosts ++ [(n, v.setWidth 16)]
      ∧ (∀ j, j ≠ c.val → getProc t j = getProc s j) ∧ unchangedBut [.bus, .procs] s t)
  ∧ (∀ (s : State) (r : Requester) (k : Fin 4) (v : Word) (n : Nat), Taken s r pgShm (0x410 + 0x20 * k.val) → semNamed s r k n →
    r.isOwner = true →
    ∃ t, exec (.semSet r k v) s = .next t
      ∧ semCount t n = v.setWidth 24 ∧ (∀ m, m ≠ n → semCount t m = semCount s m)
      ∧ t.mem.parked = s.mem.parked.filter (fun p => !(p.sem.val == n && semMet (semCount t n) p.threshold))
      ∧ (∀ p ∈ s.mem.parked, p.sem.val = n → semMet (semCount t n) p.threshold = true →
          getAnswer t p.req = (0x80000000 ||| (semCount t n).setWidth 32))
      ∧ t.mem.bytes = s.mem.bytes ∧ unchangedBut [.bus, .mem] s t)
  ∧ (∀ (s : State) (c : Fin 6) (k : Fin 4) (v : Word), reqLive s (.core c) = true → isParked s (.core c) = false →
    lfiQuiet s lfiNoc (0x20 + c.val) 0 = true →
    ∃ t, exec (.semSet (.core c) k v) s = .next t ∧ t.mem = s.mem
      ∧ getHdr t pgShm = (getHdr s pgShm).capture (0x20 + BitVec.ofNat 8 c.val) ePermission (regAddr pgShm (0x410 + 0x20 * k.val))
      ∧ unchangedBut [.bus, .pcie, .sent] s t))
  ∧ ((∀ (s : State) (r : Requester) (k : Fin 4) (v : Word) (n : Nat), Taken s r pgShm (0x408 + 0x20 * k.val) → semNamed s r k n →
    n < 256 →
    ∃ t, exec (.semWaitThreshold r k v) s = .next t
      ∧ storeGet (fun _ => 0) t.mem.thresholds (r.code.toNat * 256 + n) = v.setWidth 24
      ∧ (∀ j, j ≠ r.code.toNat * 256 + n → storeGet (fun _ => 0) t.mem.thresholds j = storeGet (fun _ => 0) s.mem.thresholds j)
      ∧ t.mem.sems = s.mem.sems ∧ t.mem.bytes = s.mem.bytes ∧ unchangedBut [.bus, .mem] s t)
  ∧ (∀ (s : State) (r : Requester) (k : Fin 4) (n : Nat), Readable s r pgShm (0x408 + 0x20 * k.val) → semNamed s r k n →
    (semMet (semCount s n) (storeGet (fun _ => 0) s.mem.thresholds (r.code.toNat * 256 + n)) = true →
      ∃ t, exec (.semWait r k) s = .next t ∧ getAnswer t r = (0x80000000 ||| (semCount s n).setWidth 32)
        ∧ unchangedBut [.bus] s t)
    ∧ (semMet (semCount s n) (storeGet (fun _ => 0) s.mem.thresholds (r.code.toNat * 256 + n)) = false →
      ∃ t, exec (.semWait r k) s = .next t ∧ isParked t r = true
        ∧ t.mem.parked = s.mem.parked ++ [{ req := r, sem := Fin.ofNat 256 n
                                            threshold := storeGet (fun _ => 0) s.mem.thresholds (r.code.toNat * 256 + n)
                                            since := now s }]
        ∧ getAnswer t r = getAnswer s r ∧ t.mem.sems = s.mem.sems ∧ t.mem.bytes = s.mem.bytes
        ∧ unchangedBut [.bus, .mem] s t))
  ∧ (∀ (s : State) (r : Requester) (p : Parked), s.mem.parked.find? (·.req.code == r.code) = some p →
    p.since + max 1 ((getReg s pgShm 0 0x070).toNat % 0x10000) * 1000 ≤ now s →
    ∃ t, exec (.semWaitTimeout r) s = .next t ∧ isParked t r = false ∧ getAnswer t r = (semCount s p.sem.val).setWidth 32
      ∧ getHdr t pgShm = (getHdr s pgShm).capture r.code eTimeout (regAddr pgShm (0x408 + 0x20 * (p.sem.val % 4)))
      ∧ t.mem.sems = s.mem.sems ∧ t.mem.bytes = s.mem.bytes ∧ unchangedBut [.bus, .mem, .pcie, .sent] s t)
  ∧ (∀ (s : State) (r : Requester) (k : Fin 4) (n : Nat), Readable s r pgShm (0x40C + 0x20 * k.val) → semNamed s r k n →
    (semCount s n = 0 → ∃ t, exec (.semTake r k) s = .next t ∧ getAnswer t r = 0 ∧ unchangedBut [.bus] s t)
    ∧ (semCount s n ≠ 0 → ∃ t, exec (.semTake r k) s = .next t ∧ semCount t n = semCount s n - 1
        ∧ (∀ m, m ≠ n → semCount t m = semCount s m) ∧ getAnswer t r = (0x80000000 ||| (semCount s n).setWidth 32)
        ∧ t.mem.bytes = s.mem.bytes ∧ unchangedBut [.bus, .mem] s t)))

/-- R143, orders 2 to 3′: a slice with no write pending enters the state asked for and refuses no longer; one that still has one 5 µs
after the request stays ON, accepts writes again, records TIMEOUT and raises SLICE_TIMEOUT. R153, R155 and R158: the read of a golden
copy ends. Made for a reader outside any step, it writes the 256 bytes of the line from the copy and counts RESTORE_CNT; an
uncorrectable error, which inline ECC alone shows, counts in DDR.UE_CNT, leaves the line damaged and raises RESTORE_FAIL. A share that
waits for a line runs its step again once an agent has written it. R156 to R160: a scrub starts from its base and raises SCRUB_DONE
once it has read its whole range; before that it only goes on. A patrol pass adds the corrected errors to DDR.CE_CNT, which saturates;
an access that the network does not complete in time is a core fault with TIMEOUT and counts. The model's choices in it: log entries
2, 137, 138 and 139. -/
def Obligations.sharedMemory : Prop :=
  ((∀ (s : State) (n : Fin 4), (getSlice s n).refusing = true → (dom s (9 + n.val)).moving = true → (dom s (9 + n.val)).target = 1 →
    (dom s (9 + n.val)).state = 2 → slicePend s n = 0 →
    ∃ t, exec (.sliceDrained n) s = .next t ∧ (dom t (9 + n.val)).state = 1 ∧ (dom t (9 + n.val)).moving = false
      ∧ (getSlice t n).refusing = false ∧ (∀ a, memByte t a = memByte s a)
      ∧ (∀ m, m ≠ 9 + n.val → dom t m = dom s m) ∧ unchangedBut [.bus, .mem, .power, .pcie, .sent] s t)
  ∧ (∀ (s : State) (n : Fin 4), (getSlice s n).refusing = true → (dom s (9 + n.val)).moving = true → (dom s (9 + n.val)).target = 0 →
    slicePend s n = 0 →
    ∃ t, exec (.sliceDrained n) s = .next t ∧ (dom t (9 + n.val)).state = 0 ∧ (dom t (9 + n.val)).moving = false
      ∧ (getSlice t n).refusing = false
      ∧ (∀ a, a < 0x10000000 + n.val * 0x1000000 ∨ 0x11000000 + n.val * 0x1000000 ≤ a → memByte t a = memByte s a)
      ∧ unchangedBut [.bus, .mem, .power, .pcie, .sent] s t)
  ∧ (∀ (s : State) (n : Fin 4), (getSlice s n).refusing = true → slicePend s n ≠ 0 → (getSlice s n).since + 5000 ≤ now s →
    ∃ t, exec (.slicePowerTimeout n) s = .next t
      ∧ (getSlice t n).refusing = false ∧ (dom t (9 + n.val)).state = (dom s (9 + n.val)).state
      ∧ (dom t (9 + n.val)).target = (dom s (9 + n.val)).state ∧ (dom t (9 + n.val)).moving = false
      ∧ (let h := (getHdr s pgShm).capture 0xFF eTimeout (BitVec.ofNat 40 (0x10000000 + n.val * 0x1000000))
         getHdr t pgShm = { h with irqStat := h.irqStat ||| 8 })
      ∧ (∀ a, memByte t a = memByte s a) ∧ unchangedBut [.bus, .mem, .power, .pcie, .sent] s t))
  ∧ ((∀ (s : State) (line : BitVec 18) (x : Restore), s.mem.restores.find? (·.line == line) = some x → x.job = none →
    restorePossible s line = true →
    let base := (getReg s pgShm 0 (0x100 + 0x10 * x.region.val)).toNat % 0x4000000
    let copy := (getAddr s pgShm 0 (0x108 + 0x10 * x.region.val)).toNat + (line.toNat * 256 - base)
    (∃ t, exec (.goldenRestoreComplete line true) s = .next t
      ∧ (∀ i, i < 256 → memByte t (0x10000000 + line.toNat * 256 + i) = memByte s (copy + i))
      ∧ (∀ a, a < 0x10000000 + line.toNat * 256 ∨ 0x10000000 + line.toNat * 256 + 256 ≤ a → memByte t a = memByte s a)
      ∧ t.mem.restores = s.mem.restores.erase x ∧ getReg t pgShm 0 0x05C = getReg s pgShm 0 0x05C + 1
      ∧ unchangedBut [.bus, .mem] s t)
    ∧ (s.mem.eccOn = false → exec (.goldenRestoreComplete line false) s = exec (.goldenRestoreComplete line true) s)
    ∧ (s.mem.eccOn = true → ∃ t, exec (.goldenRestoreComplete line false) s = .next t
      ∧ (∀ a, memByte t a = memByte s a)
      ∧ (∀ i, i < 256 → storeGet (fun _ => false) t.mem.damaged (0x10000000 + line.toNat * 256 + i) = true)
      ∧ t.mem.restores = s.mem.restores.erase x
      ∧ (getReg t pgDdr 0 0x050).toNat = min 0xFFFFFFFF ((getReg s pgDdr 0 0x050).toNat + 1)
      ∧ (getHdr t pgShm).irqStat = (getHdr s pgShm).irqStat ||| 2 ∧ unchangedBut [.bus, .mem, .pcie, .sent] s t))
  ∧ (∀ (s : State) (line : BitVec 18) (j : Job) (i : Nat), lineWritten s line = true → s.pacer.jobs = [j] → j.open_ = true →
    j.nShares = 1 → i = 0 → (getShare j i).line = some line →
    exec (.restoreWaitEnd line) s = .next (rerun j.id i (getShare j i).core
      (modShare j.id i (fun r => { r with line := none, st := if r.st = .restoring then .waiting else r.st }) s)))
  ∧ (∀ (s : State) (line : BitVec 18), lineWritten s line = false → exec (.restoreWaitEnd line) s = .next s))
  ∧ ((∀ (s : State) (r : Requester) (v : Word), Taken s r pgShm 0x060 → v.getLsbD 0 = true → s.mem.scrubBusy = false →
    ∃ t, exec (.scrubStart r v) s = .next t ∧ t.mem.scrubBusy = true ∧ t.mem.scrubPos = 0 ∧ t.mem.scrubFrom = now s
      ∧ getReg t pgShm 0 0x060 = v &&& 0xFFF00 ∧ t.mem.bytes = s.mem.bytes ∧ t.mem.sems = s.mem.sems
      ∧ unchangedBut [.bus, .mem] s t)
  ∧ (∀ (s : State), (scrubAdvance s).mem.scrubPos.toNat < (getReg (scrubAdvance s) pgShm 0 0x068).toNat →
    exec .scrubDone s = .next (scrubAdvance s))
  ∧ (∀ (s : State), s.mem.scrubBusy = true → (getReg s pgShm 0 0x068).toNat ≤ s.mem.scrubPos.toNat →
    ∃ t, exec .scrubDone s = .next t ∧ t.mem.scrubBusy = false ∧ (getHdr t pgShm).irqStat = (getHdr s pgShm).irqStat ||| 4
      ∧ t.mem.bytes = s.mem.bytes ∧ unchangedBut [.bus, .mem, .pcie, .sent] s t)
  ∧ (∀ (s : State) (n : Nat), s.mem.eccOn = true → (getReg s pgDdr 0 0x040).getLsbD 1 = true → dramReady s = true → n ≠ 0 →
    ∃ t, exec (.patrolPass n) s = .next t
      ∧ (getReg t pgDdr 0 0x04C).toNat = min 0xFFFFFFFF ((getReg s pgDdr 0 0x04C).toNat + n)
      ∧ (getHdr t pgDdr).irqStat = (getHdr s pgDdr).irqStat ||| 1 ∧ unchangedBut [.bus, .pcie, .sent] s t)
  ∧ (∀ (s : State) (p : Proc) (op : MemOp) (ws : List WaitFor), (getProc s p.num).buf.waits = .remote op :: ws →
    (getProc s p.num).waitFrom + nocLimit s ≤ now s →
    exec (.nocTimeout p) s = .next (remoteFails p.num op.slot eTimeout (countWrap pgNoc 0 0x044 s))))

/-- R45 and R77: a write of a class register. A FREE entry becomes DEFINED, owned by the requester, and takes the value; a DEFINED one
of this requester takes it; an ACCEPTED one keeps its applied values and takes it in its pending copy. Every other entry is unchanged.
R73, R74 and R78 in an idle pacer: RELEASE frees a DEFINED entry; REVOKE frees one and starts the notice of an ACCEPTED one, which is
REVOKING from then on; SHRINK takes the pending values at the end of the notice. Each result counts one command. The model's choices
in it: log entries 38, 42, 44, 124, 126, 127 and 160. -/
def Obligations.classTable : Prop :=
  (∀ (s : State) (r : Requester) (off : BitVec 12) (v : Word) (k : Nat),
    off.toNat ∈ [0x400, 0x404, 0x408, 0x40C, 0x410, 0x414, 0x418, 0x41C] → Taken s r pgPacer off.toNat → selChan s r pgPacer = some k →
    ((getClass s k).st = .free →
      ∃ t, exec (.classEntryWrite r off v) s = .next t
        ∧ getClass t k = { getClass s k with st := .defined, owner := r.code, vals := (getClass s k).vals.write off.toNat v }
        ∧ (∀ j, j ≠ k → getClass t j = getClass s j) ∧ unchangedBut [.bus, .pacer] s t)
    ∧ ((getClass s k).st = .defined → (getClass s k).owner = r.code →
      ∃ t, exec (.classEntryWrite r off v) s = .next t
        ∧ getClass t k = { getClass s k with vals := (getClass s k).vals.write off.toNat v }
        ∧ (∀ j, j ≠ k → getClass t j = getClass s j) ∧ unchangedBut [.bus, .pacer] s t)
    ∧ ((getClass s k).st = .accepted → (getClass s k).owner = r.code →
      ∃ t, exec (.classEntryWrite r off v) s = .next t
        ∧ getClass t k = { getClass s k with
            pend := some (((getClass s k).pend.getD (getClass s k).vals).write off.toNat v) }
        ∧ (∀ j, j ≠ k → getClass t j = getClass s j) ∧ unchangedBut [.bus, .pacer] s t)
    ∧ ((getClass s k).st ≠ .free → (getClass s k).owner ≠ r.code →
      ∃ t, exec (.classEntryWrite r off v) s = .next t ∧ t.pacer = s.pacer
        ∧ getHdr t pgPacer = (getHdr s pgPacer).capture r.code ePermission (regAddr pgPacer off.toNat)
        ∧ unchangedBut [.bus, .pcie, .sent] s t))
  ∧ ((∀ (s : State) (r : Requester) (k : Fin 64), PacerIdle s → Taken s r pgPacer 0x054 → (getClass s k).st = .defined →
    (getClass s k).owner = r.code →
    (∃ t, exec (.release r k) s = .next t ∧ getClass t k = {} ∧ (∀ j, j ≠ k.val → getClass t j = getClass s j)
      ∧ answered s t r.code 0 0 ∧ t.pacer.running = none ∧ unchangedBut [.pacer] s t)
    ∧ (∃ t, exec (.revoke r k) s = .next t ∧ getClass t k = {} ∧ (∀ j, j ≠ k.val → getClass t j = getClass s j)
      ∧ answered s t r.code 0 0 ∧ (getHdr t pgPacer).irqStat = (getHdr s pgPacer).irqStat ||| 0x80
      ∧ unchangedBut [.pacer, .bus, .pcie, .sent] s t))
  ∧ (∀ (s : State) (r : Requester) (k : Fin 64), PacerIdle s → Taken s r pgPacer 0x054 → (getClass s k).st = .accepted →
    (getClass s k).notice ≠ 0 → ((getClass s k).owner = r.code ∨ r.isOwner = true) →
    ∃ t, exec (.revoke r k) s = .next t
      ∧ getClass t k = { getClass s k with
          st := .revoking, noticeEnd := now s + (getClass s k).notice.toNat * 1000, pend := none }
      ∧ (∀ j, j ≠ k.val → getClass t j = getClass s j) ∧ answered s t r.code 0 0 ∧ unchangedBut [.pacer] s t)
  ∧ (∀ (s : State) (r : Requester) (k : Fin 64) (v : ClassVals), PacerIdle s → Taken s r pgPacer 0x054 →
    (getClass s k).st = .accepted → (getClass s k).owner = r.code → (getClass s k).pend = some v → v ≠ (getClass s k).vals →
    shrinkOk (getClass s k).vals v = true → (getClass s k).notice ≠ 0 →
    ∃ t, exec (.shrink r k) s = .next t
      ∧ getClass t k = { getClass s k with shrinks := [(now s + (getClass s k).notice.toNat * 1000, v)] }
      ∧ (∀ j, j ≠ k.val → getClass t j = getClass s j) ∧ answered s t r.code 0 0 ∧ unchangedBut [.pacer] s t))

/-- R48, R55, R56 and R59: ADMIT takes every DEFINED entry of its requester, READMIT one SHED class. A pass that finds a placement
keeps it as the plan and writes its floor to the rail; the command still runs. A pass that fails answers the failing test and class,
and changes no entry. On the thermal path every admission fails THERMAL (R69). R59, R65 and R68: FENCE and UNFENCE of a present core,
by MGMT or PF0, in an idle pacer; and a waiting command starts when none runs. R48 to R54 and R463: what a pass answers. It takes the
first floor, in 5 mV steps from the present one, at which every test passes; then each share of the set stands on a core of its own,
usable and not the reserve, next to the accepted shares, which have not moved. Where no floor passes, each of them failed, and the
tests that do not rest on the reserve name what failed at the last. R61 to R68 and R462: what a fence leaves, for a present core that
is not fenced and whose domain is not changing, with nothing else for the pacer to settle. Its step is discarded, its channels stop,
and it is FENCED with the cause; the shares it held stand on the reserve, or where there is none on other cores, or their class is
shed; the jobs follow them, with a carry copy where rows were committed; with the last copy its domain goes OFF and FENCE is raised.
Where no core survives, every open job is LATE with FENCE and every class shed. A fence of a fenced or absent core does nothing, and
one that meets a change of the domain waits for it (R386). The model's choices in it: log entries 38, 39, 40, 43, 120, 121, 124, 125,
128, 162, 168, 170 and 172. -/
def Obligations.admissions : Prop :=
  ((∀ (s : State) (r : Requester) (k : Fin 64), PacerIdle s → s.pacer.thermal = .none → Taken s r pgPacer 0x054 →
    let passes (i : Instr) (op : BitVec 4) (arg : BitVec 6) (set : List (Nat × ClassVals)) : Prop :=
      activating s set = false → set ≠ [] → (set.find? fun c => classBad s c.2) = none →
      (∀ v ps rv, admitPass (started r.code op arg s) set = (v, .ok ps rv) →
        ∃ t, exec i s = .next t ∧ t.pacer.plan = some (planOf v set ps rv)
          ∧ t.pacer.running = some { req := r.code, op := op, arg := arg } ∧ t.pacer.railUse = .admitPlan
          ∧ t.power = { s.power with railTarget := BitVec.ofNat 10 v, railSettled := false, polling := true }
          ∧ t.sent = .avsTarget (BitVec.ofNat 10 v) :: s.sent ∧ t.pacer.classes = s.pacer.classes
          ∧ unchangedBut [.pacer, .power, .sent] s t)
      ∧ (∀ v code f, admitPass (started r.code op arg s) set = (v, .fail code f) →
        ∃ t, exec i s = .next t ∧ answered s t r.code code (BitVec.ofNat 6 f) ∧ t.pacer.classes = s.pacer.classes
          ∧ t.pacer.running = none ∧ unchangedBut [.pacer] s t)
    passes (.admitCmd r) 1 0 (admitSet s r.code)
    ∧ ((getClass s k).st = .shed → (getClass s k).owner = r.code →
      passes (.readmit r k) 7 (BitVec.ofNat 6 k.val) [(k.val, (getClass s k).vals)]))
  ∧ (∀ (s : State) (r : Requester), PacerIdle s → s.pacer.thermal ≠ .none → Taken s r pgPacer 0x054 →
    ∃ t, exec (.admitCmd r) s = .next t ∧ answered s t r.code 0x17 0 ∧ t.pacer.classes = s.pacer.classes ∧ t.pacer.running = none
      ∧ unchangedBut [.pacer] s t))
  ∧ ((∀ (s : State) (r : Requester) (n : Fin 64), PacerIdle s → Taken s r pgPacer 0x054 → r.isOwner = true →
    corePresent s n = true →
    exec (.fence r n) s = .next (floorFall (cmdFinish 0 0 (fenceCore n 4 (started r.code 5 (BitVec.ofNat 6 n.val) s))))
    ∧ (fenced s n = true → ∃ t, exec (.unfence r n) s = .next t ∧ fenced t n = false ∧ answered s t r.code 0 0
        ∧ getProc t n = {} ∧ (∀ j, j ≠ n.val → getHealth t j = getHealth s j) ∧ t.pacer.classes = s.pacer.classes))
  ∧ (∀ (s : State) (c : PacerCmd) (cs : List PacerCmd), (getHdr s pgPacer).enable = true → s.pacer.running = none →
    s.pacer.resetWait = false → s.pacer.queue = c :: cs →
    exec .nextCommandStart s = .next (floorFall (runCommand c (modPacer (fun p => { p with queue := cs }) s)))))
  ∧ ((∀ (s : State) (set : List (Nat × ClassVals)) (v : Nat) (ps : List Placed) (r : Option Nat), admitPass s set = (v, .ok ps r) →
    (∃ m, m ≤ 70 ∧ v = s.pacer.floor + 5 * m ∧ ∀ i, i < m → ∃ code k, passFloor s set (s.pacer.floor + 5 * i) = .fail code k)
    ∧ ∃ new, Admissible s set v ps new r)
  ∧ (∀ (s : State) (set : List (Nat × ClassVals)) (v k : Nat) (code : Byte), admitPass s set = (v, .fail code k) →
    500 ≤ s.pacer.floor → s.pacer.floor ≤ 850 →
    850 ≤ v ∧ v < 855 ∧ passFloor s set v = .fail code k
    ∧ (∀ i, s.pacer.floor + 5 * i < 850 → ∃ code' k', passFloor s set (s.pacer.floor + 5 * i) = .fail code' k'))
  ∧ (∀ (s : State) (set : List (Nat × ClassVals)) (v k : Nat) (code : Byte), passFloor s set v = .fail code k → reserveOn s = false →
    (code = rOverCore ∧ ∃ before i vals, placedNow s <+: before ∧ (k, vals) ∈ set ∧ i < vals.spread.toNat
      ∧ ∀ n, n < 6 → coreUsable s n = true → (∀ p ∈ before, p.cls = k → p.core ≠ n) →
        (leftSide (before ++ [⟨k, i, n, vals⟩]) n).le (gsr s n v) = false)
    ∨ (code = rOverStep ∧ ∃ new, ∃ p ∈ placedNow s ++ new, p.cls = k ∧ 50 * gsr s p.core v < p.vals.stepMax.toNat)
    ∨ (code = rOverDram ∧ (dramSum (countedVals s set)).le 191000 = false)
    ∨ (code = rOverCodec ∧ codecOk s v (countedVals s set) = false)))
  ∧ ((∀ (s : State) (n : Fin 6) (cause : BitVec 4),
    ((corePresent s n = false ∨ fenced s n = true) → fenceCore n cause s = s)
    ∧ (corePresent s n = true → fenced s n = false → (dom s (3 + n.val)).moving = true →
      fenceCore n cause s = modDom (3 + n.val) (fun d => { d with fenceWaits := cause }) s))
  ∧ (∀ (s : State) (n : Fin 6) (cause : BitVec 4), Fencing s n →
    let t := fenceCore n cause s
    fenced t n = true ∧ (getHealth t n).fenceCause = cause ∧ (∀ m, m ≠ n.val → getHealth t m = getHealth s m)
    ∧ getProc t n = { (getProc s n).idle with wdtBusy := wdtBusyNs s (getProc s n) }
    ∧ (∀ c, c < 32 → chanCore s c = some n.val → (getChan t c).en = false ∧ (getChan t c).st = .disabled)
    ∧ (getHealth t n).hold = t.pacer.carries.any (fun c => c.src == n)
    ∧ ((getHealth t n).hold = false → (dom t (3 + n.val)).state = 0 ∧ (getHdr t pgPacer).irqStat.getLsbD 1 = true))
  ∧ (∀ (s : State) (n : Fin 6) (cause : BitVec 4) (r : Fin 6), Fencing s n → Survives s n → s.pacer.reserve = some r →
    let t := fenceCore n cause s
    (∀ k, (getClass t k).st = (getClass s k).st)
    ∧ (∀ k, k < 64 → (getClass s k).standing = true → ∀ i, i < 6 → storeGet (fun _ => none) (getClass t k).cores i
        = if r ≠ n ∧ storeGet (fun _ => none) (getClass s k).cores i = some n then some r else storeGet (fun _ => none) (getClass s k).cores i)
    ∧ ((∃ x, t.pacer.reserve = some x ∧ coreUsable t x = true ∧ (∀ p ∈ placedNow t, p.core ≠ x.val)
          ∧ reserveRule t (workFloor t) x (placedNow t) = true)
      ∨ (t.pacer.reserve = none ∧ (getHdr t pgPacer).irqStat.getLsbD 4 = true)))
  ∧ (∀ (s : State) (n : Fin 6) (cause : BitVec 4), Fencing s n → Survives s n → s.pacer.reserve = none →
    let t := fenceCore n cause s
    (∀ k, k < 64 → (getClass t k).st = (getClass s k).st
      ∨ ((getClass s k).st = .accepted ∧ (getClass t k).st = .shed ∧ (getClass t k).cores = []
        ∧ (getHdr t pgPacer).irqStat.getLsbD 5 = true))
    ∧ (∀ k, k < 64 → (getClass t k).standing = true → (getClass t k).cores = [] ∨ ∀ i, i < 6 →
        storeGet (fun _ => none) (getClass t k).cores i ≠ some n
        ∧ (storeGet (fun _ => none) (getClass s k).cores i ≠ some n →
          storeGet (fun _ => none) (getClass t k).cores i = storeGet (fun _ => none) (getClass s k).cores i))
    ∧ (∀ id j, getJob s id = some j → j.open_ = true → ∃ j', getJob t id = some j' ∧ j'.lateFence = true))
  ∧ (∀ (s : State) (n : Fin 6) (cause : BitVec 4) (id i : Nat) (j : Job), Fencing s n → Survives s n → getJob s id = some j → j.open_ = true →
    i < j.nShares → (getShare j i).core = n → (getShare j i).st ≠ .done → (getShare j i).st ≠ .stopped →
    (∀ c ∈ s.pacer.carries, ¬ (c.job = id ∧ c.share = i)) →
    let t := fenceCore n cause s
    (∀ k m, storeGet (fun _ => none) (getClass t k).cores m ≠ some n) →
    ∃ j', getJob t id = some j' ∧ (getShare j' i).core ≠ n
      ∧ ((getShare j i).carryRows ≠ 0 → (getShare j i).committed ≠ 0 → (getShare j' i).st = .carrying
        ∧ ∃ c ∈ t.pacer.carries, c.job = id ∧ c.share = i ∧ c.src = n ∧ c.dst = (getShare j' i).core))
  ∧ (∀ (s : State) (n : Fin 6) (cause : BitVec 4), corePresent s n = true → fenced s n = false → (dom s (3 + n.val)).moving = false →
    ¬ Survives s n → s.pacer.plan = none → s.pacer.resetWait = false → (∀ k, k < 64 → (getClass s k).shrinks = []) →
    let t := fenceCore n cause s
    (∀ id j, getJob s id = some j → j.open_ = true →
      ∃ j', getJob t id = some j' ∧ j'.ended = some { status := .late, cause := 2, detail := 0, time := now s })
    ∧ (∀ k, k < 64 → (getClass s k).st = .accepted → getClass t k = { getClass s k with st := .shed, cores := [] })
    ∧ (∀ k, k < 64 → (getClass s k).st = .revoking → getClass t k = {})
    ∧ t.pacer.carries = [] ∧ (getHealth t n).hold = false ∧ (dom t (3 + n.val)).state = 0
    ∧ (getHdr t pgPacer).irqStat.getLsbD 1 = true))

/-- R37 to R41, R44 and R75: a job's own events. A job that is open and whose release time has come is released; one whose inputs are
all present becomes ready; one whose deadline has passed is marked so; and a share that issues more than COST steps ends its job FAULT
with cause OVERRUN. R75, R81, R82, R103 and R169: a job step starts on a core that is present, unfenced, ON, enabled and idle: the
share with the earliest deadline runs, its code stands in PMEM, every register file reads 0, and the array has forgotten its queue. A
read of the code that is not answered leaves the core waiting, and one that is refused or meets an uncorrectable error ends the job
FAULT with cause PROGRAM. R41, R60, R61, R62, R103, R145, R146, R152 and R320: a step's commit. Its staged bytes reach memory, its
staged posts and events take effect in order, but not those of a preceding step that reran, and the core is idle. A share that goes on
starts its next step after the bundle that asked; one that asked for its last is done, and the job ends with the last of them, OK by
its deadline and LATE after it; a relocated share returns to its first core, with a carry copy where it carries rows. R41, R44 and
R121: a job that is stopped ends with its status and cause at that instant; its shares that are not done stop, the steps that run of
it are discarded, its carry copies are dropped, and no other job and no other core's step changes. The model's choices in it: log
entries 2, 46, 123, 129, 133, 160, 161, 168 and 171. -/
def Obligations.jobEvents : Prop :=
  ((∀ (s : State) (id : Nat) (j : Job), getJob s id = some j → j.open_ = true → j.released = false →
    (∀ e, j.frame ≠ some (e, none)) → j.release ≤ now s →
    ∃ t, exec (.jobRelease id) s = .next t ∧ getJob t id = some { j with released := true }
      ∧ (∀ m, m ≠ id → getJob t m = getJob s m) ∧ unchangedBut [.pacer] s t)
  ∧ (∀ (s : State) (id : Nat) (j : Job), getJob s id = some j → j.open_ = true → j.ready = none →
    (∀ x ∈ j.inputs, inputPresent s j x = true) →
    ∃ t, exec (.jobReady id) s = .next t ∧ getJob t id = some { j with ready := some (now s) }
      ∧ (∀ m, m ≠ id → getJob t m = getJob s m) ∧ unchangedBut [.pacer] s t)
  ∧ (∀ (s : State) (id : Nat) (j : Job), PacerAtRest s → getJob s id = some j → j.open_ = true → j.unbound = false → j.deadline < now s →
    ∃ t, exec (.deadlinePass id) s = .next t ∧ getJob t id = some { j with passed := true }
      ∧ (∀ m, m ≠ id → getJob t m = getJob s m) ∧ unchangedBut [.pacer] s t)
  ∧ (∀ (s : State) (n : Fin 6) (j i : Nat) (job : Job), (getProc s n).run = some (j, i) → getJob s j = some job →
    job.cost < (getShare job i).steps →
    exec (.overrun n) s = .next (pacerSettle (jobStop j .fault 0x21 0 s))))
  ∧ (∀ (s : State) (n : Fin 6) (x : Answered) (b : Bool) (d j i : Nat) (job : Job), coreReady s n = true →
    startFirst (startable s n) = some (b, d, j, i) → getJob s j = some job →
    let r := getShare job i
    let u := if r.codeLen = 0 then s else dramCorrects r.codeAddr.toNat x s
    ((r.codeLen = 0 ∨ (x ≠ .never ∧ codeRefusal s job r = none ∧ dramFails s r.codeAddr.toNat x = false
        ∧ ∀ c, c < 4 → lfiOn s c lfiNoc (0x20 + n.val) 1 = false)) → r.codeLen.toNat ≤ 0x8000 →
      firstDamaged s (codeSpan s j i).1 (codeSpan s j i).2 = none →
      ∃ t, exec (.stepStart n x) s = .next t
        ∧ (getProc t n).runState = .issue ∧ (getProc t n).run = some (j, i)
        ∧ (getProc t n).pc = (if r.redoPrev then r.prevPc else r.stepPc)
        ∧ (getProc t n).g = [] ∧ (getProc t n).p = [] ∧ (getProc t n).o = [] ∧ (getProc t n).f = [] ∧ (getProc t n).v = []
        ∧ (getProc t n).acc = [] ∧ (getProc t n).m = [] ∧ (getProc t n).bundle = 0 ∧ (getArray t n).queue = []
        ∧ (∀ k, k < r.codeLen.toNat → memByte t (winBase n + 0xE00000 + k) = (codeBytes s job r).getD k 0)
        ∧ getJob t j = some { job.modShare i (fun r => { r with st := .running }) with
            start := some (job.start.getD (now s)), cores := job.cores ||| BitVec.ofNat 6 (2 ^ n.val) }
        ∧ (∀ m, m ≠ j → getJob t m = getJob s m) ∧ (getHealth t n).strikeJob = some j
        ∧ (∀ c, c < 32 → chanCore s c = some n.val → (getChan t c).en = true ∧ (getChan t c).st = .idle)
        ∧ (∀ m, m ≠ n.val → getProc t m = getProc s m)
        ∧ t.sent = (if place r.codeAddr.toNat = .host then
              .hostRead (Fin.ofNat 16 ((fnOf (jobOwner s job)).getD 0))
                (BitVec.ofNat 64 (hostAddr s ((fnOf (jobOwner s job)).getD 0) r.codeAddr.toNat)) r.codeLen.toNat :: u.sent
            else u.sent)
        ∧ t.bus = u.bus ∧ t.pcie = u.pcie ∧ unchangedBut [.procs, .arrays, .mem, .pacer, .dma, .bus, .pcie, .sent] s t)
    ∧ (r.codeLen ≠ 0 → exec (.stepStart n .never) s = .next s)
    ∧ (∀ e, r.codeLen ≠ 0 → x ≠ .never → codeRefusal s job r = some e →
      exec (.stepStart n x) s = .next (pacerSettle (jobStop j .fault 0x20 e (countRefusal e s))))
    ∧ (r.codeLen ≠ 0 → x ≠ .never → codeRefusal s job r = none → dramFails s r.codeAddr.toNat x = true →
      exec (.stepStart n x) s
        = .next (pacerSettle (jobStop j .fault 0x20 0x10 (dramError (0x20 + BitVec.ofNat 8 n.val) r.codeAddr.toNat s)))))
  ∧ (∀ (s : State) (n : Fin 6) (j i : Nat) (job : Job) (last : Bool), PacerAtRest s → (getProc s n).run = some (j, i) →
    (getProc s n).commitAsked = some last → getJob s j = some job → job.open_ = true → job.abort = false → i < job.nShares →
    let p := getProc s n
    let r := getShare job i
    let done (r : ShareRun) : ShareRun := { r with
      prevPc := r.stepPc, stepPc := p.pc, committed := r.committed + 1, dets := 0, relocated := false }
    ∃ t, exec (.stepCommit n) s = .next t
      ∧ (∀ a, memByte t a = memByte (stageApply p s) a) ∧ getProc t n = { p.idle with wdtBusy := 0 }
      ∧ (∀ m, m ≠ n.val → getProc t m = getProc s m) ∧ (∀ m, m ≠ j → getJob t m = getJob s m)
      ∧ (∀ k, semCount t k = semCount s k + (if r.redoPrev then 0 else
          BitVec.ofNat 24 ((p.stagedPosts.filter (fun q => q.1 == k)).map (fun q => q.2.toNat)).sum))
      ∧ t.ctlio.events = s.ctlio.events ++ (if r.redoPrev then [] else
          (p.stagedEvents.map fun c => { code := c, req := 0x20 + BitVec.ofNat 8 n.val }).take (64 - s.ctlio.events.length))
      ∧ (r.redoPrev = true → getJob t j = some (job.modShare i fun r => { r with redoPrev := false, st := .waiting }))
      ∧ (r.redoPrev = false → last = false → r.homeCore = none →
        getJob t j = some (job.modShare i fun r => { done r with st := .waiting }))
      ∧ (r.redoPrev = false → last = true → (∃ k, k < job.nShares ∧ k ≠ i ∧ (getShare job k).st ≠ .done) →
        getJob t j = some (job.modShare i fun r => { done r with st := .done }))
      ∧ (r.redoPrev = false → last = true → (∀ k, k < job.nShares → k ≠ i → (getShare job k).st = .done) →
        ∃ j', getJob t j = some j' ∧ j'.ended = some (if now s ≤ job.deadline then { status := .ok, cause := 0, detail := 0, time := now s }
          else { status := .late, cause := lateCause job, detail := 0, time := now s }))
      ∧ (∀ h, r.redoPrev = false → last = false → r.homeCore = some h →
        (r.carryRows = 0 ∨ h = n → getJob t j = some (job.modShare i fun r => { done r with
          homeCore := none, core := h, st := if r.line.isSome then .restoring else .waiting }))
        ∧ (r.carryRows ≠ 0 → h ≠ n → { job := j, share := i, src := n, dst := h } ∈ t.pacer.carries
          ∧ getJob t j = some (job.modShare i fun r => { done r with homeCore := none, core := h, st := .carrying })))
      ∧ unchangedBut [.procs, .arrays, .mem, .pacer, .ctlio, .bus, .pcie, .sent] s t)
  ∧ (∀ (s : State) (id : Nat) (st : JobStatus) (cause detail : Byte) (j : Job), getJob s id = some j → j.open_ = true →
    let t := jobStop id st cause detail s
    (∃ j', getJob t id = some j' ∧ j'.ended = some { status := st, cause := cause, detail := detail, time := now s }
      ∧ ∀ i, i < j.nShares → (getShare j' i).st = (if (getShare j i).st = .done then .done else .stopped))
    ∧ (∀ m, m ≠ id → getJob t m = getJob s m) ∧ (∀ c ∈ t.pacer.carries, c.job ≠ id)
    ∧ (∀ n, n < 6 → getProc t n = (match (getProc s n).run with
        | some (k, _) => if k = id then { (getProc s n).idle with wdtBusy := wdtBusyNs s (getProc s n) } else getProc s n
        | none => getProc s n))
    ∧ t.pacer.classes = s.pacer.classes ∧ t.pacer.health = s.pacer.health)

/-- R41, R344, R345, R351, R354 and R356: a completion leaves the pacer, counted where it is LATE or REJECTED. Its eight words are
written to the completion ring of the queue that asked, at its tail, which moves on; the phase turns as it wraps. Where that queue has
begun a new incarnation the completion is discarded, and counted in CPL_LOST where the link was lost; so it is where the queue's
function cannot be reached. R62 and R65: a carry copy that meets no damaged row brings the share's carried rows to the same place of
the target's CMEM; when the last copy from a fenced core has gone, its domain goes OFF and FENCE is raised. The model's choices in it:
log entries 2, 47 and 49. -/
def Obligations.completionsAndCarryCopies : Prop :=
  (∀ (s : State) (id : Nat) (j : Job) (d : JobEnd), getJob s id = some j → j.ended = some d →
    let q := j.queue.val
    let x := getQueue s q
    let base := (pair64 (getReg s pgHostq q 0x410) (getReg s pgHostq q 0x40C)).toNat + 32 * x.cqTail.toNat
    let status := match d.status with
      | .ok => 0
      | .late => 1
      | .rejected => 2
      | .aborted => 3
      | .fault => 4
    let words : List Nat := [j.tag.toNat + 2 ^ 16 * status + 2 ^ 24 * d.cause.toNat,
      d.detail.toNat + 2 ^ 8 * j.cores.toNat + 2 ^ 16 * min 255 j.reruns, j.start.getD d.time, d.time,
      j.sqHead.toNat + 2 ^ 16 * (q % 4), j.release, j.deadline, if x.phase then 2 ^ 31 else 0]
    let byte (k : Nat) : Byte := BitVec.ofNat 8 (words.getD (k / 4) 0 / 2 ^ (8 * (k % 4)))
    let left (t : State) : Prop := getJob t id = none ∧ (∀ m, m ≠ id → getJob t m = getJob s m)
      ∧ getReg t pgPacer 0 0x05C = getReg s pgPacer 0 0x05C + (if d.status = .late then 1 else 0)
      ∧ getReg t pgPacer 0 0x068 = getReg s pgPacer 0 0x068 + (if d.status = .rejected then 1 else 0)
      ∧ (getHdr t pgPacer).irqStat = (getHdr s pgPacer).irqStat ||| (if d.status = .late then 4 else 0)
    let moved (t : State) : Prop := (getQueue t q).cqTail = (if qDepth s q ≤ x.cqTail.toNat + 1 then 0 else x.cqTail + 1)
      ∧ (getQueue t q).phase = (if qDepth s q ≤ x.cqTail.toNat + 1 then !x.phase else x.phase)
      ∧ (∀ m, m ≠ q → getQueue t m = getQueue s m)
    (∀ f, x.epoch = j.epoch → queueReady s q = true → queueFn q = some f →
      ∃ t, exec (.completionHandoff id) s = .next t ∧ left t ∧ moved t ∧ (∀ k, k < 32 → hostByte t (base + k) = byte k)
        ∧ .hostWrite (Fin.ofNat 16 f) (BitVec.ofNat 64 base) ((List.range 32).map byte) ∈ t.sent
        ∧ (∀ a, memByte t a = memByte s a) ∧ unchangedBut [.pacer, .bus, .pcie, .mem, .sent] s t)
    ∧ (x.epoch = j.epoch → queueFn q = none → hostqRefusal s true (base % 2 ^ 40) 32 = none →
      (place (base % 2 ^ 40) = .sram ∨ place (base % 2 ^ 40) = .dram ∨ ∃ i, place (base % 2 ^ 40) = .shm i) →
      lfiQuiet s lfiNoc 0xFF 0 = true →
      ∃ t, exec (.completionHandoff id) s = .next t ∧ left t ∧ moved t ∧ (∀ k, k < 32 → memByte t (base % 2 ^ 40 + k) = byte k)
        ∧ (∀ a, (∀ k, k < 32 → a ≠ base % 2 ^ 40 + k) → memByte t a = memByte s a) ∧ unchangedBut [.pacer, .bus, .pcie, .mem, .sent] s t)
    ∧ ((x.epoch ≠ j.epoch ∨ queueReady s q = false) →
      ∃ t, exec (.completionHandoff id) s = .next t ∧ left t
        ∧ getReg t pgHostq 0 0x044 = getReg s pgHostq 0 0x044 + (if x.epoch = j.epoch ∨ j.epoch < x.linkEpoch then 1 else 0)
        ∧ unchangedBut [.pacer, .bus, .pcie, .sent] s t))
  ∧ ((∀ (s : State) (j : Nat) (i : Fin 6) (c : CarryCopy) (job : Job),
    (s.pacer.carries.find? fun c => c.job == j && c.share == i.val) = some c → getJob s j = some job →
    firstDamaged s (winBase c.src + 128 * (getShare job i).carryBase) (128 * (getShare job i).carryRows) = none →
    ∃ t, exec (.carryCopyComplete j i) s = .next t
      ∧ (∀ k, k < 128 * (getShare job i).carryRows →
          memByte t (winBase c.dst + 128 * (getShare job i).carryBase + k)
            = memByte s (winBase c.src + 128 * (getShare job i).carryBase + k))
      ∧ (∀ a, (∀ k, k < 128 * (getShare job i).carryRows → a ≠ winBase c.dst + 128 * (getShare job i).carryBase + k) →
          memByte t a = memByte s a)
      ∧ (t.pacer.carries.find? fun c => c.job == j && c.share == i.val) = none
      ∧ getJob t j = some (job.modShare i fun r => if r.st = .carrying then { r with st := r.atRest } else r)
      ∧ unchangedBut [.mem, .pacer] s t)
  ∧ (∀ (s : State) (n : Fin 6), (getHealth s n).hold = true → (∀ c ∈ s.pacer.carries, c.src ≠ n) →
    ∃ t, exec (.fenceHoldEnd n) s = .next t ∧ (getHealth t n).hold = false ∧ (dom t (3 + n.val)).state = 0
      ∧ (getHealth t n).fenced = (getHealth s n).fenced
      ∧ (∀ m, m ≠ 3 + n.val → dom t m = dom s m) ∧ (getHdr t pgPacer).irqStat = (getHdr s pgPacer).irqStat ||| 2
      ∧ unchangedBut [.pacer, .power, .mem, .bus, .pcie, .sent] s t))

/-- R58, R64, R69, R390 and R392: the pace monitors, whose tenth slow window in a row fences the core; the sensors, of which one at
110 °C enters the thermal path, which ends an admission that waits for its rail with THERMAL; the drain, at whose end the rail and the
floor fall to 0.50 V; and the restoration, tried again after 1 ms. The model's choices in it: log entries 2, 41, 169 and 170. -/
def Obligations.railAndHeat : Prop :=
  (∀ (s : State) (n : Fin 6) (steps : Nat), corePresent s n = true → fenced s n = false → (getHealth s n).paceLow.toNat < 9 →
    ∃ t, exec (.paceWindow n true steps) s = .next t
      ∧ (getHealth t n).paceLow = (if steps < 97 * gsr s n s.pacer.floor then (getHealth s n).paceLow + 1 else 0)
      ∧ (∀ m, m ≠ n.val → getHealth t m = getHealth s m) ∧ unchangedBut [.pacer] s t)
  ∧ (∀ (s : State) (n : Fin 6) (steps : Nat), corePresent s n = true → fenced s n = false → 9 ≤ (getHealth s n).paceLow.toNat →
    steps < 97 * gsr s n s.pacer.floor → s.pacer.thermal = .none →
    exec (.paceWindow n true steps) s = .next (fenceCore n 2 (modHealth n (fun h => { h with paceLow := satInc h.paceLow }) s)))
  ∧ (∀ (s : State) (n : Fin 6) (steps : Nat), (corePresent s n = false ∨ fenced s n = true) → exec (.paceWindow n true steps) s = .next s)
  ∧ (∀ (s : State) (n : Fin 6) (steps : Nat), exec (.paceWindow n false steps) s = .next s)
  ∧ (∀ (s : State) (ts : Vector (BitVec 12) 7), PacerAtRest s → s.pacer.thermal = .none → inReset s = false →
    (∃ i : Fin 7, 440 ≤ ts[i].toInt) → (∀ i : Fin 7, ts[i].toInt < 480) →
    let heated : Pacer := { s.pacer with
      thermal := .drain, thermalFrom := now s, railUse := if s.pacer.railUse = .thermalRestore then .undo else s.pacer.railUse
      jobs := s.pacer.jobs.map fun j => if j.open_ && !j.overdue (now s) then { j with lateThermal := true } else j }
    ∃ t, exec (.sensorReading ts) s = .next t ∧ (getHdr t pgPacer).irqStat = (getHdr s pgPacer).irqStat ||| 8
      ∧ (s.pacer.plan = none → t.pacer = heated)
      ∧ (∀ c, s.pacer.plan ≠ none → s.pacer.running = some c → answered s t c.req 0x17 0 ∧ t.pacer.running = none ∧ t.pacer.plan = none
        ∧ t.pacer.thermal = .drain ∧ t.pacer.railUse = .undo ∧ t.pacer.jobs = heated.jobs
        ∧ t.power.railTarget = (if s.pacer.accepted then BitVec.ofNat 10 s.pacer.floor else BitVec.ofNat 10 s.fuses.bootMv.toNat))
      ∧ unchangedBut [.pacer, .power, .bus, .pcie, .sent] s t)
  ∧ (∀ (s : State) (ts : Vector (BitVec 12) 7), PacerAtRest s → s.pacer.thermal = .none →
    (∀ i : Fin 7, ts[i].toInt < 440) →
    ∃ t, exec (.sensorReading ts) s = .next t
      ∧ (∀ i : Fin 7, storeGet (fun _ => (0 : BitVec 12)) t.power.temps i = ts[i])
      ∧ (getHdr t pgPower).irqStat = (getHdr s pgPower).irqStat
          ||| (if ∃ i : Fin 7, 4 * (((getReg s pgPower 0 0x054).toNat % 0x100 : Nat) : Int) ≤ ts[i].toInt then 2 else 0)
      ∧ t.pacer = s.pacer ∧ unchangedBut [.power, .bus, .pcie, .sent] s t)
  ∧ (∀ (s : State), s.pacer.thermal = .drain → thermalIsDrained s = true →
    ∃ t, exec .thermalDrained s = .next t ∧ t.pacer.thermal = .lowering ∧ t.power.railTarget = 500 ∧ t.pacer.railUse = .thermalLow
      ∧ t.pacer.floor = 500 ∧ t.pacer.heldFloor = some (s.pacer.heldFloor.getD s.pacer.floor)
      ∧ t.sent = .avsTarget 500 :: s.sent ∧ unchangedBut [.pacer, .power, .sent] s t)
  ∧ (∀ (s : State), s.pacer.thermal = .retry → s.pacer.retryFrom + 1000000 ≤ now s → sensorsCool s = true → s.pacer.settled = true →
    ∃ t, exec .thermalRetry s = .next t ∧ t.pacer.thermal = .restoring
      ∧ t.power.railTarget = (if s.pacer.accepted then BitVec.ofNat 10 (s.pacer.heldFloor.getD s.pacer.floor)
          else BitVec.ofNat 10 s.fuses.bootMv.toNat)
      ∧ t.pacer.railUse = .thermalRestore ∧ unchangedBut [.pacer, .power, .sent] s t)

/-- R57: where the rail is not reported settled within 200 µs of the AVSBus write, the pacer returns the rail to the previous floor,
rejects the set with RAIL_TIMEOUT and raises RAIL_TIMEOUT. Before the first acceptance the rail stands at the fused boot voltage
(R390). -/
def Obligations.railTimeout : Prop :=
  ∀ (s : State), s.pacer.settled = false → s.pacer.railFrom + 200000 ≤ now s → s.pacer.railUse = .admitPlan →
    ∀ c, s.pacer.running = some c →
    ∃ t, exec .railTimeout s = .next t ∧ answered s t c.req rRailTimeout 0 ∧ t.pacer.running = none ∧ t.pacer.plan = none
      ∧ t.power.railTarget = (if s.pacer.accepted then BitVec.ofNat 10 s.pacer.floor else BitVec.ofNat 10 s.fuses.bootMv.toNat)
      ∧ t.pacer.railUse = .undo ∧ t.pacer.floor = s.pacer.floor ∧ t.pacer.classes = s.pacer.classes
      ∧ (getHdr t pgPacer).irqStat = (getHdr s pgPacer).irqStat ||| 0x40
      ∧ unchangedBut [.pacer, .power, .bus, .pcie, .sent] s t

/-- R128 to R130: the watchdogs. A core whose step has outlived its limit is fenced, with cause 3, after source 12; the management
watchdog asserts source 6; the kick with 0xA5 restarts its count, and any other value is FORMAT. R129, R151 and R409: where a parity
detection is reported. One in the carafe counts in DET_CNT, and the first since VALID was cleared is captured; one in a core's buffers
or PMEM that its step reads is captured in the core's page and counted, and the step is handled by R61, and one that another reader
meets there is captured and counted; one in the management SRAM is a fault of MGMT, or the halt of the channel that met it. R61 and
R63: what follows a detection in the step of share `i` of a job on core `n`, with nothing else for the pacer to settle. The step's
outputs are discarded, and the share reruns: at the first detection on the same core; at the second, once, on another, the reserve or
where none is named the core of the lowest load, with a strike against `n`; a relocated step reruns where it is, with a strike; and a
third detection on one core within one job fences it. Where no other core is usable the step reruns on its own. R126, R129, R151,
R272, R289 to R291: a byte of wrong parity that is read from the management SRAM is counted and is a PARITY fault of the management
processor, which enters its handler or, in it or without one, halts; between two bundles the last one counts as the faulting one (the
model's choice, in the log). One that a channel reads is reported where the memory says and halts the channel with PARITY; where the
running step of its core started the channel, it is a detection of that step. R399 to R403: a source asserts. Outside write pulses it
is asserted and stretched, and its cause accumulates; a source of L0 to L2 begins an episode of its level, and one of L3 only joins an
episode under way that reaches its block. The model's choices in it: log entries 14, 19, 35, 85, 168 and 171. -/
def Obligations.watchdogsAndParity : Prop :=
  ((∀ (s : State) (n : Fin 6), (getProc s n).runState ≠ .idle →
    max 100 ((getReg s (pgCore n.val) 0 0x06C).toNat % 0x10000) * 1000 ≤ wdtBusyNs s (getProc s n) →
    exec (.coreWatchdogExpiry n) s = .next (fenceCore n 3 (sourceAssert 12 (raise (pgCore n.val) 1 s))))
  ∧ (∀ (s : State), s.time.wdtOn = true → (getReg s pgMgmt 0 0x050).toNat % 0x10000 * 25000 ≤ s.time.wdtTicks →
    exec .mgmtWatchdogExpiry s = .next (sourceAssert 6 s))
  ∧ (∀ (s : State) (r : Requester), Taken s r pgMgmt 0x054 →
    ∃ t, exec (.wdtKick r 0xA5) s = .next t ∧ t.time = { s.time with wdtTicks := 0 } ∧ unchangedBut [.time] s t)
  ∧ (∀ (s : State) (r : Requester) (v : Word), Taken s r pgMgmt 0x054 → v ≠ 0xA5 →
    ∃ t, exec (.wdtKick r v) s = .next t ∧ t.time = s.time
      ∧ getHdr t pgMgmt = (getHdr s pgMgmt).capture r.code eFormat (regAddr pgMgmt 0x054) ∧ unchangedBut [.bus, .pcie, .sent] s t))
  ∧ ((∀ (s : State) (off : BitVec 14),
    ∃ t, exec (.parityDetection (.carafe off)) s = .next t
      ∧ t.trust = (if s.trust.detValid then s.trust else { s.trust with detValid := true, detOffset := off })
      ∧ (getReg t pgCarafe 0 0x044).toNat = min 0xFFFFFFFF ((getReg s pgCarafe 0 0x044).toNat + 1)
      ∧ (getHdr t pgCarafe).irqStat = (getHdr s pgCarafe).irqStat ||| 1 ∧ unchangedBut [.trust, .bus, .pcie, .sent] s t)
  ∧ (∀ (s : State) (n : Fin 6), stepping s n = true →
    exec (.parityDetection (.buffers n (.core n))) s
      = .next (stepDetection n (coreParity n (0x20 + BitVec.ofNat 8 n.val) (winBase n + 0x820000) s))
    ∧ exec (.parityDetection (.pmem n (.core n))) s
      = .next (stepDetection n (coreParity n (0x20 + BitVec.ofNat 8 n.val) (winBase n + 0xE00000) s)))
  ∧ (∀ (s : State) (n : Fin 6) (r : Requester), r = .mgmt ∨ (∃ f, r = .fn f) ∨ (∃ k, r = .core k ∧ k ≠ n) →
    exec (.parityDetection (.buffers n r)) s = .next (coreParity n r.code (winBase n + 0x820000) s)
    ∧ exec (.parityDetection (.pmem n r)) s = .next (coreParity n r.code (winBase n + 0xE00000) s))
  ∧ (∀ (s : State) (n : Fin 6) (r : Byte) (a : Nat),
    getHdr (coreParity n r a s) (pgCore n.val) = (getHdr s (pgCore n.val)).capture r eParity (BitVec.ofNat 40 a)
    ∧ (getHealth (coreParity n r a s) n).det = satInc (getHealth s n).det)
  ∧ (∀ (s : State) (off : BitVec 19) (c : Fin 32), exec (.parityDetection (.mgmtSram off .mgmt)) s = .next (sramDetection s)
    ∧ exec (.parityDetection (.mgmtSram off (.chan c))) s = .next (chanDetection c (0x1000000 + off.toNat) true s)))
  ∧ (∀ (s : State) (n : Fin 6) (j i : Nat) (job : Job), Fencing s n → (getProc s n).run = some (j, i) → getJob s j = some job →
    job.open_ = true →
    let r := getShare job i
    let t := stepDetection n s
    let before := storeGet (fun _ => 0) job.detBy n
    let others := (List.range 6).filter fun m => m != n.val && coreUsable s m
    let strikes (u : State) := storeGet (fun _ => 0) (getHealth u n).strikes j
    let counted (off : Nat) : Prop := getReg t pgPacer 0 off = getReg (stepDiscard n s) pgPacer 0 off + 1
    (before < 2 → getProc t n = { (getProc s n).idle with wdtBusy := wdtBusyNs s (getProc s n) }
      ∧ ∃ job', getJob t j = some job' ∧ job'.reruns = job.reruns + 1 ∧ storeGet (fun _ => 0) job'.detBy n = before + 1
        ∧ (getShare job' i).dets = r.dets + 1
        ∧ (r.relocated = false → (r.dets = 0 ∨ r.redoPrev = true ∨ others = []) →
          getShare job' i = { r with dets := r.dets + 1, st := if r.st = .running then .waiting else r.st }
          ∧ counted 0x060 ∧ getHealth t n = getHealth s n)
        ∧ (r.relocated = true →
          getShare job' i = { r with dets := r.dets + 1, st := if r.st = .running then .waiting else r.st }
          ∧ counted 0x060 ∧ strikes t = satInc (strikes s))
        ∧ (r.relocated = false → r.dets ≠ 0 → r.redoPrev = false → others ≠ [] →
          (getShare job' i).relocated = true ∧ (getShare job' i).homeCore = some (r.homeCore.getD n) ∧ (getShare job' i).core ≠ n
          ∧ coreUsable s (getShare job' i).core = true ∧ counted 0x064 ∧ strikes t = satInc (strikes s)
          ∧ (∀ x, s.pacer.reserve = some x → x ≠ n → coreUsable s x = true → (getShare job' i).core = x)
          ∧ (s.pacer.reserve = none → lowestLoad s others = some (getShare job' i).core.val ∧ job'.lateFence = true)))
    ∧ (2 ≤ before → fenced t n = true ∧ (getHealth t n).fenceCause = 1))
  ∧ ((∀ (s : State), let t := sramDetection s
    let p := getProc s 6
    let q := getProc t 6
    getReg t pgMgmt 0 0x05C = (if 0xFFFF ≤ (getReg s pgMgmt 0 0x05C).toNat then getReg s pgMgmt 0 0x05C else getReg s pgMgmt 0 0x05C + 1)
    ∧ ((p.halted = true ∨ s.reset_.romStarted = false) → q = p)
    ∧ (p.halted = false → s.reset_.romStarted = true →
      q.faultValid = true ∧ q.faultCause = 4 ∧ q.faultSlot = 1
      ∧ q.faultPc = BitVec.ofNat 32 (if p.buf.syls = 0 then p.lastPc else p.pc)
      ∧ (p.fvec.getLsbD 31 = true → p.inFault = false →
        q.inFault = true ∧ q.ie = false ∧ q.runState = .handler ∧ q.halted = false
        ∧ (p.buf.syls = 0 → p.inflight = [] → q.pie = p.ie ∧ q.pc = p.fvec.toNat % 2 ^ 31 ∧ q.epc = BitVec.ofNat 32 p.pc))
      ∧ ((p.fvec.getLsbD 31 = false ∨ p.inFault = true) → q.halted = true ∧ q.pc = p.pc))
    ∧ unchangedBut [.bus, .procs] s t)
  ∧ (∀ (s : State) (c : Fin 32) (a : Nat) (wb : Bool), (∀ n, chanCore s c = some n → c ∉ (getProc s n).stepChans) →
    let t := chanDetection c a wb s
    (getChan t c).st = .halted ∧ (getChan t c).result = 4 ∧ (getHdr t pgDma).errValid = true
    ∧ (getHdr t pgDma).irqStat = (getHdr s pgDma).irqStat ||| 0x80000002 ||| (if (getHdr s pgDma).errValid then 0x40000000 else 0)
    ∧ ((getHdr s pgDma).errValid = false → (getHdr t pgDma).errReq = 0x30 + BitVec.ofNat 8 c.val ∧ (getHdr t pgDma).errCode = 4
      ∧ (getHdr t pgDma).errAddr = BitVec.ofNat 40 a)
    ∧ (∀ k, k < 6 → (place a = .cmem k ∨ place a = .buffers k ∨ place a = .pmem k) →
      (getHdr t (pgCore k)).errValid = true ∧ (getHealth t k).det = satInc (getHealth s k).det)
    ∧ (place a = .sram → getReg t pgMgmt 0 0x05C = getReg (sramDetection s) pgMgmt 0 0x05C)
    ∧ (∀ k, k ≠ c.val → getChan t k = getChan s k))
  ∧ (∀ (s : State) (c : Fin 32) (a n : Nat) (wb : Bool), chanCore s c = some n → c ∈ (getProc s n).stepChans → (getChan s c).st ≠ .halted →
    n < 6 → place a ≠ .sram →
    ((∃ i, place a = .shm i) → chanDetection c a wb s = shmStepDetection n (shmLine a) (countDet n (chanHalt c 4 a wb s)))
    ∧ ((∀ i, place a ≠ .shm i) → chanDetection c a wb s = stepDetection n (chanHalt c 4 a wb (readerDetection (0x30 + BitVec.ofNat 8 c.val) a s)))))
  ∧ (∀ (s : State) (c : Fin 14), pulseBusy s = false → 2 ≤ c.val →
    let t := sourceAssert c s
    t.reset_.asserted = s.reset_.asserted ||| BitVec.ofNat 14 (2 ^ c.val) ∧ t.reset_.stretch = s.reset_.stretch ||| BitVec.ofNat 14 (2 ^ c.val)
    ∧ (srcLevel s c ≠ 0 → s.reset_.exit ≠ some 0 → t.reset_.causeAcc = s.reset_.causeAcc ||| BitVec.ofNat 14 (2 ^ c.val))
    ∧ (srcLevel s c ≠ 3 → ∃ l srcs, t.reset_.episode = some (l, srcs) ∧ srcs.getLsbD c = true ∧ l.toNat ≤ srcLevel s c ∧ t.reset_.cause = srcs
      ∧ t.reset_.romStarted = false)
    ∧ (srcLevel s c = 3 → s.reset_.episode = none → t.reset_.episode = none)
    ∧ (c.val = 12 → unchangedBut [.reset, .trust] s t))

/-- R83 to R86 and R92: what words spell. The command that a syllable spells, with its extension where it has one, is the one whose
words they are: decoding the words of a command gives that command with every operand, and whatever decodes has such words. Words
written out from the layout and the formats read as the rules say, and an OPCODE that is not listed for its slot spells nothing. The
model's choices in it: log entries 4 and 131. -/
def Obligations.syllableWords : Prop :=
  (∀ (i : Instr) (p : Proc) (w : Word) (x : Option Word), encode i = some (p, w, x) → decodeSyllable p w x = some i)
  ∧ (∀ (i : Instr) (p : Proc) (w : Word) (x : Option Word), decodeSyllable p w x = some i →
    ∃ v y, encode i = some (p, v, y) ∧ v &&& 0xFFC00000 = w &&& 0xFFC00000 ∧ y = x)
  ∧ (let last : At := { p := .core 0, fin := true }
     let more : At := { p := .core 0, fin := false }
     let reads (w : Word) (i : Instr) : Prop := decodeTableWord 32 w.toNat = some i
     reads 0b10000000010001100001000100000000#32 (.add last 3 1 2)
     ∧ reads 0b00000000100010000101100000000001#32 (.addi more 4 5 0x801 none)
     ∧ decodeTableWord 64 (2 ^ 32 * 0xF1234567 + 0b00000000100010000101100000000001) = some (.addi last 4 5 0x801 (some 0x1234567))
     ∧ reads 0b10000100000011111111111111111111#32 (.bnz last 7 0x1FFFF)
     ∧ reads 0b10000110000001100000010011000000#32 (.repeatOp last 3 9 true false 0)
     ∧ reads 0b10010010000011000100010000000100#32 (.ldw last .a { r := 6, p := 2, mode := 1, low := 4 })
     ∧ reads 0b00110001000011000100010000000100#32 (.ldw more .l1 { r := 6, p := 2, mode := 1, low := 4 })
     ∧ reads 0b00010001100011000001000000000000#32 (.ptog more 6 1 0)
     ∧ reads 0b00100000010011000100010000000100#32 (.vld more false { r := 6, p := 2, mode := 1, low := 4 })
     ∧ reads 0b01000000010000100010000111101010#32 (.vadd more false { d := 1, a := 2, b := 3, masked := true, m := 5, type := 2 })
     ∧ reads 0b11011010110000100010000110000110#32 (.vdeq last true { d := 1, a := 2, b := 3, masked := false, m := 0, type := 6 })
     ∧ reads 0b00110010000011100110100101100000#32
         (.gather more true { d := 7, p := 3, idx := 9, esize := 1, scale := 2, masked := false, m := 0 })
     ∧ reads 0b10010100000001100001000100000000#32 (.faddS last 3 1 2)
     ∧ reads 0b11100000010010010000000000000000#32 (.naq last 4 2)
     ∧ decodeTableWord 32 0b10000011110000000000000000000000 = none)

/-- R92 and R97: slot S's integer arithmetic. A syllable that issues adds one result of the table's latency to the results on their
way, computed from the registers as it reads them; nothing else changes until its bundle ends. SHL, SHR and SRA take the amount
gb[4:0], or SUB[4:0] when b = 0; an immediate is sign-extended, or carries an extension's 28 bits above it. The model's choices in it:
log entries 5 and 78. -/
def Obligations.integerResults : Prop :=
  ∀ (s : State) (a : At) (d x y : Fin 32), let p := getProc s a.p.num
    (Issues s a 0 false →
      Yields (.add a d x y) a 0 1 false (.g d (BitVec.ofNat 32 ((p.rg x).toNat + (p.rg y).toNat))) s
      ∧ Yields (.sub a d x y) a 0 1 false (.g d (BitVec.ofInt 32 ((p.rg x).toNat - (p.rg y).toNat))) s
      ∧ Yields (.and a d x y) a 0 1 false (.g d (p.rg x &&& p.rg y)) s
      ∧ Yields (.or a d x y) a 0 1 false (.g d (p.rg x ||| p.rg y)) s
      ∧ Yields (.xor a d x y) a 0 1 false (.g d (p.rg x ^^^ p.rg y)) s
      ∧ Yields (.slt a d x y) a 0 1 false (.g d (if (p.rg x).toInt < (p.rg y).toInt then 1 else 0)) s
      ∧ Yields (.sltu a d x y) a 0 1 false (.g d (if (p.rg x).toNat < (p.rg y).toNat then 1 else 0)) s
      ∧ Yields (.mul a d x y) a 0 2 false (.g d (BitVec.ofNat 32 ((p.rg x).toNat * (p.rg y).toNat))) s
      ∧ Yields (.mulh a d x y) a 0 2 false (.g d (BitVec.ofInt 32 ((p.rg x).toInt * (p.rg y).toInt / 4294967296))) s)
    ∧ (∀ sub : BitVec 7, Issues s a 0 false → ∀ k : Nat, k = (if y = 0 then sub.toNat % 32 else (p.rg y).toNat % 32) →
      Yields (.shl a d x y sub) a 0 1 false (.g d (BitVec.ofNat 32 ((p.rg x).toNat * 2 ^ k))) s
      ∧ Yields (.shr a d x y sub) a 0 1 false (.g d (BitVec.ofNat 32 ((p.rg x).toNat / 2 ^ k))) s
      ∧ Yields (.sra a d x y sub) a 0 1 false (.g d (BitVec.ofInt 32 ((p.rg x).toInt / 2 ^ k))) s)
    ∧ (∀ imm : BitVec 12, (Issues s a 0 false →
        Yields (.addi a d x imm none) a 0 1 false (.g d (p.rg x + imm.signExtend 32)) s)
      ∧ ∀ e : BitVec 28, Issues s a 0 true →
        Yields (.addi a d x imm (some e)) a 0 1 true (.g d (p.rg x + BitVec.ofNat 32 (e.toNat * 4096 + imm.toNat))) s)
    ∧ (∀ imm : BitVec 17, (Issues s a 0 false → Yields (.movi a d imm none) a 0 1 false (.g d (imm.signExtend 32)) s)
      ∧ ∀ e : BitVec 28, Issues s a 0 true →
        Yields (.movi a d imm (some e)) a 0 1 true (.g d (BitVec.ofNat 32 (e.toNat * 131072 + imm.toNat))) s)

/-- R86, R92 and R100: the control transfers of slot S, outside delay slots and loop bodies. Each opens a window of three delay slots
in its bundle; a branch's condition and JR's target are read now, and a branch counts words from its own bundle. R100, R113, R119 and
R125: where a control transfer faults. In a delay slot its cause is DELAY_SLOT, in a loop body LOOP_BODY; a count above 1,024 is
LOOP_BODY; a RESUME without a recorded operation and a REPEAT with ROT on the management processor are ILLEGAL_OP. The model's choices
in it: log entries 77 and 78. -/
def Obligations.controlTransfers : Prop :=
  (∀ (s : State) (a : At), Issues s a 0 false → straight s a → let p := getProc s a.p.num
    let window (t : Option Nat) (r : ReturnKind) : State :=
      closed a (buffers (fun b => { b with delay := some { left := 3, target := t, ret := r } }) a (placed a 0 false s))
    let target (off : BitVec 17) : Nat := (((p.pc : Int) + 4 * off.toInt) % (if a.p.num = mgmtNo then 4294967296 else 65536)).toNat
    (∀ (x : Fin 32) (off : BitVec 17),
      exec (.bnz a x off) s = .next (window (if p.rg x = 0 then none else some (target off)) .none)
      ∧ exec (.bz a x off) s = .next (window (if p.rg x = 0 then some (target off) else none) .none)
      ∧ exec (.jmp a off) s = .next (window (some (target off)) .none)
      ∧ exec (.call a off) s = .next (closed a (buffers (fun b => { b with
          call := true, delay := some { left := 3, target := some (target off), ret := .none } }) a (placed a 0 false s)))
      ∧ exec (.jr a x) s = .next (window (some (4 * ((p.rg x).toNat % (if a.p.num = mgmtNo then 4294967296 else 65536) / 4))) .none))
    ∧ exec (.reti a) s = .next (window (some p.epc.toNat) .reti)
    ∧ (∀ op, p.vfaultOp = some op → p.vfaultInfo.getLsbD 31 = true →
      exec (.resume a) s = .next (closed a (modProc a.p.num (fun q => { q with
        vfaultInfo := p.vfaultInfo &&& 0x7FFFFFFF
        buf := { q.buf with mems := q.buf.mems ++ [.gs op (p.vfaultInfo.toNat % 16) true]
                            delay := some { left := 3, target := some p.epc.toNat, ret := .resume } } })
          (touchV a.p.num [op.form.d, op.form.idx] (placed a 0 false s)))))
    ∧ (∀ (len : Fin 32) (cnt : Fin 1024) (rot reg : Bool) (g : Fin 32), (a.p.num = mgmtNo → rot = false) →
      ∀ count : Nat, count = (if reg then (p.rg g).toNat else cnt.val + 1) → count ≤ 1024 →
      exec (.repeatOp a len cnt rot reg g) s = .next (closed a (buffers (fun b => { b with
        rep := some (len.val + 1, count, rot) }) a (placed a 0 false s)))))
  ∧ (∀ (s : State) (a : At), Issues s a 0 false → let p := getProc s a.p.num
    (∀ cause, (p.delay.isSome = true ∧ cause = 0x14) ∨ (p.delay = none ∧ p.loop.isSome = true ∧ cause = 0x13) →
      (∀ (x : Fin 32) (off : BitVec 17), Faults (.bnz a x off) a 0 false cause s ∧ Faults (.bz a x off) a 0 false cause s
        ∧ Faults (.jmp a off) a 0 false cause s ∧ Faults (.call a off) a 0 false cause s ∧ Faults (.jr a x) a 0 false cause s)
      ∧ Faults (.reti a) a 0 false cause s ∧ Faults (.resume a) a 0 false cause s
      ∧ (∀ (len : Fin 32) (cnt : Fin 1024) (rot reg : Bool) (g : Fin 32), Faults (.repeatOp a len cnt rot reg g) a 0 false cause s)
      ∧ (∀ last, a.p ≠ .mgmt → Faults (.stepend a last) a 0 false cause s))
    ∧ (straight s a → (p.vfaultOp = none ∨ p.vfaultInfo.getLsbD 31 = false) → Faults (.resume a) a 0 false fIllegalOp s)
    ∧ (straight s a → ∀ (len : Fin 32) (cnt : Fin 1024) (reg : Bool) (g : Fin 32),
      (a.p = .mgmt → Faults (.repeatOp a len cnt true reg g) a 0 false fIllegalOp s)
      ∧ (1024 < (p.rg g).toNat → Faults (.repeatOp a len cnt false true g) a 0 false fLoopBody s))
    ∧ (a.p = .mgmt → (∀ last, Faults (.stepend a last) a 0 false fIllegalOp s) ∧ ∀ x, Faults (.evpostOp a x) a 0 false fIllegalOp s))

/-- R91, R92, R96, R103 and R101: NOP, the control registers, STEPEND, EVPOST, MFENCE and TRAP. GETCR and SETCR have latency 2;
STEPEND and MFENCE make their bundle wait; EVPOST stages ga's event code until the commit; TRAP faults. The model's choices in it: log
entries 79, 81, 84 and 163. -/
def Obligations.systemOperations : Prop :=
  ∀ (s : State) (a : At), let p := getProc s a.p.num
    (∀ slot : Slot, Issues s a (slotNum slot) false → exec (.nop a slot) s = .next (closed a (placed a (slotNum slot) false s)))
    ∧ (Issues s a 0 false →
      (∀ (d : Fin 32) (sub : BitVec 7) (w : Word), getCr s a.p.num (sub.toNat % 32) = some w →
        Yields (.getcr a d sub) a 0 2 false (.g d w) s)
      ∧ (∀ (x : Fin 32) (sub : BitVec 7), Yields (.setcr a x sub) a 0 2 false (.cr (sub.setWidth 5) (p.rg x)) s)
      ∧ (∀ last, a.p ≠ .mgmt → straight s a → exec (.stepend a last) s
          = .next (closed a (buffers (fun b => { b with waits := b.waits ++ [.stepDrained last] }) a (placed a 0 false s))))
      ∧ (∀ x, a.p ≠ .mgmt → exec (.evpostOp a x) s = .next (closed a (modProc a.p.num (fun q => { q with
          stagedEvents := q.stagedEvents ++ [(p.rg x).setWidth 16] }) (placed a 0 false s))))
      ∧ exec (.mfence a) s
          = .next (closed a (buffers (fun b => { b with waits := b.waits ++ [.storesAcked] }) a (placed a 0 false s)))
      ∧ (∀ imm, Faults (.trap a imm none) a 0 false fTrap s))
    ∧ (Issues s a 0 true → ∀ imm e, Faults (.trap a imm (some e)) a 0 true fTrap s)

/-- R83, R97, R100, R101, R113 and R114: how issue moves on. A NOP with END closes a bundle in which nothing else acts: a step is
counted, the next bundle follows, and an open delay window or a loop moves on: after the third delay slot the target is next, a loop's
body is run again while turns are left, and each of its ends turns RRB when ROT is set. Registers keep their values while no result is
due, and the flags that the bundle's operations set are set. R92, R100, R113 and R114: what the bundle of a control transfer, a REPEAT
or an RROT does as it issues. A transfer opens its window, and a CALL's g31 holds, for the next bundle on, the address behind its
third delay slot; a REPEAT's loop starts at the next bundle, or is skipped when its count is 0, and is LOOP_BODY where its body does
not end; RROT turns RRB at the end of its bundle. The model's choices in it: log entries 5, 77, 165 and 175. -/
def Obligations.bundleSequence : Prop :=
  (∀ (s : State) (a : At) (slot : Slot), a.fin = true → Issues s a (slotNum slot) false → let p := getProc s a.p.num
    PlainBundle p.buf → p.commitAsked = none → p.inflight = [] →
    ∃ t, exec (.nop a slot) s = .next t ∧ unchangedBut [.procs, .pacer] s t ∧ (∀ j, j ≠ a.p.num → getProc t j = getProc s j)
      ∧ let q := getProc t a.p.num
        let next := p.pc + 4 * (p.buf.syls + 1)
        q.buf = {} ∧ q.lastPc = p.pc ∧ q.bundle = p.bundle + 1 ∧ q.stepCnt = p.stepCnt + 1 ∧ q.stallCnt = p.stallCnt ∧ q.inflight = []
        ∧ sameFiles p q ∧ q.accOvf = (p.accOvf || p.buf.accOvf) ∧ q.movSat = (p.movSat || p.buf.movSat)
        ∧ (p.delay = none → p.loop = none →
          q.pc = next ∧ q.delay = none ∧ q.loop = none ∧ q.rrb = p.rrb ∧ q.ie = p.ie ∧ q.inIrq = p.inIrq ∧ q.inFault = p.inFault)
        ∧ (∀ d, p.delay = some d → 1 < d.left →
          q.pc = next ∧ q.delay = some { d with left := d.left - 1 } ∧ q.loop = p.loop ∧ q.rrb = p.rrb)
        ∧ (∀ d, p.delay = some d → d.left ≤ 1 → q.pc = d.target.getD next ∧ q.rrb = p.rrb
          ∧ (d.ret = .none → q.delay = none ∧ q.loop = p.loop ∧ q.ie = p.ie ∧ q.inIrq = p.inIrq ∧ q.inFault = p.inFault)
          ∧ (d.ret = .reti → p.inFault = false → q.ie = true ∧ q.inIrq = false ∧ q.inFault = false)
          ∧ (d.ret ≠ .none → p.inFault = true → q.ie = p.pie ∧ q.inFault = false ∧ q.inIrq = p.inIrq))
        ∧ (∀ l, p.loop = some l → p.delay = none → q.delay = none
          ∧ (l.pos + 1 < l.len → q.pc = next ∧ q.loop = some { l with pos := l.pos + 1 } ∧ q.rrb = p.rrb)
          ∧ (l.len ≤ l.pos + 1 → q.rrb = (if l.rot then p.rrb - 1 else p.rrb)
            ∧ (l.left ≤ 1 → q.pc = next ∧ q.loop = none)
            ∧ (1 < l.left → q.pc = l.start ∧ q.loop = some { l with pos := 0, left := l.left - 1 }))))
  ∧ (∀ (s : State) (a : At) (slot : Slot), a.fin = true → Issues s a (slotNum slot) false → straight s a → let p := getProc s a.p.num
    let next := p.pc + 4 * (p.buf.syls + 1)
    p.buf.mems = [] → p.buf.waits = [] → p.commitAsked = none → p.inflight = [] →
    let ends (f : ProcState → Prop) : Prop := ∃ t, exec (.nop a slot) s = .next t ∧ f (getProc t a.p.num) ∧ (getProc t a.p.num).buf = {}
      ∧ (∀ j, j ≠ a.p.num → getProc t j = getProc s j) ∧ unchangedBut [.procs, .pacer] s t
    (∀ d, p.buf.delay = some d → p.buf.call = false → p.buf.rep = none → p.buf.rrot = false →
      ends fun q => q.pc = next ∧ q.delay = some d ∧ q.loop = none ∧ sameFiles p q ∧ q.rrb = p.rrb)
    ∧ (∀ d r, p.buf.delay = some d → p.buf.call = true → p.buf.rep = none → p.buf.rrot = false → bundlesNext s a.p.num 3 next = some r →
      ends fun q => q.pc = next ∧ q.delay = some d ∧ q.rg 31 = BitVec.ofNat 32 r ∧ (∀ k, k ≠ 31 → q.rg k = p.rg k) ∧ q.rrb = p.rrb)
    ∧ (∀ len cnt rot e, p.buf.rep = some (len, cnt, rot) → p.buf.delay = none → p.buf.call = false → p.buf.rrot = false →
      bundlesNext s a.p.num len next = some e →
      ends fun q => q.delay = none ∧ sameFiles p q ∧ q.rrb = p.rrb
        ∧ (cnt ≠ 0 → q.pc = next ∧ q.loop = some { start := next, len := len, pos := 0, left := cnt, rot := rot })
        ∧ (cnt = 0 → q.pc = e ∧ q.loop = none))
    ∧ (∀ len cnt rot, p.buf.rep = some (len, cnt, rot) → bundlesNext s a.p.num len next = none →
      exec (.nop a slot) s = .next (procFault a.p.num 0 0x13 (placed a (slotNum slot) false s)))
    ∧ (p.buf.rrot = true → p.buf.delay = none → p.buf.call = false → p.buf.rep = none →
      ends fun q => q.pc = next ∧ q.delay = none ∧ q.loop = none ∧ q.rrb = p.rrb - 1 ∧ sameFiles p q))

/-- R97 and R89: results land. The result on its way to gd is in gd after the bundle before its due one, and not sooner; a result for
g0 is discarded, and g0 reads 0 throughout. R98: of two results for one register and one bundle the one of the higher slot is kept,
and of one slot the later issued. The model's choices in it: log entry 94. -/
def Obligations.resultsLand : Prop :=
  (∀ (s : State) (a : At) (slot : Slot) (due sl issued : Nat) (d : Fin 32) (w : Word),
    a.fin = true → Issues s a (slotNum slot) false → let p := getProc s a.p.num
    PlainBundle p.buf → p.commitAsked = none → p.delay = none → p.loop = none →
    p.inflight = [{ due := due, slot := sl, issued := issued, land := .g d w }] →
    ∃ t, exec (.nop a slot) s = .next t ∧ let q := getProc t a.p.num
      q.rg 0 = 0 ∧ (∀ k, k ≠ d → q.rg k = p.rg k)
      ∧ (due ≤ p.bundle + 1 → q.inflight = [] ∧ (d ≠ 0 → q.rg d = w))
      ∧ (p.bundle + 1 < due → q.inflight = p.inflight ∧ q.rg d = p.rg d)
      ∧ q.p = p.p ∧ q.f = p.f ∧ q.v = p.v ∧ q.pc = p.pc + 4 * (p.buf.syls + 1) ∧ unchangedBut [.procs, .pacer] s t)
  ∧ (∀ (s : State) (a : At) (slot : Slot) (due : Nat) (e f : Inflight) (d : Fin 32) (u w : Word),
    a.fin = true → Issues s a (slotNum slot) false → let p := getProc s a.p.num
    PlainBundle p.buf → p.commitAsked = none → p.delay = none → p.loop = none → due ≤ p.bundle + 1 → d ≠ 0 →
    e.due = due → f.due = due → e.land = .g d u → f.land = .g d w → (e.slot < f.slot ∨ (e.slot = f.slot ∧ e.issued < f.issued)) →
    (p.inflight = [e, f] ∨ p.inflight = [f, e]) →
    ∃ t, exec (.nop a slot) s = .next t ∧ (getProc t a.p.num).rg d = w ∧ (getProc t a.p.num).inflight = [])

/-- R92, R102, R105 and R107: a core's own CMEM. At END a scalar load of its own CMEM gives its result with latency 4, and a scalar
store is staged: the core then reads the stored bytes, and every other byte and every byte that anyone else reads stay the same. Both
cost no more than the bundle's step. The model's choices in it: log entries 9 and 72. -/
def Obligations.localAccesses : Prop :=
  ∀ (s : State) (c : Fin 6) (slot : Slot) (sl size : Nat) (ad : Addr), let a : At := { p := .core c, fin := true }
    Issues s a (slotNum slot) false → let p := getProc s c.val
    PlainBundle { p.buf with mems := [] } → p.commitAsked = none → p.delay = none → p.loop = none → p.inflight = [] →
    size ≤ 8 → place ad.toNat = .cmem c.val →
    (∀ (dest : Fin 32) (signed : Bool), p.buf.mems = [.load sl (.g dest) size signed ad] →
      (∀ i, i < size → viewBad s (some c.val) (ad.toNat + i) = false) → 0 < size →
      ∃ t, exec (.nop a slot) s = .next t ∧ (getProc t c.val).stallCnt = p.stallCnt ∧ (getProc t c.val).stepCnt = p.stepCnt + 1
        ∧ (let v := BitVec.ofNat (8 * size) (ofBytes (viewBytes s (some c.val) ad.toNat size))
          (getProc t c.val).inflight = [{ due := p.bundle + 4, slot := sl, issued := p.bundle,
                                          land := .g dest (if signed then v.signExtend 32 else v.setWidth 32) }])
        ∧ unchangedBut [.procs, .pacer] s t)
    ∧ (∀ v : DWord, p.buf.mems = [.store sl size v ad] →
      ∃ t, exec (.nop a slot) s = .next t ∧ (getProc t c.val).stallCnt = p.stallCnt ∧ (getProc t c.val).stepCnt = p.stepCnt + 1
        ∧ (∀ i, i < size → viewByte t (some c.val) (ad.toNat + i) = v.extractLsb' (8 * i) 8)
        ∧ (∀ x, (x < ad.toNat ∨ ad.toNat + size ≤ x) → viewByte t (some c.val) x = viewByte s (some c.val) x)
        ∧ (∀ x, memByte t x = memByte s x) ∧ (∀ j, j ≠ c.val → getProc t j = getProc s j) ∧ sameFiles ({ p with stage := (getProc t c.val).stage } : ProcState) (getProc t c.val)
        ∧ unchangedBut [.procs, .pacer] s t)

/-- R85, R89 and R92: slot A's pointers and offsets, 40 and 32 bits wide, with latency 1, and RROT, which turns RRB after its own
bundle and is ILLEGAL_OP on the management processor. The model's choices in it: log entries 82 and 117. -/
def Obligations.pointerResults : Prop :=
  ∀ (s : State) (a : At) (d x : Fin 16), let p := getProc s a.p.num
    (Issues s a 1 false →
      (∀ imm : BitVec 12, Yields (.paddi a d x imm none) a 1 1 false (.p d (p.rp x + imm.signExtend 40)) s)
      ∧ (∀ b : Fin 32, Yields (.paddo a d x b) a 1 1 false
          (.p d (BitVec.ofInt 40 ((p.rp x).toNat + (p.ro (Fin.ofNat 16 b.val)).toInt))) s)
      ∧ (∀ imm : BitVec 17, Yields (.pli a d imm none) a 1 1 false (.p d (imm.signExtend 40)) s
          ∧ Yields (.oli a d imm none) a 1 1 false (.o d (imm.signExtend 32)) s)
      ∧ (∀ u b : Fin 32, Yields (.gtop a d u b) a 1 1 false (.p d ((p.rg b).setWidth 8 ++ p.rg u)) s)
      ∧ (∀ (r : Fin 32) (sub : BitVec 7), Yields (.ptog a r x sub) a 1 1 false
          (.g r (if sub.getLsbD 0 then ((p.rp x).extractLsb' 32 8).setWidth 32 else (p.rp x).setWidth 32)) s)
      ∧ (a.p ≠ .mgmt → exec (.rrot a) s = .next (closed a (buffers (fun b => { b with rrot := true }) a (placed a 1 false s))))
      ∧ (a.p = .mgmt → Faults (.rrot a) a 1 false fIllegalOp s))
    ∧ (Issues s a 1 true → ∀ e : BitVec 28,
      (∀ imm : BitVec 12, Yields (.paddi a d x imm (some e)) a 1 1 true (.p d (p.rp x + (e ++ imm))) s)
      ∧ (∀ imm : BitVec 17, Yields (.pli a d imm (some e)) a 1 1 true (.p d (BitVec.ofNat 40 (e.toNat * 131072 + imm.toNat))) s
          ∧ Yields (.oli a d imm (some e)) a 1 1 true (.o d (BitVec.ofNat 32 (e.toNat * 131072 + imm.toNat))) s))

/-- R105 to R107: where a MEM-format access goes, and what it leaves in its pointer. A circular pointer stays in its buffer. R92 and
R105 to R107: scalar accesses. An aligned access joins its bundle, with its pointer's update of latency 1; a misaligned one faults
with ALIGNMENT, a strip with ILLEGAL_OP. The address is resolved through the self alias (R109). The model's choices in it: log entries
72, 82 and 83. -/
def Obligations.scalarAccesses : Prop :=
  (∀ (p : ProcState) (f : MemForm) (unit : Nat), let a := p.rp f.p
    let o := (p.ro (Fin.ofNat 16 (f.low.toNat / 64))).toInt
    ((f.mode = 0 ∨ f.mode = 7) → memAddress p f unit = (a, none))
    ∧ (f.mode = 1 → memAddress p f unit = (a, some (BitVec.ofInt 40 (a.toNat + f.low.toInt * unit))))
    ∧ ((f.mode = 2 ∨ f.mode = 6) → memAddress p f unit = (a, some (BitVec.ofInt 40 (a.toNat + o))))
    ∧ (f.mode = 3 → memAddress p f unit = (BitVec.ofInt 40 (a.toNat + o), none))
    ∧ (f.mode = 4 → p.cb0Len ≠ 0 → memAddress p f unit
        = (a, some (BitVec.ofInt 40 (p.cb0Base.toNat + ((a.toNat : Int) - p.cb0Base.toNat + o) % p.cb0Len.toNat))))
    ∧ (f.mode = 5 → p.cb1Len ≠ 0 → memAddress p f unit
        = (a, some (BitVec.ofInt 40 (p.cb1Base.toNat + ((a.toNat : Int) - p.cb1Base.toNat + o) % p.cb1Len.toNat))))
    ∧ (f.mode = 4 → p.cb0Len ≠ 0 → p.cb0Base.toNat + p.cb0Len.toNat ≤ 2 ^ 40 → ∃ n, (memAddress p f unit).2 = some n
        ∧ p.cb0Base.toNat ≤ n.toNat ∧ n.toNat < p.cb0Base.toNat + p.cb0Len.toNat))
  ∧ (∀ (s : State) (a : At) (f : MemForm), let p := getProc s a.p.num
    let joins (i : Instr) (slot size : Nat) (op : Addr → MemOp) : Prop :=
      (Issues s a slot false → f.mode.toNat < 6 → ((memAddress p f size).1.toNat % size = 0 →
        exec i s = .next (closed a (addMem a.p.num slot f.p (memAddress p f size).2
          (op (BitVec.ofNat 40 (unalias (ownCore a.p.num) (memAddress p f size).1.toNat))) (placed a slot false s))))
        ∧ ((memAddress p f size).1.toNat % size ≠ 0 → Faults i a slot false eAlignment s))
      ∧ (Issues s a slot false → 6 ≤ f.mode.toNat → Faults i a slot false fIllegalOp s)
    (∀ sl : WordSlot, joins (.ldw a sl f) (wordSlot sl) 4 (fun ad => .load (wordSlot sl) (.g f.r) 4 false ad)
      ∧ joins (.stw a sl f) (wordSlot sl) 4 (fun ad => .store (wordSlot sl) 4 ((p.rg f.r).setWidth 64) ad))
    ∧ joins (.ldh a f) 1 2 (fun ad => .load 1 (.g f.r) 2 true ad)
    ∧ joins (.ldb a f) 1 1 (fun ad => .load 1 (.g f.r) 1 true ad)
    ∧ joins (.sth a f) 1 2 (fun ad => .store 1 2 ((p.rg f.r).setWidth 64) ad)
    ∧ joins (.stb a f) 1 1 (fun ad => .store 1 1 ((p.rg f.r).setWidth 64) ad)
    ∧ joins (.ldf a f) 1 8 (fun ad => .load 1 (.f f.r) 8 false ad)
    ∧ joins (.stf a f) 1 8 (fun ad => .store 1 8 (p.rf f.r) ad))

/-- R89, R92 and R94: slot A's floating point, IEEE 754 round to nearest, ties to even. An FP32 result clears the upper half of its
register; GTOF leaves it. R89, R90 and R92: short vectors. Each f register that the destination overlays, one for e and two for y,
receives its lanes: sums and low halves of products modulo the lane width, and FP16 sums of products. ILLEGAL_OP on the management
processor. The model's choices in it: log entries 86, 87, 88, 89, 93 and 164. -/
def Obligations.scalarFloats : Prop :=
  (∀ (s : State) (a : At) (d x y : Fin 32), Issues s a 1 false → let p := getProc s a.p.num
    let single (n : Nat) : Landing := .f d (BitVec.ofNat 64 (n % 2 ^ 32))
    let lo (r : Fin 32) : Nat := (p.rf r).toNat % 2 ^ 32
    Yields (.faddS a d x y) a 1 4 false (single (fpAdd fp32 (lo x) (lo y))) s
    ∧ Yields (.fmulS a d x y) a 1 4 false (single (fpMul fp32 (lo x) (lo y))) s
    ∧ Yields (.fmaS a d x y) a 1 4 false (single (fpFma fp32 (lo d) (lo x) (lo y))) s
    ∧ Yields (.fdivS a d x y) a 1 12 false (single (fpDiv fp32 (lo x) (lo y))) s
    ∧ Yields (.faddD a d x y) a 1 6 false (.f d (BitVec.ofNat 64 (fpAdd fp64 (p.rf x).toNat (p.rf y).toNat))) s
    ∧ Yields (.fmulD a d x y) a 1 6 false (.f d (BitVec.ofNat 64 (fpMul fp64 (p.rf x).toNat (p.rf y).toNat))) s
    ∧ (∀ sub : BitVec 7, ∃ t, exec (.fcvt a d x sub) s = .next t
      ∧ (∀ k, Config.fcvtKind (sub.setWidth 4) = some k → t = closed a (pushRes a.p.num 1 4 (fcvtLanding k d (p.rf x)) (placed a 1 false s)))
      ∧ (Config.fcvtKind (sub.setWidth 4) = none →
        ∃ v : DWord, t = closed a (pushRes a.p.num 1 4 (.f d v) { placed a 1 false s with free := s.free + 1 })))
    ∧ (∀ sub : BitVec 7, Yields (.fcmp a d x y sub) a 1 2 false
        (.g d (if (if Config.fcmpWide (sub.toNat / 8) then fpCmp fp64 (sub.toNat % 8) (p.rf x).toNat (p.rf y).toNat
          else fpCmp fp32 (sub.toNat % 8) (lo x) (lo y)) then 1 else 0)) s)
    ∧ Yields (.gtof a d x) a 1 2 false (.fLow d (p.rg x)) s
    ∧ Yields (.ftog a d x) a 1 2 false (.g d ((p.rf x).setWidth 32)) s)
  ∧ (∀ (s : State) (a : At) (d x y : Fin 32) (sub : BitVec 7), Issues s a 1 false → let p := getProc s a.p.num
    let regs (r : Fin 32) : List (Fin 32) :=
      if sub.getLsbD 6 then [Fin.ofNat 32 (2 * (r.val % 16)), Fin.ofNat 32 (2 * (r.val % 16) + 1)] else [r]
    let lands (i : Instr) (w lat : Nat) (lane : Nat → Nat → Nat → Nat) : Prop :=
      ∃ vs : List DWord, vs.length = (regs d).length
        ∧ exec i s = .next (closed a (((regs d).zip vs).foldl (fun s r => pushRes a.p.num 1 lat (.f r.1 r.2) s) (placed a 1 false s)))
        ∧ ∀ j, j < 2 → ∀ v, vs[j]? = some v → ∀ rd, (regs d)[j]? = some rd → ∀ rx, (regs x)[j]? = some rx →
          ∀ ry, (regs y)[j]? = some ry → ∀ k, k < 64 / w →
            v.toNat / 2 ^ (w * k) % 2 ^ w = lane ((p.rf rd).toNat / 2 ^ (w * k) % 2 ^ w) ((p.rf rx).toNat / 2 ^ (w * k) % 2 ^ w)
              ((p.rf ry).toNat / 2 ^ (w * k) % 2 ^ w) % 2 ^ w
    (a.p ≠ .mgmt → (sub.toNat % 4 < 3 → let w := 8 * 2 ^ (sub.toNat % 4)
        lands (.svadd a d x y sub) w 2 (fun _ u v => u + v) ∧ lands (.svmul a d x y sub) w 2 (fun _ u v => u * v))
      ∧ lands (.svfma a d x y sub) 16 3 (fpFma fp16))
    ∧ (a.p = .mgmt → Faults (.svadd a d x y sub) a 1 false fIllegalOp s ∧ Faults (.svmul a d x y sub) a 1 false fIllegalOp s
      ∧ Faults (.svfma a d x y sub) a 1 false fIllegalOp s))

/-- R94, R235 and R241: a number that a format holds is left as it is by every rounding to the format, whatever fraction writes it.
The model's choices in it: log entry 89. -/
def Obligations.representableNumbers : Prop :=
  ∀ (f : Fmt) (mode : Mode) (z : Nat) (neg : Bool) (q r : Q), f ∈ [fp16, bf16, fp32, fp64] → z < 2 ^ f.width →
    f.decode false z = .fin neg q → r.den ≠ 0 → r.num * q.den = q.num * r.den → f.encode mode false neg r = z

/-- R92, R105, R107 and R109: vector accesses. A VLD, VST or VLDB of the core's own CMEM, aligned to 128 bytes (8 for a column strip,
4 for VLDB), joins its bundle with its pointer's update; the vector register is bound now, and a store carries its value. R107 and
R109: where a vector access faults. A misaligned one is ALIGNMENT; one that leaves the core's own CMEM, and a strip whose rows pass
its end, is ADDRESS_RANGE; VLDB of a strip is ILLEGAL_OP. The model's choices in it: log entry 83. -/
def Obligations.vectorAccesses : Prop :=
  (∀ (s : State) (c : Fin 6) (fin l1 : Bool) (f : MemForm), let a : At := { p := .core c, fin := fin }
    Issues s a (lSlot l1) false → let t := touched a (lSlot l1) [f.r] s
    let p := getProc t c.val
    let v := physV p.rrb f.r
    let joins (i : Instr) (unit align : Nat) (op : Addr → MemOp) : Prop :=
      let ad := unalias (some c.val) (memAddress p f unit).1.toNat
      vecCheck c.val ad (memStrip f) align = none →
        exec i s = .next (closed a (addMem c.val (lSlot l1) f.p (memAddress p f unit).2 (op (BitVec.ofNat 40 ad)) t))
    let strip := memStrip f
    joins (.vld a l1 f) 128 (if strip then 8 else 128) (fun ad => .vload (lSlot l1) v strip ad)
    ∧ joins (.vst a l1 f) 128 (if strip then 8 else 128) (fun ad => .vstore (lSlot l1) (p.rvp v) strip ad)
    ∧ (strip = false → joins (.vldb a l1 f) 4 4 (fun ad => .vbroad (lSlot l1) v ad)))
  ∧ (∀ (s : State) (c : Fin 6) (fin l1 : Bool) (f : MemForm), let a : At := { p := .core c, fin := fin }
    Issues s a (lSlot l1) false → let p := getProc (touched a (lSlot l1) [f.r] s) c.val
    let ad (unit : Nat) : Nat := unalias (some c.val) (memAddress p f unit).1.toNat
    let stops (i : Instr) : Prop :=
      (memStrip f = false → ad 128 % 128 ≠ 0 → Faults i a (lSlot l1) false eAlignment s)
      ∧ (memStrip f = true → ad 128 % 8 ≠ 0 → Faults i a (lSlot l1) false eAlignment s)
      ∧ (memStrip f = false → ad 128 % 128 = 0 → place (ad 128) ≠ .cmem c.val → Faults i a (lSlot l1) false eAddrRange s)
      ∧ (memStrip f = true → ad 128 % 8 = 0 → place (ad 128) = .cmem c.val → 32767 < (ad 128 - winBase c.val) / 128 + 15 →
          Faults i a (lSlot l1) false eAddrRange s)
    stops (.vld a l1 f) ∧ stops (.vst a l1 f)
    ∧ (memStrip f = true → Faults (.vldb a l1 f) a (lSlot l1) false fIllegalOp s)
    ∧ (memStrip f = false → ad 4 % 4 ≠ 0 → Faults (.vldb a l1 f) a (lSlot l1) false eAlignment s))

/-- R107: a column strip's bytes. Served at the bundle's END, a strip takes eight bytes of each of 16 rows of 128 bytes, in vector
order; a store of one writes those bytes alone. R114, R116 and R117: GATHER and SCATTER join their bundle with their vector registers
bound to physical ones. In a delay slot they are DELAY_SLOT, and beside a syllable of the other L slot ILLEGAL_BUNDLE. R116, R118 and
R119: the elements. They run in order up to the first that faults (a misaligned element ALIGNMENT, one outside the core's own CMEM
ADDRESS_RANGE): a scatter's earlier elements are stored and no other byte changes; a gather's go to its destination after 8 bundles
and the conflicts of R108, and no other lane is written. R118, R119, R121 and R123: a gather or scatter whose element k faults, in a
bundle that does nothing else. VFAULT_INFO names the element, the cause, the slot, whether it is a scatter and whether it stood in a
loop body; VFAULT_PC holds its bundle. With a fault handler, outside one, the handler is entered at FVEC, EPC holds the next bundle
and IE is kept in PIE; a RESUME that faults within the handler enters it again with EPC, PIE, VFAULT_PC and the loop bit as they were;
without one, the fault ends the step and the job, FAULT with cause PROGRAM. The model's choices in it: log entries 74, 75, 76 and 132.
-/
def Obligations.gathers : Prop :=
  (∀ (s : State) (c : Fin 6) (sl : Nat) (ad : Addr), stepping s c.val = true →
    (∀ (d : Fin 32), ∃ x : BitVec 1024, serveOp c.val (.vload sl d true ad) s
        = pushRes c.val sl 5 (.v d x (BitVec.allOnes 1024)) s
      ∧ ∀ i, i < 128 → x.extractLsb' (8 * i) 8 = viewByte s (some c.val) (ad.toNat + 128 * (i / 8) + i % 8))
    ∧ (∀ v : BitVec 1024, ∃ t, serveOp c.val (.vstore sl v true ad) s = t
      ∧ (∀ i, i < 128 → viewByte t (some c.val) (ad.toNat + 128 * (i / 8) + i % 8) = v.extractLsb' (8 * i) 8)
      ∧ (∀ x, (∀ i, i < 128 → x ≠ ad.toNat + 128 * (i / 8) + i % 8) → viewByte t (some c.val) x = viewByte s (some c.val) x)
      ∧ unchangedBut [.procs] s t))
  ∧ (∀ (s : State) (c : Fin 6) (fin l1 scatter : Bool) (f : GsForm), let a : At := { p := .core c, fin := fin }
    let i : Instr := if scatter then .scatter a l1 f else .gather a l1 f
    Issues s a (lSlot l1) false → let t := touched a (lSlot l1) [f.d, f.idx] s
    let p := getProc t c.val
    ((l1 && p.buf.l0) = false → p.delay = none →
      exec i s = .next (closed a (modProc c.val (fun q => { q with buf := { q.buf with mems := q.buf.mems ++
        [.gs { form := { f with d := physV p.rrb f.d, idx := physV p.rrb f.idx }, slotL1 := l1, scatter := scatter } 0 false] } }) t)))
    ∧ ((l1 && p.buf.l0) = true → Faults i a (lSlot l1) false fIllegalBundle s)
    ∧ ((l1 && p.buf.l0) = false → p.delay.isSome = true → Faults i a (lSlot l1) false fDelaySlot s))
  ∧ (∀ (s : State) (c : Fin 6) (op : VecOp) (first : Nat), stepping s c.val = true → let p := getProc s c.val
    let size := 2 ^ op.form.esize.toNat
    let ad (k : Nat) : Nat := gsAddr p c.val op.form k
    let runs (k : Nat) : Prop := first ≤ k ∧ k < 16 ∧ gsOn p op.form k = true
      ∧ ∀ j, first ≤ j → j ≤ k → gsCheck p c.val op.form j = none
    ∃ t bad, gsRun c.val op first s = (t, bad)
      ∧ (∀ k cause, bad = some (k, cause) → first ≤ k ∧ k < 16 ∧ gsOn p op.form k = true
        ∧ (cause = eAlignment ∧ ad k % size ≠ 0 ∨ cause = eAddrRange ∧ ad k % size = 0 ∧ place (ad k) ≠ .cmem c.val)
        ∧ ∀ j, first ≤ j → j < k → gsCheck p c.val op.form j = none)
      ∧ (bad = none → ∀ j, first ≤ j → j < 16 → gsCheck p c.val op.form j = none)
      ∧ (op.scatter = true → (getProc t c.val).inflight = p.inflight
        ∧ (∀ x, (∀ k, runs k → x < ad k ∨ ad k + size ≤ x) → viewByte t (some c.val) x = viewByte s (some c.val) x)
        ∧ (∀ k, runs k → (∀ j, k < j → runs j → ad j ≠ ad k) → ∀ i, i < size →
            viewByte t (some c.val) (ad k + i) = BitVec.ofNat 8 ((p.rvp op.form.d).toNat / 2 ^ (8 * size * k + 8 * i))))
      ∧ (op.scatter = false → ∃ e x mask, (getProc t c.val).inflight = p.inflight ++ [e] ∧ e.land = .v op.form.d x mask
        ∧ e.gather = true ∧ p.bundle + 8 ≤ e.due ∧ e.due < p.bundle + 8 + 16
        ∧ (∀ b, viewByte t (some c.val) b = viewByte s (some c.val) b)
        ∧ ∀ k, k < 16 → (runs k → laneNat mask (8 * size) k = 2 ^ (8 * size) - 1
            ∧ laneNat x (8 * size) k = ofBytes (viewBytes s (some c.val) (ad k) size))
          ∧ (¬ runs k → laneNat mask (8 * size) k = 0))
      ∧ (∀ b, memByte t b = memByte s b))
  ∧ (∀ (s : State) (c : Fin 6) (slot : Slot) (op : VecOp) (first k : Nat) (resumed : Bool) (cause : Byte),
    let a : At := { p := .core c, fin := true }
    Issues s a (slotNum slot) false → let p := getProc s c.val
    p.buf.mems = [.gs op first resumed] → p.buf.waits = [] → p.buf.rep = none → p.buf.call = false → p.commitAsked = none → p.inflight = [] →
    first ≤ k → k < 16 → gsCheck p c.val op.form k = some cause → (∀ j, first ≤ j → j < k → gsCheck p c.val op.form j = none) →
    (op.scatter = false → ∀ j, first ≤ j → j < k → gsOn p op.form j = true → ∀ i, i < 2 ^ op.form.esize.toNat →
      viewBad s (some c.val) (gsAddr p c.val op.form j + i) = false) →
    let info (loops : Nat) : Word := BitVec.ofNat 32 (k + 2 ^ 8 * cause.toNat + (if op.slotL1 then 2 ^ 16 else 0)
      + (if op.scatter then 2 ^ 17 else 0) + loops + 2 ^ 31)
    (resumed = false → p.delay = none → p.buf.delay = none → p.fvec.getLsbD 31 = true → p.inFault = false →
      ∃ t, exec (.nop a slot) s = .next t ∧ let q := getProc t c.val
        q.vfaultInfo = info (if p.loop.isSome then 2 ^ 18 else 0) ∧ q.vfaultPc = BitVec.ofNat 32 p.pc ∧ q.vfaultOp = some op
        ∧ q.inFault = true ∧ q.pie = p.ie ∧ q.ie = false ∧ q.pc = p.fvec.toNat % 2 ^ 31 ∧ q.runState = .handler
        ∧ (p.loop = none → q.epc = BitVec.ofNat 32 (p.pc + 4 * (p.buf.syls + 1))) ∧ unchangedBut [.procs, .pacer] s t)
    ∧ (resumed = true → p.fvec.getLsbD 31 = true → p.inFault = true → (∀ d, p.delay = some d → 1 < d.left) →
      ∃ t, exec (.nop a slot) s = .next t ∧ let q := getProc t c.val
        q.vfaultInfo = info (if p.vfaultInfo.getLsbD 18 then 2 ^ 18 else 0) ∧ q.vfaultPc = p.vfaultPc ∧ q.vfaultOp = some op
        ∧ q.epc = p.epc ∧ q.pie = p.pie ∧ q.inFault = true ∧ q.ie = false ∧ q.pc = p.fvec.toNat % 2 ^ 31 ∧ q.runState = .handler
        ∧ q.delay = none ∧ q.loop = none ∧ unchangedBut [.procs, .pacer] s t)
    ∧ (∀ j i job, (p.fvec.getLsbD 31 = false ∨ (resumed = false ∧ p.inFault = true ∧ ∀ d, p.delay = some d → 1 < d.left)) → p.run = some (j, i) → getJob s j = some job → job.open_ = true →
      ∃ t, exec (.nop a slot) s = .next t ∧ let q := getProc t c.val
        q.faultValid = true ∧ q.faultSlot = (if op.slotL1 then 3 else 2) ∧ q.faultCause = cause ∧ q.faultPc = BitVec.ofNat 32 p.pc
        ∧ q.runState = .idle ∧ q.run = none
        ∧ ∃ job', getJob t j = some job' ∧ job'.ended = some { status := .fault, cause := 0x20, detail := cause, time := now s }))

/-- R87, R88 and R92: the integer operations of V0 and V1. Each performed lane of vd receives its result after two bundles, exact and
then cut to the lane, or saturated; floating-point types are ILLEGAL_OP. R92 and R94: VMIN, VMAX, VABSD, VSHL and VSHR on integer
lanes, and VMIN and VMAX on floating-point lanes, which flush subnormal operands to zeros of their sign. Of two zeros of both signs
the result is a zero whose sign is open. A difference that the lane cannot hold, a shift by a negative amount or by the lane's width
or more, and a NaN have no stated result (the log's free values) and are left out of the values here, not of the forms. The model's
choices in it: log entries 90 and 91. -/
def Obligations.integerLanes : Prop :=
  (∀ (s : State) (a : At) (v1 : Bool) (f : VForm), Issues s a (vSlot v1) false → let t := LaneType.of f.type
    let cut (z : Int) : Nat := (z % (2 ^ t.bits : Int)).toNat
    let sat (z : Int) : Nat := cut (if z < t.lo then t.lo else if t.hi < z then t.hi else z)
    let x (p : ProcState) (k : Nat) : Int := laneInt t (p.rv f.a) k
    let y (p : ProcState) (k : Nat) : Int := laneInt t (p.rv f.b) k
    let gives (i : Instr) (lane : ProcState → Nat → Nat) : Prop := YieldsLanes i a v1 f 2 [f.d, f.a, f.b] s lane
    (t.isInt = true →
      gives (.vadd a v1 f) (fun p k => cut (x p k + y p k)) ∧ gives (.vsub a v1 f) (fun p k => cut (x p k - y p k))
      ∧ gives (.vadds a v1 f) (fun p k => sat (x p k + y p k)) ∧ gives (.vsubs a v1 f) (fun p k => sat (x p k - y p k))
      ∧ gives (.vmul a v1 f) (fun p k => cut (x p k * y p k))
      ∧ gives (.vmulh a v1 f) (fun p k => cut (x p k * y p k / (2 ^ t.bits : Int)))
      ∧ gives (.vavg a v1 f) (fun p k => cut ((x p k + y p k) / 2)))
    ∧ (t.isInt = false → let stops (i : Instr) : Prop := Faults i a (vSlot v1) false fIllegalOp s
      stops (.vadd a v1 f) ∧ stops (.vsub a v1 f) ∧ stops (.vadds a v1 f) ∧ stops (.vsubs a v1 f) ∧ stops (.vmul a v1 f)
      ∧ stops (.vmulh a v1 f) ∧ stops (.vavg a v1 f) ∧ stops (.vshl a v1 f) ∧ stops (.vshr a v1 f) ∧ stops (.vmova a v1 f)))
  ∧ (∀ (s : State) (a : At) (v1 : Bool) (f : VForm), Issues s a (vSlot v1) false → let t := LaneType.of f.type
    let cut (z : Int) : Nat := (z % (2 ^ t.bits : Int)).toNat
    let x (p : ProcState) (k : Nat) : Int := laneInt t (p.rv f.a) k
    let y (p : ProcState) (k : Nat) : Int := laneInt t (p.rv f.b) k
    (t.isInt = true →
      YieldsLanes (.vmin a v1 f) a v1 f 2 [f.d, f.a, f.b] s (fun p k => cut (min (x p k) (y p k)))
      ∧ YieldsLanes (.vmax a v1 f) a v1 f 2 [f.d, f.a, f.b] s (fun p k => cut (max (x p k) (y p k)))
      ∧ (∃ open_ : ProcState → Nat → Nat, YieldsLanes (.vabsd a v1 f) a v1 f 2 [f.d, f.a, f.b] s (fun p k =>
          if (x p k - y p k).natAbs ≤ t.hi.toNat then cut (x p k - y p k).natAbs else open_ p k))
      ∧ (∃ open_ : ProcState → Nat → Nat, YieldsLanes (.vshl a v1 f) a v1 f 2 [f.d, f.a, f.b] s (fun p k =>
          if 0 ≤ y p k ∧ y p k < t.bits then cut (x p k * 2 ^ (y p k).toNat) else open_ p k))
      ∧ (∃ open_ : ProcState → Nat → Nat, YieldsLanes (.vshr a v1 f) a v1 f 2 [f.d, f.a, f.b] s (fun p k =>
          if 0 ≤ y p k ∧ y p k < t.bits then cut (x p k / 2 ^ (y p k).toNat) else open_ p k)))
    ∧ (t.isInt = false → let u (p : ProcState) (k : Nat) : Nat := laneNat (p.rv f.a) t.bits k
      let v (p : ProcState) (k : Nat) : Nat := laneNat (p.rv f.b) t.bits k
      let fp (n : Nat) : Sys2Proof.Machine.Num := t.fmt.decode true n
      let sign (n : Nat) : Nat := n / 2 ^ (t.bits - 1) % 2 * 2 ^ (t.bits - 1)
      let flushed (n : Nat) : Nat := if (fp n).isZero then sign n else n
      let picks (i : Instr) (takeB : Nat → Nat → Bool) : Prop := ∃ open_ : ProcState → Nat → Nat,
        YieldsLanes i a v1 f 2 [f.d, f.a, f.b] s (fun p k => let m := u p k
          let n := v p k
          if (fp m).isNan || (fp n).isNan then open_ p k
          else if (fp m).isZero && (fp n).isZero && sign m != sign n then sign (open_ p k)
          else if takeB m n then flushed n else flushed m)
      picks (.vmin a v1 f) (fun m n => (fp n).lt (fp m)) ∧ picks (.vmax a v1 f) (fun m n => (fp m).lt (fp n))))

/-- R88 and R92: bitwise operations, permutation, broadcast and selection work on lanes of any type. VSEL ignores MASKED. R88 and R92:
lane comparisons write the performed bits of m(d[2:0]) after two bundles, and no other bit of it. The model's choices in it: log
entries 91 and 92. -/
def Obligations.movedLanes : Prop :=
  (∀ (s : State) (a : At) (v1 : Bool) (f : VForm), Issues s a (vSlot v1) false → let w := (LaneType.of f.type).bits
    let x (p : ProcState) (k : Nat) : Nat := laneNat (p.rv f.a) w k
    let y (p : ProcState) (k : Nat) : Nat := laneNat (p.rv f.b) w k
    YieldsLanes (.vand a v1 f) a v1 f 2 [f.d, f.a, f.b] s (fun p k => x p k &&& y p k)
    ∧ YieldsLanes (.vor a v1 f) a v1 f 2 [f.d, f.a, f.b] s (fun p k => x p k ||| y p k)
    ∧ YieldsLanes (.vxor a v1 f) a v1 f 2 [f.d, f.a, f.b] s (fun p k => x p k ^^^ y p k)
    ∧ YieldsLanes (.vperm a v1 f) a v1 f 2 [f.d, f.a, f.b] s (fun p k => x p (y p k % (1024 / w)))
    ∧ YieldsLanes (.vbcast a v1 f) a v1 f 2 [f.d] s (fun p _ => (p.rg f.a).toNat % 2 ^ w)
    ∧ ∃ bits mask : BitVec 1024, let t := touched a (vSlot v1) [f.d, f.a, f.b] s
      let p := getProc t a.p.num
      exec (.vsel a v1 f) s = .next (closed a (pushRes a.p.num (vSlot v1) 2 (.v (physV p.rrb f.d) bits mask) t))
      ∧ mask = BitVec.allOnes 1024 ∧ ∀ k, k < 1024 / w → laneNat bits w k = if bit (p.rm f.m) k then x p k else y p k)
  ∧ (∀ (s : State) (a : At) (v1 : Bool) (f : VForm), Issues s a (vSlot v1) false → let t := LaneType.of f.type
    let u := touched a (vSlot v1) [f.a, f.b] s
    let p := getProc u a.p.num
    let gives (i : Instr) (test : Nat → Bool) : Prop := ∃ bits mask : BitVec 128,
      exec i s = .next (closed a (pushRes a.p.num (vSlot v1) 2 (.m (Fin.ofNat 8 f.d.val) bits mask) u))
      ∧ ∀ k, mask.getLsbD k = (decide (k < 1024 / t.bits) && laneOn f (p.rm f.m) k)
        ∧ (mask.getLsbD k = true → bits.getLsbD k = test k)
    (t.isInt = true →
      gives (.vcmpeq a v1 f) (fun k => decide (laneInt t (p.rv f.a) k = laneInt t (p.rv f.b) k))
      ∧ gives (.vcmplt a v1 f) (fun k => decide (laneInt t (p.rv f.a) k < laneInt t (p.rv f.b) k))
      ∧ gives (.vcmple a v1 f) (fun k => decide (laneInt t (p.rv f.a) k ≤ laneInt t (p.rv f.b) k)))
    ∧ (t.isInt = false → let x (k : Nat) := t.fmt.decode true (laneNat (p.rv f.a) t.bits k)
      let y (k : Nat) := t.fmt.decode true (laneNat (p.rv f.b) t.bits k)
      gives (.vcmpeq a v1 f) (fun k => !(x k).isNan && !(y k).isNan && (x k).eq (y k))
      ∧ gives (.vcmplt a v1 f) (fun k => !(x k).isNan && !(y k).isNan && (x k).lt (y k))
      ∧ gives (.vcmple a v1 f) (fun k => !(x k).isNan && !(y k).isNan && ((x k).lt (y k) || (x k).eq (y k)))))

/-- R93, R99 and R112: the accumulators. VMAC and VMSU add or subtract the products of performed lanes (pairs of them for 8-bit types)
to the newest value that they issued into acc(d[1:0]), VACCLR clears performed lanes; lanes wrap at 40 bits, and a lane that leaves
the signed range has the bundle set ACC_OVF when it issues and raises the page's interrupt 2. Other types are ILLEGAL_OP. R92, R110
and R111: narrowing and widening. VMOVA shifts accumulator lanes right arithmetically by their ACCSH field and VNARROW lanes of twice
the width by MVSH, then narrow them to TYPE: saturated with MOV_SAT when ACCSAT is set, else cut. VWIDEN widens a half of va; VRED
sums the performed INT32 lanes of va into g(d). The model's choices in it: log entries 91, 91, 92 and 130. -/
def Obligations.accumulators : Prop :=
  (∀ (s : State) (a : At) (v1 : Bool) (f : VForm), Issues s a (vSlot v1) false → let t := LaneType.of f.type
    let k : Fin 4 := Fin.ofNat 4 f.d.val
    let chains (i : Instr) (touch : List (Fin 32)) (lane : ProcState → Nat → Int → Int) : Prop :=
      let u := touched a (vSlot v1) touch s
      let p := getProc u a.p.num
      let exact (j : Nat) : Int := lane p j (accLane (p.chainAcc k) j)
      ∃ x : BitVec 2560, (∀ j, j < 64 → accLane x j = (BitVec.ofInt 40 (exact j)).toInt)
        ∧ ((∀ j, j < 64 → -(2 ^ 39) ≤ exact j ∧ exact j < 2 ^ 39) →
            exec i s = .next (closed a (pushChain a.p.num (vSlot v1) 3 3 (.acc k x) u)))
        ∧ ((∃ j, j < 64 ∧ ¬ (-(2 ^ 39) ≤ exact j ∧ exact j < 2 ^ 39)) →
            exec i s = .next (closed a (raise (pgCore a.p.num) 2 (buffers (fun b => { b with accOvf := true }) a
              (pushChain a.p.num (vSlot v1) 3 3 (.acc k x) u)))))
    let prod (p : ProcState) (j : Nat) : Int :=
      if laneOn f (p.rm f.m) j then laneInt t (p.rv f.a) j * laneInt t (p.rv f.b) j else 0
    let products (p : ProcState) (j : Nat) : Int := if t = .i16 then prod p j else prod p (2 * j) + prod p (2 * j + 1)
    (t ∈ [LaneType.i8, .u8, .i16] → chains (.vmac a v1 f) [f.a, f.b] (fun p j v => v + products p j)
      ∧ chains (.vmsu a v1 f) [f.a, f.b] (fun p j v => v - products p j))
    ∧ (t ∉ [LaneType.i8, .u8, .i16] → Faults (.vmac a v1 f) a (vSlot v1) false fIllegalOp s
      ∧ Faults (.vmsu a v1 f) a (vSlot v1) false fIllegalOp s)
    ∧ chains (.vacclr a v1 f) [] (fun p j v => if laneOn f (p.rm f.m) j then 0 else v))
  ∧ (∀ (s : State) (a : At) (v1 : Bool) (f : VForm), Issues s a (vSlot v1) false → let t := LaneType.of f.type
    let cut (z : Int) : Nat := (z % (2 ^ t.bits : Int)).toNat
    let out (z : Int) : Prop := z < t.lo ∨ t.hi < z
    let narrows (i : Instr) (touch : List (Fin 32)) (lanes : Nat) (src : ProcState → Nat → Int) : Prop :=
      let u := touched a (vSlot v1) touch s
      let p := getProc u a.p.num
      let on (k : Nat) : Bool := laneOn f (p.rm f.m) k
      ∃ (bits mask : BitVec 1024) (clamped : Bool),
        exec i s = .next (closed a (flagged a clamped (pushRes a.p.num (vSlot v1) 2 (.v (physV p.rrb f.d) bits mask) u)))
        ∧ (clamped = true ↔ p.accSat = true ∧ ∃ k, k < lanes ∧ on k = true ∧ out (src p k))
        ∧ ∀ k, k < 1024 / t.bits → laneNat mask t.bits k = (if decide (k < lanes) && on k then 2 ^ t.bits - 1 else 0)
          ∧ (k < lanes → on k = true → laneNat bits t.bits k
              = if p.accSat then cut (if src p k < t.lo then t.lo else if t.hi < src p k then t.hi else src p k) else cut (src p k))
    (t.isInt = true → narrows (.vmova a v1 f) [f.d] (if t = .i32 then 32 else 64) (fun p k =>
        accLane (p.racc (Fin.ofNat 4 f.a.val)) ((if t = .i32 ∧ f.b.val % 2 = 1 then 32 else 0) + k)
          / (2 ^ (p.accsh.toNat / 2 ^ (8 * (f.a.val % 4)) % 32) : Int)))
    ∧ (t.isInt = true → narrows (.vnarrow a v1 f) [f.d, f.a, f.b] t.lanes (fun p k =>
        ((if k < t.lanes / 2 then p.rv f.a else p.rv f.b).extractLsb' (2 * t.bits * (k % (t.lanes / 2))) (2 * t.bits)).toInt
          / (2 ^ p.mvsh.toNat : Int)))
    ∧ (t ∈ [LaneType.i16, .u16, .i32] → YieldsLanes (.vwiden a v1 f) a v1 f 2 [f.d, f.a] s (fun p k =>
        let x := (p.rv f.a).extractLsb' (t.bits / 2 * (k + (if f.b.val % 2 = 1 then t.lanes else 0))) (t.bits / 2)
        cut (if t.signed then x.toInt else x.toNat)))
    ∧ (t = .i32 → let u := touched a (vSlot v1) [f.a] s
      let p := getProc u a.p.num
      exec (.vred a v1 f) s = .next (closed a (pushRes a.p.num (vSlot v1) 4 (.g f.d (BitVec.ofInt 32
        (((List.range 32).map fun k => if laneOn f (p.rm f.m) k then laneInt .i32 (p.rv f.a) k else 0).sum))) u)))
    ∧ (t ≠ .i32 → Faults (.vred a v1 f) a (vSlot v1) false fIllegalOp s)
    ∧ (t.isInt = false → Faults (.vnarrow a v1 f) a (vSlot v1) false fIllegalOp s)
    ∧ (t ∉ [LaneType.i16, .u16, .i32] → Faults (.vwiden a v1 f) a (vSlot v1) false fIllegalOp s))

/-- R94 and R242: floating-point lanes. VFADD, VFMUL and VFMA flush subnormals and round toward minus infinity, once. VCVT converts
the elements that both types have lanes for; to an integer it takes the floor, saturates with MOV_SAT and gives 0 for a NaN; to a
floating-point type it rounds toward minus infinity. The model's choices in it: log entries 89 and 90. -/
def Obligations.floatLanes : Prop :=
  ∀ (s : State) (a : At) (v1 : Bool) (f : VForm), Issues s a (vSlot v1) false → let t := LaneType.of f.type
    let lane (r : Fin 32) (p : ProcState) (k : Nat) : Nat := laneNat (p.rv r) t.bits k
    (t.isInt = false →
      YieldsLanes (.vfadd a v1 f) a v1 f 3 [f.d, f.a, f.b] s (fun p k => pvAdd t.fmt (lane f.a p k) (lane f.b p k) % 2 ^ t.bits)
      ∧ YieldsLanes (.vfmul a v1 f) a v1 f 3 [f.d, f.a, f.b] s (fun p k => pvMul t.fmt (lane f.a p k) (lane f.b p k) % 2 ^ t.bits)
      ∧ YieldsLanes (.vfma a v1 f) a v1 f 3 [f.d, f.a, f.b] s
          (fun p k => pvFma t.fmt (lane f.d p k) (lane f.a p k) (lane f.b p k) % 2 ^ t.bits))
    ∧ (t.isInt = true → Faults (.vfadd a v1 f) a (vSlot v1) false fIllegalOp s ∧ Faults (.vfmul a v1 f) a (vSlot v1) false fIllegalOp s
      ∧ Faults (.vfma a v1 f) a (vSlot v1) false fIllegalOp s)
    ∧ (let u := touched a (vSlot v1) [f.d, f.a] s
      let p := getProc u a.p.num
      let src := LaneType.of (BitVec.ofNat 3 f.b.val)
      let lanes := min src.lanes t.lanes
      let on (k : Nat) : Bool := decide (k < lanes) && laneOn f (p.rm f.m) k
      let x (k : Nat) : Sys2Proof.Machine.Num := src.fmt.decode true (laneNat (p.rv f.a) src.bits k)
      let cut (z : Int) : Nat := (z % (2 ^ t.bits : Int)).toNat
      ∃ (bits mask : BitVec 1024) (sat : Bool),
        exec (.vcvt a v1 f) s = .next (closed a (flagged a sat (pushRes a.p.num (vSlot v1) 3 (.v (physV p.rrb f.d) bits mask) u)))
        ∧ (∀ k, k < 1024 / t.bits → laneNat mask t.bits k = if on k then 2 ^ t.bits - 1 else 0)
        ∧ (∀ k, on k = true → src.isInt = true → t.isInt = true → t.lo ≤ laneInt src (p.rv f.a) k → laneInt src (p.rv f.a) k ≤ t.hi →
            laneNat bits t.bits k = cut (laneInt src (p.rv f.a) k))
        ∧ (∀ k, on k = true → src.isInt = true → t.isInt = false →
            laneNat bits t.bits k = t.fmt.encode .down true false ⟨laneInt src (p.rv f.a) k, 1⟩ % 2 ^ t.bits)
        ∧ (∀ k, on k = true → src.isInt = false → t.isInt = true → (x k = .nan → laneNat bits t.bits k = 0)
          ∧ (∀ n, x k = .inf n → laneNat bits t.bits k = cut (if n then t.lo else t.hi))
          ∧ ∀ n q, x k = .fin n q → laneNat bits t.bits k = cut (if q.floor < t.lo then t.lo else if t.hi < q.floor then t.hi else q.floor))
        ∧ (∀ k, on k = true → src.isInt = false → t.isInt = false → ∀ n q, x k = .fin n q →
            laneNat bits t.bits k = t.fmt.encode .down true n q % 2 ^ t.bits)
        ∧ (sat = true ↔ src.isInt = false ∧ t.isInt = true ∧ ∃ k, on k = true
          ∧ (x k = .nan ∨ (∃ n, x k = .inf n) ∨ ∃ n q, x k = .fin n q ∧ (q.floor < t.lo ∨ t.hi < q.floor))))

/-- R246 to R250: VRANGE. When every performed lane's slot is at most 15, it merges each touched slot's elements into the range
vector, from the empty range with INIT and from the newest range issued into vd without it; lane 2s gets slot s's minimum and lane 2s
+ 1 its maximum, of which the sign of a zero and what a NaN of the old range leaves are open; no other lane is written. A slot past 15
is SHAPE. R251 and R252: VSCALE writes the records of slots 0 to 15 from their ranges, with FMT and no crema entry, into lanes 0 to
15, and no lane above. The record of an empty slot, or of one constant at 0, is 1.0 with CONST; every constant slot has CONST and zero
point 0; a scale is never below the least normal number. The model's choices in it: log entries 96 and 97. -/
def Obligations.rangesAndScales : Prop :=
  (∀ (s : State) (a : At) (v1 : Bool) (f : VForm), Issues s a (vSlot v1) false → let t := LaneType.of f.type
    let u := touched a (vSlot v1) [f.d, f.a] s
    let p := getProc u a.p.num
    let c := p.rg f.b
    let on := (List.range t.lanes).filter (laneOn f (p.rm f.m))
    let d := physV p.rrb f.d
    ((∃ i ∈ on, 15 < laneSlot c i) → Faults (.vrange a v1 f) a (vSlot v1) false eShape s)
    ∧ ((∀ i ∈ on, laneSlot c i ≤ 15) → ∃ bits mask : BitVec 1024,
      exec (.vrange a v1 f) s = .next (closed a (pushChainV a.p.num (vSlot v1) 4 1 d bits mask u))
      ∧ ∀ k, k < 16 → let mine := on.filter fun i => laneSlot c i == k
        (mine = [] → laneNat mask 64 k = 0)
        ∧ (mine ≠ [] → laneNat mask 64 k = 2 ^ 64 - 1
          ∧ (laneNat bits 32 (2 * k), laneNat bits 32 (2 * k + 1)) = ((rangeSlot
              (if c.getLsbD 8 then (0x7F800000, 0xFF800000)
                else (laneNat (p.chainV 1 d) 32 (2 * k), laneNat (p.chainV 1 d) 32 (2 * k + 1)))
              (mine.map (laneNum t (p.rv f.a)))).1 % 2 ^ 32, (rangeSlot
              (if c.getLsbD 8 then (0x7F800000, 0xFF800000)
                else (laneNat (p.chainV 1 d) 32 (2 * k), laneNat (p.chainV 1 d) 32 (2 * k + 1)))
              (mine.map (laneNum t (p.rv f.a)))).2 % 2 ^ 32)))
    ∧ (∀ (start : Nat × Nat) (xs : List Sys2Proof.Machine.Num), let num (n : Nat) : Sys2Proof.Machine.Num := fp32.decode false n
      start.1 < 2 ^ 32 → start.2 < 2 ^ 32 → (num start.1).isNan = false → (num start.2).isNan = false →
      let r := rangeSlot start xs
      let los := start.1 :: (xs.filterMap rangeParts).map (·.1)
      let his := start.2 :: (xs.filterMap rangeParts).map (·.2)
      (∀ y ∈ los, (num y).lt (num r.1) = false) ∧ (∃ y ∈ los, (num y).eq (num r.1) = true)
      ∧ (∀ y ∈ his, (num r.2).lt (num y) = false) ∧ (∃ y ∈ his, (num y).eq (num r.2) = true)))
  ∧ ((∀ (s : State) (a : At) (v1 : Bool) (f : VForm), Issues s a (vSlot v1) false → LaneType.of f.type = .f32 →
    let u := touched a (vSlot v1) [f.d, f.a] s
    let p := getProc u a.p.num
    ∃ bits mask : BitVec 1024,
      exec (.vscale a v1 f) s = .next (closed a (pushRes a.p.num (vSlot v1) 4 (.v (physV p.rrb f.d) bits mask) u))
      ∧ ∀ k, k < 32 → laneNat mask 32 k = (if decide (k < 16) && laneOn f (p.rm f.m) k then 2 ^ 32 - 1 else 0)
        ∧ (k < 16 → laneOn f (p.rm f.m) k = true → laneNat bits 32 k
            = (slotRecord (p.rg f.b) (laneNat (p.rv f.a) 32 (2 * k)) (laneNat (p.rv f.a) 32 (2 * k + 1))).toNat))
  ∧ (∀ (s : State) (a : At) (v1 : Bool) (f : VForm), Issues s a (vSlot v1) false → LaneType.of f.type ≠ .f32 →
    Faults (.vscale a v1 f) a (vSlot v1) false fIllegalOp s)
  ∧ (∀ c : Word, slotRecord c 0x7F800000 0xFF800000 = (0x3F800020 ||| (c &&& 0xC0)))
  ∧ (∀ (c : Word) (z : Nat), z ∈ [0, 0x80000000] → slotRecord c z z = (0x3F800020 ||| (c &&& 0xC0)))
  ∧ (∀ (c : Word) (z : Nat), z < 2 ^ 32 → (fp32.decode false z).isNan = false →
    (slotRecord c z z).getLsbD 5 = true ∧ (slotRecord c z z).toNat / 256 % 256 = 0)
  ∧ (∀ (c : Word) (lo hi : Nat), validScale ((slotRecord c lo hi).toNat / 65536) = true
    ∧ (slotRecord c lo hi).toNat % 32 = 0 ∧ (slotRecord c lo hi).toNat / 64 % 4 = c.toNat / 64 % 4))

/-- R253 to R255, R247, R248: VQUANT. Where the slots, formats and window fit, the performed elements are taken in lane order by the
code rule, into the window of vd, the records of v12 and the cremas of v13, and their saturations are counted; else SHAPE. R253 to
R255: the code of one element of a uniform format. Within range it is the rounded quotient plus the zero point, a constant channel has
only its sign, and a NaN is the zero point, counted. Beyond the range it is the nearest limit, counted, with OUT_OVF under OUTL; or,
where OUTL is set, fewer than eight cremas are taken and its offset fits, the escape code and one crema more. The model's choices in
it: log entries 95, 96, 98 and 167. -/
def Obligations.quantisedLanes : Prop :=
  (∀ (s : State) (a : At) (v1 : Bool) (f : VForm), Issues s a (vSlot v1) false → let t := LaneType.of f.type
    let u := touched a (vSlot v1) [f.d, f.a, 8, 9, 10, 11, 12, 13] s
    let p := getProc u a.p.num
    let c := p.rg f.b
    let on := (List.range t.lanes).filter (laneOn f (p.rm f.m))
    let fmt := recFmt (vWord (p.chainV 2 12) (cwSb c))
    let value := decide (2 ≤ fmt) && c.getLsbD 11
    let fits := shapeOk c (p.chainV 2 12) on t.lanes && !(c.getLsbD 10 && slotsClash (on.map (laneSlot c)))
    (t ∈ [LaneType.i8, .u8] → Faults (.vquant a v1 f) a (vSlot v1) false fIllegalOp s)
    ∧ (t ∉ [LaneType.i8, .u8] → fits = false → Faults (.vquant a v1 f) a (vSlot v1) false eShape s)
    ∧ (t ∉ [LaneType.i8, .u8] → fits = true →
      let q := on.foldl (fun q i => quantStep c fmt (cwPos c * t.lanes) value (if 2 ≤ fmt then codebook p fmt value else []) q i
          (laneNum t (p.rv f.a) i))
        { recs := p.chainV 2 12, recMask := 0, crema := p.chainV 2 13, cremaMask := 0, out := 0, outMask := 0, sat := 0 }
      let u1 := pushRes a.p.num (vSlot v1) 4 (.v (physV p.rrb f.d) q.out q.outMask) u
      let u2 := if q.recMask = 0 then u1 else pushChainV a.p.num (vSlot v1) 4 2 12 q.recs q.recMask u1
      let u3 := if q.cremaMask = 0 then u2 else pushChainV a.p.num (vSlot v1) 4 2 13 q.crema q.cremaMask u2
      exec (.vquant a v1 f) s = .next (closed a (countSatEvents a.p.num q.sat u3))))
  ∧ (∀ (c : Word) (q : QuantRun) (fmt base i : Nat) (x : Sys2Proof.Machine.Num), fmt < 2 → let k := laneSlot c i
    k ≤ 15 → let r := vWord q.recs k
    let m : Int := if fmt = 1 then 7 else 127
    let w := if fmt = 1 then 4 else 8
    let t := quantStep c fmt base false [] q i x
    let putOnly (code : Int) (sat : Nat) : Prop :=
      t.out = q.out ||| putLane 1024 w (base + i) (code % 2 ^ w).toNat ∧ t.outMask = q.outMask ||| laneMask 1024 w (base + i)
        ∧ t.sat = q.sat + sat
    let quiet : Prop := t.recs = q.recs ∧ t.recMask = q.recMask ∧ t.crema = q.crema ∧ t.cremaMask = q.cremaMask
    (∀ n v, x = .fin n v → r.getLsbD 5 = false → let code := (v.div (recScale r)).round + recZp r
      (-m ≤ code → code ≤ m → putOnly code 0 ∧ quiet)
      ∧ ((code < -m ∨ m < code) → c.getLsbD 10 = false → putOnly (if code < -m then -m else m) 1 ∧ quiet)
      ∧ ((code < -m ∨ m < code) → c.getLsbD 10 = true → (8 ≤ r.toNat % 16 ∨ 65536 ≤ laneOff c i) →
        putOnly (if code < -m then -m else m) 1 ∧ t.recs = setLane q.recs k (r ||| 0x10) ∧ t.crema = q.crema)
      ∧ ((code < -m ∨ m < code) → c.getLsbD 10 = true → r.toNat % 16 < 8 → laneOff c i < 65536 →
        putOnly (if fmt = 1 then 8 else 128) 0
        ∧ (∀ j, j < 32 → vWord t.recs j = if j = k then r + 1 else vWord q.recs j)
        ∧ ∀ j, j < 32 → vWord t.crema j = if j = 8 * (k % 4) + r.toNat % 16
            then BitVec.ofNat 32 (bf16.encode .nearest false n v * 65536 + laneOff c i) else vWord q.crema j))
    ∧ (∀ n v, x = .fin n v → r.getLsbD 5 = true →
      putOnly (if v.num = 0 then 0 else if v.num < 0 then -m else m) 0 ∧ quiet)
    ∧ (x = .nan → putOnly (recZp r) 1 ∧ quiet))

/-- R256: VDEQ gives each performed lane its code's value rounded half to even, escape codes their crema's value, and counts each
element that saturates or finds no crema, once. Where the shape does not fit it is SHAPE, and other types are ILLEGAL_OP. R95, R259 to
R263: the training operations. Without SYS.CAP0.TRAIN they are NO_TRAIN. VGQUANT and VMOMENT write codes into the byte window of vd
and count their saturations, VMWUPD adds its rounded update to each INT16 master and clamps it, and VCBFIT adds to the accumulator
lane of each element's nearest entry. The model's choices in it: log entries 99, 100 and 167. -/
def Obligations.dequantisedLanes : Prop :=
  (∀ (s : State) (a : At) (v1 : Bool) (f : VForm), Issues s a (vSlot v1) false → let t := LaneType.of f.type
    let u := touched a (vSlot v1) [f.d, f.a, 8, 9, 10, 11, 12, 13] s
    let p := getProc u a.p.num
    let c := p.rg f.b
    let on := (List.range t.lanes).filter (laneOn f (p.rm f.m))
    let value := decide (2 ≤ recFmt (vWord (p.rv 12) (cwSb c))) && c.getLsbD 11
    let el (i : Nat) := deqValue p c value (cwPos c * t.lanes) (p.rv f.a) i
    (t ∈ [LaneType.i8, .u8, .u16, .i32] → Faults (.vdeq a v1 f) a (vSlot v1) false fIllegalOp s)
    ∧ (t ∉ [LaneType.i8, .u8, .u16, .i32] → shapeOk c (p.rv 12) on t.lanes = false → Faults (.vdeq a v1 f) a (vSlot v1) false eShape s)
    ∧ (t ∉ [LaneType.i8, .u8, .u16, .i32] → shapeOk c (p.rv 12) on t.lanes = true → ∃ bits mask : BitVec 1024,
      exec (.vdeq a v1 f) s = .next (closed a (countSatEvents a.p.num
        ((on.map fun i => if (el i).2 || (deqRound t (el i).1).2 then 1 else 0).sum)
        (pushRes a.p.num (vSlot v1) 4 (.v (physV p.rrb f.d) bits mask) u)))
      ∧ ∀ k, k < t.lanes → laneNat mask t.bits k = (if laneOn f (p.rm f.m) k then 2 ^ t.bits - 1 else 0)
        ∧ (laneOn f (p.rm f.m) k = true → laneNat bits t.bits k = (deqRound t (el k).1).1 % 2 ^ t.bits))
    ∧ (∀ (n : Bool) (v : Q), deqRound .i16 (.fin n v)
      = (((if v.round < -32768 then -32768 else if 32767 < v.round then 32767 else v.round) % 65536).toNat,
          decide (v.round < -32768) || decide (32767 < v.round))))
  ∧ (∀ (s : State) (a : At) (v1 : Bool) (f : VForm), Issues s a (vSlot v1) false → let t := LaneType.of f.type
    let all8 : List (Fin 32) := [f.d, f.a, 8, 9, 10, 11, 12, 13]
    let on (p : ProcState) := (List.range t.lanes).filter (laneOn f (p.rm f.m))
    let rec_ (p : ProcState) : Word := vWord (p.rv 12) (cwSb (p.rg f.b))
    let base (p : ProcState) : Nat := cwPos (p.rg f.b) * t.lanes
    let stops (i : Instr) : Prop := Faults i a (vSlot v1) false fNoTrain s
    (trainPresent s = false → stops (.vgquant a v1 f) ∧ stops (.vmoment a v1 f) ∧ stops (.vcbfit a v1 f) ∧ stops (.vmwupd a v1 f))
    ∧ (trainPresent s = true →
      (let u := touched a (vSlot v1) [f.d, f.a, 12] s
        let p := getProc u a.p.num
        let codes := (on p).map fun i => (i, gradCode (rec_ p) (laneNum t (p.rv f.a) i))
        t ∈ [LaneType.i32, .bf16, .f32] → windowFits 8 (cwPos (p.rg f.b)) t.lanes = true →
          exec (.vgquant a v1 f) s = .next (closed a (countSatEvents a.p.num ((codes.filter (·.2.2)).length)
            (putV a.p.num v1 4 f.d (placeBytes (base p) (codes.map fun e => (e.1, (e.2.1 % 256).toNat))) u))))
      ∧ (let u := touched a (vSlot v1) all8 s
        let p := getProc u a.p.num
        let idx (i : Nat) : Nat := laneNat (p.rv f.d) 8 (base p + i)
        let codes := (on p).map fun i => (i, momentIndex (codebook p 3 true) (if idx i = 255 then .fin false ⟨0, 1⟩ else valueEntry p (idx i))
          (bf16.decode false (cwOff (p.rg f.b))) (laneNum t (p.rv f.a) i) (recScale (rec_ p)) ((p.rg f.b).getLsbD 8))
        t ∈ [LaneType.bf16, .f32] → recFmt (rec_ p) = 3 → windowFits 8 (cwPos (p.rg f.b)) t.lanes = true →
          exec (.vmoment a v1 f) s = .next (closed a (countSatEvents a.p.num ((codes.filter (·.2.2)).length)
            (putV a.p.num v1 4 f.d (placeBytes (base p) (codes.map fun e => (e.1, e.2.1))) u))))
      ∧ (let u := touched a (vSlot v1) [f.a, 8, 9, 10, 11, 12, 13] s
        let p := getProc u a.p.num
        let parts := (on p).map fun i =>
          fitPart (codebook p 3 true) ((p.rg f.b).getLsbD 8) (overScale (laneNum t (p.rv f.a) i) (recScale (rec_ p)))
        t ∈ [LaneType.bf16, .f32] → exec (.vcbfit a v1 f) s = .next (closed a ((List.range 4).foldl (fun v k =>
          if parts.any (fun e => e.1 / 64 == k) then
            setAccOvf a.p.num (fitAcc parts k (p.chainFit (Fin.ofNat 4 k))).2 (pushChain a.p.num (vSlot v1) 4 4
              (.acc (Fin.ofNat 4 k) (fitAcc parts k (p.chainFit (Fin.ofNat 4 k))).1) v)
          else v) u)))
      ∧ (t = .bf16 → let u := touched a (vSlot v1) [f.d, f.a, 12] s
        let p := getProc u a.p.num
        let el (k : Nat) : Int × Bool := masterStep (laneInt .i16 (p.rv f.d) k) (overScale (laneNum .bf16 (p.rv f.a) k) (recScale (rec_ p)))
        ∃ bits mask : BitVec 1024, exec (.vmwupd a v1 f) s = .next (closed a (countSatEvents a.p.num (((on p).filter fun i => (el i).2).length)
            (pushRes a.p.num (vSlot v1) 3 (.v (physV p.rrb f.d) bits mask) u)))
          ∧ ∀ k, k < 64 → laneNat mask 16 k = (if laneOn f (p.rm f.m) k then 65535 else 0)
            ∧ (laneOn f (p.rm f.m) k = true → laneNat bits 16 k = ((el k).1 % 65536).toNat)))
    ∧ (∀ (w : Int) (n : Bool) (q : Q), masterStep w (.fin n q)
      = (if w + q.round < -32767 then -32767 else if 32767 < w + q.round then 32767 else w + q.round,
          decide (w + q.round < -32767) || decide (32767 < w + q.round))))

/-- R92, R96, R171, R172 and R276: slot X. NAQ waits for room with the 32 bytes of its quarter where the command is acceptable, and
faults with its cause where it is not; NAWAIT and DMAWAIT wait; a channel that is not the core's own is PERMISSION. R96, R271, R272
and R276: DMAKICK is CH_CMD.KICK on the core's own channel, which its step then waits for at its end. While the injector holds a store
of the core the bundle waits with the kick, until the store is acknowledged. A KICK of a DISABLED or HALTED channel is recorded with
FORMAT and faults; a kick whose first checks halt the channel ends the step. The model's choices in it: log entries 101, 106 and 179.
-/
def Obligations.slotX : Prop :=
  (∀ (s : State) (c : Fin 6) (fin : Bool), let a : At := { p := .core c, fin := fin }
    Issues s a 6 false → let waits (w : WaitFor) (t : State) : State := closed a (buffers (fun b => { b with waits := b.waits ++ [w] }) a t)
    (∀ (v : Fin 32) (q : Fin 4), let u := touched a 6 [v] s
      let command := (List.range 8).map fun i => ((getProc u c.val).rv v).extractLsb' (256 * q.val + 32 * i) 32
      (naqCheck u c.val command = none → exec (.naq a v q) s = .next (waits (.queueRoom command) u))
      ∧ (∀ cause, naqCheck u c.val command = some cause → Faults (.naq a v q) a 6 false cause s))
    ∧ (∀ k, exec (.nawait a k) s = .next (waits (.arrayAtMost k.toNat) (placed a 6 false s)))
    ∧ (∀ (g : Fin 32) (ch : Fin 32), ch.val = ((getProc s c.val).rg g).toNat % 32 →
      (chanCore s ch.val = some c.val → exec (.dmawait a g) s = .next (waits (.channelIdle ch) (placed a 6 false s)))
      ∧ (chanCore s ch.val ≠ some c.val → Faults (.dmawait a g) a 6 false ePermission s ∧ Faults (.dmakick a g) a 6 false ePermission s)))
  ∧ ((∀ (s : State) (c : Fin 6) (fin : Bool) (g ch : Fin 32), let a : At := { p := .core c, fin := fin }
    Issues s a 6 false → ch.val = ((getProc s c.val).rg g).toNat % 32 → chanCore s ch.val = some c.val →
    let u := placed a 6 false s
    let v := modProc c.val (fun p => { p with
      stepChans := if p.stepChans.contains ch then p.stepChans else p.stepChans ++ [ch] }) u
    (writesHeld s (0x20 + BitVec.ofNat 8 c.val) = true →
      exec (.dmakick a g) s = .next (closed a (buffers (fun b => { b with waits := b.waits ++ [.kick ch] }) a u)))
    ∧ (writesHeld s (0x20 + BitVec.ofNat 8 c.val) = false →
      ((getChan s ch.val).st ∉ [ChanSt.disabled, .halted] → (getChan (kick ch.val v) ch.val).st ≠ .halted →
        exec (.dmakick a g) s = .next (closed a (kick ch.val v)))
      ∧ ((getChan s ch.val).st ∉ [ChanSt.disabled, .halted] → (getChan (kick ch.val v) ch.val).st = .halted →
        exec (.dmakick a g) s = .next (closed a (procFault c.val 6 (getChan (kick ch.val v) ch.val).result (kick ch.val v))))
      ∧ ((getChan s ch.val).st ∈ [ChanSt.disabled, .halted] →
        exec (.dmakick a g) s = .next (closed a (procFault c.val 6 eFormat (recordErr pgDma (0x20 + BitVec.ofNat 8 c.val) eFormat
          (regAddr pgDma 0x404) u))))))
  ∧ (∀ (s : State) (c : Fin 6) (ch : Fin 32) (k : Nat), WaitsFor s c.val (.kick ch) →
    let v := modProc c.val (fun p => { p with
      stepChans := if p.stepChans.contains ch then p.stepChans else p.stepChans ++ [ch] }) (countWaits c.val k s)
    (writesHeld s (0x20 + BitVec.ofNat 8 c.val) = true → exec (.waitRelease (.core c) k) s = .next s)
    ∧ (writesHeld s (0x20 + BitVec.ofNat 8 c.val) = false → (getChan s ch.val).st ∉ [ChanSt.disabled, .halted] →
      (getChan (kick ch.val v) ch.val).st ≠ .halted → (getProc (kick ch.val v) c.val).run = (getProc s c.val).run → (getProc s c.val).inflight = [] →
      ∃ t, exec (.waitRelease (.core c) k) s = .next t ∧ t.dma = (kick ch.val v).dma
        ∧ (getProc t c.val).pc = (getProc s c.val).pc + 4 * (getProc s c.val).buf.syls ∧ (getProc t c.val).buf = {})))

/-- R101, R147, R171 and R276: a waiting bundle goes on once its condition holds: the array queue has room, or no more than n
commands, the channel has no active transfer, the stores are acknowledged. The steps that it waited count in STALL_CNT and STEP_CNT, a
queued command enters the array queue, and the next bundle follows; while the condition does not hold nothing happens. R60, R103: a
STEPEND's bundle goes on once the array queue is empty, the step's transfers have ended and its stores are acknowledged: every issued
result commits and the step asks for its commit. R97, R101, R109, R125, R158, R160 and R365: a processor's remote access completes,
with the injector off. A load's bytes follow R97 with latency 4, and the bundle goes on; the steps that it took are one or more, a
free number (the log). The management processor also loads what the host's memory holds, and from a peer a value that the peer gives.
A core's store is staged, another one stands in memory or leaves for the peer. What the target refuses, and an uncorrectable error of
DRAM (whose cause of a fault the spec leaves open), is a fault after the steps that it waited; one that nothing answers goes on
waiting. The model's choices in it: log entries 72, 73, 134, 139 and 166. -/
def Obligations.waits : Prop :=
  (∀ (s : State) (c : Fin 6) (w : WaitFor) (k : Nat), WaitsFor s c.val w → let p := getProc s c.val
    (∀ last, w ≠ .stepDrained last) → (∀ ch, w ≠ .kick ch) → p.inflight = [] →
    let met : Bool := match w with
      | .queueRoom _ => decide ((getArray s c.val).queue.length < 16)
      | .arrayAtMost n => decide ((getArray s c.val).queue.length ≤ n)
      | .channelIdle ch => decide ((getChan s ch.val).st ≠ .active ∧ (getChan s ch.val).st ≠ .preempted)
      | .storesAcked => !writesHeld s (0x20 + BitVec.ofNat 8 c.val)
      | _ => false
    (met = false → exec (.waitRelease (.core c) k) s = .next s)
    ∧ (met = true → ∃ t, exec (.waitRelease (.core c) k) s = .next t
      ∧ (getProc t c.val).pc = p.pc + 4 * p.buf.syls ∧ (getProc t c.val).buf = {} ∧ sameFiles p (getProc t c.val)
      ∧ (getProc t c.val).stallCnt = p.stallCnt + BitVec.ofNat 32 k ∧ (getProc t c.val).stepCnt = p.stepCnt + BitVec.ofNat 64 k + 1
      ∧ (getArray t c.val).queue = (match w with
        | .queueRoom ws => (getArray s c.val).queue ++ [{ words := ws, pc := BitVec.ofNat 32 p.pc, started := false, empty := false }]
        | _ => (getArray s c.val).queue)
      ∧ (∀ j, j ≠ c.val → getProc t j = getProc s j ∧ getArray t j = getArray s j) ∧ unchangedBut [.procs, .arrays, .pacer] s t))
  ∧ (∀ (s : State) (c : Fin 6) (last : Bool) (k : Nat), WaitsFor s c.val (.stepDrained last) → let p := getProc s c.val
    (getArray s c.val).queue = [] → stepChansIdle s c.val = true → writesHeld s (0x20 + BitVec.ofNat 8 c.val) = false → p.inflight = [] →
    ∃ t, exec (.waitRelease (.core c) k) s = .next t ∧ (getProc t c.val).commitAsked = some last ∧ (getProc t c.val).runState = .drain
      ∧ (getProc t c.val).pc = p.pc + 4 * p.buf.syls ∧ sameFiles p (getProc t c.val)
      ∧ (∀ j, j ≠ c.val → getProc t j = getProc s j) ∧ unchangedBut [.procs, .pacer] s t)
  ∧ (∀ (s : State) (q : Proc) (sl size : Nat) (ad : Addr), injectorOff s → let n := q.num
    let p := getProc s n
    (n ≠ mgmtNo → stepping s n = true) → p.inflight = [] → regsOf ad.toNat = none → 0 < size → size ≤ 8 →
    let goes (u t : State) (es : List Inflight) : Prop := ∃ k : Nat, 1 ≤ k ∧ k ≤ 65536
      ∧ (getProc t n).pc = p.pc + 4 * p.buf.syls ∧ (getProc t n).buf = {}
      ∧ (getProc t n).stallCnt = p.stallCnt + BitVec.ofNat 32 k ∧ (getProc t n).stepCnt = p.stepCnt + BitVec.ofNat 64 k + 1
      ∧ (getProc t n).inflight = es ∧ (∀ j, j ≠ n → getProc t j = getProc s j) ∧ t.sent = u.sent ∧ t.bus = u.bus
      ∧ unchangedBut [.procs, .pacer, .mem, .free, .bus, .pcie, .sent] s t
    let value (d : Fin 32) (signed : Bool) (v : BitVec (8 * size)) : List Inflight :=
      [{ due := p.bundle + 4, slot := sl, issued := p.bundle, land := .g d (if signed then v.signExtend 32 else v.setWidth 32) }]
    let bytes (v : DWord) : List Byte := (List.range size).map fun i => v.extractLsb' (8 * i) 8
    let free (k : Nat) (u : State) : State := { u with free := u.free + k }
    (∀ (op : MemOp), WaitsFor s n (.remote op) → exec (.remoteAccessComplete q .never) s = .next s)
    ∧ (∀ (d : Fin 32) (signed : Bool) (x : Answered), WaitsFor s n (.remote (.load sl (.g d) size signed ad)) → x ≠ .never →
      (∀ code, remoteRefusal s n ad.toNat false = some code → ∃ k : Nat, 1 ≤ k ∧ k ≤ 65536
        ∧ exec (.remoteAccessComplete q x) s = .next (procFault n sl code (countWaits n k (free 1 (countRefusal code s)))))
      ∧ (remoteRefusal s n ad.toNat false = none →
        (dramFails s ad.toNat x = true → ∃ (k : Nat) (cause : Byte), 1 ≤ k ∧ k ≤ 65536 ∧ cause ≠ 0 ∧ cause ≠ 4 ∧ cause.toNat < 0x16
          ∧ exec (.remoteAccessComplete q x) s
            = .next (procFault n sl cause (countWaits n k (free 2 (dramError (procReq n).code ad.toNat s)))))
        ∧ (dramFails s ad.toNat x = false → firstBad s n ((List.range size).map (ad.toNat + ·)) = none →
          (place ad.toNat ≠ .host → (∀ m, place ad.toNat ≠ .peer m) → ∃ t, exec (.remoteAccessComplete q x) s = .next t
            ∧ goes (dramCorrects ad.toNat x s) t (value d signed (BitVec.ofNat (8 * size) (ofBytes (memRead s (ownCore n) ad.toNat size))))
            ∧ t.mem = s.mem)
          ∧ (place ad.toNat = .host → ∃ t, exec (.remoteAccessComplete q x) s = .next t
            ∧ goes (send (.hostRead 0 (BitVec.ofNat 64 (hostAddr s 0 ad.toNat)) size) s) t
              (value d signed (BitVec.ofNat (8 * size) (ofBytes ((List.range size).map fun i => hostByte s (hostAddr s 0 ad.toNat + i)))))
            ∧ t.mem = s.mem)
          ∧ (∀ m, place ad.toNat = .peer m → ∃ t v, exec (.remoteAccessComplete q x) s = .next t
            ∧ goes (send (.peerRead (peerBus s ad.toNat) size) s) t (value d signed v) ∧ t.mem = s.mem))))
    ∧ (∀ (v : DWord) (x : Answered), WaitsFor s n (.remote (.store sl size v ad)) → x ≠ .never →
      (∀ code, remoteRefusal s n ad.toNat true = some code → ∃ k : Nat, 1 ≤ k ∧ k ≤ 65536
        ∧ exec (.remoteAccessComplete q x) s = .next (procFault n sl code (countWaits n k (free 1 (countRefusal code s)))))
      ∧ (remoteRefusal s n ad.toNat true = none →
        (((∃ m, place ad.toNat = .shm m) ∨ place ad.toNat = .dram ∨ ∃ m, place ad.toNat = .cmem m) →
          ∃ t, exec (.remoteAccessComplete q x) s = .next t ∧ goes s t []
            ∧ (∀ i, i < size → viewByte t (ownCore n) (ad.toNat + i) = v.extractLsb' (8 * i) 8)
            ∧ (∀ b, (b < ad.toNat ∨ ad.toNat + size ≤ b) → viewByte t (ownCore n) b = viewByte s (ownCore n) b)
            ∧ (n ≠ mgmtNo → ∀ b, memByte t b = memByte s b))
        ∧ (∀ m, place ad.toNat = .peer m → ∃ t, exec (.remoteAccessComplete q x) s = .next t
          ∧ goes (send (.peerWrite (peerBus s ad.toNat) (bytes v)) s) t [] ∧ t.mem = s.mem))))

/-- R104, R122: an interrupt that is enabled and pending is taken between bundles, outside a REPEAT's body and a delay window: every
issued result commits, EPC takes the next bundle's pc, IE clears and IN_IRQ sets, and the handler at IVEC issues. While one of these
does not hold nothing happens. R120, R121 and R126: a core fault records slot, cause and pc in the core's page, raises its interrupt 0
and ends the step's job FAULT, with the page in its cause; a fault of MGMT goes to its fault handler where FVEC enables one outside a
fault handler, and else stops it. The model's choices in it: log entries 79 and 80. -/
def Obligations.coreInterruptsAndFaults : Prop :=
  (∀ (s : State) (q : Proc), let n := q.num
    let p := getProc s n
    let taken : Prop := canIssue s n = true ∧ (intStatOf s n &&& p.intEn) ≠ 0 ∧ p.ie = true ∧ p.buf.syls = 0 ∧ p.loop = none ∧ p.delay = none
    (¬ taken → exec (.interruptEntry q) s = .next s)
    ∧ (taken → ∃ t, exec (.interruptEntry q) s = .next t
      ∧ (getProc t n).epc = BitVec.ofNat 32 p.pc ∧ (getProc t n).ie = false ∧ (getProc t n).inIrq = true
      ∧ (getProc t n).runState = .handler ∧ (getProc t n).inflight = []
      ∧ (p.inflight = [] → (getProc t n).pc = p.ivec.toNat ∧ (getProc t n).inFault = p.inFault ∧ (getProc t n).g = p.g ∧ (getProc t n).v = p.v ∧ (getProc t n).intEn = p.intEn)
      ∧ (∀ j, j ≠ n → getProc t j = getProc s j) ∧ unchangedBut [.procs] s t))
  ∧ ((∀ (s : State) (c : Fin 6) (slot : Nat) (cause : Byte), slot < 8 → (getProc s c.val).run = none →
    ∃ t, procFault c.val slot cause s = t
      ∧ (getProc t c.val).faultValid = true ∧ (getProc t c.val).faultSlot = BitVec.ofNat 3 slot ∧ (getProc t c.val).faultCause = cause
      ∧ (getProc t c.val).faultPc = BitVec.ofNat 32 (getProc s c.val).pc
      ∧ getHdr t (pgCore c.val) = { getHdr s (pgCore c.val) with irqStat := (getHdr s (pgCore c.val)).irqStat ||| 1 })
  ∧ (∀ (s : State) (c : Fin 6) (slot : Nat) (cause : Byte) (j i : Nat), (getProc s c.val).run = some (j, i) →
    procFault c.val slot cause s = pacerSettle (jobStop j .fault 0x20 (commonCode cause) (stepDiscard c.val (raise (pgCore c.val) 0
      (modProc c.val (fun p => { p with faultValid := true, faultSlot := BitVec.ofNat 3 slot, faultCause := cause
                                        faultPc := BitVec.ofNat 32 p.pc }) s)))))
  ∧ (∀ (s : State) (slot : Nat) (cause : Byte), let p := getProc s 6
    ∃ t, procFault 6 slot cause s = t ∧ unchangedBut [.procs] s t
      ∧ (getProc t 6).faultValid = true ∧ (getProc t 6).faultCause = cause ∧ (getProc t 6).faultPc = BitVec.ofNat 32 p.pc
      ∧ ((p.fvec.getLsbD 31 = false ∨ p.inFault = true) → (getProc t 6).halted = true ∧ (getProc t 6).pc = p.pc)
      ∧ (p.fvec.getLsbD 31 = true → p.inFault = false → p.inflight = [] → p.delay = none → p.loop = none →
          (getProc t 6).halted = p.halted ∧ (getProc t 6).inFault = true ∧ (getProc t 6).ie = false ∧ (getProc t 6).pie = p.ie
          ∧ (getProc t 6).pc = p.fvec.toNat % 2 ^ 31 ∧ (getProc t 6).runState = .handler)))

/-- R168, R173 to R178, R182, R183: a queued array command starts when its unit is free, no checked hazard binds it, and WAIT lets it:
its first weight set loads. Sent again, its row says that the present set is loaded: the set's waves run, and the next set loads.
LOADW has its whole effect as it starts. With FLIP the sets run from the last (R188). EPILOG and ARGMAX form their results as they
start, and their row, sent again, lands the next strip. A source or a map that refuses its reads ends the step with the refusal's code
at the NAQ's bundle. A row that names nothing to do does nothing. R168, R183 and R198: what the load of a weight set leaves. The set's
tiles enter the bank that does not hold the last one, transposed in training mode TW, and that bank is then the last; the other bank
keeps its weights. Streamed tiles pass through WBUF, and no other byte changes. Kept tiles are those of the last set. R174, R176, R198
and R208: SYNC and TRAINMODE complete as they start, TRAINMODE with the mode of its word; another command completes when its last
write has landed, after the commands of its unit before it: what it has still to do is then done. Completion frees its entry, sets
NA_LAST and counts, and raises INTSTAT.ARRAY with IRQ = 1. A command that has not started does not complete, and one whose reads stop
it neither. The model's choices in it: log entries 102, 104 and 106. -/
def Obligations.arrayCommands : Prop :=
  (∀ (s : State) (c : Fin 6) (i : Nat) (x : ArrayCmd), let ws := x.words
    let clean (s : State) (as : List Nat) : Prop := ∀ a ∈ as, viewBad s (some c.val) a = false
    let refusal (s : State) (as : List Nat) : Option Byte := as.findSome? fun a => placeRefusal s (some c.val) false false 0 a
    let stops (m : Instr) (code : Byte) (u : State) : Prop := exec m s = .next (coreFaultEnds c.val 6 code x.pc.toNat (countRefusal code u))
    let set (k : Nat) : Nat := setIndex ws (getArray s c.val).flip k
    let busy : Prop := computing s c.val = some (i, x) ∧ stepping s c.val = true
    let array (m : Instr) (op : Nat) : Prop :=
      (startable1 s c.val op = none → (∀ k y, computing s c.val = some (k, y) → stepping s c.val = false ∨ opOf y.words ≠ op) →
        exec m s = .next s)
      ∧ (startable1 s c.val op = some (i, x) → let u := markStarted c.val i (arrayEmpty ws) s
        (refusal s (weightProbes c.val ws (set 0)) = none → clean s (weightReads c.val ws (set 0)) →
          exec m s = .next (loadSet c.val i (set 0) ws u))
        ∧ (∀ code, refusal s (weightProbes c.val ws (set 0)) = some code → stops m code u))
      ∧ (startable1 s c.val op = none → busy → opOf ws = op → let reads := arrayReads c.val (getArray s c.val) x x.sets
        let u := modCmd c.val i (fun y => { y with sets := y.sets + 1 }) (arrayRun c.val x x.sets s)
        (∀ code, reads ≠ [] → refusal s [winBase c.val] = some code → stops m code s)
        ∧ ((reads = [] ∨ refusal s [winBase c.val] = none) → clean s reads →
          (setCount ws ≤ x.sets + 1 → exec m s = .next u)
          ∧ (x.sets + 1 < setCount ws → refusal u (weightProbes c.val ws (set (x.sets + 1))) = none →
            clean u (weightReads c.val ws (set (x.sets + 1))) → exec m s = .next (loadSet c.val i (set (x.sets + 1)) ws u))
          ∧ (∀ code, x.sets + 1 < setCount ws → refusal u (weightProbes c.val ws (set (x.sets + 1))) = some code → stops m code u)))
    let output (m : Instr) (op : Nat) (lands : List (List (Nat × Byte))) (run : State) : Prop :=
      (startable1 s c.val op = none → (outBusy s c.val op = none ∨ stepping s c.val = false) → exec m s = .next s)
      ∧ (startable1 s c.val op = some (i, x) →
        exec m s = .next (markStarted c.val i false (modCmd c.val i (fun y => { y with lands := lands }) run)))
      ∧ (startable1 s c.val op = none → outBusy s c.val op = some i → stepping s c.val = true → (getArray s c.val).queue[i]? = some x →
        (∀ strip rest, x.lands = strip :: rest →
          exec m s = .next (modCmd c.val i (fun y => { y with lands := rest }) (stripPut c.val strip s)))
        ∧ (x.lands = [] → exec m s = .next s))
    array (.convPass c) 2 ∧ array (.wino c) 3 ∧ array (.matmul c) 4
    ∧ output (.epilog c) 5 (epilogLands s c.val ws) (epilogRun c.val ws s)
    ∧ output (.argmax c) 6 (argmaxLands s c.val ws) (argmaxRun c.val ws s)
    ∧ (startable1 s c.val 1 = none → exec (.loadw c) s = .next s)
    ∧ (startable1 s c.val 7 = none → exec (.sync c) s = .next s) ∧ (startable1 s c.val 8 = none → exec (.trainmode c) s = .next s)
    ∧ (startable1 s c.val 1 = some (i, x) → toSbuf ws = true → 0 < sbLen ws →
      let ends := [sbSource c.val ws, sbSource c.val ws + 4 * sbLen ws - 1]
      (∀ code, refusal s ends = some code → stops (.loadw c) code s)
      ∧ (refusal s ends = none → clean s ((List.range (4 * sbLen ws)).map (sbSource c.val ws + ·)) →
        ∃ t, exec (.loadw c) s = .next t ∧ (∀ k, k < 4 * sbLen ws →
            memByte t (winBase c.val + 0x880000 + 4 * sbOff ws + k) = viewByte s (some c.val) (sbSource c.val ws + k))
          ∧ (∀ b, (b < winBase c.val + 0x880000 + 4 * sbOff ws ∨ winBase c.val + 0x880000 + 4 * sbOff ws + 4 * sbLen ws ≤ b) →
            memByte t b = memByte s b) ∧ unchangedBut [.mem, .arrays] s t))
    ∧ (startable1 s c.val 1 = some (i, x) → toSbuf ws = false → let ends := [tileAddr c.val ws 0 0 0, tileAddr c.val ws 0 127 127]
      (∀ code, refusal s ends = some code → stops (.loadw c) code s)
      ∧ (refusal s ends = none → clean s (tileReads c.val ws 0) →
        ∃ t, exec (.loadw c) s = .next t ∧ (∀ k j, k < 128 → j < 128 →
            memByte t (winBase c.val + 0x820000 + 0x4000 * cf ws 0 18 17 + 128 * k + j) = tileByte s c.val ws 0 k j)
          ∧ (∀ b, (b < winBase c.val + 0x820000 + 0x4000 * cf ws 0 18 17 ∨ winBase c.val + 0x824000 + 0x4000 * cf ws 0 18 17 ≤ b) →
            memByte t b = memByte s b) ∧ unchangedBut [.mem, .arrays] s t)))
  ∧ (∀ (s : State) (c : Fin 6) (i j : Nat) (x : ArrayCmd), (getArray s c.val).queue[i]? = some x → let ws := x.words
    let a := getArray s c.val
    let u := loadSet c.val i j ws s
    (wMode ws = 2 → (getArray u c.val).queue[i]? = some { x with bank := a.lastBank } ∧ (getArray u c.val).banks = a.banks
      ∧ unchangedBut [.arrays] s u)
    ∧ (wMode ws ≠ 2 → (getArray u c.val).queue[i]? = some { x with bank := !a.lastBank } ∧ (getArray u c.val).lastBank = (!a.lastBank)
      ∧ (∀ t k n, 16 * j ≤ t → t < 16 * j + 16 → t < tileCount ws → k < 128 → n < 128 →
        weightOf u c.val { x with bank := !a.lastBank } t k n = (if a.tw then rawTile s c.val ws t n k else rawTile s c.val ws t k n).toInt)
      ∧ (∀ t k n, k < 128 → n < 128 → weightOf u c.val { x with bank := a.lastBank } t k n = weightOf s c.val { x with bank := a.lastBank } t k n)
      ∧ (∀ b, (b < winBase c.val + 0x820000 ∨ winBase c.val + 0x830000 ≤ b ∨ wMode ws = 1) → memByte u b = memByte s b)
      ∧ unchangedBut [.arrays, .mem] s u))
  ∧ (∀ (s : State) (c : Fin 6) (i : Fin 16) (x : ArrayCmd),
    let ended (base : ArrayState) (y : ArrayCmd) (u t : State) : Prop :=
      getArray t c.val = { base with
        queue := base.queue.eraseIdx i, lastTag := BitVec.ofNat 8 (cf y.words 0 15 8), lastOp := BitVec.ofNat 6 (opOf y.words)
        lastEmpty := y.empty, lastValid := true, cmdCnt := base.cmdCnt + 1, emptySeen := base.emptySeen || y.empty }
      ∧ getProc t c.val = (if (cw y.words 0).getLsbD 6 then { getProc u c.val with intStat := (getProc u c.val).intStat ||| 1 }
          else getProc u c.val)
      ∧ (getHdr t (pgCore c.val)).irqStat = (getHdr u (pgCore c.val)).irqStat ||| (if y.empty && !base.emptySeen then 8 else 0)
      ∧ (∀ j, j ≠ c.val → getArray t j = getArray u j ∧ getProc t j = getProc u j) ∧ unchangedBut [.arrays, .procs, .bus, .pcie, .sent] u t
    let a := getArray s c.val
    (a.queue[i.val]? = some x → x.started = true → (∀ y ∈ a.queue.take i.val, sameUnit (opOf y.words) (opOf x.words) = false) →
      let u := arrayFinish c.val i x s
      (isArrayOp (opOf x.words) = false → u = x.lands.foldl (fun s strip => stripPut c.val strip s) s)
      ∧ (isArrayOp (opOf x.words) = true → setCount x.words ≤ x.sets → u = s)
      ∧ (∀ y, (getArray u c.val).queue[i.val]? = some y →
        ∃ t, exec (.arrayCommandComplete c i) s = .next t ∧ ended (getArray u c.val) y u t)
      ∧ ((getArray u c.val).queue[i.val]? = none → exec (.arrayCommandComplete c i) s = .next u))
    ∧ (a.queue[i.val]? = some x → x.started = false → exec (.arrayCommandComplete c i) s = .next s)
    ∧ (startable1 s c.val 7 = some (i.val, x) → ∃ t, exec (.sync c) s = .next t ∧ ended a x s t)
    ∧ (startable1 s c.val 8 = some (i.val, x) → ∃ t, exec (.trainmode c) s = .next t
      ∧ ended { a with ti := (cw x.words 0).getLsbD 16, tw := (cw x.words 0).getLsbD 17, flip := (cw x.words 0).getLsbD 18 } x s t))

/-- R170, R184, R187, R188 and R197: what the waves of CONV and MATMUL add. Each column of a position's entry takes the sum of input
times weight over the taps of the loaded set and the channels, modulo 2^32, after the entry's value with ACC = 1 or from the second
set on, and from 0 else; an input pixel outside the map is the pad code. No byte outside the accumulator buffer changes. The model's
choices in it: log entry 103. -/
def Obligations.waveSums : Prop :=
  ∀ (s : State) (c : Fin 6) (x : ArrayCmd) (j : Nat), let ws := x.words
    let base (more : Bool) (e n : Nat) : Int := if wAcc ws || more then (accWord s c.val e n).toInt else 0
    let outside (t : State) : Prop := ∀ b, (b < winBase c.val + 0x840000 ∨ winBase c.val + 0x880000 ≤ b) → memByte t b = memByte s b
    let tile (t : Nat) : Nat := if (getArray s c.val).flip then kH ws * kW ws - 1 - t else t
    let set : Nat := if (getArray s c.val).flip then setCount ws - 1 - j else j
    (opOf ws = 2 → accBase ws + passW ws * passH ws ≤ 512 →
      (∀ r q n, (r, q) ∈ inMap ws → n < 128 → accWord (convRun c.val x j s) c.val (accBase ws + r * passW ws + q) n
        = BitVec.ofInt 32 (base (decide (j ≠ 0)) (accBase ws + r * passW ws + q) n + ((List.range (kH ws * kW ws)).map fun t =>
            if 16 * set ≤ tile t ∧ tile t < 16 * set + 16 then
              ((List.range (chans ws)).map fun ch =>
                inputCode s c.val ws ((((outY0 ws + r) * strH ws : Nat) : Int) - padT ws + ((t / kW ws * dilH ws : Nat) : Int))
                  ((((outX0 ws + q) * strW ws : Nat) : Int) - padL ws + ((t % kW ws * dilW ws : Nat) : Int)) ch
                * weightOf s c.val x (tile t) ch n).sum
            else 0).sum))
      ∧ outside (convRun c.val x j s))
    ∧ (opOf ws = 4 → accBase ws + mmRows ws ≤ 512 →
      (∀ m n, m < mmRows ws → n < 128 → accWord (matmulRun c.val x s) c.val (accBase ws + m) n
        = BitVec.ofInt 32 (base false (accBase ws + m) n + ((List.range (mmTiles ws)).map fun t =>
            ((List.range (mmDepth ws t)).map fun k =>
              (viewByte s (some c.val) (mmAddr c.val ws (getArray s c.val).ti m t k)).toInt * weightOf s c.val x t k n).sum).sum))
      ∧ outside (matmulRun c.val x s))

/-- R190 to R193: the Winograd form computes the convolution. For a 3 × 3 filter g and a 4 × 4 tile d of integers, whenever each
stored weight and its exponent stand for four times the transformed filter, doubled, the output (p, q) is eight times the sum of g
over d at (p, q), exactly. -/
def Obligations.winogradConvolution : Prop :=
  ∀ (g d : Nat → Nat → Int) (w : Nat → Int) (e : Word),
    let twoG (u : Nat) (x : Nat → Int) : Int := match u with
      | 0 => 2 * x 0
      | 1 => x 0 + x 1 + x 2
      | 2 => x 0 - x 1 + x 2
      | _ => 2 * x 2
    (∀ u v, u < 4 → v < 4 → w (4 * u + v) * (2 ^ (3 - fld e (2 * (4 * u + v) + 1) (2 * (4 * u + v))) : Int)
      = 2 * twoG u (fun i => twoG v (fun j => g i j))) →
    ∀ p q, p < 2 → q < 2 → winoY (fun k => winoV d (k / 4) (k % 4) * w k) e p q
      = 8 * ((List.range 3).map fun i => ((List.range 3).map fun j => g i j * d (p + i) (q + j)).sum).sum

/-- R200 to R203: an output value. The sum with its bias, without the zero points' shares, is exact; INT32 keeps it, saturated. INT8
and INT16 take its product with M, rounded half to even, plus the zero point, saturated before and after the activation; each value
that saturates counts once. R204: where EPILOG writes. When all its strips have landed, byte b of channel ch of a pixel is in its
plane, where the pass lies in its map and the planes in theirs and in CMEM; every other byte that the core reads is unchanged, and
with NOWR nothing is written. R205: ties go to the lower channel, and a greater value replaces; an entry without a valid state takes
the channel as it is. R206 and R233: where ARGMAX writes. When all its strips have landed, the least channel's index and with MAXW the
value of a pixel's valid state are in their planes, and 0 and the type's most negative value where the state is not valid; the value
planes are written after the index planes. Every valid bit of the pass is cleared. The model's choices in it: log entries 104 and 105.
-/
def Obligations.outputStage : Prop :=
  (∀ (s : State) (c : Fin 6) (ws : List Word) (e ch : Nat), let w (k : Nat) : Word := sbufWord s c.val (cf ws 3 10 0 + 4 * ch + k)
    let arec := sbufWord s c.val (cf ws 3 21 11)
    let zp (r : Word) : Int := (r.extractLsb' 8 8).toInt
    let u : Int := (accWord s c.val e ch).toInt + (w 0).toInt - zp (w 2) * (accSum s c.val e).toInt - zp arec * (w 1).toInt
      + ((cw ws 2).toNat % 1048576 : Nat) * zp arec * zp (w 2)
    let sat (m z : Int) : Int := if z < -m then -m else if m < z then m else z
    (oType ws = 2 → outValue s c.val ws e ch = (if u < -2147483648 then -2147483648 else if 2147483647 < u then 2147483647 else u, false))
    ∧ (oType ws ≠ 2 → ∀ (n : Bool) (q : Q), requantM (recScale arec) (recScale (w 2)) (recScale (w 3)) (cf ws 0 29 28) = .fin n q →
      let lim : Int := if oType ws = 0 then 127 else 32767
      let v := Q.round ⟨u * q.num, q.den⟩ + zp (w 3)
      let act (x : Int) : Int := activate s c.val ws (zp (w 3)) x
      (outValue s c.val ws e ch).1 = sat lim (act (sat lim v)) ∧ -lim ≤ (outValue s c.val ws e ch).1 ∧ (outValue s c.val ws e ch).1 ≤ lim
      ∧ ((outValue s c.val ws e ch).2 = true ↔ sat lim v ≠ v ∨ sat lim (act (sat lim v)) ≠ act (sat lim v))))
  ∧ (∀ (s : State) (c : Fin 6) (ws : List Word), stepping s c.val = true → opOf ws = 5 →
    oX0 ws + oW ws ≤ 128 * oSegs ws → (oCh0 ws + oChans ws) * oBytes ws ≤ 16 * cf ws 6 23 15 →
    (∀ r x ch b, r < oH ws → x < oW ws → ch < oChans ws → b < oBytes ws → outRow ws r x ((oCh0 ws + ch) * oBytes ws + b) < 32768) →
    let at' (r x ch b : Nat) : Nat := winBase c.val + 128 * outRow ws r x ((oCh0 ws + ch) * oBytes ws + b) + (oX0 ws + x) % 128
    let t := (epilogLands s c.val ws).foldl (fun t strip => stripPut c.val strip t) (epilogRun c.val ws s)
    ((cw ws 0).getLsbD 18 = true → ∀ y, viewByte t (some c.val) y = viewByte s (some c.val) y)
    ∧ ((cw ws 0).getLsbD 18 = false →
      (∀ r x ch b, r < oH ws → x < oW ws → ch < oChans ws → b < oBytes ws →
        viewByte t (some c.val) (at' r x ch b)
          = BitVec.ofInt 8 ((outValue s c.val ws (accBase ws + r * oStr ws + x) ch).1 / (256 ^ b : Int)))
      ∧ (∀ y, (∀ r x ch b, r < oH ws → x < oW ws → ch < oChans ws → b < oBytes ws → y ≠ at' r x ch b) →
        viewByte t (some c.val) y = viewByte s (some c.val) y))
    ∧ (∀ y, memByte t y = memByte s y))
  ∧ (∀ (otype : Nat) (ch : Nat) (v : Int),
    (argStep otype none ch v = some { valid := true, value := v, index := ch, otype := BitVec.ofNat 2 otype })
    ∧ (∀ a : Argmax, a.valid = false → argStep otype (some a) ch v = some { valid := true, value := v, index := ch, otype := BitVec.ofNat 2 otype })
    ∧ (∀ a : Argmax, a.valid = true → (a.value < v ∨ (a.value = v ∧ ch < a.index)) →
        argStep otype (some a) ch v = some { a with value := v, index := ch })
    ∧ (∀ a : Argmax, a.valid = true → ¬ (a.value < v ∨ (a.value = v ∧ ch < a.index)) → argStep otype (some a) ch v = some a))
  ∧ (∀ (s : State) (c : Fin 6) (ws : List Word), stepping s c.val = true → opOf ws = 6 → oX0 ws + oW ws ≤ 128 * oSegs ws →
    (∀ r x b, r < oH ws → x < oW ws → b < 4 → argRow ws (cf ws 5 14 0) r x b < 32768 ∧ argRow ws (cf ws 5 29 15) r x b < 32768) →
    let at' (base r x b : Nat) : Nat := winBase c.val + 128 * argRow ws base r x b + (oX0 ws + x) % 128
    let state (r x : Nat) : Option Argmax := storeGet (fun _ => none) (getArray s c.val).argmax (accBase ws + r * oStr ws + x)
    let t := (argmaxLands s c.val ws).foldl (fun t strip => stripPut c.val strip t) (argmaxRun c.val ws s)
    ((cw ws 0).getLsbD 16 = false → ∀ r x b, r < oH ws → x < oW ws → b < idxBytes ws →
      viewByte t (some c.val) (at' (cf ws 5 14 0) r x b) = BitVec.ofNat 8 ((match state r x with
        | some a => if a.valid then a.index else 0
        | none => 0) / 256 ^ b))
    ∧ ((cw ws 0).getLsbD 16 = true → ∀ r x a b, r < oH ws → x < oW ws → state r x = some a → b < 2 ^ a.otype.toNat → a.otype ≠ 3 →
      viewByte t (some c.val) (at' (cf ws 5 29 15) r x b)
        = BitVec.ofInt 8 ((if a.valid then a.value else -(2 ^ (8 * 2 ^ a.otype.toNat - 1) : Int)) / (256 ^ b : Int)))
    ∧ (∀ y, (∀ base r x b, base ∈ [cf ws 5 14 0, cf ws 5 29 15] → r < oH ws → x < oW ws → b < 4 → y ≠ at' base r x b) →
      viewByte t (some c.val) y = viewByte s (some c.val) y)
    ∧ (∀ r x a, r < oH ws → x < oW ws → storeGet (fun _ => none) (getArray t c.val).argmax (accBase ws + r * oStr ws + x) = some a →
      a.valid = false)
    ∧ (∀ y, memByte t y = memByte s y))

/-- R272 to R276, R286, R291 and R293: the commands of a channel. KICK of an IDLE channel hands an armed shadow over, in either mode,
and starts a descriptor fetch in descriptor mode where none is armed; of a WAIT_OWN channel it fetches again; of a DISABLED or HALTED
one it is FORMAT. DISARM without a hand-over at the same instant takes the shadow back, and where a fetch had armed it DESC_PTR with
it; CLEAR makes a HALTED channel IDLE; ARM arms the shadow in register mode; EN = 1 makes a DISABLED channel IDLE, but for one of a
fenced core, and EN = 0 disables one that has no transfer running and empties its shadow. No other channel changes. The model's
choices in it: log entries 36, 52, 59, 62 and 173. -/
def Obligations.channelCommands : Prop :=
  ∀ (s : State) (r : Requester) (c : Nat), selChan s r pgDma = some c → let ch := getChan s c
    let becomes (i : Instr) (x : Chan) : Prop := ∃ t, exec i s = .next t ∧ getChan t c = x ∧ (∀ d, d ≠ c → getChan t d = getChan s d)
      ∧ unchangedBut [.dma] s t
    (Taken s r pgDma 0x404 →
      (ch.st = .idle → ch.armed = true → transferCheck s c ch.shadow = none → let more := ch.descMode && !dLast ch.shadow
        becomes (.kick r) { ch with
          act := ch.shadow, armed := false, prefetched := false, seq := ch.seq + 1, pos := 0, rows := 0, malformed := none, actDesc := ch.shDesc
          st := .preempted, mover := none, turn := s.dma.turn, ownZero := false, hold := [], flush := false, disarmLow := some false
          descRun := ch.descMode, descPtr := if more then dNext ch.shadow else ch.descPtr, fetching := more, fetchFrom := now s })
      ∧ (ch.st = .idle → ch.descMode = false → ch.armed = false → becomes (.kick r) { ch with descRun := false })
      ∧ (ch.st = .idle → ch.descMode = true → ch.armed = false →
        becomes (.kick r) { ch with fetching := true, ownZero := false, fetchFrom := now s, descRun := true })
      ∧ (ch.st = .waitOwn → becomes (.kick r) { ch with fetching := true, ownZero := false, fetchFrom := now s })
      ∧ ((ch.st = .active ∨ ch.st = .preempted) → ch.descRun = true → ch.armed = false → ch.fetching = false →
        becomes (.kick r) { ch with fetching := true, ownZero := false, fetchFrom := now s })
      ∧ ((ch.st = .active ∨ ch.st = .preempted) → (ch.descRun = false ∨ ch.armed = true ∨ ch.fetching = true) → becomes (.kick r) ch)
      ∧ ((ch.st = .disabled ∨ ch.st = .halted) → ∃ t, exec (.kick r) s = .next t ∧ t.dma = s.dma
        ∧ getHdr t pgDma = (getHdr s pgDma).capture r.code eFormat (regAddr pgDma 0x404) ∧ unchangedBut [.bus, .pcie, .sent] s t)
      ∧ (ch.armed = true → becomes (.disarm r false) { ch with
          armed := false, prefetched := false, disarmLow := some true, descPtr := if ch.prefetched then ch.shDesc else ch.descPtr })
      ∧ (ch.armed = false → ∀ pending, exec (.disarm r pending) s = .next s)
      ∧ becomes (.clear r) (if ch.st = .halted then { ch with st := .idle } else ch))
    ∧ (Taken s r pgDma 0x40C → ch.descMode = false → becomes (.shadowArm r) { ch with armed := true, prefetched := false })
    ∧ (Taken s r pgDma 0x40C → ch.descMode = true → ∃ t, exec (.shadowArm r) s = .next t ∧ t.dma = s.dma
        ∧ getHdr t pgDma = (getHdr s pgDma).capture r.code eWriteRunning (regAddr pgDma 0x40C) ∧ unchangedBut [.bus, .pcie, .sent] s t)
    ∧ (Taken s r pgDma 0x400 → ch.en = false → becomes (.channelEnable r) (if chanBarred s c then ch else { ch with en := true, st := .idle }))
    ∧ (Taken s r pgDma 0x400 → ch.en = true → ch.st ≠ .active → ch.st ≠ .preempted →
      becomes (.channelDisable r) { ch with
        en := false, st := .disabled, mover := none, shadow := [], armed := false, prefetched := false, fetching := false
        ownZero := false, hold := [], flush := false, wb := [], result := 0x11 })
    ∧ (Taken s r pgDma 0x400 → ch.en = true → (ch.st = .active ∨ ch.st = .preempted) →
      ∃ t, exec (.channelDisable r) s = .next t ∧ (getChan t c).st = .disabled ∧ (getChan t c).en = false ∧ (getChan t c).armed = false
        ∧ (getChan t c).result = 0x11 ∧ (∀ d, d ≠ c → getChan t d = getChan s d)
        ∧ (∀ x, (x < dDst (chanCore s c) ch.act ∨ dDst (chanCore s c) ch.act + dstSpan ch.act < x) → memByte t x = memByte s x)
        ∧ t.bus.hdrs = s.bus.hdrs ∧ unchangedBut [.bus, .dma, .mem, .procs, .lfi, .free] s t)

/-- R277, R278, R284, R285, R288 and R291: descriptors, ends and halts. A descriptor of the channel's reach enters the shadow set, and
with OWN = 1 arms it and is handed over by an idle channel; with OWN = 0 the channel waits. A register-mode transfer whose last byte
is written ends with result OK, and raises CH_DONE with IRQ; with BARRIER it waits for its writes, and for the host's with a
zero-length read to the last address, and halts with POWERED_OFF where the function can no longer be reached. A write-back puts
STATUS, the time and CTRL with OWN = 0 in its descriptor, one that is refused halts the channel; a halt records its code and address,
raises CH_HALT and leaves the channel HALTED. R265 to R267, R279, R280 and R288: a mover carries the waiting channel of highest
priority. A MODE 0 transfer between two ranges of DRAM that do not overlap, whose beats are all granted, leaves the destination with
the source's bytes and every other byte as it was, and counts the bytes moved, and in CE_CNT the single-bit errors that ECC corrected
in them. A channel that is not next gets no beat. The model's choices in it: log entries 52, 60, 61, 139, 142, 143, 144 and 181. -/
def Obligations.channelEvents : Prop :=
  ((∀ (s : State) (c : Fin 32), transferDone (getChan s c.val) = true → (getHdr s pgDma).enable = true → dBarrier (getChan s c.val).act = true →
    writesHeld s (0x30 + BitVec.ofNat 8 c.val) = true → exec (.transferEnd c) s = .next s)
  ∧ ∀ (s : State) (c : Fin 32) (x : Answered), injectorOff s → (∀ n, chanCore s c.val = some n → (getProc s n).stepChans.contains c = false) →
    let ch := getChan s c.val
    let a := ch.descPtr.toNat
    let desc := (List.range 16).foldl (fun m i => storeSet (fun _ => 0) m i (memWord s (a + 4 * i))) ([] : Store Word)
    let others (t : State) : Prop := ∀ d, d ≠ c.val → getChan t d = getChan s d
    let toHost : Prop := place (dDst (chanCore s c.val) ch.act) = .host
    let ready : Prop := hostReady s (hostFn s (chanOwner s c.val)) = true
    let held : Prop := writesHeld s (0x30 + BitVec.ofNat 8 c.val) = true
    let confirmed : Prop := dBarrier ch.act = false ∨ (¬ held ∧ (toHost → ch.flush = true ∧ ready))
    (ch.fetching = true → (getHdr s pgDma).enable = true → chanCore s c.val = none → a % 64 = 0 → place a = .dram →
      missingAt s a (a + 63) = none → ownerBlocked s (chanOwner s c.val) false a (a + 63) = none → x ≠ .never → dramFails s a x = false →
      let u := dramCorrects a x s
      beatRefusal u c.val false a = none → (∀ i, i < 64 → viewBad u none (a + i) = false) →
      let got : Chan := { ch with shadow := desc, shDesc := ch.descPtr, fetching := false, armed := dOwn desc, prefetched := dOwn desc }
      (dOwn desc = false → (ch.st = .idle ∨ ch.st = .waitOwn) → ∃ t, exec (.descriptorFetch c x) s = .next t
        ∧ getChan t c.val = { got with st := .waitOwn } ∧ others t ∧ unchangedBut [.dma] u t)
      ∧ (dOwn desc = false → (ch.st = .active ∨ ch.st = .preempted) → ∃ t, exec (.descriptorFetch c x) s = .next t
        ∧ getChan t c.val = { got with ownZero := true } ∧ others t ∧ unchangedBut [.dma] u t)
      ∧ (dOwn desc = true → (ch.st = .active ∨ ch.st = .preempted) → ∃ t, exec (.descriptorFetch c x) s = .next t
        ∧ getChan t c.val = got ∧ others t ∧ unchangedBut [.dma] u t)
      ∧ (dOwn desc = true → ch.st = .idle → transferCheck u c.val desc = none → ∃ t, exec (.descriptorFetch c x) s = .next t
        ∧ (getChan t c.val).act = desc ∧ (getChan t c.val).actDesc = ch.descPtr ∧ (getChan t c.val).armed = false
        ∧ (getChan t c.val).prefetched = false ∧ (getChan t c.val).st = .preempted ∧ (getChan t c.val).seq = ch.seq + 1
        ∧ (getChan t c.val).fetching = (ch.descRun && !dLast desc)
        ∧ (getChan t c.val).descPtr = (if ch.descRun && !dLast desc then dNext desc else ch.descPtr)
        ∧ others t ∧ unchangedBut [.dma] u t))
    ∧ (ch.fetching = true → (getHdr s pgDma).enable = true → exec (.descriptorFetch c .never) s = .next s)
    ∧ (ch.fetching = true → (getHdr s pgDma).enable = true → chanCore s c.val = none → a % 64 = 0 → isRegs (place a) = false → x ≠ .never →
      (∀ b, missingAt s a (a + 63) = some b → ∃ t, exec (.descriptorFetch c x) s = .next t
        ∧ (getChan t c.val).st = .halted ∧ (getChan t c.val).result = eAddrRange ∧ (getChan t c.val).wb = ch.wb ∧ others t)
      ∧ (∀ b, missingAt s a (a + 63) = none → ownerBlocked s (chanOwner s c.val) false a (a + 63) = some b →
        ∃ t, exec (.descriptorFetch c x) s = .next t
          ∧ (getChan t c.val).st = .halted ∧ (getChan t c.val).result = ePermission ∧ (getChan t c.val).wb = ch.wb ∧ others t))
    ∧ (transferDone ch = true → (getHdr s pgDma).enable = true →
      (confirmed → ch.malformed = none → ch.descRun = false → ch.armed = false → ∃ t, exec (.transferEnd c) s = .next t
        ∧ getChan t c.val = { ch with
            result := 0, mover := none, st := if ch.ownZero then .waitOwn else .idle, ownZero := false, hold := [], flush := false, done := true }
        ∧ others t
        ∧ (getHdr t pgDma).irqStat = (if dIrq ch.act then (getHdr s pgDma).irqStat ||| 1 else (getHdr s pgDma).irqStat)
        ∧ t.mem = s.mem ∧ unchangedBut [.dma, .procs, .bus, .pcie, .sent] s t)
      ∧ (dBarrier ch.act = true → toHost → ch.flush = false → ¬ held → ready →
        let f := hostFn s (chanOwner s c.val)
        ∃ t, exec (.transferEnd c) s = .next t ∧ getChan t c.val = { ch with flush := true } ∧ others t
          ∧ t.sent = .hostRead (Fin.ofNat 16 f) (BitVec.ofNat 64 (hostAddr s f ch.lastDst.toNat)) 0 :: s.sent
          ∧ unchangedBut [.dma, .sent] s t)
      ∧ (dBarrier ch.act = true → toHost → ¬ held → ¬ ready → ch.descRun = false → ∃ t, exec (.transferEnd c) s = .next t
        ∧ getChan t c.val = { ch with st := .halted, result := ePoweredOff, mover := none, fetching := false, flush := false, hold := [] }
        ∧ others t ∧ unchangedBut [.dma, .procs, .bus, .pcie, .sent] s t))
    ∧ (∀ (w : WriteBack) (ws : List WriteBack), ch.wb = w :: ws → w.desc.toNat % 64 = 0 → place w.desc.toNat = .dram →
      w.issued = 0 → chanCore s c.val = none → ¬ held →
      (beatRefusal s c.val true w.desc.toNat = none → beatRefusal s c.val true (w.desc.toNat + 0x34) = none →
        beatRefusal s c.val true (w.desc.toNat + 0x38) = none → ∃ t, exec (.writebackComplete c) s = .next t
        ∧ memWord t w.desc.toNat = (w.ctrl &&& 0x7FFFFFFF) ∧ memWord t (w.desc.toNat + 0x34) = w.status
        ∧ memWord t (w.desc.toNat + 0x38) = w.stamp.setWidth 32 ∧ memWord t (w.desc.toNat + 0x3C) = (w.stamp >>> 32).setWidth 32
        ∧ (∀ x, (x < w.desc.toNat ∨ (w.desc.toNat + 4 ≤ x ∧ x < w.desc.toNat + 0x34) ∨ w.desc.toNat + 64 ≤ x) → memByte t x = memByte s x)
        ∧ getChan t c.val = (if w.halted then { ch with wb := ws } else { ch with wb := ws, done := true })
        ∧ others t ∧ unchangedBut [.dma, .mem, .bus, .pcie, .sent] s t)
      ∧ (∀ code, beatRefusal s c.val true (w.desc.toNat + 0x34) = some code → w.halted = false → ∃ t, exec (.writebackComplete c) s = .next t
        ∧ getChan t c.val = { ch with
            wb := ws, st := .halted, result := code, mover := none, fetching := false, flush := false, hold := [] }
        ∧ others t ∧ t.mem = s.mem ∧ unchangedBut [.dma, .bus, .pcie, .sent] s t))
    ∧ (∀ (code : Byte) (addr : Addr), (getHdr s pgDma).enable = true → (ch.st = .active ∨ ch.st = .preempted) → ch.descRun = false →
      code ∉ [eParity, eTimeout, 0x10] → ∃ t, exec (.transferHalt c code addr) s = .next t
        ∧ getChan t c.val = { ch with st := .halted, result := code, mover := none, fetching := false, flush := false, hold := [] }
        ∧ others t ∧ t.mem = s.mem
        ∧ (let h := (getHdr s pgDma).capture (0x30 + BitVec.ofNat 8 c.val) code addr
          getHdr t pgDma = { h with irqStat := h.irqStat ||| 2 }) ∧ unchangedBut [.dma, .procs, .bus, .pcie, .sent] s t))
  ∧ (∀ (s : State) (c : Fin 32) (m : Fin 4) (n e : Nat), injectorOff s → pageUp s pgDma = true → (getHdr s pgDma).enable = true →
    let ch := getChan s c.val
    let src := dSrc none ch.act
    let dst := dDst none ch.act
    let len := dLen ch.act
    (bestWaiter s ≠ some c.val → ¬ (ch.st = .active ∧ ch.mover = some m) → exec (.moverGrant c m n e) s = .next s)
    ∧ (bestWaiter s = some c.val → moverChan s m = none → chanCore s c.val = none → dMode ch.act = 0 → ch.pos = 0 → ch.hold = [] →
      dSrcW ch.act ≤ 6 → dDstW ch.act ≤ 6 → src % srcBeat ch.act = 0 → len % srcBeat ch.act = 0 → dst % 2 ^ dDstW ch.act = 0 →
      len % 2 ^ dDstW ch.act = 0 → 0 < len → len ≤ n * 2 ^ dDstW ch.act →
      (∀ i, i < len → place (src + i) = .dram ∧ place (dst + i) = .dram) → (src + len ≤ dst ∨ dst + len ≤ src) →
      dramReady s = true → src + len ≤ dramBase + usableDram s → dst + len ≤ dramBase + usableDram s →
      (∀ i, i < len → viewBad s none (src + i) = false) →
      ∃ t, exec (.moverGrant c m n e) s = .next t
        ∧ (∀ i, i < len → memByte t (dst + i) = memByte s (src + i))
        ∧ (∀ x, (x < dst ∨ dst + len ≤ x) → memByte t x = memByte s x)
        ∧ getChan t c.val = { ch with
            st := .active, mover := some m, turn := s.dma.turn, pos := len, rows := 1, hold := [], beatFrom := now s
            lastDst := BitVec.ofNat 40 (dst + len - 1) }
        ∧ (∀ d, d ≠ c.val → getChan t d = getChan s d)
        ∧ getPair t pgDma 0 0x048 = getPair s pgDma 0 0x048 + BitVec.ofNat 64 len
        ∧ getReg t pgDdr 0 0x04C = (if s.mem.eccOn = true then satInc (getReg s pgDdr 0 0x04C) e else getReg s pgDdr 0 0x04C)
        ∧ unchangedBut [.dma, .mem, .bus, .pcie, .sent] s t))

/-- R294 to R296: the ports. A frame that arrives good, of 64 to 9,216 bytes, on an enabled port counts; one that is no RTP packet of
the receiver's ports takes the next slot of the control ring, its tag stripped, with its length, VID and time, or is dropped and
counted where the ring is full; a bad or misshapen frame, and one with two tags, is dropped and counted. A transmit descriptor's frame
leaves, with the time where it asks for one, is marked done and raises its interrupts; one that no memory answers sends nothing and is
a TIMEOUT in the port's page. A link that changes raises LINK. R297 to R305, R329 and R330: stream entries. A packet that an entry
expects, alone in its window and no frame's last, is released at once: EXP moves past it and its ES bytes join the frame in assembly;
one behind EXP, or held already, is counted late; a packet of no entry is quarantined, and a new key is shown and raises NEW_STREAM.
QCMD discards the key shown or shows the next; OUT_RELEASE takes back the buffers that no encode session holds; an entry that becomes
valid starts afresh. A gap open for REORDER_US is lost, and a frame older than FRAME_MS closes. The model's choices in it: log entries
65, 66, 67, 136, 145, 146, 147 and 176. -/
def Obligations.streams : Prop :=
  (∀ (s : State) (p : Fin 2), (cap0 s.fuses.variant).getLsbD (13 + p.val) = true → (getHdr s pgEth).enable = true →
    let reg (o : Nat) : Word := getReg s pgEth p.val o
    (∀ f : RxFrame, injectorOff s → (reg 0x400).getLsbD 2 = true →
      (f.fcsOk = false ∨ f.bytes.length < 60 ∨ 9212 < f.bytes.length ∨ untag f.bytes = none → ∃ t, exec (.ethFrameRx p f) s = .next t
        ∧ getReg t pgEth p.val 0x434 = reg 0x434 + 1 ∧ t.mem = s.mem ∧ t.media = s.media ∧ unchangedBut [.bus] s t)
      ∧ (∀ (vid : Nat) (bytes : List Byte), f.fcsOk = true → 60 ≤ f.bytes.length → f.bytes.length ≤ 9212 → untag f.bytes = some (vid, bytes) →
        bytes.length ≤ 2032 → udpOf bytes = none → 0 < (reg 0x410).toNat →
        let slot := (getAddr s pgEth p.val 0x408).toNat + 2048 * (reg 0x414).toNat
        (((reg 0x414).toNat + 1) % (reg 0x410).toNat ≠ (reg 0x418).toNat % (reg 0x410).toNat → place slot = .dram → dramReady s = true →
          slot + 2048 ≤ dramBase + usableDram s → ∃ t, exec (.ethFrameRx p f) s = .next t
            ∧ (∀ i, i < bytes.length → memByte t (slot + 16 + i) = bytes.getD i 0)
            ∧ memWord t slot = BitVec.ofNat 32 (bytes.length + vid * 65536) ∧ memWord t (slot + 8) = s.time.now.setWidth 32
            ∧ (∀ x, (x < slot ∨ slot + 16 + bytes.length ≤ x) → memByte t x = memByte s x)
            ∧ getReg t pgEth p.val 0x414 = BitVec.ofNat 32 (((reg 0x414).toNat + 1) % (reg 0x410).toNat)
            ∧ getReg t pgEth p.val 0x430 = reg 0x430 + 1 ∧ (getHdr t pgEth).irqStat = (getHdr s pgEth).irqStat ||| 2
            ∧ unchangedBut [.bus, .mem, .pcie, .sent] s t)
        ∧ (((reg 0x414).toNat + 1) % (reg 0x410).toNat = (reg 0x418).toNat % (reg 0x410).toNat → ∃ t, exec (.ethFrameRx p f) s = .next t
            ∧ getReg t pgEth p.val 0x430 = reg 0x430 + 1 ∧ getReg t pgEth p.val 0x434 = reg 0x434 + 1 ∧ t.mem = s.mem
            ∧ unchangedBut [.bus] s t)))
    ∧ (let d := (getAddr s pgEth p.val 0x41C).toNat + 16 * (reg 0x42C).toNat
      let w1 := memWord s (d + 4)
      let frame := (addrOf w1 (memWord s d)).toNat
      let n := w1.toNat / 256 % 65536
      let code := Requester.code .strx
      s.media.link.getLsbD p.val = true → (reg 0x400).getLsbD 1 = true → 0 < (reg 0x424).toNat → reg 0x42C ≠ reg 0x428 →
      storeGet (fun _ => []) s.ctlio.tplQueue p.val = [] → injectorOff s → devRefusal s false d 8 = none →
      (∀ x, x ≠ .never → place d = .dram → d % 16 = 0 → dramFails s d x = false → firstDamaged s d 8 = none → let u := dramCorrects d x s
        devRefusal u false frame n = none → dramFails u frame x = false → firstDamaged s frame n = none → let v := dramCorrects frame x u
        devRefusal v true (d + 4) 4 = none → devRefusal v true (d + 8) 8 = none → ∃ t, exec (.ethTx p x) s = .next t
        ∧ (∃ rest, t.sent = rest ++ Sent.ethFrame p (memBytes s frame n) :: v.sent)
        ∧ memWord t (d + 4) = (w1 ||| 0x80000000) ∧ (∀ x, (x < d + 4 ∨ d + 16 ≤ x) → memByte t x = memByte s x)
        ∧ (w1.getLsbD 30 = true → memWord t (d + 8) = s.time.now.setWidth 32 ∧ memWord t (d + 12) = (s.time.now >>> 32).setWidth 32)
        ∧ (w1.getLsbD 30 = false → ∀ x, d + 8 ≤ x → memByte t x = memByte s x)
        ∧ getReg t pgEth p.val 0x42C = BitVec.ofNat 32 (((reg 0x42C).toNat + 1) % (reg 0x424).toNat)
        ∧ (getHdr t pgEth).irqStat = (getHdr s pgEth).irqStat ||| (if w1.getLsbD 30 then 12 else 4)
        ∧ unchangedBut [.bus, .mem, .pcie, .sent] s t)
      ∧ (∃ t, exec (.ethTx p .never) s = .next t ∧ getReg t pgEth p.val 0x42C = reg 0x42C ∧ t.mem = s.mem
        ∧ (∀ q bs, Sent.ethFrame q bs ∈ t.sent → Sent.ethFrame q bs ∈ s.sent)
        ∧ getHdr t pgEth = (getHdr s pgEth).capture code eTimeout (BitVec.ofNat 40 d) ∧ unchangedBut [.bus, .pcie, .sent] s t))
    ∧ (∀ up, s.media.link.getLsbD p.val ≠ up → ∃ t, exec (.ethLinkChange p up) s = .next t
      ∧ t.media.link.getLsbD p.val = up ∧ (∀ q : Fin 2, q ≠ p → t.media.link.getLsbD q.val = s.media.link.getLsbD q.val)
      ∧ (getHdr t pgEth).irqStat = (getHdr s pgEth).irqStat ||| 1 ∧ unchangedBut [.bus, .media, .pcie, .sent] s t))
  ∧ ((∀ (s : State) (e : Fin 512) (p : RtpPacket) (x : BitVec 16), (getEnt s e.val).exp = some x → (getEnt s e.val).window = [] →
    (p.seq = x → p.marker = false → (getEnt s e.val).asm = [] → (getEnt s e.val).missing = 0 → p.stamp ∉ (getEnt s e.val).late →
      ∀ bs, esOf s.free (fld (entReg s e.val 0) 5 3) p.payload = some bs →
      ∃ t, entPacket e p s = t ∧ (getEnt t e.val).exp = some (x + 1) ∧ (getEnt t e.val).window = [] ∧ gapSince (getEnt t e.val) = none
        ∧ (getEnt t e.val).asm = [{ stamp := p.stamp, firstAt := p.rxTime, lastAt := p.rxTime, bytes := bs, lost := 0
                                    key := keyOf (fld (entReg s e.val 0) 5 3) p.payload, gap := false }]
        ∧ entReg t e.val 0x60 = entReg s e.val 0x60 + 1 ∧ (∀ d, d ≠ e.val → getEnt t d = getEnt s d)
        ∧ unchangedBut [.media, .bus, .free] s t)
    ∧ (2 ^ 15 ≤ (p.seq - x).toNat → ∃ t, entPacket e p s = t ∧ (getEnt t e.val).exp = some x ∧ (getEnt t e.val).window = []
        ∧ entReg t e.val 0x68 = entReg s e.val 0x68 + 1 ∧ entReg t e.val 0x60 = entReg s e.val 0x60 + 1 ∧ unchangedBut [.media, .bus] s t))
  ∧ (∀ (s : State) (p : RtpPacket), (∀ e, e < 512 → entMatches s e p = false) → keyOfPacket p ∉ s.media.ageing → freeEntries s ≠ 0 →
    s.media.quarantine = [] →
    ∃ t, rtpPacket p s = t ∧ t.media.quarantine = [p] ∧ t.media.newKeys = s.media.newKeys ++ [p] ∧ t.media.keyValid = true
      ∧ getReg t pgStrx 0 0x05C = p.ssrc ∧ (getHdr t pgStrx).irqStat = (getHdr s pgStrx).irqStat ||| 1
      ∧ unchangedBut [.media, .bus, .pcie, .sent] s t)
  ∧ (∀ (s : State) (r : Requester), Taken s r pgStrx 0x060 →
    (∃ t, exec (.qcmdDiscard r) s = .next t ∧ t.media = { s.media with
        quarantine := s.media.quarantine.filter fun p => !inLoadedKey s p, newKeys := s.media.newKeys.filter fun p => !inLoadedKey s p }
      ∧ unchangedBut [.media] s t)
    ∧ ((∀ p ∈ s.media.newKeys, inLoadedKey s p = true) → ∃ t, exec (.qcmdNext r) s = .next t
      ∧ t.media = { s.media with keyValid := false, newKeys := [] } ∧ unchangedBut [.media] s t)
    ∧ (∀ p ps, s.media.newKeys.filter (fun p => !inLoadedKey s p) = p :: ps → ∃ t, exec (.qcmdNext r) s = .next t
      ∧ t.media = { s.media with keyValid := true, newKeys := p :: ps } ∧ getReg t pgStrx 0 0x05C = p.ssrc
      ∧ (getReg t pgStrx 0 0x058).setWidth 16 = p.dport ∧ unchangedBut [.media, .bus] s t))
  ∧ (∀ (s : State) (r : Requester) (k : Fin 8) (c : Nat) (v : Word), selChan s r pgStrx = some c → c < 64 → let e := 8 * c + k.val
    (Taken s r pgStrx (0x450 + 0x80 * k.val) → ∃ t, exec (.outRelease r k v) s = .next t
      ∧ entReg t e 0x4C = (entReg s e 0x4C ||| (v &&& 0xFFFF &&& ~~~(heldBufs s e))) ∧ unchangedBut [.bus, .media] s t)
    ∧ (Taken s r pgStrx (0x400 + 0x80 * k.val) → (entReg s e 0).getLsbD 0 = false → v.getLsbD 0 = true → v.getLsbD 1 = false →
      s.media.quarantine = [] → ∃ t, exec (.streamEntryWrite r k v) s = .next t
        ∧ entReg t e 0 = (v &&& 0x03F0003F) ∧ entReg t e 0x38 = 0
        ∧ getEnt t e = { closed := (getEnt s e).closed, first := (getEnt s e).closed } ∧ (∀ d, d ≠ e → getEnt t d = getEnt s d)
        ∧ unchangedBut [.bus, .media] s t)
    ∧ (Taken s r pgStrx (0x400 + 0x80 * k.val) → (entReg s e 0).getLsbD 0 = true → v &&& 0x03F0003F = (entReg s e 0 &&& 0x03F0003E) →
      ∃ t, exec (.streamEntryWrite r k v) s = .next t ∧ (entReg t e 0).getLsbD 0 = false
        ∧ (getEnt t e).asm = [] ∧ (getEnt t e).window = [] ∧ unchangedBut [.bus, .media, .pcie, .sent] s t))
  ∧ (∀ (s : State) (e : Fin 512) (x : BitVec 16) (p : RtpPacket), (getEnt s e.val).exp = some x → (getEnt s e.val).window = [p] →
    0 < (p.seq - x).toNat → (p.seq - x).toNat < 64 → p.marker = false → (getEnt s e.val).asm = [] → (getEnt s e.val).missing = 0 →
    p.stamp ∉ (getEnt s e.val).late → (now s < p.entAt + fld (entReg s e.val 0x3C) 15 0 * 1000 → exec (.reorderTimeout e) s = .next s)
    ∧ (domOn s 16 = true → p.entAt + fld (entReg s e.val 0x3C) 15 0 * 1000 ≤ now s → ∀ bs, esOf s.free (fld (entReg s e.val 0) 5 3) p.payload = some bs →
    ∃ t, exec (.reorderTimeout e) s = .next t ∧ (getEnt t e.val).exp = some (p.seq + 1) ∧ (getEnt t e.val).window = []
      ∧ entReg t e.val 0x64 = entReg s e.val 0x64 + BitVec.ofNat 32 (p.seq - x).toNat
      ∧ (∃ a, (getEnt t e.val).asm = [a] ∧ a.bytes = bs ∧ a.lost = (p.seq - x).toNat ∧ a.gap = true)
      ∧ unchangedBut [.media, .bus, .pcie, .sent, .free] s t))
  ∧ (∀ (s : State) (e : Fin 512) (a : FrameAsm), (getEnt s e.val).asm = [a] → (getEnt s e.val).window = [] →
    (now s < a.firstAt + fld (entReg s e.val 0x3C) 31 16 * 1000000 → exec (.frameTimeout e) s = .next s)
    ∧ (domOn s 16 = true → a.firstAt + fld (entReg s e.val 0x3C) 31 16 * 1000000 ≤ now s → exec (.frameTimeout e) s
      = .next (frameClose e a.stamp false (modEnt e.val (fun t => { t with late := t.late ++ [a.stamp] }) s)))))

/-- R306 to R311, R331 and R332: the codec. The decoder takes the waiting frame that the order of R307 puts first, and a frame of a
linked entry ahead of one that no class links, which waits to be taken up again. A good picture goes row by row to the lowest free
buffer, and its DEC word, counters and DEC_DONE follow; while no buffer is free the decoder holds it. A damaged frame without
concealment is dropped, and output waits for a key frame; at the deadline with no buffer the frame is dropped, and then decoded for
reference only; a frame that is dropped ends its jobs LATE with INPUT_LATE. A REF area too small stops the entry. A host-fed unit's
record takes its result and DONE. The encoder serves sessions in turn; the frame goes to the output ring with its header, or is
skipped with the next one forced to a key frame, and its source is done with: the record's DONE is set, or the buffer is released when
no other session holds it. R312 to R316, R333 and R334: sensors. A packet of the input's channel and data type adds its line, and the
first one raises frame start; one with a bad CRC repeats the last line of its kind and counts; one of another channel, or of a type
that is not the input's or not one of the five, counts; a corrected header counts and its line is taken; a bad header is dropped. A
frame of the input's size goes to the front end, another is discarded and counted. An output writes the frame to its lowest free
buffer with its sequence number, or drops and counts it; a released buffer is free again. The model's choices in it: log entries 68,
69, 70, 136, 139, 148, 149 and 174. -/
def Obligations.codecAndSensors : Prop :=
  ((∀ (l : List (Bool × Nat × Nat × DecodeItem)) (x : Bool × Nat × Nat × DecodeItem), decodeFirst l = some x →
    x ∈ l ∧ ∀ y ∈ l, decodeBefore x y = true ∨ y = x)
  ∧ (∀ (s : State), injectorOff s → (∀ n a, n < 32 → sesDecodes s n = true → sesRecord s n = some a →
      storeGet (fun _ => none) s.media.unitAt n = none → devRefusal s false a 32 = none ∧ firstDamaged s a 32 = none) →
    unitsReady .good s = (((List.range 32).filterMap fun n => (if sesDecodes s n then sesRecord s n else none).map fun a =>
      (n, (storeGet (fun _ => none) s.media.unitAt n).getD
        (if ofBytes (memBytes s (a + 16) 8) = 0 then now s else ofBytes (memBytes s (a + 16) 8), memWord s (a + 12)))), s))
  ∧ (∀ (s : State) (ans : Answered), (getHdr s pgCodec).enable = true → domOn s 17 = true →
    (s.media.decoding = none → ∀ us u, unitsReady ans s = (us, u) →
      (∀ x, decodeFirst (decodeQueue u us) = some x → ∃ t, exec (.decodeStart ans) s = .next t ∧ unchangedBut [.media] u t
        ∧ (∀ e k, x.2.2.2 = .stream e k → t.media = { u.media with decoding := some (.stream e k) })
        ∧ (∀ n w, x.2.2.2 = .session n → us.find? (·.1 == n.val) = some (n.val, w) → t.media = { u.media with
            decoding := some (.session n), unitAt := storeSet (fun _ => none) u.media.unitAt n.val (some w) }))
      ∧ (decodeFirst (decodeQueue u us) = none → exec (.decodeStart ans) s = .next u))
    ∧ (∀ old, s.media.decoding = some old →
      (∀ x e k, decodeFirst (decodeQueue s []) = some x → x.1 = true → x.2.2.2 = .stream e k → givesWay s old = true →
        ∃ t, exec (.decodeStart ans) s = .next t ∧ t.media = { s.media with decoding := some (.stream e k) } ∧ unchangedBut [.media] s t)
      ∧ ((∀ x, decodeFirst (decodeQueue s []) = some x → x.1 = false) ∨ givesWay s old = false → exec (.decodeStart ans) s = .next s)))
  ∧ (∀ (s : State), (PacerAtRest s → pacerSettle s = s)
    ∧ ((s.pacer.jobs.map (·.id)).Nodup →
      (∃ t, framesReady s = t ∧ unchangedBut [.pacer] s t ∧ t.pacer = { s.pacer with jobs := s.pacer.jobs.map fun j =>
        if j.open_ && j.frame.isSome && j.ready.isNone && (j.inputs.all (inputPresent s j)) then { j with ready := some (now s) } else j })
      ∧ (∀ (e : Fin 512) (k : Nat) (j : Job), getJob s j.id = some j → ∃ j', getJob (dropFrameJobs e k s) j.id = some j'
        ∧ (j.open_ = true → j.frame = some (e, some k) → j'.ended = some { status := .late, cause := 1, detail := 0, time := now s })
        ∧ (j.open_ = false ∨ j.frame ≠ some (e, some k) → j' = j))))
  ∧ (∀ (s : State) (e : Fin 512) (k : Nat) (f : ClosedFrame) (res : DecodeResult), s.media.decoding = some (.stream e k) → domOn s 17 = true →
    injectorOff s → (getEnt s e.val).frames.find? (·.number == k) = some f →
    let ent := getEnt s e.val
    let listed := decodes (fld (entReg s e.val 0) 5 3) res
    let bad := res.damaged || !f.complete || !listed
    let conceal := (entReg s e.val 0).getLsbD 24 && listed
    let fits : Prop := ent.frames.any (·.decoded) = true ∨ res.refBytes ≤ (entReg s e.val 0x5C).toNat
    let settle (u : State) : State := pacerSettle (framesReady u)
    let rec_ (w : Nat) (u : State) : State := devPut pgCodec .codec (recordAddr s e.val k + 0x18) (bytesOf 4 w) u
    let free := freeBuf (entReg s e.val 0x4C) (fld (entReg s e.val 0x48) 3 0)
    let counted (u : State) : Prop := u.media.decoding = none ∧ getReg u pgCodec 0 0x044 = getReg s pgCodec 0 0x044 + 1
      ∧ (getHdr u pgCodec).irqStat.getLsbD 0 = true ∧ (∀ g ∈ (getEnt u e.val).frames, g.number = k → g.decoded = true)
    (fits → f.dropped = false → conceal = true ∨ (bad = false ∧ (ent.waitKey = false ∨ f.key = true)) →
      (∀ b, free = some b → let stride := fld (entReg s e.val 0x48) 31 16
        ∃ u, exec (.decodeDone res) s = .next (settle u) ∧ counted u ∧ (getEnt u e.val).waitKey = (!f.key && ent.waitKey)
          ∧ entReg u e.val 0x4C = (entReg s e.val 0x4C &&& ~~~(oneBit 32 b)) ∧ b ≤ fld (entReg s e.val 0x48) 3 0
          ∧ (entReg s e.val 0x4C).getLsbD b = true ∧ (∀ i, i < b → (entReg s e.val 0x4C).getLsbD i = false)
          ∧ u.mem = (rec_ (1 + 2 * bad.toNat + 256 * b) (picturePut (entAddr s e.val 0x40 + b * bufBytes stride res) stride
              ((entReg s e.val 0x48).getLsbD 4) res s)).mem
          ∧ entReg u e.val 0x70 = (if bad then entReg s e.val 0x70 + 1 else entReg s e.val 0x70)
          ∧ unchangedBut [.media, .bus, .mem, .pcie, .sent] s u)
      ∧ (free = none → exec (.decodeDone res) s = .next (settle s)))
    ∧ (fits → f.dropped = false → conceal = false → (bad = true ∨ (ent.waitKey = true ∧ f.key = false)) →
      ∃ u, exec (.decodeDone res) s = .next (settle u) ∧ counted u ∧ (getEnt u e.val).waitKey = true
        ∧ entReg u e.val 0x4C = entReg s e.val 0x4C ∧ u.mem = (rec_ (5 + 2 * bad.toNat) (rec_ 4 s)).mem
        ∧ u.pacer = (dropFrameJobs e f.number s).pacer ∧ unchangedBut [.pacer, .media, .bus, .mem, .pcie, .sent] s u)
    ∧ (fits → f.dropped = true → ∃ u, exec (.decodeDone res) s = .next (settle u) ∧ counted u ∧ entReg u e.val 0x4C = entReg s e.val 0x4C
        ∧ u.mem = (rec_ (5 + 2 * bad.toNat) s).mem ∧ unchangedBut [.media, .bus, .mem, .pcie, .sent] s u)
    ∧ (¬ fits → ∃ u, exec (.decodeDone res) s = .next (settle u) ∧ u.media.decoding = none ∧ (getEnt u e.val).stopped = true
        ∧ getHdr u pgStrx = (getHdr s pgStrx).capture (Requester.code .codec) eFormat (regAddr pgStrx (0x400 + 0x80 * (e.val % 8) + 0x5C))
        ∧ unchangedBut [.media, .bus, .pcie, .sent] s u)
    ∧ (f.dropped = false → f.arrive + (linkedDecNs s e.val).getD (decDefNs s) ≤ now s → free = none →
      ∃ u, exec .outputBufferTimeout s = .next (pacerSettle u) ∧ u.media.decoding = s.media.decoding
        ∧ entReg u e.val 0x74 = entReg s e.val 0x74 + 1 ∧ (∀ g ∈ (getEnt u e.val).frames, g.number = k → g.dropped = true)
        ∧ u.mem = (rec_ 4 s).mem ∧ u.pacer = (dropFrameJobs e f.number s).pacer
        ∧ unchangedBut [.pacer, .media, .bus, .mem, .pcie, .sent] s u)
    ∧ ((f.dropped = true ∨ now s < f.arrive + (linkedDecNs s e.val).getD (decDefNs s) ∨ free ≠ none) →
      exec .outputBufferTimeout s = .next (pacerSettle s)))
  ∧ (∀ (s : State) (n : Fin 32) (a : Nat) (w : Nat × Word) (res : DecodeResult), s.media.decoding = some (.session n) → domOn s 17 = true →
    injectorOff s → sesRecord s n.val = some a → storeGet (fun _ => none) s.media.unitAt n.val = some w →
    let settle (u : State) : State := pacerSettle (framesReady u)
    let skip := (w.2.getLsbD 0 || s.media.sesWaitKey.getLsbD n.val) && !res.key
    let listed := decodes (fld (sesReg s n.val 0x400) 4 2) res
    let stride := fld (sesReg s n.val 0x438) 31 16
    let free := freeBuf (sesReg s n.val 0x43C) (fld (sesReg s n.val 0x438) 3 0)
    let ends (result : Nat) (before u : State) : Prop := exec (.decodeDone res) s = .next (settle u) ∧ u.media.decoding = none
      ∧ u.mem = (devPut pgCodec .codec (a + 0x0C) (bytesOf 4 (w.2 ||| 0x80000000).toNat)
          (devPut pgCodec .codec (a + 0x18) (bytesOf 4 result) before)).mem
      ∧ fld (sesReg u n.val 0x414) 12 8 = (fld (sesReg s n.val 0x414) 12 8 + 1) % 32
      ∧ storeGet (fun _ => none) u.media.unitAt n.val = none ∧ u.media.unitDrop.getLsbD n.val = false
      ∧ getReg u pgCodec 0 0x044 = getReg s pgCodec 0 0x044 + 1 ∧ unchangedBut [.media, .bus, .mem, .pcie, .sent] s u
    (skip = true → ∃ u, ends 0x400 s u ∧ u.media.sesWaitKey = s.media.sesWaitKey ||| oneBit 32 n.val)
    ∧ (skip = false → (oversize s n.val res = true ∨ listed = false) → ∃ u, ends 0x400 s u ∧ u.media.sesWaitKey = s.media.sesWaitKey)
    ∧ (skip = false → oversize s n.val res = false → listed = true → s.media.unitDrop.getLsbD n.val = true →
      ∃ u, ends (0x200 + 256 * res.damaged.toNat) s u ∧ u.media.sesWaitKey.getLsbD n.val = false
        ∧ sesReg u n.val 0x43C = sesReg s n.val 0x43C)
    ∧ (skip = false → oversize s n.val res = false → listed = true → s.media.unitDrop.getLsbD n.val = false →
      (∀ b, free = some b →
        ∃ u, ends (b + 256 * res.damaged.toNat) (picturePut (sesAddr s n.val 0x418 + b * bufBytes stride res) stride
            ((sesReg s n.val 0x438).getLsbD 4) res s) u
          ∧ sesReg u n.val 0x43C = (sesReg s n.val 0x43C &&& ~~~(oneBit 32 b)) ∧ (getHdr u pgCodec).irqStat.getLsbD 0 = true)
      ∧ (free = none → exec (.decodeDone res) s = .next (settle s)))
    ∧ (w.1 + decDefNs s ≤ now s → free = none → ∃ u, exec .outputBufferTimeout s = .next (pacerSettle u)
      ∧ u.media = { s.media with unitDrop := s.media.unitDrop ||| oneBit 32 n.val } ∧ unchangedBut [.media] s u))
  ∧ (∀ (s : State) (ans : Answered), s.media.encoding = none → (getHdr s pgCodec).enable = true → domOn s 17 = true →
    let turns := (List.range 16).map fun j => (s.media.lastEncoded + 1 + j) % 16
    (∀ i u, encodeNext ans turns s = (some i, u) → ∃ t, exec (.encodeStart ans) s = .next t
      ∧ t.media = { u.media with encoding := some i, lastEncoded := i.session.val } ∧ unchangedBut [.media] u t)
    ∧ (∀ u, encodeNext ans turns s = (none, u) → exec (.encodeStart ans) s = .next u))
  ∧ (∀ (s : State) (n : Fin 16), let c := sesReg s n.val 0x400
    let serves : Prop := c.getLsbD 0 = true ∧ c.getLsbD 1 = true ∧ (features s.fuses.variant pgCodec).getLsbD 1 = true
      ∧ encodes (fld c 4 2) = true ∧ sesSizeFits s n.val = true
    (¬ serves → ∀ ans, encodeInput ans n.val s = (none, s))
    ∧ (serves → c.getLsbD 24 = true → ∀ ans, let e := fld (sesReg s n.val 0x408) 28 20
      encodeInput ans n.val s = ((frameToEncode s e n.val).map fun f =>
        { session := n, fromStream := some (Fin.ofNat 512 e, f.number), record := none }, s))
    ∧ (serves → c.getLsbD 24 = false → injectorOff s → ∀ a, sesRecord s n.val = some a → devRefusal s false a 32 = none →
      firstDamaged s a 32 = none →
      encodeInput .good n.val s = (some { session := n, fromStream := none, record := some (a, memBytes s a 32) }, s)))
  ∧ (∀ (s : State) (i : EncodeItem) (key : Bool) (bits : List Byte), s.media.encoding = some i → domOn s 17 = true → injectorOff s →
    let n := i.session.val
    let len := (sesReg s n 0x420).toNat
    let wr := (sesReg s n 0x424).toNat
    let size := 16 + cdiv bits.length 16 * 16
    let room : Prop := 0 < len ∧ (wr + len - (sesReg s n 0x428).toNat % len) % len + size < len
    let ring (force : Bool) (tag stamp : Nat) : State := ringPut pgCodec .codec (sesAddr s n 0x418) len wr
      (bytesOf 4 bits.length ++ bytesOf 4 (key || force || s.media.forceKey.getLsbD n).toNat ++ bytesOf 4 tag ++ bytesOf 4 stamp ++ bits
        ++ List.replicate (size - 16 - bits.length) 0) s
    let skipped (t : State) : Prop := exec (.encodeDone key bits) s = .next t ∧ t.media.encoding = none
      ∧ t.media.forceKey = s.media.forceKey ||| oneBit 16 n ∧ getReg t pgCodec 0 0x04C = getReg s pgCodec 0 0x04C + 1
      ∧ (getHdr t pgCodec).irqStat.getLsbD 3 = true ∧ unchangedBut [.media, .bus, .mem, .pcie, .sent] s t
    let stored (t : State) : Prop := exec (.encodeDone key bits) s = .next t ∧ t.media.encoding = none
      ∧ t.media.forceKey = s.media.forceKey &&& ~~~(oneBit 16 n) ∧ sesReg t n 0x424 = BitVec.ofNat 32 ((wr + size) % len)
      ∧ getReg t pgCodec 0 0x048 = getReg s pgCodec 0 0x048 + 1
      ∧ (getHdr t pgCodec).irqStat.getLsbD 1 = true ∧ unchangedBut [.media, .bus, .mem, .pcie, .sent] s t
    (∀ a bs, i.fromStream = none → i.record = some (a, bs) →
      let done (u : State) : State := devPut pgCodec .codec (a + 0x0C) (bytesOf 4 (wordAt bs 12 ||| 0x80000000).toNat) u
      let taken (t : State) : Prop := fld (sesReg t n 0x414) 12 8 = (fld (sesReg s n 0x414) 12 8 + 1) % 32
      (room → ∃ t, stored t ∧ taken t ∧ t.mem = (done (ring (wordAt bs 12 |>.getLsbD 0) (wordAt bs 28).toNat (wordAt bs 16).toNat)).mem)
      ∧ (¬ room → ∃ t, skipped t ∧ taken t ∧ t.mem = (done s).mem))
    ∧ (∀ e k f, i.fromStream = some (e, k) → (getEnt s e.val).frames.find? (·.number == k) = some f → f.holders.getLsbD n = true →
      let released (t : State) : Prop := (getEnt t e.val).frames = ((getEnt s e.val).frames.map fun x =>
          if x.number = k then { x with holders := x.holders &&& ~~~(oneBit 16 n) } else x)
        ∧ entReg t e.val 0x4C = (if (heldBufs t e.val).getLsbD f.buf.toNat then entReg s e.val 0x4C
          else entReg s e.val 0x4C ||| oneBit 32 f.buf.toNat)
      (room → ∃ t, stored t ∧ released t ∧ t.mem = (ring false 0 f.arrive).mem)
      ∧ (¬ room → ∃ t, skipped t ∧ released t ∧ t.mem = s.mem)))
  ∧ (∀ (s : State) (r : Requester) (n : Nat) (v : Word), selChan s r pgCodec = some n → n < 32 → Taken s r pgCodec 0x440 →
    ∃ t, exec (.doutRelease r v) s = .next t ∧ sesReg t n 0x43C = (sesReg s n 0x43C ||| (v &&& 0xFFFF)) ∧ unchangedBut [.bus] s t))
  ∧ (∀ (s : State) (i : Fin 4), let x := getCsi s i.val
    let ctrl := getReg s pgCsi i.val 0x400
    let size := getReg s pgCsi i.val 0x404
    (csiOn s i.val = true → ∀ p : CsiPacket, p.eccFixed = false →
      (p.eccBad = true → exec (.csiPacket i p) s = .next s)
      ∧ (p.eccBad = false → (p.vc.toNat ≠ fld ctrl 7 4 ∨ p.dt.toNat ≠ fld ctrl 13 8 ∨ p.dt ∉ [0x2A, 0x2B, 0x2C, 0x2D, 0x1E]) → ∃ t, exec (.csiPacket i p) s = .next t
        ∧ fld (getReg t pgCsi i.val 0x40C) 31 24 = min 255 (fld (getReg s pgCsi i.val 0x40C) 31 24 + 1)
        ∧ (getHdr t pgCsi).irqStat = (getHdr s pgCsi).irqStat ||| 4 ∧ t.media = s.media ∧ unchangedBut [.bus, .pcie, .sent] s t)
      ∧ (p.eccBad = false → p.vc.toNat = fld ctrl 7 4 → p.dt.toNat = fld ctrl 13 8 → p.dt ∈ [0x2A, 0x2B, 0x2C, 0x2D, 0x1E] → p.crcBad = false → ∃ t, exec (.csiPacket i p) s = .next t
        ∧ getCsi t i.val = { x with lines := x.lines ++ [p.line] } ∧ (∀ j, j ≠ i.val → getCsi t j = getCsi s j)
        ∧ (getHdr t pgCsi).irqStat = (if x.lines = [] then (getHdr s pgCsi).irqStat ||| 1 else (getHdr s pgCsi).irqStat)
        ∧ unchangedBut [.media, .bus, .pcie, .sent] s t)
      ∧ (p.eccBad = false → p.vc.toNat = fld ctrl 7 4 → p.dt.toNat = fld ctrl 13 8 → p.dt ∈ [0x2A, 0x2B, 0x2C, 0x2D, 0x1E] → p.crcBad = true →
        let back := if p.dt = 0x1E then 1 else 2
        ∃ t, exec (.csiPacket i p) s = .next t
          ∧ getCsi t i.val = { x with
              lines := x.lines ++ [if back ≤ x.lines.length then x.lines.getD (x.lines.length - back) [] else p.line], damaged := true }
          ∧ fld (getReg t pgCsi i.val 0x40C) 15 8 = min 255 (fld (getReg s pgCsi i.val 0x40C) 15 8 + 1)
          ∧ unchangedBut [.media, .bus, .pcie, .sent] s t))
    ∧ (csiOn s i.val = true → ∀ p : CsiPacket, p.eccFixed = true →
      let fixed (t : State) : Prop := exec (.csiPacket i p) s = .next t
        ∧ fld (getReg t pgCsi i.val 0x40C) 7 0 = min 255 (fld (getReg s pgCsi i.val 0x40C) 7 0 + 1)
      (p.eccBad = true → ∃ t, fixed t ∧ (getHdr t pgCsi).irqStat = (getHdr s pgCsi).irqStat ||| 4 ∧ t.media = s.media
        ∧ unchangedBut [.bus, .pcie, .sent] s t)
      ∧ (p.eccBad = false → p.vc.toNat = fld ctrl 7 4 → p.dt.toNat = fld ctrl 13 8 → p.dt ∈ [0x2A, 0x2B, 0x2C, 0x2D, 0x1E] → p.crcBad = false →
        ∃ t, fixed t ∧ getCsi t i.val = { x with lines := x.lines ++ [p.line] }
          ∧ (getHdr t pgCsi).irqStat = (getHdr s pgCsi).irqStat ||| (if x.lines = [] then 5 else 4)
          ∧ unchangedBut [.media, .bus, .pcie, .sent] s t))
    ∧ (csiOn s i.val = true → let good := x.lines.length = fld size 28 16
          ∧ ∀ l ∈ x.lines, l.length = fld size 12 0 * (if fld ctrl 13 8 = 0x1E then 2 else 1)
      (good → ∃ t, exec (.csiFrameEnd i) s = .next t
        ∧ getCsi t i.val = { x with lines := [], damaged := false, ready := some (x.lines, x.damaged), taken := 0 }
        ∧ (getHdr t pgCsi).irqStat = (getHdr s pgCsi).irqStat ||| 2 ∧ unchangedBut [.media, .bus, .pcie, .sent] s t)
      ∧ (¬ good → ∃ t, exec (.csiFrameEnd i) s = .next t ∧ getCsi t i.val = { x with lines := [], damaged := false }
        ∧ fld (getReg t pgCsi i.val 0x40C) 23 16 = min 255 (fld (getReg s pgCsi i.val 0x40C) 23 16 + 1)
        ∧ unchangedBut [.media, .bus, .pcie, .sent] s t))
    ∧ (∀ (o : Fin 4) (lines : List (List (BitVec 14))) (damaged : Bool), let reg (k : Nat) : Word := getReg s pgPfe i.val (0x480 + 0x40 * o.val + k)
      x.ready = some (lines, damaged) → pagePresent s pgPfe = true → domOn s 18 = true → (getHdr s pgPfe).enable = true →
      (getReg s pgPfe i.val 0x400).getLsbD 0 = true → (reg 0).getLsbD 0 = true → x.taken.getLsbD o.val = false → csiEntries s i.val o.val = [] →
      (frameWritten.freeBuf (reg 0x20) (fld (reg 0) 7 4) = none → ∃ t, exec (.pfeFrameWritten i o) s = .next t ∧ t.mem = s.mem
        ∧ (getCsi t i.val).taken.getLsbD o.val = true ∧ getReg t pgPfe i.val 0x438 = getReg s pgPfe i.val 0x438 + 1
        ∧ (getHdr t pgPfe).irqStat = (getHdr s pgPfe).irqStat ||| 2 ∧ unchangedBut [.media, .bus, .pcie, .sent] s t)
      ∧ (injectorOff s → ∀ b, frameWritten.freeBuf (reg 0x20) (fld (reg 0) 7 4) = some b → ∃ t, exec (.pfeFrameWritten i o) s = .next t
        ∧ t.mem = ((outputRows s i.val o.val lines).foldl (fun u r =>
            devPut pgPfe .pfe ((pair64 (reg 0x14) (reg 0x10)).toNat + b * (reg 0x1C).toNat + r.1) r.2 u) s).mem
        ∧ getReg t pgPfe i.val (0x480 + 0x40 * o.val + 0x20) = (reg 0x20 &&& ~~~(oneBit 32 b))
        ∧ getReg t pgPfe i.val (0x480 + 0x40 * o.val + 0x28)
            = BitVec.ofNat 32 (b + (if damaged then 16 else 0) + 65536 * ((fld (reg 0x28) 31 16 + 1) % 65536))
        ∧ getReg t pgPfe i.val 0x434 = getReg s pgPfe i.val 0x434 + 1 ∧ (getHdr t pgPfe).irqStat.getLsbD 0 = true
        ∧ unchangedBut [.media, .mem, .bus, .pcie, .sent] s t))
    ∧ (∀ (r : Requester) (o : Fin 4) (v : Word), Taken s r pgPfe (0x4A4 + 0x40 * o.val) → selChan s r pgPfe = some i.val →
      ∃ t, exec (.bufRelease r o v) s = .next t ∧ getReg t pgPfe i.val (0x4A0 + 0x40 * o.val)
          = (getReg s pgPfe i.val (0x4A0 + 0x40 * o.val) ||| (v &&& 0xFFFF)) ∧ unchangedBut [.bus] s t)
    ∧ (∀ sync, ∃ t, exec (.csiSyncChange i sync) s = .next t ∧ getCsi t i.val = { x with sync := sync }
      ∧ (∀ j, j ≠ i.val → getCsi t j = getCsi s j) ∧ unchangedBut [.media] s t))

/-- R317 to R319 and R406: pins. An input's debounced level follows its pin once the pin has held a new level for the debounce time,
and that instant is its edge. OUT_SET and OUT_CLR make outputs sink or leave them high impedance. PWM settings apply at the period
boundary. A UART queues, sends and receives bytes, in order; a byte leaves once its bits have passed, and the direction pin is driven
from the first one's LEAD to the last one's TRAIL. R320 to R325: events and rules. An event waits in a queue of 64, and one beyond is
counted as lost. A pass takes the first event and the occurrences since the last pass, and evaluates all rules on them. A rule of COMB
0 whose condition is an edge or an event fires at each occurrence; a firing counts in HITS, acts on the outputs, and posts an event
with the requester code of CTLIO (its code is not stated: the model's free value). The model's choices in it: log entries 33, 71 and
155. -/
def Obligations.controlIo : Prop :=
  ((∀ (s : State) (i : Fin 16) (level : Bool), s.ctlio.inPin.getLsbD i = !level →
    ∃ t, exec (.inputPinChange i level) s = .next t ∧ t.ctlio.inPin.getLsbD i = level ∧ t.ctlio.inLevel = s.ctlio.inLevel
      ∧ (∀ j, j ≠ i.val → t.ctlio.inPin.getLsbD j = s.ctlio.inPin.getLsbD j)
      ∧ (∀ j, storeGet (fun _ => none) t.ctlio.changeAt j = if j = i.val
          then (if s.ctlio.inLevel.getLsbD i = level then none else some (now s)) else storeGet (fun _ => none) s.ctlio.changeAt j)
      ∧ unchangedBut [.ctlio] s t)
  ∧ (∀ (s : State) (i : Fin 16) (at' : Nat), storeGet (fun _ => none) s.ctlio.changeAt i = some at' → at' + debounceNs s i ≤ now s →
    ∃ t, exec (.debounceExpiry i) s = .next t ∧ t.ctlio.inLevel.getLsbD i = s.ctlio.inPin.getLsbD i
      ∧ (∀ j, j ≠ i.val → t.ctlio.inLevel.getLsbD j = s.ctlio.inLevel.getLsbD j)
      ∧ t.ctlio.rises = (if s.ctlio.inPin.getLsbD i then s.ctlio.rises ||| oneBit 16 i else s.ctlio.rises)
      ∧ t.ctlio.falls = (if s.ctlio.inPin.getLsbD i then s.ctlio.falls else s.ctlio.falls ||| oneBit 16 i)
      ∧ getReg t pgCtlio 0 0x044 = getReg s pgCtlio 0 0x044 ||| oneBit 32 (if s.ctlio.inPin.getLsbD i then i else 16 + i)
      ∧ (getHdr t pgCtlio).irqStat = (getHdr s pgCtlio).irqStat ||| 2 ∧ t.ctlio.passDue = true
      ∧ unchangedBut [.ctlio, .bus, .pcie, .sent] s t)
  ∧ (∀ (s : State) (r : Requester) (v : Word),
    (Taken s r pgCtlio 0x05C → ∃ t, exec (.outSet r v) s = .next t ∧ t.ctlio.outActive = s.ctlio.outActive ||| v.setWidth 8
      ∧ (∀ i, getPin t i = if i < 8 ∧ v.getLsbD i then { drive := .sink, latch := true, driven := true } else getPin s i)
      ∧ (∀ o, storeGet (fun _ => none) t.ctlio.pulses o
          = if o < 8 ∧ v.getLsbD o then none else storeGet (fun _ => none) s.ctlio.pulses o) ∧ unchangedBut [.ctlio, .pins] s t)
    ∧ (Taken s r pgCtlio 0x060 → ∃ t, exec (.outClr r v) s = .next t ∧ t.ctlio.outActive = s.ctlio.outActive &&& ~~~(v.setWidth 8)
      ∧ (∀ i, getPin t i = if i < 8 ∧ v.getLsbD i then { drive := .hiZ, latch := false, driven := true } else getPin s i)
      ∧ (∀ o, storeGet (fun _ => none) t.ctlio.pulses o
          = if o < 8 ∧ v.getLsbD o then none else storeGet (fun _ => none) s.ctlio.pulses o) ∧ unchangedBut [.ctlio, .pins] s t))
  ∧ (∀ (s : State) (o : Fin 8) (due : Nat), storeGet (fun _ => none) s.ctlio.pulses o = some due → due ≤ now s →
    ∃ t, exec (.pulseEnd o) s = .next t ∧ t.ctlio.outActive = s.ctlio.outActive &&& ~~~(oneBit 8 o)
      ∧ (∀ i, getPin t i = if i = o.val then { drive := .hiZ, latch := false, driven := true } else getPin s i)
      ∧ storeGet (fun _ => none) t.ctlio.pulses o = none ∧ unchangedBut [.ctlio, .pins] s t)
  ∧ (∀ (s : State) (p : Fin 4), let cfg := getReg s pgCtlio 0 (0x080 + 4 * p)
    let duty := (getReg s pgCtlio 0 (0x090 + 4 * p)).setWidth 16
    ∃ t, exec (.pwmPeriodBoundary p) s = .next t ∧ storeGet (fun _ => {}) t.ctlio.pwm p = { cfg := cfg, duty := duty }
      ∧ (∀ q, q ≠ p.val → storeGet (fun _ => {}) t.ctlio.pwm q = storeGet (fun _ => {}) s.ctlio.pwm q)
      ∧ (∀ i, getPin t i = if i = 8 + p.val then
            (if cfg.getLsbD 15 then { drive := if duty = 0 then .low else if fld cfg 31 16 < duty.toNat then .high else .pwm, latch := decide (fld cfg 31 16 < duty.toNat), driven := true }
             else if (getPin s i).driven then { drive := .low, latch := false, driven := true } else getPin s i)
          else getPin s i) ∧ unchangedBut [.ctlio, .pins] s t)
  ∧ (∀ (s : State) (r : Requester) (u : Fin 2) (v : Word), let x := getUart s u
    let cfg := uartCfg s u
    let dir := cfg.getLsbD 24
    let bits (n : Nat) : Nat := n * fld cfg 19 0 * 5 / 2
    let frame : Nat := 1 + (if cfg.getLsbD 20 then 7 else 8) + (if fld cfg 22 21 = 0 then 0 else 1) + (if cfg.getLsbD 23 then 2 else 1)
    (Taken s r pgCtlio (0x0C4 + 0x10 * u) → x.tx.length < 64 →
      ∃ t, exec (.uartDataWrite r u v) s = .next t ∧ getUart t u = { x with
          tx := x.tx ++ [v.setWidth 8]
          lineAt := if x.tx = [] then max x.lineAt (if dir && !uartDrives s u then now s + bits (fld cfg 27 26) else now s) else x.lineAt }
        ∧ (∀ k, k ≠ u.val → getUart t k = getUart s k)
        ∧ (∀ i, getPin t i = if dir ∧ i = 21 + 2 * u.val then { drive := .high, latch := true, driven := true } else getPin s i)
        ∧ unchangedBut [.ctlio, .pins] s t)
    ∧ (Readable s r pgCtlio (0x0C4 + 0x10 * u) → ∃ t, exec (.uartDataRead r u) s = .next t
        ∧ getAnswer t r = (match x.rx with | [] => 0 | b :: _ => 0x80000000 ||| b.setWidth 32)
        ∧ getUart t u = { x with rx := x.rx.drop 1 } ∧ (∀ k, k ≠ u.val → getUart t k = getUart s k) ∧ unchangedBut [.bus, .ctlio] s t)
    ∧ (x.tx = [] ∨ now s < x.lineAt + bits frame → exec (.uartTxByte u) s = .next s)
    ∧ (∀ b bs, x.tx = b :: bs → x.lineAt + bits frame ≤ now s → let on := !bs.isEmpty || decide (0 < bits (fld cfg 29 28))
      let b' : Byte := if cfg.getLsbD 20 then b &&& 0x7F else b
      ∃ t, exec (.uartTxByte u) s = .next t
        ∧ t.sent = .uartByte u b' (parityBit (fld cfg 22 21) b') (if cfg.getLsbD 23 then 2 else 1) :: s.sent
        ∧ getUart t u = { x with
            tx := bs, lineAt := now s, deUntil := if bs.isEmpty && decide (0 < bits (fld cfg 29 28)) then some (now s + bits (fld cfg 29 28)) else none }
        ∧ (∀ i, getPin t i = if dir ∧ i = 21 + 2 * u.val
            then { drive := if on then .high else .low, latch := on, driven := true } else getPin s i)
        ∧ unchangedBut [.ctlio, .pins, .sent] s t)
    ∧ (∀ b perr ferr, ¬ (cfg.getLsbD 25 = true ∧ uartDrives s u = true) → x.rx.length < 64 →
      ∃ t, exec (.uartRxByte u b perr ferr) s = .next t
        ∧ getUart t u = { x with
            rx := x.rx ++ [if cfg.getLsbD 20 then b &&& 0x7F else b], perr := x.perr || (perr && decide (fld cfg 22 21 ≠ 0)), ferr := x.ferr || ferr }
        ∧ (getHdr t pgCtlio).irqStat = (getHdr s pgCtlio).irqStat ||| oneBit 32 (3 + u)
        ∧ unchangedBut [.ctlio, .bus, .pcie, .sent] s t))
  ∧ (∀ (s : State) (i : Fin 8) (level : Bool), ∃ t, exec (.gpioPinChange i level) s = .next t ∧ t.ctlio.gpioIn.getLsbD i = level
      ∧ (∀ j, j ≠ i.val → t.ctlio.gpioIn.getLsbD j = s.ctlio.gpioIn.getLsbD j) ∧ t.ctlio.passDue = true ∧ unchangedBut [.ctlio] s t))
  ∧ ((∀ (s : State) (r : Requester) (v : Word), Taken s r pgCtlio 0x068 → ∃ t, exec (.evPost r v) s = .next t
    ∧ (s.ctlio.events.length < 64 →
      t.ctlio = { s.ctlio with events := s.ctlio.events ++ [{ code := v.setWidth 16, req := r.code }], passDue := true }
      ∧ unchangedBut [.ctlio] s t)
    ∧ (64 ≤ s.ctlio.events.length → t.ctlio = s.ctlio ∧ (getHdr t pgCtlio).irqStat = (getHdr s pgCtlio).irqStat ||| 4
      ∧ (getReg t pgCtlio 0 0x070).toNat = min (2 ^ 32 - 1) ((getReg s pgCtlio 0 0x070).toNat + 1)
      ∧ unchangedBut [.bus, .pcie, .sent] s t))
  ∧ (∀ (s : State), (getHdr s pgCtlio).enable = true → s.ctlio.passDue = true → getReg s pgCtlio 0 0x0E8 = 0 →
    let ev := s.ctlio.events.head?
    ((∀ n, n < 64 → (ruleEval s ev n).1 = false) → ∃ t, exec .rulePass s = .next t
      ∧ t.ctlio = { s.ctlio with hold := t.ctlio.hold, events := s.ctlio.events.drop 1, rises := 0, falls := 0, expiries := 0
                                 passDue := decide (1 < s.ctlio.events.length) }
      ∧ (∀ n, n < 64 → storeGet (fun _ => {}) t.ctlio.hold n = (ruleEval s ev n).2) ∧ unchangedBut [.ctlio] s t)
    ∧ (∀ n, n < 64 → (∀ m, m < 64 → ((ruleEval s ev m).1 = true ↔ m = n)) → let a := getReg s pgCtlio n 0x414
      fld a 9 8 ∈ [2, 3] → a.getLsbD 12 = false → a.getLsbD 16 = false →
      (∀ k, k < 8 → ¬ ((timerReg s k).getLsbD 31 ∧ (timerReg s k).getLsbD 24 ∧ fld (timerReg s k) 30 25 = n)) →
      ∃ t code, exec .rulePass s = .next t
        ∧ getReg t pgCtlio n 0x41C = getReg s pgCtlio n 0x41C + 1
        ∧ t.ctlio.outActive = (if fld a 9 8 = 2 then s.ctlio.outActive ||| a.setWidth 8 else s.ctlio.outActive &&& ~~~(a.setWidth 8))
        ∧ (s.ctlio.events.length ≤ 64 → t.ctlio.events = s.ctlio.events.drop 1 ++ [{ code := code, req := 0x63 }] ∧ t.ctlio.passDue = true)
        ∧ t.ctlio.rises = 0 ∧ t.ctlio.falls = 0 ∧ t.ctlio.expiries = 0
        ∧ unchangedBut [.ctlio, .bus, .pins, .pcie, .sent, .free] s t))
  ∧ (∀ (s : State) (ev : Option Event) (n : Nat), let ctrl := getReg s pgCtlio n 0x400
    let a := getReg s pgCtlio n 0x404
    let prev := (storeGet (fun _ => {}) s.ctlio.hold n).prev
    ctrl.getLsbD 0 = true → fld ctrl 3 1 = 0 → fld a 9 4 < 16 →
    (fld a 3 0 = 1 → (ruleEval s ev n).1 = (s.ctlio.inLevel.getLsbD (fld a 9 4) && !prev))
    ∧ (fld a 3 0 = 3 → (ruleEval s ev n).1 = (s.ctlio.rises.getLsbD (fld a 9 4) && !prev) ∧ (ruleEval s ev n).2.prev = false))
  ∧ (∀ (s : State) (k : Fin 8) (due : Nat), timerDue s k = some due → due ≤ now s →
    ∃ t, exec (.ruleTimerExpiry k) s = .next t
      ∧ timerDue t k = (if (timerReg s k).getLsbD 24 then none else some (due + timerPeriod s k))
      ∧ (∀ j, j ≠ k.val → timerDue t j = timerDue s j) ∧ t.ctlio.expiries = s.ctlio.expiries ||| oneBit 8 k
      ∧ t.ctlio.passDue = true ∧ unchangedBut [.ctlio] s t)
  ∧ (∀ (s : State) (n : Fin 64) (condB : Bool) (since : Nat), let h := storeGet (fun _ => {}) s.ctlio.hold n
    (if condB then h.bAt else h.aAt) = some since → since + fld (getReg s pgCtlio n 0x400) 19 4 * 1000000 ≤ now s →
    ∃ t, exec (.windowExpiry n condB) s = .next t
      ∧ storeGet (fun _ => {}) t.ctlio.hold n = { h with aAt := if condB then h.aAt else none, bAt := if condB then none else h.bAt }
      ∧ (∀ m, m ≠ n.val → storeGet (fun _ => {}) t.ctlio.hold m = storeGet (fun _ => {}) s.ctlio.hold m)
      ∧ t.ctlio.passDue = true ∧ unchangedBut [.ctlio] s t)
  ∧ (∀ (s : State) (p : Fin 2) (f : List Byte) (fs : List (List Byte)), storeGet (fun _ => []) s.ctlio.tplQueue p = f :: fs →
    portUp s p = true → ∃ t, exec (.templateTx p) s = .next t ∧ t.sent = .ethFrame p f :: s.sent
      ∧ (∀ k, storeGet (fun _ => []) t.ctlio.tplQueue k = if k = p.val then fs else storeGet (fun _ => []) s.ctlio.tplQueue k)
      ∧ unchangedBut [.ctlio, .sent] s t))

/-- R344 to R352 and R359: queues. A doorbell of an enabled queue sets the pointer; a value of n or more records FORMAT, and a
disabled queue ignores it. Enabling starts a queue empty. The block fetches the entry at the head while OUTST < n - 1, from the host
as a request of the queue's function; a JOB entry that passes its checks is one more accepted job, one that fails them, or whose list
or handle cannot be read, completes REJECTED with FORMAT_OR_RANGE and the code in DETAIL, and the pacer rejects one of a class that is
not the submitter's and accepted, one released after a revocation's notice, one of a SHED class, and one on a hot die; an ABORT takes
effect on a job of its queue and tag, and one that names none is counted. A queue that aggregates signals when TIME_US has passed. The
model's choices in it: log entries 22, 45, 49, 122, 123, 136, 139 and 150. -/
def Obligations.hostQueues : Prop :=
  (∀ (s : State) (r : Requester) (q : Fin 4) (v : Word) (k : Nat), reqLive s r = true → isParked s r = false →
    lfiQuiet s lfiNoc r.code.toNat 0 = true → ((∃ f : Fin 16, r = .fn f ∧ k = 4 * f.val + q.val)
      ∨ (r = .mgmt ∧ k = 64 + q.val ∧ pageUp s pgHostq = true ∧ (getHdr s pgHostq).resetBusy = false)) →
    let x := getQueue s k
    ((x.en = true → fld v 11 0 < qDepth s k →
        (∃ t, exec (.sqDoorbell r q v) s = .next t ∧ getQueue t k = { x with sqTail := v.setWidth 12 }
          ∧ (∀ j, j ≠ k → getQueue t j = getQueue s j) ∧ unchangedBut [.pcie] s t)
        ∧ (∃ t, exec (.cqDoorbell r q v) s = .next t ∧ getQueue t k = { x with
            cqHead := v.setWidth 12, outst := x.outst - BitVec.ofNat 12 ((fld v 11 0 + qDepth s k - x.cqHead.toNat) % qDepth s k) }
          ∧ (∀ j, j ≠ k → getQueue t j = getQueue s j) ∧ unchangedBut [.pcie] s t))
      ∧ (x.en = true → qDepth s k ≤ fld v 11 0 → ∃ t, exec (.sqDoorbell r q v) s = .next t
          ∧ (getHdr t pgHostq).irqStat = (getHdr s pgHostq).irqStat ||| (if (getHdr s pgHostq).errValid then 0xC0000002 else 0x80000002)
          ∧ ((getHdr s pgHostq).errValid = false → (getHdr t pgHostq).errCode = eFormat)
          ∧ (∀ j, getQueue t j = getQueue s j) ∧ unchangedBut [.bus, .pcie, .sent] s t)
      ∧ (x.en = false → exec (.sqDoorbell r q v) s = .next s ∧ exec (.cqDoorbell r q v) s = .next s)))
  ∧ (∀ (s : State) (r : Requester) (v : Word) (q : Nat), Taken s r pgHostq 0x400 → selChan s r pgHostq = some q → (getQueue s q).en = false →
    v.getLsbD 0 = true → 63 ≤ fld v 27 16 → ∃ t, exec (.queueEnable r v) s = .next t ∧ qCtrl t q = v &&& 0x0FFF03F0
      ∧ getQueue t q = { en := true, epoch := (getQueue s q).epoch + 1, linkEpoch := (getQueue s q).linkEpoch }
      ∧ (∀ j, j ≠ q → getQueue t j = getQueue s j) ∧ unchangedBut [.bus, .pcie] s t)
  ∧ (∀ (s : State) (q : Fin 68) (ans : Answered), injectorOff s → let x := getQueue s q
    let a := sqAddr s q
    let u := if q.val < 64 then s else dramCorrects a ans s
    let head := BitVec.ofNat 12 ((x.sqHead.toNat + 1) % qDepth s q)
    x.en = true → domOn s 15 = true → (getHdr s pgHostq).enable = true → x.sqHead ≠ x.sqTail →
    (q.val < 64 → fnExists s (q.val / 4) = true ∧ fnCanSend s (q.val / 4) = true) → (64 ≤ q.val → hostqRefusal s false a 64 = none) →
    ((64 ≤ q.val → ans ≠ .never ∧ dramFails s a ans = false ∧ firstDamaged s a 64 = none) → x.outst.toNat + 1 < qDepth s q →
      ∃ t, exec (.sqEntryFetch q ans) s = .next t
      ∧ getQueue t q = { x with sqHead := head, outst := if entryOp (sqEntry s q) = 1 then x.outst else x.outst + 1 }
      ∧ t.pcie.fetched = s.pcie.fetched ++ [{ queue := q, epoch := x.epoch, sqHead := head, words := sqEntry s q }]
      ∧ t.sent = (if q.val < 64 then .hostRead (Fin.ofNat 16 (q.val / 4)) (BitVec.ofNat 64 a) 64 :: s.sent else u.sent)
      ∧ (∀ j, j ≠ q.val → getQueue t j = getQueue s j) ∧ unchangedBut [.pcie, .sent] u t)
    ∧ (64 ≤ q.val → x.outst.toNat + 1 < qDepth s q → ∃ t, exec (.sqEntryFetch q .never) s = .next t ∧ getQueue t q = x
      ∧ t.pcie.fetched = s.pcie.fetched ∧ getHdr t pgHostq = (getHdr s pgHostq).capture (Requester.code .other) eTimeout (BitVec.ofNat 40 a)
      ∧ unchangedBut [.bus, .pcie, .sent] s t)
    ∧ (qDepth s q ≤ x.outst.toNat + 1 → exec (.sqEntryFetch q ans) s = .next s))
  ∧ (∀ (s : State) (owner : Byte) (vals : ClassVals) (x : SqFields), injectorOff s → let prog := 16 + 16 * vals.spread.toNat
    listRefusal s owner x.inlist.toNat (16 * x.nin) = none → listRefusal s owner x.prog.toNat prog = none →
    firstDamaged s x.inlist.toNat (16 * x.nin) = none → firstDamaged s x.prog.toNat prog = none →
    (listsRead owner vals x .good s).1 = none ∧ unchangedBut [.sent] s (listsRead owner vals x .good s).2)
  ∧ (∀ (s u : State) (ans : Answered) (e : FetchedEntry) (es : List FetchedEntry) (failed : Option Byte), s.pcie.fetched = e :: es →
    entryOp e.words ≠ 1 → let x := sqFields e.words
    let c := getClass s x.cls
    let owner := queueOwner e.queue
    let tr := releaseTime s x.cls (max x.release (now s))
    let vals := classValsAt c tr
    let rejects (cause detail : Byte) : Prop := ∃ t, exec (.jobEntry ans) s = .next t
      ∧ t.pacer = { u.pacer with nextJob := u.pacer.nextJob + 1, jobs := u.pacer.jobs ++ [newJob u e x [] []
            (some { status := .rejected, cause := cause, detail := detail, time := now u })] } ∧ unchangedBut [.pacer] u t
    listsRead owner vals x ans { s with pcie := { s.pcie with fetched := es } } = (failed, u) →
    (∀ j ∈ u.pacer.jobs, j.id ≠ u.pacer.nextJob) → c.vals.link = false →
    (∀ code, failed = some code → rejects 0x10 code)
    ∧ (∀ code, failed = none → entryCheck u owner vals x = .error code → rejects 0x10 code)
    ∧ (∀ ins shares, failed = none → entryCheck u owner vals x = .ok (ins, shares) → getClass u x.cls = c → u.pacer.thermal = s.pacer.thermal →
      (getHdr u pgPacer).enable = (getHdr s pgPacer).enable → now u = now s →
      ((getHdr s pgPacer).enable = false ∨ c.owner ≠ owner ∨ c.st = .free ∨ c.st = .defined → rejects 0x10 0)
      ∧ ((getHdr s pgPacer).enable = true → c.owner = owner →
        (c.st = .revoking → c.noticeEnd ≤ tr → rejects 0x12 0)
        ∧ (c.st = .shed → rejects 0x11 0)
        ∧ (c.st = .accepted → s.pacer.thermal ≠ .none → rejects 0x03 0)
        ∧ (c.st = .accepted ∨ (c.st = .revoking ∧ tr < c.noticeEnd ∧ storeGet (fun _ => none) c.cores 0 ≠ none) → s.pacer.thermal = .none →
          ∃ t, exec (.jobEntry ans) s = .next t
            ∧ t.pacer.jobs = u.pacer.jobs ++ [{ newJob u e x ins shares none with
                release := tr, deadline := tr + vals.deadline.toNat * 1000, cost := vals.cost.toNat }]
            ∧ getClass t x.cls = { c with lastRelease := some tr } ∧ (∀ k, k ≠ x.cls → getClass t k = getClass u k)
            ∧ unchangedBut [.pacer] u t))))
  ∧ (∀ (s : State) (e : FetchedEntry) (es : List FetchedEntry), s.pcie.fetched = e :: es → entryOp e.words = 1 →
    let hits := s.pacer.jobs.filter fun j => j.open_ && j.queue == e.queue && j.tag == (sqFields e.words).tag
    (hits = [] → ∃ t, exec .abortEntry s = .next t ∧ t.pcie = { s.pcie with fetched := es }
      ∧ getReg t pgHostq 0 0x040 = getReg s pgHostq 0 0x040 + 1 ∧ unchangedBut [.pcie, .bus] s t)
    ∧ (∀ j, hits = [j] → PacerAtRest s → (∀ i ∈ s.pacer.jobs, i.id = j.id → i = j) →
      (∀ i, i < j.nShares → (getShare j i).st ≠ .running) → (∃ i, i < j.nShares ∧ (getShare j i).st ≠ .done) → now s ≤ j.deadline →
      ∃ t, exec .abortEntry s = .next t ∧ t.pcie = { s.pcie with fetched := es }
        ∧ (∃ k ∈ t.pacer.jobs, k.id = j.id ∧ k.tag = j.tag ∧ k.ended = some { status := .aborted, cause := 4, detail := 0, time := now s })
        ∧ (∀ k ∈ s.pacer.jobs, k.id ≠ j.id → k ∈ t.pacer.jobs) ∧ t.pacer.classes = s.pacer.classes ∧ unchangedBut [.pcie, .pacer] s t))
  ∧ (∀ (s : State) (q : Fin 68), let x := getQueue s q
    let agg := getReg s pgHostq q 0x414
    (qCtrl s q).getLsbD 9 = true → x.unsignalled ≠ 0 → fld agg 31 16 ≠ 0 → x.oldest + fld agg 31 16 * 1000 ≤ now s →
    (q.val < 64 → ∃ t, exec (.irqAggTimeout q) s = .next t ∧ getQueue t q = { x with unsignalled := 0 }
      ∧ (fnExists s (q.val / 4) = true → (getFn s (q.val / 4)).msixEn = true → (getFn s (q.val / 4)).msixMask = false →
        (msixWord s (q.val / 4) (4 * fld (qCtrl s q) 8 4 + 3)).getLsbD 0 = false → fnCanSend s (q.val / 4) = true →
        t.sent = .msix (Fin.ofNat 16 (q.val / 4)) (BitVec.ofNat 5 (fld (qCtrl s q) 8 4)) :: s.sent)
      ∧ unchangedBut [.pcie, .sent] s t)
    ∧ (64 ≤ q.val → ∃ t, exec (.irqAggTimeout q) s = .next t ∧ getQueue t q = { x with unsignalled := 0 }
      ∧ (getHdr t pgHostq).irqStat = (getHdr s pgHostq).irqStat ||| 1 ∧ unchangedBut [.pcie, .bus, .sent] s t))

/-- R354 to R358, R387: functions and the link. A function's reset disables and empties its four queues, resets its MSI-X state,
revokes its classes with zero notice and stops its channels. Link loss takes the queues of every function, counts and raises LINK.
Link training completes with the speed and the width reached. Configuration requests set what they name; a VF that is no longer
enabled loses it. R341, R342, R357 and R395: BAR2 and PTM. A host request within its function's grants reads or writes device memory
at the place that the window gives, with a corrected error counted; one outside is refused, counted and recorded, and a refused read
completes as an unsupported request, as do one that is not answered in time and one that meets an uncorrectable error. A PTM dialogue,
INTERVAL_MS after the last, leaves the two times, the delay and the count, and TIME takes the difference, at the rate's limit while it
is over 1 ms. The model's choices in it: log entries 25, 26, 27, 28, 50, 139, 157, 176 and 180. -/
def Obligations.hostInterface : Prop :=
  ((∀ (s : State) (f : Fin 16), PacerAtRest s → s.pacer.plan = none → let code : Byte := BitVec.ofNat 8 (0x10 + f.val)
    let resets (i : Instr) : Prop := ∃ t, exec i s = .next t
      ∧ (∀ q, getQueue t q = if q / 4 = f.val
          then { en := false, epoch := (getQueue s q).epoch + 1, linkEpoch := (getQueue s q).linkEpoch } else getQueue s q)
      ∧ (∀ e ∈ t.pcie.fetched, e.queue.val / 4 ≠ f.val) ∧ getFn t f = { flrBusy := true }
      ∧ getReg t pgPcie f 0x404 = 0 ∧ getReg t pgPcie f 0x408 = 0
      ∧ (∀ k, k < 64 → (getClass s k).owner = code → (getClass s k).st = .accepted → openJobs s k ≠ [] →
          getClass t k = { getClass s k with st := .revoking, noticeEnd := now s, pend := none })
      ∧ (∀ k, k < 64 → (getClass s k).owner ≠ code → getClass t k = getClass s k)
      ∧ (∀ c, c < 32 → chanOwner s c = code → (getChan t c).st = .disabled ∧ (getChan t c).result = 0x11 ∧ (getChan t c).en = false)
    (fnExists s f = true → s.pcie.linkUp = true → pulseBusy s = false → resets (.flr f))
    ∧ (∀ r, Taken s r pgPcie 0x048 → r.isOwner = true → resets (.fnReset r f)))
  ∧ (∀ (s : State) (k : LinkLossKind), s.pcie.linkUp = true →
    ∃ t, exec (.linkLoss k) s = .next t
      ∧ t.pcie.linkUp = false ∧ t.pcie.training = false ∧ t.pcie.speed = 0 ∧ t.pcie.width = 0
      ∧ t.pcie.vfEnable = false ∧ t.pcie.numVfs = 0 ∧ t.pcie.ptmEnabled = false
      ∧ t.pcie.perst = (s.pcie.perst || decide (k = .perst))
      ∧ (∀ q, getQueue t q = if q < 64
          then { en := false, epoch := (getQueue s q).epoch + 1, linkEpoch := (getQueue s q).epoch + 1 } else getQueue s q)
      ∧ getReg t pgPcie 0 0x040 = getReg s pgPcie 0 0x040 + 0x10000 ∧ (getHdr t pgPcie).irqStat = (getHdr s pgPcie).irqStat ||| 1
      ∧ ((getReg s pgPcie 0 0x044).getLsbD 0 = false → t.pacer = s.pacer)
      ∧ ((getReg s pgPcie 0 0x044).getLsbD 0 = true → ∀ k, k < 64 → getClass t k = { getClass s k with
          owner := if 0x10 ≤ (getClass s k).owner.toNat ∧ (getClass s k).owner.toNat ≤ 0x1F then 0 else (getClass s k).owner })
      ∧ unchangedBut [.pcie, .pacer, .bus, .sent] s t)
  ∧ (∀ (s : State), s.pcie.perst = false → s.pcie.linkUp = false → domOn s 15 = true → s.reset_.romStarted = true →
    ∃ t, exec .linkTrainingStart s = .next t ∧ t.pcie = { s.pcie with training := true } ∧ unchangedBut [.pcie] s t)
  ∧ (∀ (s : State) (speed : BitVec 3) (width : BitVec 4), s.pcie.training = true → domOn s 15 = true →
    ∃ t, exec (.pcieLinkUp speed width) s = .next t ∧ t.pcie.linkUp = true ∧ t.pcie.training = false ∧ t.pcie.speed = speed
      ∧ t.pcie.width = width ∧ (getHdr t pgPcie).irqStat = (getHdr s pgPcie).irqStat ||| 1
      ∧ (∀ q, getQueue t q = getQueue s q) ∧ unchangedBut [.pcie, .bus, .sent] s t)
  ∧ (∀ (s : State) (on mask : Bool) (f num : Fin 16), s.pcie.linkUp = true ∨ s.pcie.training = true →
    (∃ t, exec (.configurationRequest (.vfEnable on num)) s = .next t ∧ t.pcie.vfEnable = on ∧ t.pcie.numVfs = BitVec.ofNat 4 num
      ∧ (∀ g, g < 16 → getFn t g = if fnExists t g then getFn s g else { getFn s g with bme := false, msixEn := false, msixMask := false })
      ∧ (∀ q, getQueue t q = getQueue s q) ∧ unchangedBut [.pcie] s t)
    ∧ (∃ t, exec (.configurationRequest (.ptmEnable on)) s = .next t ∧ t.pcie = { s.pcie with ptmEnabled := on } ∧ unchangedBut [.pcie] s t)
    ∧ (∀ c, ∃ t, exec (.configurationRequest (.capability c)) s = .next t
      ∧ t.sent = .configData [if c = .msix ∨ c = .sriov ∨ c = .aer ∨ c = .flr ∨ c = .ptm ∨ c = .aspmL1 then 1 else 0] :: s.sent
      ∧ unchangedBut [.sent] s t)
    ∧ (fnExists s f = true → ∃ t, exec (.configurationRequest (.identity f)) s = .next t
      ∧ t.sent = .configData [pciId s f, 0x120000] :: s.sent ∧ unchangedBut [.sent] s t)
    ∧ (fnExists s f = true → (∃ t, exec (.configurationRequest (.busMaster f on)) s = .next t ∧ getFn t f = { getFn s f with bme := on }
        ∧ (∀ g, g ≠ f.val → getFn t g = getFn s g) ∧ unchangedBut [.pcie, .sent] s t)
      ∧ (∃ t, exec (.configurationRequest (.msixEnable f on mask)) s = .next t
        ∧ getFn t f = { getFn s f with msixEn := on, msixMask := mask }
        ∧ (∀ g, g ≠ f.val → getFn t g = getFn s g) ∧ unchangedBut [.pcie, .sent] s t)))
  ∧ (∀ (s : State) (r : Requester) (k : Fin 64) (owner : Byte), Taken s r pgPcie 0x070 → r = .mgmt →
    (0x10 ≤ owner.toNat ∧ owner.toNat ≤ 0x1F → (getClass s k).st ≠ .free → ∃ t, exec (.classGive r k owner) s = .next t
      ∧ getClass t k = { getClass s k with owner := owner } ∧ (∀ j, j ≠ k.val → getClass t j = getClass s j) ∧ unchangedBut [.pacer] s t)
    ∧ (¬ (0x10 ≤ owner.toNat ∧ owner.toNat ≤ 0x1F) → ∃ t, exec (.classGive r k owner) s = .next t ∧ t.pacer = s.pacer
      ∧ getHdr t pgPcie = (getHdr s pgPcie).capture r.code eFormat (regAddr pgPcie 0x070) ∧ unchangedBut [.bus, .pcie, .sent] s t)))
  ∧ ((∀ (s : State) (f : Fin 16) (off : BitVec 36), injectorOff s → inReset s = false → s.pcie.linkUp = true → domOn s 15 = true → fnExists s f = true →
    let a := if off.toNat < 0x4000000 then 0x10000000 + off.toNat else 0x100000000 + off.toNat
    (∀ len, 0 < len → grantCovers s f false off.toNat (off.toNat + len - 1) = true → rangeMissing s a (a + len - 1) = false →
      rangeRefused (placeRefusal s none false false 0) a len = none → (∀ k, k < len → viewBad s none (a + k) = false) →
      (place a = .dram ∨ ∃ n, place a = .shm n) →
      (∃ t, exec (.bar2Access (.host f) off none len .good) s = .next t
        ∧ t.sent = .bar2Data (.host f) ((List.range len).map fun k => memByte s (a + k)) :: s.sent ∧ unchangedBut [.sent] s t)
      ∧ (∃ t, exec (.bar2Access (.host f) off none len .corrected) s = .next t
        ∧ Sent.bar2Data (.host f) ((List.range len).map fun k => memByte s (a + k)) ∈ t.sent
        ∧ getReg t pgDdr 0 0x04C = (if place a = .dram ∧ s.mem.eccOn = true then satInc (getReg s pgDdr 0 0x04C) else getReg s pgDdr 0 0x04C)
        ∧ unchangedBut [.bus, .pcie, .sent] s t)
      ∧ (∃ t, exec (.bar2Access (.host f) off none len .never) s = .next t ∧ Sent.unsupported (.host f) ∈ t.sent
        ∧ getReg t pgNoc 0 0x044 = getReg s pgNoc 0 0x044 + 1 ∧ unchangedBut [.bus, .pcie, .sent] s t)
      ∧ (place a = .dram → s.mem.eccOn = true → ∃ t, exec (.bar2Access (.host f) off none len .uncorrectable) s = .next t
        ∧ Sent.unsupported (.host f) ∈ t.sent ∧ (getHdr t pgDdr).irqStat.getLsbD 1 = true ∧ unchangedBut [.bus, .mem, .pcie, .sent] s t))
    ∧ (∀ bs len, bs ≠ [] → grantCovers s f true off.toNat (off.toNat + bs.length - 1) = true →
      rangeMissing s a (a + bs.length - 1) = false → rangeRefused (placeRefusal s none false true 0) a bs.length = none →
      (place a = .dram ∨ ∃ n, place a = .shm n) →
      ∃ t, exec (.bar2Access (.host f) off (some bs) len .good) s = .next t
        ∧ (∀ b, memByte t b = if a ≤ b ∧ b < a + bs.length then bs.getD (b - a) 0 else memByte s b) ∧ unchangedBut [.mem] s t)
    ∧ (∀ len x, 0 < len → grantCovers s f false off.toNat (off.toNat + len - 1) = false →
      ∃ t, exec (.bar2Access (.host f) off none len x) s = .next t ∧ Sent.unsupported (.host f) ∈ t.sent
        ∧ getReg t pgPcie 0 0x06C = getReg s pgPcie 0 0x06C + 1 ∧ getReg t pgNoc 0 0x048 = getReg s pgNoc 0 0x048 + 1
        ∧ ((getHdr s pgPcie).errValid = false → (getHdr t pgPcie).errReq = BitVec.ofNat 8 (0x10 + f.val)
            ∧ (getHdr t pgPcie).errCode = ePermission ∧ (getHdr t pgPcie).errAddr = BitVec.ofNat 40 a)
        ∧ unchangedBut [.bus, .pcie, .sent] s t))
  ∧ (∀ (s : State) (master : DWord) (delay : BitVec 16), (getReg s pgPcie 0 0x050).getLsbD 0 = true → s.pcie.ptmEnabled = true →
    s.pcie.linkUp = true → (∀ t, s.pcie.ptmAt = some t → t + max 1 (fld (getReg s pgPcie 0 0x050) 15 8) * 1000000 ≤ now s) →
    let e := (master - s.time.now).toInt
    let far := decide (1000000 < e) || decide (e < -1000000)
    (∃ t, exec (.ptmDialogue true master delay) s = .next t ∧ getPair t pgPcie 0 0x058 = s.time.now ∧ getPair t pgPcie 0 0x060 = master
      ∧ getReg t pgPcie 0 0x068 = delay.setWidth 32 ∧ (getReg t pgPcie 0 0x054).getLsbD 31 = true
      ∧ fld (getReg t pgPcie 0 0x054) 15 0 = (fld (getReg s pgPcie 0 0x054) 15 0 + 1) % 65536
      ∧ t.time = { s.time with errNs := BitVec.ofInt 32 (max (-2147483648) (min 2147483647 e)), far := far }
      ∧ getReg t pgTime 0 0x04C = (if fld (getReg s pgTime 0 0x048) 1 0 = 1
          then (BitVec.ofInt 20 (if far then (if e < 0 then -200000 else 200000)
            else max (-200000) (min 200000 (e * 1000 / (max 1 (fld (getReg s pgTime 0 0x048) 31 16) : Nat))))).setWidth 32
          else getReg s pgTime 0 0x04C)
      ∧ (getHdr t pgTime).irqStat = (if far then (getHdr s pgTime).irqStat ||| 1 else (getHdr s pgTime).irqStat)
      ∧ (getHdr t pgPcie).irqStat = (getHdr s pgPcie).irqStat ||| 2 ∧ unchangedBut [.bus, .time, .pcie, .sent] s t)
    ∧ (∃ t, exec (.ptmDialogue false master delay) s = .next t
      ∧ (getReg t pgPcie 0 0x054) = getReg s pgPcie 0 0x054 &&& 0x7FFFFFFF ∧ unchangedBut [.bus, .pcie] s t)))

/-- R361 to R364, R366, R370 to R373: herds, with the injector off. At each period's end a device sends every valid peer its record. A
valid record that arrives within the aperture marks its peer up, but one whose DEPTH differs from the peer's entry, which is a FORMAT;
one outside the aperture is refused; the bellwether's gives a member the herd time offset (half the sum of the two differences,
without PTM). A peer missed for MISS periods is down, and with AUTO the lowest member left becomes the bellwether. A message goes out
under the peer's credit, lands in its slot, and RX_SEQ passes contiguous ones; a bad one is counted, and a gap that stays open is
passed. R376 to R378 and R381: the link fault injector. Enabling a channel where it is permitted loads its LFSR from SEED (0 as 1) and
starts its item count; where it is not, PERMISSION. An item held for reordering goes on when 1 µs brings no next one. A channel in
count mode that drops every item drops a peer's message, which changes nothing but the channel's counts. The model's choices in it:
log entries 29, 51, 54, 151, 156, 176 and 180. -/
def Obligations.herds : Prop :=
  ((∀ (s : State), injectorOff s → herdAlone s = false → fnCanSend s 0 = true → (getHdr s pgHerd).commitPending = false →
    (∀ at_, s.herd.sentAt = some at_ → at_ + max 1 (fld (herdHb s) 7 0) * 1000000 ≤ now s) →
    (s.herd.st ≠ .joining → ∃ t, exec (.statusRecordSend none) s = .next t
      ∧ t.sent = ((List.range 16).filter (peerValid s)).reverse.map (fun p =>
          Sent.peerWrite (peerMbx s p + BitVec.ofNat 64 (64 * herdId s)) (sealMessage (recordWords s p))) ++ s.sent
      ∧ (∀ p, p < 16 → getPeer t p = if peerValid s p then { getPeer s p with recSeq := (getPeer s p).recSeq + 1 } else getPeer s p)
      ∧ t.herd.sentAt = some (now s) ∧ t.herd.st = s.herd.st ∧ unchangedBut [.herd, .sent] s t)
    ∧ (∀ code, s.herd.st = .joining → ∃ t, exec (.statusRecordSend (some code)) s = .next t
      ∧ t.herd.st = .refused ∧ t.herd.code = code ∧ (getHdr t pgHerd).irqStat = (getHdr s pgHerd).irqStat ||| 0x10))
  ∧ (∀ (s : State) (at_ : Nat) (x : Option Byte), s.herd.sentAt = some at_ → now s < at_ + max 1 (fld (herdHb s) 7 0) * 1000000 →
    exec (.statusRecordSend x) s = .next s)
  ∧ (∀ (s : State) (rid : BitVec 16) (r : Vector Word 16), let p := msgSrc r
    let x := getPeer s p
    let a := mbxBase s + 64 * p
    let arrives : Prop := inReset s = false ∧ s.pcie.linkUp = true ∧ domOn s 15 = true ∧ (ridPeer s rid).isSome = true
      ∧ ∃ off, bar2Offset a = some off ∧ inAperture s true off 64 = true
    let told : Peer := { x with state := BitVec.ofNat 3 (fld r[1] 2 0), role := BitVec.ofNat 2 (fld r[1] 5 4), seenAt := now s
                                t1 := pair64 r[3] r[2], t1At := s.time.now, actTime := pair64 r[9] r[8] }
    let sound : Prop := crcGood r = true ∧ msgType r = 0x80 ∧ (r[15]).getLsbD 31 = true
    injectorOff s → herdAlone s = false →
    (arrives → sound → peerValid s p = true → peerRid s p = rid → devRefusal s true a 64 = none → 2 ^ (fld r[1] 14 12 + 4) = peerDepth s p →
      (fld r[1] 2 0 ≠ 3 → ∃ t, exec (.statusRecordRx rid r) s = .next t
        ∧ getPeer t p = { told with up := true }
        ∧ (∀ q, q ≠ p → getPeer t q = getPeer s q)
        ∧ (getHdr t pgHerd).irqStat = (if x.up then (getHdr s pgHerd).irqStat else (getHdr s pgHerd).irqStat ||| 4)
        ∧ t.herd.members = (if s.herd.st = .bellwether then s.herd.members ||| oneBit 16 p else s.herd.members)
        ∧ t.mem = (devPut pgHerd .other a (wordsBytes r.toList) s).mem ∧ unchangedBut [.herd, .mem, .bus, .pcie, .sent] s t)
      ∧ (fld r[1] 2 0 = 3 → s.herd.st = .member → s.herd.bellId.toNat = p → (r[1]).getLsbD 15 = false →
        ∃ t, exec (.statusRecordRx rid r) s = .next t ∧ t.herd.st = .member ∧ t.herd.members = BitVec.ofNat 16 (fld r[1] 31 16)
          ∧ t.herd.hoffset = (((pair64 r[7] r[6]).toInt - (pair64 r[5] r[4]).toInt) + ((pair64 r[3] r[2]).toInt - s.time.now.toInt)) / 2
          ∧ t.herd.locked = decide ((((s.time.now.toInt - (pair64 r[5] r[4]).toInt) - ((pair64 r[3] r[2]).toInt
              - (pair64 r[7] r[6]).toInt)) / 2) ≤ 1000))
      ∧ (fld r[1] 2 0 = 3 → s.herd.st = .bellwether → herdId s ≤ p → ∃ t, exec (.statusRecordRx rid r) s = .next t
        ∧ getPeer t p = { told with up := true } ∧ t.herd.st = .bellwether ∧ t.herd.members = s.herd.members ||| oneBit 16 p))
    ∧ (arrives → sound → peerValid s p = true → peerRid s p = rid → devRefusal s true a 64 = none → 2 ^ (fld r[1] 14 12 + 4) ≠ peerDepth s p →
      fld r[1] 2 0 ≠ 3 → ∃ t, exec (.statusRecordRx rid r) s = .next t ∧ getPeer t p = told ∧ (∀ q, q ≠ p → getPeer t q = getPeer s q)
        ∧ getHdr t pgHerd = (getHdr s pgHerd).capture (0x50 + BitVec.ofNat 8 p) eFormat (BitVec.ofNat 40 a)
        ∧ unchangedBut [.herd, .mem, .bus, .pcie, .sent] s t)
    ∧ (∀ q, arrives → ¬ sound → ridPeer s rid = some q → ∃ t, exec (.statusRecordRx rid r) s = .next t
        ∧ getPeer t q = { getPeer s q with badCnt := satInc (getPeer s q).badCnt } ∧ (∀ j, j ≠ q → getPeer t j = getPeer s j)
        ∧ unchangedBut [.herd] s t)
    ∧ (∀ q off, inReset s = false → s.pcie.linkUp = true → domOn s 15 = true → fnExists s 0 = true → ridPeer s rid = some q →
      bar2Offset a = some off → inAperture s true off 64 = false → ∃ t, exec (.statusRecordRx rid r) s = .next t
        ∧ getHdr t pgHerd = (getHdr s pgHerd).capture (0x50 + BitVec.ofNat 8 q) ePermission (BitVec.ofNat 40 a)
        ∧ getReg t pgPcie 0 0x06C = getReg s pgPcie 0 0x06C + 1 ∧ getReg t pgNoc 0 0x048 = getReg s pgNoc 0 0x048 + 1
        ∧ unchangedBut [.bus, .pcie, .sent] s t))
  ∧ (∀ (s : State) (p : Fin 16), herdAlone s = false → peerValid s p = true →
    (peerMissed s p < fld (herdHb s) 11 8 → exec (.peerMiss p) s = .next s)
    ∧ (fld (herdHb s) 11 8 ≤ peerMissed s p → ∃ t, exec (.peerMiss p) s = .next t
      ∧ getPeer t p = { getPeer s p with up := false }
      ∧ (∀ q, q ≠ p.val → getPeer t q = getPeer s q)
      ∧ ((getPeer s p).up = true → (getHdr t pgHerd).irqStat.getLsbD 1 = true)
      ∧ (((s.herd.bellId.toNat ≠ p.val ∧ (getPeer s s.herd.bellId.toNat).up = true) ∨ s.herd.st = .bellwether) → t.herd.st = s.herd.st ∧ t.herd.bellId = s.herd.bellId)
      ∧ ((s.herd.bellId.toNat = p.val ∨ (getPeer s s.herd.bellId.toNat).up = false) → s.herd.st = .member → herdAuto s = true →
          (∀ q, q < herdId s → peerValid s q = true → q ≠ p.val → (getPeer s q).up = false) →
          t.herd.st = .bellwether ∧ t.herd.bellId = BitVec.ofNat 4 (herdId s) ∧ t.herd.hoffset = 0
            ∧ (getHdr t pgHerd).irqStat.getLsbD 3 = true)
      ∧ unchangedBut (if s.herd.bellId.toNat = p.val then [.herd, .bus, .pcie, .sent, .trust] else [.herd, .bus, .pcie, .sent]) s t))
  ∧ (∀ (s : State) (r : Requester) (v : Word) (c : Nat), Taken s r pgHerd 0x0B8 → selCopy r = some c → injectorOff s → let p := fld v 3 0
    let x := getPeer s p
    let d := peerDepth s p
    fld v 15 8 < 0x80 → p ≠ herdId s →
    ((herdAlone s = true ∨ peerValid s p = false ∨ x.up = false) → ∃ t, exec (.mbxSend r v) s = .next t
      ∧ storeGet (fun _ => 0) t.herd.result c = 0x13 ∧ t.herd.peers = s.herd.peers ∧ t.sent = s.sent)
    ∧ (herdAlone s = false → peerValid s p = true → x.up = true → fnCanSend s 0 = true →
      (d ≤ (x.txSeq - peerCredit s p).toNat → ∃ t, exec (.mbxSend r v) s = .next t
        ∧ storeGet (fun _ => 0) t.herd.result c = 0x12 ∧ t.herd.peers = s.herd.peers ∧ t.sent = s.sent)
      ∧ ((x.txSeq - peerCredit s p).toNat < d → ∃ t, exec (.mbxSend r v) s = .next t
        ∧ storeGet (fun _ => 0) t.herd.result c = at_ 16 x.txSeq.toNat ∧ getPeer t p = { x with txSeq := x.txSeq + 1 }
        ∧ (∀ q, q ≠ p → getPeer t q = getPeer s q)
        ∧ t.sent = .peerWrite (peerMbx s p + BitVec.ofNat 64 (1024 + 64 * (herdId s * d + x.txSeq.toNat % d)))
            (sealMessage ((at_ 0 (herdId s) ||| at_ 4 p ||| at_ 8 (fld v 15 8) ||| at_ 16 x.txSeq.toNat)
              :: (List.range 14).map fun i => storeGet (fun _ => 0) s.herd.tx (c * 16 + i + 1))) :: s.sent
        ∧ unchangedBut [.herd, .sent] s t)))
  ∧ (∀ (s : State) (rid : BitVec 16) (p : Fin 16) (slot : Nat) (m : Vector Word 16), injectorOff s → herdAlone s = false →
    let x := getPeer s p
    let d := mbxDepth s
    let a := mbxBase s + 1024 + 64 * (p * d + slot)
    let arrives : Prop := inReset s = false ∧ s.pcie.linkUp = true ∧ domOn s 15 = true ∧ (ridPeer s rid).isSome = true
      ∧ ∃ off, bar2Offset a = some off ∧ inAperture s true off 64 = true
    arrives →
    ((slot < d ∧ peerValid s p = true ∧ peerRid s p = rid ∧ crcGood m = true ∧ msgType m < 0x80 ∧ msgSeq m = x.rxSeq ∧ x.got = []
        ∧ devRefusal s true (mbxBase s + 1024 + 64 * (p * d + (msgSeq m).toNat % d)) 64 = none) →
      ∃ t, exec (.messageRx rid p slot true m) s = .next t ∧ getPeer t p = { x with rxSeq := x.rxSeq + 1 }
        ∧ (∀ q, q ≠ p.val → getPeer t q = getPeer s q)
        ∧ t.mem = (devPut pgHerd .other (mbxBase s + 1024 + 64 * (p * d + (msgSeq m).toNat % d)) (wordsBytes m.toList) s).mem
        ∧ (getHdr t pgHerd).irqStat = (getHdr s pgHerd).irqStat ||| 1 ∧ unchangedBut [.herd, .mem, .bus, .pcie, .sent] s t)
    ∧ (∀ aligned, (aligned = false ∨ d ≤ slot ∨ peerRid s p ≠ rid ∨ crcGood m = false ∨ 0x80 ≤ msgType m
          ∨ d ≤ (msgSeq m - x.rxSeq).toNat) →
      ∃ t, exec (.messageRx rid p slot aligned m) s = .next t ∧ getPeer t p = { x with badCnt := satInc x.badCnt }
        ∧ (∀ q, q ≠ p.val → getPeer t q = getPeer s q) ∧ unchangedBut [.herd] s t))
  ∧ (∀ (s : State) (p : Fin 16) (since : Nat) (q : BitVec 16), (getPeer s p).got = [(q, since)] →
    (q - (getPeer s p).rxSeq).toNat < 65535 → since + fld (herdHb s) 23 16 * 1000000 ≤ now s → ∃ t, exec (.gapTimeout p) s = .next t
      ∧ getPeer t p = { getPeer s p with rxSeq := q + 1, got := [], gapCnt := satInc (getPeer s p).gapCnt }
      ∧ (∀ j, j ≠ p.val → getPeer t j = getPeer s j)
      ∧ (getHdr t pgHerd).irqStat = (getHdr s pgHerd).irqStat ||| 1 ∧ unchangedBut [.herd, .bus, .pcie, .sent] s t)
  ∧ (∀ (s : State) (r : Requester) (v : Word) (p : Nat), Taken s r pgHerd 0x41C → selChan s r pgHerd = some p → peerValid s p = true →
    herdAlone s = false → fnCanSend s 0 = true → ∃ t, exec (.rxDone r v) s = .next t
      ∧ getPeer t p = { getPeer s p with rxDone := v.setWidth 16 } ∧ (∀ q, q ≠ p → getPeer t q = getPeer s q)
      ∧ t.sent = .peerWrite (peerMbx s p + BitVec.ofNat 64 (1024 + 1024 * peerDepth s p + 4 * herdId s)) (bytesOf 4 (fld v 15 0)) :: s.sent
      ∧ unchangedBut [.herd, .sent] s t))
  ∧ ((∀ (s : State) (r : Requester) (v : Word) (c : Nat), Taken s r pgLfi 0x400 → selChan s r pgLfi = some c → lfiEn s c = false →
    fld v 2 1 ≠ 3 → fld v 4 3 ≠ 3 → v.getLsbD 0 = true →
    (lfiOpen s = true → ∃ t, exec (.lfiEnable r v) s = .next t ∧ lfiReg t c 0x400 = v &&& 0x0001FF3F
      ∧ getLfi t c = { getLfi s c with items := 0, lfsr := if lfiReg s c 0x408 = 0 then 1 else lfiReg s c 0x408 } ∧ (∀ d, d ≠ c → getLfi t d = getLfi s d)
      ∧ (∀ p k o, regKey p k o ≠ regKey pgLfi c 0x400 → getReg t p k o = getReg s p k o)
      ∧ unchangedBut [.bus, .lfi] s t)
    ∧ (lfiOpen s = false → ∃ t, exec (.lfiEnable r v) s = .next t ∧ lfiEn t c = false
      ∧ getHdr t pgLfi = (getHdr s pgLfi).capture r.code ePermission (regAddr pgLfi 0x400) ∧ unchangedBut [.bus, .pcie, .sent] s t))
  ∧ (∀ (s : State) (c : Fin 4) (bus : DWord) (bs : List Byte), (getLfi s c).held = some (.sent bus bs) → (getLfi s c).heldAt + 1000 ≤ now s →
    ∃ t, exec (.lfiReorderTimeout c) s = .next t ∧ t.sent = .peerWrite bus bs :: s.sent ∧ getLfi t c = { getLfi s c with held := none }
      ∧ (∀ d, d ≠ c.val → getLfi t d = getLfi s d) ∧ unchangedBut [.lfi, .sent] s t)
  ∧ (∀ (s : State) (rid : BitVec 16) (p : Fin 16) (slot : Nat) (aligned : Bool) (m : Vector Word 16), lfiOn s 0 lfiMbx p 0 = true →
    (∀ c, c < 4 → c ≠ 0 → lfiStream s c lfiMbx p 0 = false) → inReset s = false → s.pcie.linkUp = true → domOn s 15 = true →
    herdAlone s = false → (ridPeer s rid).isSome = true →
    (∃ off, bar2Offset (mbxBase s + 1024 + 64 * (p * mbxDepth s + slot)) = some off ∧ inAperture s true off 64 = true) → (getLfi s 0).held = none → fld (lfiReg s 0 0x400) 5 3 = 0 →
    fld (lfiReg s 0 0x404) 15 0 = 1 → ∃ t, exec (.messageRx rid p slot aligned m) s = .next t ∧ t.herd = s.herd ∧ t.mem = s.mem
      ∧ getLfi t 0 = { getLfi s 0 with items := (getLfi s 0).items + 1, lfsr := (getLfi t 0).lfsr }
      ∧ getReg t pgLfi 0 0x414 = getReg s pgLfi 0 0x414 + 1 ∧ (getHdr t pgLfi).irqStat = (getHdr s pgLfi).irqStat ||| 1
      ∧ unchangedBut [.bus, .lfi, .pcie, .sent] s t))

/-- R143, R144 and R382 to R389, R413, R414: power. A request by its owner for a state that the domain may have starts the change; a
fixed domain or a state that does not exist is FORMAT, and another requester is refused. A reached state is the target, and TRANSITION
is raised. The poll that finds the voltage within 10 mV with DONE settles the rail; four frames without an answer are AVS_FAULT. The
model's choices in it: log entries 2, 57, 58, 152 and 153. -/
def Obligations.powerDomains : Prop :=
  (∀ (s : State) (r : Requester) (n : Fin 20) (v : Word), Taken s r pgPower (0x080 + 4 * n) → r = .mgmt → domPresent s.fuses.variant n = true →
    let d := dom s n
    ((domFixed n = true ∨ fld v 1 0 = 3 ∨ (fld v 1 0 = 1 ∧ domRetains n = false)) →
      ∃ t, exec (.powerDomainRequest r n v) s = .next t ∧ t.power = s.power
        ∧ getHdr t pgPower = (getHdr s pgPower).capture r.code eFormat (regAddr pgPower (0x080 + 4 * n)) ∧ unchangedBut [.bus, .pcie, .sent] s t)
    ∧ (domFixed n = false → d.moving = false → fld v 1 0 = 0 → d.state = 2 →
      (3 ≤ n.val → n.val ≤ 8 → coreHeld s (n - 3) = false → ∃ t, exec (.powerDomainRequest r n v) s = .next t
        ∧ dom t n = { d with target := 0, moving := true } ∧ (∀ m, m ≠ n.val → dom t m = dom s m) ∧ unchangedBut [.power] s t)
      ∧ (9 ≤ n.val → n.val ≤ 12 → sliceGolden s (n - 9) = false → ∃ t, exec (.powerDomainRequest r n v) s = .next t
        ∧ dom t n = { d with target := 0, moving := true } ∧ (getSlice t (n - 9)).refusing = true ∧ (getSlice t (n - 9)).target = 0
        ∧ (∀ a, memByte t a = memByte s a) ∧ unchangedBut [.power, .mem] s t)
      ∧ (13 < n.val → ((domPages n).any fun p => (getHdr s p).enable || blockBusy s p) = true → ∃ t, exec (.powerDomainRequest r n v) s = .next t
        ∧ t.power = s.power ∧ getHdr t pgPower = (getHdr s pgPower).capture r.code eWriteRunning (regAddr pgPower (0x080 + 4 * n)))))
  ∧ (∀ (s : State) (r : Requester) (n : Fin 20) (v : Word), Taken s r pgPower (0x080 + 4 * n) → r.isOwner = false →
    ∃ t, exec (.powerDomainRequest r n v) s = .next t ∧ t.power = s.power
      ∧ getHdr t pgPower = (getHdr s pgPower).capture r.code ePermission (regAddr pgPower (0x080 + 4 * n)))
  ∧ (∀ (s : State) (n : Fin 20), domFixed n = false → (dom s n).moving = true → (dom s n).fenceWaits = 0 →
    ¬ (9 ≤ n.val ∧ n.val ≤ 12 ∧ (getSlice s (n - 9)).refusing = true) → ∃ t, exec (.domainStateReached n) s = .next t
      ∧ dom t n = { target := (dom s n).target, state := (dom s n).target, moving := false }
      ∧ (∀ m, m ≠ n.val → dom t m = dom s m) ∧ (getHdr t pgPower).irqStat.getLsbD 2 = true)
  ∧ (∀ (s : State) (gib : Fin 65) (ch : BitVec 16), domOn s 14 = true → s.mem.trained = false → s.reset_.romStarted = true →
    s.reset_.recovery = false → ∃ t, exec (.dramTrained gib ch) s = .next t
    ∧ t.mem = { s.mem with trained := true, dramGib := gib, chOk := ch, selfRefresh := false }
    ∧ (getHdr t pgDdr).irqStat = (getHdr s pgDdr).irqStat ||| 4 ∧ unchangedBut [.mem, .bus, .pcie, .sent] s t)
  ∧ (∀ (s : State), s.power.polling = true → s.time.running = true →
    (∀ a : AvsReply, a.done = true → a.mv.toNat ≤ s.power.railTarget.toNat + 10 → s.power.railTarget.toNat ≤ a.mv.toNat + 10 →
      s.pacer.railUse = .none → PacerAtRest s → ∃ t, exec (.railPoll [some a]) s = .next t
        ∧ t.power = { s.power with railMv := a.mv, railSettled := true, polling := false }
        ∧ t.pacer = { s.pacer with railMv := a.mv, settled := true } ∧ unchangedBut [.power, .pacer] s t)
    ∧ (∃ t, exec (.railPoll [none, none, none, none]) s = .next t
        ∧ t.power = { s.power with retries := satInc s.power.retries 3, avsFault := true, polling := false }
        ∧ (getHdr t pgPower).irqStat = (getHdr s pgPower).irqStat ||| 1 ∧ unchangedBut [.power, .bus, .pcie, .sent] s t))
  ∧ (∀ (s : State) (r : Requester) (v : Word), Taken s r pgPower 0x040 →
    ((v.getLsbD 0 = false ∨ dripReady s = true) → ∃ t, exec (.dripModeWrite r v) s = .next t
      ∧ t.power = { s.power with drip := v.getLsbD 0 } ∧ unchangedBut [.power] s t)
    ∧ (v.getLsbD 0 = true → dripReady s = false → ∃ t, exec (.dripModeWrite r v) s = .next t ∧ t.power = s.power
      ∧ getHdr t pgPower = (getHdr s pgPower).capture r.code 0x10 (regAddr pgPower 0x040) ∧ unchangedBut [.bus, .pcie, .sent] s t))
  ∧ (∀ (s : State) (r : Requester) (m : Fin 2) (v : Word), Taken s r pgPower (0x0E4 + 0x10 * m) → s.power.i2cBusy.getLsbD m = false →
    v.getLsbD 31 = true → (getReg s pgPower 0 (0x0E0 + 0x10 * m)).getLsbD 0 = true → ∃ t, exec (.i2cGo r m v) s = .next t
      ∧ t.sent = .i2c m (v &&& 0x7FF) (getPair s pgPower 0 (0x0E8 + 0x10 * m)) :: s.sent
      ∧ getReg t pgPower 0 (0x0E4 + 0x10 * m) = v &&& 0x7FF ∧ t.power.i2cBusy = s.power.i2cBusy ||| oneBit 2 m
      ∧ t.power.i2cNack = s.power.i2cNack &&& ~~~(oneBit 2 m) ∧ unchangedBut [.bus, .power, .sent] s t)
  ∧ (∀ (s : State) (m : Fin 2) (nack : Bool) (data : DWord), s.power.i2cBusy.getLsbD m = true →
    let cmd := getReg s pgPower 0 (0x0E4 + 0x10 * m)
    ∃ t, exec (.i2cDone m nack data) s = .next t ∧ t.power.i2cBusy = s.power.i2cBusy &&& ~~~(oneBit 2 m)
      ∧ t.power.i2cNack = (if nack then s.power.i2cNack ||| oneBit 2 m else s.power.i2cNack)
      ∧ getPair t pgPower 0 (0x0E8 + 0x10 * m) = (if cmd.getLsbD 7 && !nack
          then data &&& BitVec.ofNat 64 (2 ^ (8 * (fld cmd 10 8 + 1)) - 1) else getPair s pgPower 0 (0x0E8 + 0x10 * m))
      ∧ (getHdr t pgPower).irqStat = (getHdr s pgPower).irqStat ||| oneBit 32 (3 + m) ∧ unchangedBut [.bus, .power, .pcie, .sent] s t)

/-- R399 to R404, R407, R415 and R464: resets. An L0 to L2 source starts an episode of its level: fabric state is lost, and L2 keeps
DRAM's bytes (R398); POR and BOR do all of it again within an episode (R443). During a non-volatile write pulse it is held off and
counted, but POR and BOR cut the pulse: each bit that it was to blow is left open, those burnt before stay, and a rising security
version stops between the old value and the new. The stretch of a pulse ends its assertion, and an episode whose sources have all
released starts the ROM. R394, R396 and R416: time. It starts with the crystal; MGMT alone sets it, while no class is past DEFINED; a
whole second raises PPS_OUT where it is enabled, for its width. R394, with the model's choice (the log) that a step on an empty queue
is one 40 ns period of the crystal: while time does not run nothing happens; while it runs, device time advances by 40 ns at RATE 0,
and the management watchdog's count by one; with no notice to end, no scrub or load under way and no UART holding its direction pin,
nothing else changes but that ended fuse pulses are past recall. The model's choices in it: log entries 1, 55, 56, 114, 157 and 176.
-/
def Obligations.resetsAndTime : Prop :=
  ((∀ (s : State) (c : Fin 14), srcLevel s c ≠ 3 → s.reset_.episode = none → s.reset_.exit = none → (pulseBusy s = false ∨ c.val < 2) →
    (∀ k, k < 4 → (getLfi s k).held = none) →
    let l := srcLevel s c
    ∃ t, exec (.resetSourceAssert c) s = .next t
      ∧ (∃ srcs, t.reset_.episode = some (BitVec.ofNat 2 l, srcs) ∧ srcs.getLsbD c = true ∧ t.reset_.cause = srcs)
      ∧ t.reset_.lastLevel = BitVec.ofNat 2 l ∧ t.reset_.exit = none ∧ t.reset_.romStarted = false
      ∧ t.reset_.epoch = (if l = 0 then 0 else s.reset_.epoch + 1) ∧ t.reset_.asserted = s.reset_.asserted ||| oneBit 14 c
      ∧ t.pacer.jobs = [] ∧ (∀ k, getClass t k = {}) ∧ t.pending = s.pending ∧ ((2 ≤ c.val ∨ s.fuseOld = none) → t.fuses = s.fuses)
      ∧ (l = 2 → ∀ a, place a = .dram → memByte t a = memByte s a))
  ∧ (∀ (s : State) (c : Fin 14) (old : Fuses), c.val < 2 → s.fuseOld = some old → now s < s.trust.fuseUntil → (∀ k, k < 4 → (getLfi s k).held = none) →
    let between {w : Nat} (old new cut : BitVec w) : Prop := ∃ free : BitVec w, cut = old ||| (new &&& ~~~old &&& free)
    let hash (f : Fuses) (i : Nat) : BitVec 384 := storeGet (fun _ => 0) f.ownerHash i
    ∃ t v, exec (.resetSourceAssert c) s = .next t ∧ t.fuseOld = none ∧ svnCount old ≤ v ∧ v ≤ max (svnCount old) (svnCount s.fuses)
      ∧ t.fuses = { old with
          svn := svnCode v, ownerHash := t.fuses.ownerHash, ownerValid := t.fuses.ownerValid, ownerRevoked := t.fuses.ownerRevoked
          lifecycle := t.fuses.lifecycle }
      ∧ between old.ownerValid s.fuses.ownerValid t.fuses.ownerValid ∧ between old.ownerRevoked s.fuses.ownerRevoked t.fuses.ownerRevoked
      ∧ (∀ i, i < 4 → between (hash old i) (hash s.fuses i) (hash t.fuses i))
      ∧ (t.fuses.lifecycle = old.lifecycle ∨ t.fuses.lifecycle = s.fuses.lifecycle))
  ∧ (∀ (s : State) (c : Fin 14), c.val < 2 → s.reset_.episode ≠ none → ∃ t, exec (.resetSourceAssert c) s = .next t
    ∧ (∃ srcs, t.reset_.episode = some (0, srcs) ∧ srcs.getLsbD c = true) ∧ t.reset_.fusesRead = false ∧ t.reset_.romStarted = false
    ∧ (∀ i, (getPin t i).drive = .hiZ))
  ∧ (∀ (s : State) (c : Fin 14), 2 ≤ c.val → pulseBusy s = true → ∃ t, exec (.resetSourceAssert c) s = .next t
    ∧ t.reset_ = { s.reset_ with deferred := s.reset_.deferred ||| oneBit 14 c, deferCnt := satInc s.reset_.deferCnt }
    ∧ (getHdr t pgReset).irqStat = (getHdr s pgReset).irqStat ||| 4 ∧ unchangedBut [.reset, .bus, .pcie, .sent] s t)
  ∧ (∀ (s : State) (c : Fin 14), s.reset_.deferred = oneBit 14 c → s.reset_.flrDeferred = 0 → s.trust.sstoreBusy = false →
    exec .deferralEnd s = .next (deferredEnded (oneBit 14 c &&& s.reset_.ended)
      (sourceEffect c (modReset (fun r => { r with deferred := 0, flrDeferred := 0 })
        { modTrust (fun t => { t with fuseUntil := 0 }) s with fuseOld := none }))))
  ∧ (∀ (s : State) (c : Fin 14) (l : BitVec 2), srcPulse c = true → s.reset_.stretch = oneBit 14 c → s.reset_.asserted = oneBit 14 c →
    s.reset_.episode = some (l, oneBit 14 c) → s.trust.upd = .idle → debugOpens s l.toNat = false → s.time.running = false →
    (∃ t, exec (.resetStretchEnd c) s = .next t ∧ t.reset_.asserted = 0 ∧ t.reset_.stretch = 0 ∧ t.reset_.episode = none
      ∧ t.reset_.exit = some l ∧ t.reset_.romStarted = true ∧ t.time = { s.time with wdtOn := true, wdtTicks := 0 }
      ∧ t.trust = { s.trust with booted := false, bootWait := false }
      ∧ (∀ a, memByte t a = if a = bkpBase then satInc (memByte s a) else memByte s a)
      ∧ unchangedBut [.reset, .time, .trust, .mem, .bus, .pcie, .sent] s t))
  ∧ (∀ (s : State) (c : Fin 14), c.val ∈ [3, 13] → s.reset_.asserted.getLsbD c = true → s.reset_.stretch.getLsbD c = true →
    ∃ t, exec (.resetSourceRelease c) s = .next t ∧ t.reset_ = { s.reset_ with ended := s.reset_.ended ||| oneBit 14 c }
      ∧ t.pcie = (if c.val = 3 then { s.pcie with perst := false } else s.pcie) ∧ unchangedBut [.reset, .pcie] s t)
  ∧ (∀ (s : State), s.reset_.stretch.getLsbD 3 = false → s.reset_.episode = none → s.reset_.exit = none →
    ∃ t, exec (.resetSourceRelease 3) s = .next t
      ∧ t.reset_ = { s.reset_ with
        asserted := s.reset_.asserted &&& ~~~(oneBit 14 3)
        ended := if s.reset_.deferred.getLsbD 3 then s.reset_.ended ||| oneBit 14 3 else s.reset_.ended }
      ∧ t.pcie = { s.pcie with perst := false } ∧ unchangedBut [.reset, .pcie] s t)
  ∧ (∀ (s : State) (r : Requester) (v : Word),
    (Taken s r pgReset 0x054 → r.isOwner = true → fld v 31 16 = 0x5E5E → fld v 1 0 ∈ [0, 2] →
      exec (.swrst r v) s = .next (sourceAssert (if fld v 1 0 = 0 then 8 else 9) s))
    ∧ (Taken s r pgReset 0x054 → r.isOwner = true → fld v 31 16 ≠ 0x5E5E → ∃ t, exec (.swrst r v) s = .next t ∧ t.reset_ = s.reset_
      ∧ getHdr t pgReset = (getHdr s pgReset).capture r.code eFormat (regAddr pgReset 0x054) ∧ unchangedBut [.bus, .pcie, .sent] s t)
    ∧ (Taken s r pgReset 0x05C → r.isOwner = true → fld v 31 16 = 0xC1EA → ∃ t, exec (.recover r v) s = .next t
      ∧ t.reset_ = { s.reset_ with recovery := false, history := [], histNext := 0, histCount := 0 } ∧ unchangedBut [.reset] s t)
    ∧ (Taken s r pgReset 0x0A4 → r = .mgmt → fld v 1 0 = 2 → ∃ t, exec (.serviceDeclare r v) s = .next t
      ∧ t.reset_ = { s.reset_ with service := 2, exit := none } ∧ (getHdr t pgReset).irqStat = (getHdr s pgReset).irqStat ||| 1
      ∧ unchangedBut [.reset, .bus, .pcie, .sent] s t)
    ∧ (Taken s r pgReset 0x0A4 → r ≠ .mgmt → ∃ t, exec (.serviceDeclare r v) s = .next t ∧ t.reset_ = s.reset_
      ∧ getHdr t pgReset = (getHdr s pgReset).capture r.code ePermission (regAddr pgReset 0x0A4) ∧ unchangedBut [.bus, .pcie, .sent] s t))
  ∧ (∀ (s : State), s.reset_.fusesRead = false → ∃ t, exec .fuseReadComplete s = .next t ∧ t.reset_ = { s.reset_ with fusesRead := true }
    ∧ (∀ i, i < 48 → (getPin t i).latch = false ∧ (getPin t i).driven = false
        ∧ (getPin t i).drive = (if pinCode s i = 1 then .pullDown else if pinCode s i = 2 then .pullUp
            else if pinCode s i = 3 then .low else if pinCode s i = 4 ∧ openDrain i = false then .high else .hiZ))
    ∧ unchangedBut [.reset, .pins, .free] s t)
  ∧ (∀ (s : State) (n : Fin 32), ¬ (n.val = pgPacer ∧ s.pacer.resetWait = true) → ∃ t, exec (.blockReportsReady (.page n)) s = .next t
    ∧ getHdr t n = { getHdr s n with resetBusy := false } ∧ (∀ q, q ≠ n.val → getHdr t q = getHdr s q) ∧ unchangedBut [.bus] s t)
  ∧ (∀ (s : State) (f : Fin 16), ∃ t, exec (.blockReportsReady (.fn f)) s = .next t ∧ getFn t f = { getFn s f with flrBusy := false }
    ∧ (∀ g, g ≠ f.val → getFn t g = getFn s g) ∧ unchangedBut [.pcie] s t))
  ∧ ((∀ (s : State), s.time.running = false → ∃ t, exec .crystalStart s = .next t ∧ t.time = { s.time with running := true }
    ∧ (s.reset_.romStarted = false → unchangedBut [.time] s t)
    ∧ (s.reset_.romStarted = true → t.power.railTarget = BitVec.ofNat 10 s.fuses.bootMv.toNat ∧ t.power.polling = true
      ∧ t.sent = .avsTarget (BitVec.ofNat 10 s.fuses.bootMv.toNat) :: s.sent ∧ unchangedBut [.time, .power, .pacer, .sent] s t))
  ∧ (∀ (s : State) (r : Requester) (lo hi : Word), Taken s r pgTime 0x050 → hiHeld s r pgTime 0 0x050 = some hi →
    (r = .mgmt → (∀ k, k < 64 → (getClass s k).st = .free ∨ (getClass s k).st = .defined) → ∃ t, exec (.timeSet r lo) s = .next t
      ∧ t.time = { s.time with now := pair64 hi lo, frac := 0 } ∧ unchangedBut [.time, .bus] s t)
    ∧ ((r ≠ .mgmt ∨ ∃ k, k < 64 ∧ (getClass s k).st ∈ [.accepted, .revoking, .shed]) → ∃ t, exec (.timeSet r lo) s = .next t
      ∧ t.time = s.time ∧ getHdr t pgTime = (getHdr s pgTime).capture r.code ePermission (regAddr pgTime 0x050)))
  ∧ (∀ (s : State), (getReg s pgTime 0 0x060).getLsbD 0 = true → s.time.running = true → now s % 1000000000 ≤ 40 →
    ∃ t, exec .ppsPulse s = .next t ∧ t.time = { s.time with ppsHigh := true, ppsFrom := now s }
      ∧ (∀ i, getPin t i = if i = 44 then { drive := .high, latch := true, driven := true } else getPin s i) ∧ unchangedBut [.time, .pins] s t)
  ∧ (∀ (s : State), s.time.ppsHigh = true → s.time.ppsFrom + fld (getReg s pgTime 0 0x060) 15 8 * 1000000 ≤ now s →
    ∃ t, exec .ppsWidthEnd s = .next t ∧ t.time = { s.time with ppsHigh := false }
      ∧ (∀ i, getPin t i = if i = 44 then { drive := .low, latch := false, driven := true } else getPin s i) ∧ unchangedBut [.time, .pins] s t))
  ∧ (∀ (s : State), s.pending = [] →
    (s.time.running = false → step s = .next s)
    ∧ (s.time.running = true → fld (getReg s pgTime 0 0x048) 1 0 = 0 → (∀ k, k < 64 → (getClass s k).st ≠ .revoking ∧ (getClass s k).shrinks = []) →
      s.mem.scrubBusy = false → s.trust.upd ≠ .checking → s.trust.upd ≠ .writing →
      (∀ u, u < 2 → (getUart s u).deUntil = none) →
      ∃ t, step s = .next t
        ∧ t.time = { s.time with now := s.time.now + 40, wdtTicks := s.time.wdtTicks + (if s.time.wdtOn then 1 else 0) }
        ∧ t.fuseOld = (if s.trust.fuseUntil ≤ now t then none else s.fuseOld) ∧ unchangedBut [.time, .fuseOld] s t))

/-- R419 to R421, R423, R426, R434, R438, R460 and R461: the lifecycle, debug access, tamper, SSTORE and the TAP. Commands with the
key move the lifecycle forward; without it, PERMISSION. In DEPLOYED the last good owner hash cannot be revoked. A challenge that is
answered in time and rightly arms debug access; one that has expired records EXPIRED. The model's choices in it: log entries 31, 107,
108, 113 and 177. -/
def Obligations.lifecycle : Prop :=
  (∀ (s : State) (r : Requester) (arg : Fin 4) (key : BitVec 16), Taken s r pgSec 0x048 → (r ≠ .mgmt ∨ key ≠ 0x7A3C) →
    let refuses (i : Instr) : Prop := ∃ t, exec i s = .next t ∧ t.fuses = s.fuses
      ∧ getHdr t pgSec = (getHdr s pgSec).capture r.code ePermission (regAddr pgSec 0x048) ∧ unchangedBut [.bus, .pcie, .sent] s t
    refuses (.provision r arg key) ∧ refuses (.deploy r key) ∧ refuses (.returnLc r key) ∧ refuses (.revokeOwnerHash r arg key))
  ∧ (∀ (s : State) (r : Requester) (arg : Fin 4), Taken s r pgSec 0x048 → r = .mgmt →
    (s.fuses.ownerValid.getLsbD arg = false → ∃ t, exec (.provision r arg 0x7A3C) s = .next t
      ∧ t.fuses = { s.fuses with
          ownerHash := storeSet (fun _ => 0) s.fuses.ownerHash arg (hashIn s), ownerValid := s.fuses.ownerValid ||| oneBit 4 arg
          lifecycle := if s.fuses.lifecycle = .blank then .provisioned else s.fuses.lifecycle }
      ∧ t.trust.fuseUntil = now s + 12000 ∧ (s.fuseOld = none → t.fuseOld = some s.fuses) ∧ unchangedBut [.fuses, .fuseOld, .trust, .free] s t)
    ∧ (s.fuses.lifecycle = .provisioned → (∃ k, k < 4 ∧ ownerGood s.fuses k = true) → injectorOff s → (∀ c, c < 4 → (getLfi s c).held = none) →
      ∃ t, exec (.deploy r 0x7A3C) s = .next t ∧ t.fuses = { s.fuses with lifecycle := .deployed }
        ∧ (∀ p c o, getReg t p c o = getReg s p c o) ∧ unchangedBut [.fuses, .fuseOld, .trust, .bus] s t)
    ∧ (s.fuses.lifecycle ≠ .provisioned → ∃ t, exec (.deploy r 0x7A3C) s = .next t ∧ t.fuses = s.fuses
        ∧ getHdr t pgSec = (getHdr s pgSec).capture r.code eFormat (regAddr pgSec 0x048))
    ∧ (s.fuses.lifecycle ≠ .returned → ∃ t, exec (.returnLc r 0x7A3C) s = .next t ∧ t.fuses = { s.fuses with lifecycle := .returned }
        ∧ t.trust.keysBlocked = true ∧ unchangedBut [.fuses, .fuseOld, .trust] s t)
    ∧ ((s.fuses.lifecycle ≠ .deployed ∨ ∃ k, k < 4 ∧ k ≠ arg.val ∧ ownerGood s.fuses k = true) →
      ∃ t, exec (.revokeOwnerHash r arg 0x7A3C) s = .next t
        ∧ t.fuses = { s.fuses with ownerRevoked := s.fuses.ownerRevoked ||| oneBit 4 arg } ∧ unchangedBut [.fuses, .fuseOld, .trust] s t)
    ∧ (s.fuses.lifecycle = .deployed → (∀ k, k < 4 → k ≠ arg.val → ownerGood s.fuses k = false) →
      ∃ t, exec (.revokeOwnerHash r arg 0x7A3C) s = .next t ∧ t.fuses = s.fuses
        ∧ getHdr t pgSec = (getHdr s pgSec).capture r.code 0x12 (regAddr pgSec 0x048)))
  ∧ (∀ (s : State), pulseBusy s = true → ∃ t, exec .tamper s = .next t ∧ t.trust.tamperCnt = satInc s.trust.tamperCnt
    ∧ t.trust.keysBlocked = true ∧ t.trust.erased = true ∧ t.trust.erasedCause = 2
    ∧ (∀ a, carafeBase ≤ a → a < bkpBase + 0x40 → memByte t a = 0) ∧ t.reset_.deferred = s.reset_.deferred ||| oneBit 14 10
    ∧ (getHdr t pgSec).irqStat = (getHdr s pgSec).irqStat ||| 2 ∧ unchangedBut [.trust, .mem, .reset, .bus, .pcie, .sent] s t)
  ∧ (∀ (s : State), pulseBusy s = false → exec .tamper s = .next (sourceEffect 10 (raise pgSec 1 (carafeErase 2
      (modTrust (fun t => { t with tamperCnt := satInc t.tamperCnt, keysBlocked := true }) s)))))
  ∧ (∀ (s : State) (r : Requester) (v : Word), Taken s r pgSec 0x050 → v.getLsbD 0 = true → s.trust.debug ≠ .opened →
    (s.fuses.lifecycle = .returned → ∃ t, exec (.debugRequest r v) s = .next t ∧ t.trust = s.trust ∧ unchangedBut [.bus] s t)
    ∧ (s.fuses.lifecycle = .blank → ∃ t, exec (.debugRequest r v) s = .next t ∧ t.trust.debug = .opened ∧ t.trust.debugOpen = true
      ∧ unchangedBut [.trust, .bus] s t)
    ∧ (s.fuses.lifecycle ≠ .blank → s.fuses.lifecycle ≠ .returned → ∃ t, exec (.debugRequest r v) s = .next t ∧ t.trust.debug = .challenged ∧ t.trust.chalFrom = now s
      ∧ getReg t pgSec 0 0x0C0 = lo32 s.fuses.dieFp ∧ getReg t pgSec 0 0x0C4 = hi32 s.fuses.dieFp
      ∧ getReg t pgSec 0 0x0C8 = at_ 0 s.reset_.epoch.toNat ∧ getReg t pgSec 0 0x0CC = at_ 0 s.fuses.lifecycle.code
      ∧ unchangedBut [.trust, .bus, .free] s t))
  ∧ (∀ (s : State) (r : Requester), Taken s r pgSec 0x058 → s.trust.debug = .challenged → s.fuses.lifecycle ≠ .returned → let key := regBytes s pgSec 0x180 24
    let good := ((List.range 4).any fun i => ownerGood s.fuses i && storeGet (fun _ => 0) s.fuses.ownerHash i == Config.sha384 key)
      && Config.ecdsaVerify key (Config.sha384 (regBytes s pgSec 0x0A0 12)) (regBytes s pgSec 0x100 24)
    ∃ t, exec (.dbgSubmit r) s = .next t ∧ t.trust = (if good then { s.trust with debug := .armed, debugResult := 0 }
        else { s.trust with debug := .closed, debugResult := 0x10 }) ∧ unchangedBut [.trust, .bus, .pcie, .sent] s t)
  ∧ (∀ (s : State) (r : Requester), Taken s r pgSec 0x058 → s.trust.debug = .closed → s.trust.debugResult = 0x11 →
    ∃ t, exec (.dbgSubmit r) s = .next t ∧ getHdr t pgSec = (getHdr s pgSec).capture r.code 0x11 (regAddr pgSec 0x058)
      ∧ unchangedBut [.bus, .pcie, .sent] s t)
  ∧ (∀ (s : State), s.trust.debug = .challenged → s.trust.chalFrom + 60000000000 ≤ now s → ∃ t, exec .challengeExpiry s = .next t
    ∧ t.trust = { s.trust with debug := .closed, debugResult := 0x11 } ∧ unchangedBut [.trust] s t)
  ∧ (∀ (s : State) (r : Requester) (v : Word), Taken s r pgSstore 0x048 →
    (s.trust.sstoreBusy = false → v.getLsbD 0 = true → ∃ t, exec (.sstoreWrite r v) s = .next t
      ∧ t.trust = { s.trust with sstoreBusy := true } ∧ unchangedBut [.trust] s t)
    ∧ (s.trust.sstoreBusy = true → ∃ t, exec (.sstoreWrite r v) s = .next t ∧ t.trust = s.trust
      ∧ getHdr t pgSstore = (getHdr s pgSstore).capture r.code eShadowBusy (regAddr pgSstore 0x048)))
  ∧ (∀ (s : State), s.trust.sstoreBusy = true → ∃ t, exec .sstoreWriteDone s = .next t ∧ t.trust = { s.trust with sstoreBusy := false }
    ∧ (∀ a, memByte t a = if sstoreBase + s.trust.sstoreAddr.toNat ≤ a ∧ a < sstoreBase + s.trust.sstoreAddr.toNat + 4
        then BitVec.ofNat 8 (s.trust.sstoreData.toNat / 2 ^ (8 * (a - sstoreBase - s.trust.sstoreAddr.toNat))) else memByte s a)
    ∧ getReg t pgSstore 0 0x04C = getReg s pgSstore 0 0x04C + 1 ∧ (getHdr t pgSstore).irqStat = (getHdr s pgSstore).irqStat ||| 1
    ∧ unchangedBut [.trust, .mem, .bus, .pcie, .sent] s t)
  ∧ (∀ (s : State) (code : BitVec 5), (∃ t, exec (.tapInstruction code) s = .next t
      ∧ t.trust = { s.trust with tapScan := t.trust.tapScan, tapIr := code } ∧ (code ∉ [0, 2] → t.trust.tapScan = s.trust.tapScan)
      ∧ tapNow t = (if code = 1 ∨ code = 8 then code else if s.trust.debugOpen = true ∧ code ∈ [0, 2, 3, 4] then code else 0x1F)
      ∧ unchangedBut [.trust, .free] s t)
    ∧ (∃ t, exec .tapReset s = .next t ∧ t.trust = { s.trust with tapIr := 1 } ∧ unchangedBut [.trust] s t))

/-- R422, R429 to R433 and R437: images. Booting takes the active slot where its image passes the checks, else the other; if neither
passes, the ROM waits. A LOAD checks and writes the inactive slot, and a failure erases its header. The boot record is a
double-buffered record of R434. ARM, DISARM, CONFIRM and ABANDON move the engine as R437's table does, an admission whose set outlasts
Dmax fails with ACTIVATING, and an activation stops every class, then the jobs, then resets. One whose herd time LOCKED has lost waits
for the next L2. The model's choices in it: log entries 109, 110, 111, 112, 136, 154, 155, 177 and 178. -/
def Obligations.updateEngine : Prop :=
  (∀ (s : State), s.reset_.romStarted = true → s.trust.booted = false → s.trust.boot.trial = false → let a := s.trust.boot.active
    let check (fail : Byte) (b : Bool) := slotCheck s.fuses { s.trust with booted := true, bootFail := fail } (slotImg s b)
    let runs (fail : Byte) (b : Bool) (t : State) : Prop := t.trust = { s.trust with
          booted := true, bootFail := fail, bootWait := false, runVer := BitVec.ofNat 32 (imgNat (slotImg s b) 0x00C 4)
          runSchema := BitVec.ofNat 16 (imgNat (slotImg s b) 0x014 2), runSvn := BitVec.ofNat 8 (imgSvn (slotImg s b)) }
        ∧ t.mem = { s.mem with selfRefresh := false } ∧ unchangedBut [.trust, .mem] s t
    ∃ t, exec .secureBoot s = .next t ∧ t.trust.booted = true
      ∧ (∀ p, check 0 a = .ok p → runs 0 a t)
      ∧ (∀ c p, check 0 a = .error c → check c (!a) = .ok p → runs c (!a) t)
      ∧ (∀ c c', check 0 a = .error c → check c (!a) = .error c' →
        t.trust = { s.trust with booted := true, bootFail := c, updResult := c', bootWait := true }
        ∧ (getHdr t pgUpdate).irqStat = (getHdr s pgUpdate).irqStat ||| 0x10 ∧ unchangedBut [.trust, .bus, .pcie, .sent] s t))
  ∧ (∀ (s : State) (r : Requester), Taken s r pgUpdate 0x040 →
    (s.trust.upd = .idle → ∃ t, exec (.load r) s = .next t
      ∧ t.trust = { s.trust with upd := .checking, updResult := 0, progress := 0 } ∧ unchangedBut [.trust] s t)
    ∧ (s.trust.upd ≠ .idle → ∃ t, exec (.load r) s = .next t ∧ t.trust = s.trust
      ∧ getHdr t pgUpdate = (getHdr s pgUpdate).capture r.code eWriteRunning (regAddr pgUpdate 0x040))
    ∧ (s.trust.upd = .ready → s.trust.actTime = 0 → ∃ t, exec (.arm r) s = .next t
      ∧ t.trust = { s.trust with
          upd := .armed, updResult := 0, boot := { active := !s.trust.boot.active, trial := true, tries := 0 }, bootSeq := s.trust.bootSeq + 1 }
      ∧ t.mem = (bootPut { active := !s.trust.boot.active, trial := true, tries := 0 } s).mem ∧ unchangedBut [.trust, .mem, .bus] s t)
    ∧ (s.trust.upd = .ready → s.trust.actTime ≠ 0 → imgGroup (slotImg s (!s.trust.boot.active)) = 0 → herdAlone s = true →
      ((s.trust.actTime.toNat : Int) - s.herd.hoffset - (dMax s * 1000 : Nat) < now s → ∃ t, exec (.arm r) s = .next t
        ∧ t.trust = { s.trust with updResult := 0x1C } ∧ unchangedBut [.trust, .bus, .pcie, .sent] s t)
      ∧ ((now s : Int) ≤ (s.trust.actTime.toNat : Int) - s.herd.hoffset - (dMax s * 1000 : Nat) → (∀ pl c, s.pacer.plan = some pl →
        s.pacer.running = some c → (∃ k ∈ pl.classes, dMax s < (getClass s k.val).vals.deadline.toNat) → ∃ t, exec (.arm r) s = .next t
        ∧ t.trust.upd = .armed ∧ answered s t c.req 0x1A 0 ∧ t.pacer.plan = none ∧ t.pacer.running = none ∧ t.pacer.railUse = .undo
        ∧ t.pacer.classes = s.pacer.classes))
      ∧ ((now s : Int) ≤ (s.trust.actTime.toNat : Int) - s.herd.hoffset - (dMax s * 1000 : Nat) →
        (∀ pl, s.pacer.plan = some pl → ∀ k ∈ pl.classes, (getClass s k.val).vals.deadline.toNat ≤ dMax s) → ∃ t, exec (.arm r) s = .next t
        ∧ t.trust = { s.trust with upd := .armed, updResult := 0, dmax := dMax s, nextL2 := false
                                   stop := BitVec.ofInt 64 ((s.trust.actTime.toNat : Int) - s.herd.hoffset - (dMax s * 1000 : Nat)) }
        ∧ unchangedBut [.trust] s t))
    ∧ (s.trust.upd = .armed → s.trust.actTime ≠ 0 → ∃ t, exec (.updateDisarm r) s = .next t
      ∧ t.trust = { s.trust with upd := .ready, nextL2 := false, stop := 0 } ∧ unchangedBut [.trust] s t)
    ∧ (s.trust.upd = .stopping → ∃ t, exec (.updateDisarm r) s = .next t ∧ t.trust = s.trust
      ∧ getHdr t pgUpdate = (getHdr s pgUpdate).capture r.code eWriteRunning (regAddr pgUpdate 0x040))
    ∧ (Thermometer s.fuses.svn → ∃ t, exec (.confirm r) s = .next t ∧ t.trust.boot = { active := s.trust.boot.active, trial := false, tries := 0 }
      ∧ svnCount t.fuses = max (svnCount s.fuses) (min 128 s.trust.runSvn.toNat) ∧ s.fuses.svn &&& t.fuses.svn = s.fuses.svn
      ∧ unchangedBut [.trust, .mem, .bus, .fuses, .fuseOld] s t)
    ∧ (s.trust.upd = .ready → ∃ t, exec (.abandon r) s = .next t
      ∧ t.trust = { s.trust with upd := .idle, nextL2 := false, actTime := 0, stop := 0 }
      ∧ (∀ k, flashByte t k = if slotBase (!s.trust.boot.active) ≤ k ∧ k < slotBase (!s.trust.boot.active) + 512 then 0 else flashByte s k)
      ∧ unchangedBut [.trust, .mem] s t))
  ∧ (∀ (s : State) (r : BootRecord), let q := s.trust.bootSeq + 1
    let copy := sstoreBase + 32 * (Config.bootPlace % 0x4000) + 16 * (q.toNat % 2)
    let t := bootPut r s
    t.trust = { s.trust with boot := r, bootSeq := q } ∧ getReg t pgSstore 0 0x04C = getReg s pgSstore 0 0x04C + 4
      ∧ memWord t copy = BitVec.ofNat 32 (Config.bootKey.toNat + 65536 * q.toNat)
      ∧ memWord t (copy + 4) = BitVec.ofNat 32 (Config.bootSchema.toNat + 65536 * 4)
      ∧ memWord t (copy + 8) = Config.bootWord r.active r.trial r.tries
      ∧ memWord t (copy + 12) = BitVec.ofNat 32 (Config.crc32 (memBytes t copy 12)).toNat
      ∧ (∀ a, (a < copy ∨ copy + 16 ≤ a) → memByte t a = memByte s a) ∧ unchangedBut [.trust, .mem, .bus] s t)
  ∧ (∀ (s : State) (ans : Answered), s.trust.upd = .checking ∨ s.trust.upd = .writing → inReset s = false → injectorOff s → let src := (getAddr s pgUpdate 0 0x044).toNat
    let n := (getReg s pgUpdate 0 0x04C).toNat
    let g : Nat → Byte := fun k => srcByte s (src + k)
    let failed (code : Byte) (t : State) : Prop := t.trust = { s.trust with upd := .idle, updResult := code, progress := 0 }
      ∧ (getHdr t pgUpdate).irqStat.getLsbD 0 = true
      ∧ (∀ k, flashByte t k = if slotBase (!s.trust.boot.active) ≤ k ∧ k < slotBase (!s.trust.boot.active) + 512 then 0 else flashByte s k)
    (n < 512 → ∃ t, exec (.loadDone ans) s = .next t ∧ failed 0x10 t)
    ∧ (512 ≤ n → srcRefusal s src n = none → place src ≠ .host → ∃ t, exec (.loadDone .never) s = .next t ∧ failed eTimeout t)
    ∧ (512 ≤ n → srcRefusal s src n = none → (place src = .host ∨ (ans ≠ .never ∧ dramFails s src ans = false ∧ firstDamaged s src n = none)) →
    ∃ t, exec (.loadDone ans) s = .next t ∧ unchangedBut [.trust, .mem, .bus, .pcie, .sent] s t
      ∧ (∀ code, headerCheck s.fuses g = some code → failed code t)
      ∧ (headerCheck s.fuses g = none → 512 + imgLen g ≤ n → imgLen g ≤ imgMaxFull → imgKind g = false →
        ∀ p, imgPayload s.trust g = some p → Config.sha384 p = imgDigest g 0x030 → t.trust.upd = .ready ∧ t.trust.updResult = 0
        ∧ t.trust.actTime = imgAct g ∧ t.trust.boot = s.trust.boot
        ∧ (∀ k, k < 512 + imgLen g → flashByte t (slotBase (!s.trust.boot.active) + k) = g k)
        ∧ (∀ k, k < 0x1800000 → flashByte t (slotBase s.trust.boot.active + k) = flashByte s (slotBase s.trust.boot.active + k)))))
  ∧ (∀ (s : State), s.trust.upd = .armed → s.trust.actTime ≠ 0 → s.trust.nextL2 = false → s.trust.stop.toNat ≤ now s → PacerAtRest s → s.pacer.plan = none →
    ∃ t, exec .activationStop s = .next t ∧ t.trust = { s.trust with upd := .stopping }
      ∧ (∀ k, k < 64 → (getClass s k).st = .accepted → openJobs s k ≠ [] →
          getClass t k = { getClass s k with st := .revoking, noticeEnd := s.trust.stop.toNat, pend := none })
      ∧ (∀ k, k < 64 → (getClass s k).st = .defined → getClass t k = {} ∧ (getHdr t pgPacer).irqStat.getLsbD 7 = true)
      ∧ ((getHdr t pgUpdate).irqStat = (getHdr s pgUpdate).irqStat ||| 2))
  ∧ (∀ (s : State), s.trust.upd = .armed → s.trust.actTime ≠ 0 →
    (s.trust.nextL2 = true → exec .activationStop s = .next s)
    ∧ (s.trust.nextL2 = false → s.herd.locked = true → ∃ t, herdUnlock s = t ∧ t.trust = { s.trust with nextL2 := true }
      ∧ t.herd = { s.herd with locked := false } ∧ (getHdr t pgUpdate).irqStat = (getHdr s pgUpdate).irqStat ||| 4
      ∧ (getHdr t pgHerd).irqStat = (getHdr s pgHerd).irqStat ||| 0x20 ∧ unchangedBut [.trust, .herd, .bus, .pcie, .sent] s t))
  ∧ (∀ (s : State), s.trust.upd = .stopping → actInstant s ≤ now s →
    exec .activationTime s = .next (pacerSettle ((s.pacer.jobs.filter (·.open_)).foldl (fun s j => jobStop j.id .late (lateCause j) 0 s) s))
    ∧ (actInstant s + 10000 ≤ now s → exec .activationReset s = .next (sourceAssert 9 (modTrust (fun t => { t with upd := .idle })
      (bootPut { active := !s.trust.boot.active, trial := true, tries := 0 } s)))))

/-- The queue, first in and first out: a step with a command at the front is the command's effect, with the rest of the queue. The
model's choices in it: log entry 1. -/
def Obligations.stepTakesTheFront : Prop :=
  ∀ (s : State) (c : Instr) (q : List Instr), step { s with pending := c :: q } = exec c { s with pending := q }

/-- What reset leaves: every register cell at its reset value, no header bit set, every class FREE, every channel DISABLED, no queue
enabled, no command pending; the memories in canonical form, and the security version a thermometer code. The model's choices in it:
log entries 6 and 9. -/
def Obligations.resetState : Prop :=
  let s := State.reset
  s.pending = [] ∧ (∀ p c o, getReg s p c o = regReset (regKey p c o)) ∧ (∀ p, p < 32 → getHdr s p = {})
    ∧ (∀ k, getClass s k = {}) ∧ (∀ c, getChan s c = {}) ∧ (∀ q, getQueue s q = {}) ∧ (∀ n, semCount s n = 0)
    ∧ s.mem.wf = true ∧ FuseBound s.fuses s ∧ s.time.now = 0 ∧ s.reset_.cause = 1 ∧ s.reset_.epoch = 0 ∧ s.pcie.linkUp = false
    ∧ s.herd.st = .solo ∧ s.trust.debugOpen = false

/-- Every step keeps the memories in their canonical form: addresses rise strictly, and no entry is what an unlisted address reads as.
The model's choices in it: log entries 9 and 10. -/
def Obligations.memoryStaysCanonical : Prop :=
  ∀ (s t : State), s.mem.wf = true → step s = .next t → t.mem.wf = true

/-- R418, R419 and R423, of every step: the lifecycle moves forward only, burnt bits of the security version, of the owner hashes'
valid bits and of the revoke bits stay burnt, the values fixed in production stay, and the version stays a thermometer code. While
pulses are under way this holds of what a cut of them would leave, too (R420). The model's choices in it: log entry 114. -/
def Obligations.fusesOneWay : Prop :=
  ∀ (base : Fuses) (s t : State), FuseBound base s → step s = .next t → FuseBound base t

/-- No command stops the device, and none touches the queue (the model's choice, in the log: a command whose condition does not hold
does nothing); so a run from any state goes on for ever. The model's choices in it: log entry 2. -/
def Obligations.commandsComplete : Prop :=
  (∀ (i : Instr) (s : State), ∃ t, exec i s = .next t ∧ t.pending = s.pending) ∧ ∀ s, SafeFrom s
end

