-- ==== Sys2Proof/Laws/Store.lean ====
section
/-! SUPPORT. The laws of sparse stores: a read after a write, and the canonical form. -/

namespace Sys2Proof.Machine

variable {α : Type} [DecidableEq α] (d : Nat → α)

omit [DecidableEq α] in
theorem storeErase_cons (e : Nat × α) (m : Store α) (k : Nat) :
    storeErase (e :: m) k = if e.1 = k then storeErase m k else e :: storeErase m k := by
  by_cases h : e.1 = k <;> simp [storeErase, h]

omit [DecidableEq α] in
theorem storeGet_erase_same (m : Store α) (k : Nat) : storeGet d (storeErase m k) k = d k := by
  induction m with
  | nil => rfl
  | cons e m ih =>
    rw [storeErase_cons]
    split
    · exact ih
    · next h => simp [storeGet, h, ih]

omit [DecidableEq α] in
theorem storeGet_erase_other (m : Store α) {k j : Nat} (h : j ≠ k) : storeGet d (storeErase m k) j = storeGet d m j := by
  induction m with
  | nil => rfl
  | cons e m ih =>
    rw [storeErase_cons]
    split
    · next hk => simp [storeGet, hk, Ne.symm h, ih]
    · simp [storeGet, ih]

omit [DecidableEq α] in
theorem storeGet_insert_same (m : Store α) (k : Nat) (v : α) (h : ∀ e ∈ m, e.1 ≠ k) : storeGet d (storeInsert k v m) k = v := by
  induction m with
  | nil => simp [storeInsert, storeGet]
  | cons e m ih =>
    obtain ⟨k', v'⟩ := e
    have hk : k' ≠ k := h (k', v') (by simp)
    have ih := ih fun e he => h e (by simp [he])
    by_cases hlt : k < k' <;> simp [storeInsert, hlt, storeGet, hk, ih]

omit [DecidableEq α] in
theorem storeGet_insert_other (m : Store α) {k j : Nat} (v : α) (h : j ≠ k) : storeGet d (storeInsert k v m) j = storeGet d m j := by
  induction m with
  | nil => simp [storeInsert, storeGet, Ne.symm h]
  | cons e m ih =>
    obtain ⟨k', v'⟩ := e
    by_cases hlt : k < k' <;> simp [storeInsert, hlt, storeGet, Ne.symm h, ih]

/-- A read after a write of the same key gives the value written. -/
@[simp] theorem storeGet_set_same (m : Store α) (k : Nat) (v : α) : storeGet d (storeSet d m k v) k = v := by
  unfold storeSet
  split
  · next h => rw [storeGet_erase_same, h]
  · exact storeGet_insert_same d _ k v (by simp [storeErase])

/-- A write leaves every other key alone. -/
theorem storeGet_set_other (m : Store α) {k j : Nat} (v : α) (h : j ≠ k) : storeGet d (storeSet d m k v) j = storeGet d m j := by
  unfold storeSet
  split
  · exact storeGet_erase_other d m h
  · rw [storeGet_insert_other d _ v h, storeGet_erase_other d m h]

@[simp] theorem storeGet_mod_same (m : Store α) (k : Nat) (f : α → α) : storeGet d (storeMod d m k f) k = f (storeGet d m k) := by
  simp [storeMod]

theorem storeGet_mod_other (m : Store α) {k j : Nat} (f : α → α) (h : j ≠ k) :
    storeGet d (storeMod d m k f) j = storeGet d m j := by
  simp [storeMod, storeGet_set_other d m _ h]

/-! ### The canonical form -/

/-- What the canonical form says: no entry at its default, and rising keys. -/
theorem storeWf_iff (m : Store α) : storeWf d m = true ↔ (∀ e ∈ m, e.2 ≠ d e.1) ∧ m.Pairwise (fun a b => a.1 < b.1) := by
  induction m with
  | nil => simp [storeWf]
  | cons e m ih =>
    obtain ⟨k, v⟩ := e
    cases m with
    | nil => simp [storeWf]
    | cons e' m =>
      obtain ⟨k', v'⟩ := e'
      simp only [storeWf, Bool.and_eq_true, decide_eq_true_eq, ih, List.mem_cons, List.pairwise_cons]
      constructor
      · rintro ⟨⟨h1, h2⟩, h3, h4, h5⟩
        refine ⟨?_, ?_, h4, h5⟩
        · rintro e (rfl | he)
          · exact h1
          · exact h3 e he
        · rintro e (rfl | he)
          · exact h2
          · exact Nat.lt_trans h2 (h4 e he)
      · rintro ⟨h1, h2, h3, h4⟩
        exact ⟨⟨h1 _ (.inl rfl), h2 _ (.inl rfl)⟩, fun e he => h1 e (.inr he), h3, h4⟩

theorem storeWf_filter (m : Store α) (p : Nat × α → Bool) (h : storeWf d m = true) : storeWf d (m.filter p) = true := by
  rw [storeWf_iff] at h ⊢
  exact ⟨fun e he => h.1 e (List.mem_filter.1 he).1, h.2.filter p⟩

omit [DecidableEq α] in
theorem storeInsert_mem (k : Nat) (v : α) (m : Store α) {e : Nat × α} (h : e ∈ storeInsert k v m) : e = (k, v) ∨ e ∈ m := by
  induction m with
  | nil => simpa [storeInsert] using h
  | cons x m ih =>
    obtain ⟨k', v'⟩ := x
    by_cases hlt : k < k'
    · simpa [storeInsert, hlt] using h
    · simp only [storeInsert, hlt, ↓reduceIte, List.mem_cons] at h
      rcases h with h | h
      · exact .inr (by simp [h])
      · exact (ih h).imp id (by simp +contextual)

theorem storeWf_insert (k : Nat) (v : α) (m : Store α) (hv : v ≠ d k) (hk : ∀ e ∈ m, e.1 ≠ k) (h : storeWf d m = true) :
    storeWf d (storeInsert k v m) = true := by
  rw [storeWf_iff] at h ⊢
  refine ⟨fun e he => ?_, ?_⟩
  · rcases storeInsert_mem k v m he with rfl | he
    · exact hv
    · exact h.1 e he
  · induction m with
    | nil => simp [storeInsert]
    | cons x m ih =>
      obtain ⟨k', v'⟩ := x
      have hp := List.pairwise_cons.1 h.2
      by_cases hlt : k < k'
      · simp only [storeInsert, hlt, ↓reduceIte, List.pairwise_cons]
        refine ⟨?_, hp.1, hp.2⟩
        rintro e he
        rcases List.mem_cons.1 he with rfl | he
        · exact hlt
        · exact Nat.lt_trans hlt (hp.1 e he)
      · have hne : k' ≠ k := hk (k', v') (by simp)
        simp only [storeInsert, hlt, ↓reduceIte, List.pairwise_cons]
        refine ⟨fun e he => ?_, ih (fun e he => hk e (by simp [he])) ⟨fun e he => h.1 e (by simp [he]), hp.2⟩⟩
        rcases storeInsert_mem k v m he with rfl | he
        · exact Nat.lt_of_le_of_ne (Nat.le_of_not_lt hlt) hne
        · exact hp.1 e he

/-- A write keeps the canonical form. -/
theorem storeWf_set (m : Store α) (k : Nat) (v : α) (h : storeWf d m = true) : storeWf d (storeSet d m k v) = true := by
  unfold storeSet storeErase
  split
  · exact storeWf_filter d m _ h
  · next hv => exact storeWf_insert d k v _ hv (by simp) (storeWf_filter d m _ h)

theorem storeWf_mod (m : Store α) (k : Nat) (f : α → α) (h : storeWf d m = true) : storeWf d (storeMod d m k f) = true :=
  storeWf_set d m k _ h

/-- Folding writes keeps the canonical form. -/
theorem storeWf_foldl {β : Type} (f : Store α → β → Store α) (hf : ∀ m b, storeWf d m = true → storeWf d (f m b) = true)
    (l : List β) (m : Store α) (h : storeWf d m = true) : storeWf d (l.foldl f m) = true := by
  induction l generalizing m with
  | nil => exact h
  | cons b l ih => exact ih _ (hf m b h)

end Sys2Proof.Machine
end

