-- ==== Sys2Proof/Laws/State.lean ====
section
/-! SUPPORT. What each update of the state leaves alone, field by field, and what it reads back as. -/

namespace Sys2Proof.Machine

variable (s : State)

@[simp] theorem modPower_frame (f : Power → Power) :
    (modPower f s).pending = s.pending ∧ (modPower f s).bus = s.bus ∧ (modPower f s).fuses = s.fuses ∧
    (modPower f s).fuseOld = s.fuseOld ∧ (modPower f s).procs = s.procs ∧ (modPower f s).arrays = s.arrays ∧
    (modPower f s).pacer = s.pacer ∧ (modPower f s).mem = s.mem ∧ (modPower f s).dma = s.dma ∧
    (modPower f s).media = s.media ∧ (modPower f s).ctlio = s.ctlio ∧ (modPower f s).pcie = s.pcie ∧
    (modPower f s).herd = s.herd ∧ (modPower f s).lfi = s.lfi ∧ (modPower f s).reset_ = s.reset_ ∧
    (modPower f s).pins = s.pins ∧ (modPower f s).time = s.time ∧ (modPower f s).trust = s.trust ∧
    (modPower f s).sent = s.sent ∧ (modPower f s).free = s.free := by
  simp only [modPower, and_self]

@[simp] theorem modDma_frame (f : Dma → Dma) :
    (modDma f s).pending = s.pending ∧ (modDma f s).bus = s.bus ∧ (modDma f s).fuses = s.fuses ∧
    (modDma f s).fuseOld = s.fuseOld ∧ (modDma f s).procs = s.procs ∧ (modDma f s).arrays = s.arrays ∧
    (modDma f s).pacer = s.pacer ∧ (modDma f s).mem = s.mem ∧ (modDma f s).media = s.media ∧
    (modDma f s).ctlio = s.ctlio ∧ (modDma f s).pcie = s.pcie ∧ (modDma f s).herd = s.herd ∧
    (modDma f s).lfi = s.lfi ∧ (modDma f s).power = s.power ∧ (modDma f s).reset_ = s.reset_ ∧
    (modDma f s).pins = s.pins ∧ (modDma f s).time = s.time ∧ (modDma f s).trust = s.trust ∧
    (modDma f s).sent = s.sent ∧ (modDma f s).free = s.free := by
  simp only [modDma, and_self]

@[simp] theorem modPins_frame (f : Store Pin → Store Pin) :
    (modPins f s).pending = s.pending ∧ (modPins f s).bus = s.bus ∧ (modPins f s).fuses = s.fuses ∧
    (modPins f s).fuseOld = s.fuseOld ∧ (modPins f s).procs = s.procs ∧ (modPins f s).arrays = s.arrays ∧
    (modPins f s).pacer = s.pacer ∧ (modPins f s).mem = s.mem ∧ (modPins f s).dma = s.dma ∧
    (modPins f s).media = s.media ∧ (modPins f s).ctlio = s.ctlio ∧ (modPins f s).pcie = s.pcie ∧
    (modPins f s).herd = s.herd ∧ (modPins f s).lfi = s.lfi ∧ (modPins f s).power = s.power ∧
    (modPins f s).reset_ = s.reset_ ∧ (modPins f s).time = s.time ∧ (modPins f s).trust = s.trust ∧
    (modPins f s).sent = s.sent ∧ (modPins f s).free = s.free := by
  simp only [modPins, and_self]

@[simp] theorem drawn_frame (n : Nat) :
    (drawn n s).pending = s.pending ∧ (drawn n s).bus = s.bus ∧ (drawn n s).fuses = s.fuses ∧
    (drawn n s).fuseOld = s.fuseOld ∧ (drawn n s).procs = s.procs ∧ (drawn n s).arrays = s.arrays ∧
    (drawn n s).pacer = s.pacer ∧ (drawn n s).mem = s.mem ∧ (drawn n s).dma = s.dma ∧
    (drawn n s).media = s.media ∧ (drawn n s).ctlio = s.ctlio ∧ (drawn n s).pcie = s.pcie ∧
    (drawn n s).herd = s.herd ∧ (drawn n s).lfi = s.lfi ∧ (drawn n s).power = s.power ∧
    (drawn n s).reset_ = s.reset_ ∧ (drawn n s).pins = s.pins ∧ (drawn n s).time = s.time ∧
    (drawn n s).trust = s.trust ∧ (drawn n s).sent = s.sent := by
  simp only [drawn, and_self]

@[simp] theorem modDom_frame (n : Nat) (f : Dom → Dom) :
    (modDom n f s).pending = s.pending ∧ (modDom n f s).bus = s.bus ∧ (modDom n f s).fuses = s.fuses ∧
    (modDom n f s).fuseOld = s.fuseOld ∧ (modDom n f s).procs = s.procs ∧ (modDom n f s).arrays = s.arrays ∧
    (modDom n f s).pacer = s.pacer ∧ (modDom n f s).mem = s.mem ∧ (modDom n f s).dma = s.dma ∧
    (modDom n f s).media = s.media ∧ (modDom n f s).ctlio = s.ctlio ∧ (modDom n f s).pcie = s.pcie ∧
    (modDom n f s).herd = s.herd ∧ (modDom n f s).lfi = s.lfi ∧ (modDom n f s).reset_ = s.reset_ ∧
    (modDom n f s).pins = s.pins ∧ (modDom n f s).time = s.time ∧ (modDom n f s).trust = s.trust ∧
    (modDom n f s).sent = s.sent ∧ (modDom n f s).free = s.free := by
  simp only [modDom, modPower_frame, and_self]

@[simp] theorem send_frame (x : Sent) :
    (send x s).pending = s.pending ∧ (send x s).bus = s.bus ∧ (send x s).fuses = s.fuses ∧
    (send x s).fuseOld = s.fuseOld ∧ (send x s).procs = s.procs ∧ (send x s).arrays = s.arrays ∧
    (send x s).pacer = s.pacer ∧ (send x s).mem = s.mem ∧ (send x s).dma = s.dma ∧
    (send x s).media = s.media ∧ (send x s).ctlio = s.ctlio ∧ (send x s).pcie = s.pcie ∧
    (send x s).herd = s.herd ∧ (send x s).lfi = s.lfi ∧ (send x s).power = s.power ∧
    (send x s).reset_ = s.reset_ ∧ (send x s).pins = s.pins ∧ (send x s).time = s.time ∧
    (send x s).trust = s.trust ∧ (send x s).free = s.free := by
  simp only [send, and_self]

@[simp] theorem modProc_frame (n : Nat) (f : ProcState → ProcState) :
    (modProc n f s).pending = s.pending ∧ (modProc n f s).bus = s.bus ∧ (modProc n f s).fuses = s.fuses ∧
    (modProc n f s).fuseOld = s.fuseOld ∧ (modProc n f s).arrays = s.arrays ∧ (modProc n f s).pacer = s.pacer ∧
    (modProc n f s).mem = s.mem ∧ (modProc n f s).dma = s.dma ∧ (modProc n f s).media = s.media ∧
    (modProc n f s).ctlio = s.ctlio ∧ (modProc n f s).pcie = s.pcie ∧ (modProc n f s).herd = s.herd ∧
    (modProc n f s).lfi = s.lfi ∧ (modProc n f s).power = s.power ∧ (modProc n f s).reset_ = s.reset_ ∧
    (modProc n f s).pins = s.pins ∧ (modProc n f s).time = s.time ∧ (modProc n f s).trust = s.trust ∧
    (modProc n f s).sent = s.sent ∧ (modProc n f s).free = s.free := by
  simp only [modProc, and_self]

@[simp] theorem modArray_frame (n : Nat) (f : ArrayState → ArrayState) :
    (modArray n f s).pending = s.pending ∧ (modArray n f s).bus = s.bus ∧ (modArray n f s).fuses = s.fuses ∧
    (modArray n f s).fuseOld = s.fuseOld ∧ (modArray n f s).procs = s.procs ∧ (modArray n f s).pacer = s.pacer ∧
    (modArray n f s).mem = s.mem ∧ (modArray n f s).dma = s.dma ∧ (modArray n f s).media = s.media ∧
    (modArray n f s).ctlio = s.ctlio ∧ (modArray n f s).pcie = s.pcie ∧ (modArray n f s).herd = s.herd ∧
    (modArray n f s).lfi = s.lfi ∧ (modArray n f s).power = s.power ∧ (modArray n f s).reset_ = s.reset_ ∧
    (modArray n f s).pins = s.pins ∧ (modArray n f s).time = s.time ∧ (modArray n f s).trust = s.trust ∧
    (modArray n f s).sent = s.sent ∧ (modArray n f s).free = s.free := by
  simp only [modArray, and_self]

@[simp] theorem modPacer_frame (f : Pacer → Pacer) :
    (modPacer f s).pending = s.pending ∧ (modPacer f s).bus = s.bus ∧ (modPacer f s).fuses = s.fuses ∧
    (modPacer f s).fuseOld = s.fuseOld ∧ (modPacer f s).procs = s.procs ∧ (modPacer f s).arrays = s.arrays ∧
    (modPacer f s).mem = s.mem ∧ (modPacer f s).dma = s.dma ∧ (modPacer f s).media = s.media ∧
    (modPacer f s).ctlio = s.ctlio ∧ (modPacer f s).pcie = s.pcie ∧ (modPacer f s).herd = s.herd ∧
    (modPacer f s).lfi = s.lfi ∧ (modPacer f s).power = s.power ∧ (modPacer f s).reset_ = s.reset_ ∧
    (modPacer f s).pins = s.pins ∧ (modPacer f s).time = s.time ∧ (modPacer f s).trust = s.trust ∧
    (modPacer f s).sent = s.sent ∧ (modPacer f s).free = s.free := by
  simp only [modPacer, and_self]

@[simp] theorem modHealth_frame (n : Nat) (f : Health → Health) :
    (modHealth n f s).pending = s.pending ∧ (modHealth n f s).bus = s.bus ∧ (modHealth n f s).fuses = s.fuses ∧
    (modHealth n f s).fuseOld = s.fuseOld ∧ (modHealth n f s).procs = s.procs ∧ (modHealth n f s).arrays = s.arrays ∧
    (modHealth n f s).mem = s.mem ∧ (modHealth n f s).dma = s.dma ∧ (modHealth n f s).media = s.media ∧
    (modHealth n f s).ctlio = s.ctlio ∧ (modHealth n f s).pcie = s.pcie ∧ (modHealth n f s).herd = s.herd ∧
    (modHealth n f s).lfi = s.lfi ∧ (modHealth n f s).power = s.power ∧ (modHealth n f s).reset_ = s.reset_ ∧
    (modHealth n f s).pins = s.pins ∧ (modHealth n f s).time = s.time ∧ (modHealth n f s).trust = s.trust ∧
    (modHealth n f s).sent = s.sent ∧ (modHealth n f s).free = s.free := by
  simp only [modHealth, modPacer_frame, and_self]

@[simp] theorem modClass_frame (k : Nat) (f : ClassEntry → ClassEntry) :
    (modClass k f s).pending = s.pending ∧ (modClass k f s).bus = s.bus ∧ (modClass k f s).fuses = s.fuses ∧
    (modClass k f s).fuseOld = s.fuseOld ∧ (modClass k f s).procs = s.procs ∧ (modClass k f s).arrays = s.arrays ∧
    (modClass k f s).mem = s.mem ∧ (modClass k f s).dma = s.dma ∧ (modClass k f s).media = s.media ∧
    (modClass k f s).ctlio = s.ctlio ∧ (modClass k f s).pcie = s.pcie ∧ (modClass k f s).herd = s.herd ∧
    (modClass k f s).lfi = s.lfi ∧ (modClass k f s).power = s.power ∧ (modClass k f s).reset_ = s.reset_ ∧
    (modClass k f s).pins = s.pins ∧ (modClass k f s).time = s.time ∧ (modClass k f s).trust = s.trust ∧
    (modClass k f s).sent = s.sent ∧ (modClass k f s).free = s.free := by
  simp only [modClass, modPacer_frame, and_self]

@[simp] theorem modJob_frame (id : Nat) (f : Job → Job) :
    (modJob id f s).pending = s.pending ∧ (modJob id f s).bus = s.bus ∧ (modJob id f s).fuses = s.fuses ∧
    (modJob id f s).fuseOld = s.fuseOld ∧ (modJob id f s).procs = s.procs ∧ (modJob id f s).arrays = s.arrays ∧
    (modJob id f s).mem = s.mem ∧ (modJob id f s).dma = s.dma ∧ (modJob id f s).media = s.media ∧
    (modJob id f s).ctlio = s.ctlio ∧ (modJob id f s).pcie = s.pcie ∧ (modJob id f s).herd = s.herd ∧
    (modJob id f s).lfi = s.lfi ∧ (modJob id f s).power = s.power ∧ (modJob id f s).reset_ = s.reset_ ∧
    (modJob id f s).pins = s.pins ∧ (modJob id f s).time = s.time ∧ (modJob id f s).trust = s.trust ∧
    (modJob id f s).sent = s.sent ∧ (modJob id f s).free = s.free := by
  simp only [modJob, modPacer_frame, and_self]

@[simp] theorem modShare_frame (id i : Nat) (f : ShareRun → ShareRun) :
    (modShare id i f s).pending = s.pending ∧ (modShare id i f s).bus = s.bus ∧ (modShare id i f s).fuses = s.fuses ∧
    (modShare id i f s).fuseOld = s.fuseOld ∧ (modShare id i f s).procs = s.procs ∧ (modShare id i f s).arrays = s.arrays ∧
    (modShare id i f s).mem = s.mem ∧ (modShare id i f s).dma = s.dma ∧ (modShare id i f s).media = s.media ∧
    (modShare id i f s).ctlio = s.ctlio ∧ (modShare id i f s).pcie = s.pcie ∧ (modShare id i f s).herd = s.herd ∧
    (modShare id i f s).lfi = s.lfi ∧ (modShare id i f s).power = s.power ∧ (modShare id i f s).reset_ = s.reset_ ∧
    (modShare id i f s).pins = s.pins ∧ (modShare id i f s).time = s.time ∧ (modShare id i f s).trust = s.trust ∧
    (modShare id i f s).sent = s.sent ∧ (modShare id i f s).free = s.free := by
  simp only [modShare, modJob_frame, and_self]

@[simp] theorem modResult_frame (req : Byte) (f : AdmitResult → AdmitResult) :
    (modResult req f s).pending = s.pending ∧ (modResult req f s).bus = s.bus ∧ (modResult req f s).fuses = s.fuses ∧
    (modResult req f s).fuseOld = s.fuseOld ∧ (modResult req f s).procs = s.procs ∧ (modResult req f s).arrays = s.arrays ∧
    (modResult req f s).mem = s.mem ∧ (modResult req f s).dma = s.dma ∧ (modResult req f s).media = s.media ∧
    (modResult req f s).ctlio = s.ctlio ∧ (modResult req f s).pcie = s.pcie ∧ (modResult req f s).herd = s.herd ∧
    (modResult req f s).lfi = s.lfi ∧ (modResult req f s).power = s.power ∧ (modResult req f s).reset_ = s.reset_ ∧
    (modResult req f s).pins = s.pins ∧ (modResult req f s).time = s.time ∧ (modResult req f s).trust = s.trust ∧
    (modResult req f s).sent = s.sent ∧ (modResult req f s).free = s.free := by
  unfold modResult
  split <;> simp only [modPacer_frame, and_self]

@[simp] theorem setResult_frame (req res : Byte) (w : Nat) (b : Bool) :
    (setResult req res w b s).pending = s.pending ∧ (setResult req res w b s).bus = s.bus ∧ (setResult req res w b s).fuses = s.fuses ∧
    (setResult req res w b s).fuseOld = s.fuseOld ∧ (setResult req res w b s).procs = s.procs ∧ (setResult req res w b s).arrays = s.arrays ∧
    (setResult req res w b s).mem = s.mem ∧ (setResult req res w b s).dma = s.dma ∧ (setResult req res w b s).media = s.media ∧
    (setResult req res w b s).ctlio = s.ctlio ∧ (setResult req res w b s).pcie = s.pcie ∧ (setResult req res w b s).herd = s.herd ∧
    (setResult req res w b s).lfi = s.lfi ∧ (setResult req res w b s).power = s.power ∧ (setResult req res w b s).reset_ = s.reset_ ∧
    (setResult req res w b s).pins = s.pins ∧ (setResult req res w b s).time = s.time ∧ (setResult req res w b s).trust = s.trust ∧
    (setResult req res w b s).sent = s.sent ∧ (setResult req res w b s).free = s.free := by
  simp only [setResult, modResult_frame, and_self]

@[simp] theorem modChan_frame (c : Nat) (f : Chan → Chan) :
    (modChan c f s).pending = s.pending ∧ (modChan c f s).bus = s.bus ∧ (modChan c f s).fuses = s.fuses ∧
    (modChan c f s).fuseOld = s.fuseOld ∧ (modChan c f s).procs = s.procs ∧ (modChan c f s).arrays = s.arrays ∧
    (modChan c f s).pacer = s.pacer ∧ (modChan c f s).mem = s.mem ∧ (modChan c f s).media = s.media ∧
    (modChan c f s).ctlio = s.ctlio ∧ (modChan c f s).pcie = s.pcie ∧ (modChan c f s).herd = s.herd ∧
    (modChan c f s).lfi = s.lfi ∧ (modChan c f s).power = s.power ∧ (modChan c f s).reset_ = s.reset_ ∧
    (modChan c f s).pins = s.pins ∧ (modChan c f s).time = s.time ∧ (modChan c f s).trust = s.trust ∧
    (modChan c f s).sent = s.sent ∧ (modChan c f s).free = s.free := by
  simp only [modChan, modDma_frame, and_self]

@[simp] theorem setOwner_frame (c : Nat) (o : Byte) :
    (setOwner c o s).pending = s.pending ∧ (setOwner c o s).bus = s.bus ∧ (setOwner c o s).fuses = s.fuses ∧
    (setOwner c o s).fuseOld = s.fuseOld ∧ (setOwner c o s).procs = s.procs ∧ (setOwner c o s).arrays = s.arrays ∧
    (setOwner c o s).pacer = s.pacer ∧ (setOwner c o s).mem = s.mem ∧ (setOwner c o s).media = s.media ∧
    (setOwner c o s).ctlio = s.ctlio ∧ (setOwner c o s).pcie = s.pcie ∧ (setOwner c o s).herd = s.herd ∧
    (setOwner c o s).lfi = s.lfi ∧ (setOwner c o s).power = s.power ∧ (setOwner c o s).reset_ = s.reset_ ∧
    (setOwner c o s).pins = s.pins ∧ (setOwner c o s).time = s.time ∧ (setOwner c o s).trust = s.trust ∧
    (setOwner c o s).sent = s.sent ∧ (setOwner c o s).free = s.free := by
  simp only [setOwner, modDma_frame, and_self]

@[simp] theorem modBus_frame (f : Bus → Bus) :
    (modBus f s).pending = s.pending ∧ (modBus f s).fuses = s.fuses ∧ (modBus f s).fuseOld = s.fuseOld ∧
    (modBus f s).procs = s.procs ∧ (modBus f s).arrays = s.arrays ∧ (modBus f s).pacer = s.pacer ∧
    (modBus f s).mem = s.mem ∧ (modBus f s).dma = s.dma ∧ (modBus f s).media = s.media ∧
    (modBus f s).ctlio = s.ctlio ∧ (modBus f s).pcie = s.pcie ∧ (modBus f s).herd = s.herd ∧
    (modBus f s).lfi = s.lfi ∧ (modBus f s).power = s.power ∧ (modBus f s).reset_ = s.reset_ ∧
    (modBus f s).pins = s.pins ∧ (modBus f s).time = s.time ∧ (modBus f s).trust = s.trust ∧
    (modBus f s).sent = s.sent ∧ (modBus f s).free = s.free := by
  simp only [modBus, and_self]

@[simp] theorem setReg_frame (page chan off : Nat) (w : Word) :
    (setReg page chan off w s).pending = s.pending ∧ (setReg page chan off w s).fuses = s.fuses ∧ (setReg page chan off w s).fuseOld = s.fuseOld ∧
    (setReg page chan off w s).procs = s.procs ∧ (setReg page chan off w s).arrays = s.arrays ∧ (setReg page chan off w s).pacer = s.pacer ∧
    (setReg page chan off w s).mem = s.mem ∧ (setReg page chan off w s).dma = s.dma ∧ (setReg page chan off w s).media = s.media ∧
    (setReg page chan off w s).ctlio = s.ctlio ∧ (setReg page chan off w s).pcie = s.pcie ∧ (setReg page chan off w s).herd = s.herd ∧
    (setReg page chan off w s).lfi = s.lfi ∧ (setReg page chan off w s).power = s.power ∧ (setReg page chan off w s).reset_ = s.reset_ ∧
    (setReg page chan off w s).pins = s.pins ∧ (setReg page chan off w s).time = s.time ∧ (setReg page chan off w s).trust = s.trust ∧
    (setReg page chan off w s).sent = s.sent ∧ (setReg page chan off w s).free = s.free := by
  simp only [setReg, modBus_frame, and_self]

@[simp] theorem modReg_frame (page chan off : Nat) (f : Word → Word) :
    (modReg page chan off f s).pending = s.pending ∧ (modReg page chan off f s).fuses = s.fuses ∧ (modReg page chan off f s).fuseOld = s.fuseOld ∧
    (modReg page chan off f s).procs = s.procs ∧ (modReg page chan off f s).arrays = s.arrays ∧ (modReg page chan off f s).pacer = s.pacer ∧
    (modReg page chan off f s).mem = s.mem ∧ (modReg page chan off f s).dma = s.dma ∧ (modReg page chan off f s).media = s.media ∧
    (modReg page chan off f s).ctlio = s.ctlio ∧ (modReg page chan off f s).pcie = s.pcie ∧ (modReg page chan off f s).herd = s.herd ∧
    (modReg page chan off f s).lfi = s.lfi ∧ (modReg page chan off f s).power = s.power ∧ (modReg page chan off f s).reset_ = s.reset_ ∧
    (modReg page chan off f s).pins = s.pins ∧ (modReg page chan off f s).time = s.time ∧ (modReg page chan off f s).trust = s.trust ∧
    (modReg page chan off f s).sent = s.sent ∧ (modReg page chan off f s).free = s.free := by
  simp only [modReg, setReg_frame, and_self]

@[simp] theorem countWrap_frame (page chan off : Nat) :
    (countWrap page chan off s).pending = s.pending ∧ (countWrap page chan off s).fuses = s.fuses ∧ (countWrap page chan off s).fuseOld = s.fuseOld ∧
    (countWrap page chan off s).procs = s.procs ∧ (countWrap page chan off s).arrays = s.arrays ∧ (countWrap page chan off s).pacer = s.pacer ∧
    (countWrap page chan off s).mem = s.mem ∧ (countWrap page chan off s).dma = s.dma ∧ (countWrap page chan off s).media = s.media ∧
    (countWrap page chan off s).ctlio = s.ctlio ∧ (countWrap page chan off s).pcie = s.pcie ∧ (countWrap page chan off s).herd = s.herd ∧
    (countWrap page chan off s).lfi = s.lfi ∧ (countWrap page chan off s).power = s.power ∧ (countWrap page chan off s).reset_ = s.reset_ ∧
    (countWrap page chan off s).pins = s.pins ∧ (countWrap page chan off s).time = s.time ∧ (countWrap page chan off s).trust = s.trust ∧
    (countWrap page chan off s).sent = s.sent ∧ (countWrap page chan off s).free = s.free := by
  simp only [countWrap, modReg_frame, and_self]

@[simp] theorem countSat_frame (page chan off : Nat) :
    (countSat page chan off s).pending = s.pending ∧ (countSat page chan off s).fuses = s.fuses ∧ (countSat page chan off s).fuseOld = s.fuseOld ∧
    (countSat page chan off s).procs = s.procs ∧ (countSat page chan off s).arrays = s.arrays ∧ (countSat page chan off s).pacer = s.pacer ∧
    (countSat page chan off s).mem = s.mem ∧ (countSat page chan off s).dma = s.dma ∧ (countSat page chan off s).media = s.media ∧
    (countSat page chan off s).ctlio = s.ctlio ∧ (countSat page chan off s).pcie = s.pcie ∧ (countSat page chan off s).herd = s.herd ∧
    (countSat page chan off s).lfi = s.lfi ∧ (countSat page chan off s).power = s.power ∧ (countSat page chan off s).reset_ = s.reset_ ∧
    (countSat page chan off s).pins = s.pins ∧ (countSat page chan off s).time = s.time ∧ (countSat page chan off s).trust = s.trust ∧
    (countSat page chan off s).sent = s.sent ∧ (countSat page chan off s).free = s.free := by
  simp only [countSat, modReg_frame, and_self]

@[simp] theorem setHdr_frame (page : Nat) (h : Hdr) :
    (setHdr page h s).pending = s.pending ∧ (setHdr page h s).fuses = s.fuses ∧ (setHdr page h s).fuseOld = s.fuseOld ∧
    (setHdr page h s).procs = s.procs ∧ (setHdr page h s).arrays = s.arrays ∧ (setHdr page h s).pacer = s.pacer ∧
    (setHdr page h s).mem = s.mem ∧ (setHdr page h s).dma = s.dma ∧ (setHdr page h s).media = s.media ∧
    (setHdr page h s).ctlio = s.ctlio ∧ (setHdr page h s).pcie = s.pcie ∧ (setHdr page h s).herd = s.herd ∧
    (setHdr page h s).lfi = s.lfi ∧ (setHdr page h s).power = s.power ∧ (setHdr page h s).reset_ = s.reset_ ∧
    (setHdr page h s).pins = s.pins ∧ (setHdr page h s).time = s.time ∧ (setHdr page h s).trust = s.trust ∧
    (setHdr page h s).sent = s.sent ∧ (setHdr page h s).free = s.free := by
  simp only [setHdr, modBus_frame, and_self]

@[simp] theorem setAnswer_frame (r : Requester) (w : Word) :
    (setAnswer r w s).pending = s.pending ∧ (setAnswer r w s).fuses = s.fuses ∧ (setAnswer r w s).fuseOld = s.fuseOld ∧
    (setAnswer r w s).procs = s.procs ∧ (setAnswer r w s).arrays = s.arrays ∧ (setAnswer r w s).pacer = s.pacer ∧
    (setAnswer r w s).mem = s.mem ∧ (setAnswer r w s).dma = s.dma ∧ (setAnswer r w s).media = s.media ∧
    (setAnswer r w s).ctlio = s.ctlio ∧ (setAnswer r w s).pcie = s.pcie ∧ (setAnswer r w s).herd = s.herd ∧
    (setAnswer r w s).lfi = s.lfi ∧ (setAnswer r w s).power = s.power ∧ (setAnswer r w s).reset_ = s.reset_ ∧
    (setAnswer r w s).pins = s.pins ∧ (setAnswer r w s).time = s.time ∧ (setAnswer r w s).trust = s.trust ∧
    (setAnswer r w s).sent = s.sent ∧ (setAnswer r w s).free = s.free := by
  simp only [setAnswer, modBus_frame, and_self]

@[simp] theorem setEntReg_frame (e o : Nat) (w : Word) :
    (setEntReg e o w s).pending = s.pending ∧ (setEntReg e o w s).fuses = s.fuses ∧ (setEntReg e o w s).fuseOld = s.fuseOld ∧
    (setEntReg e o w s).procs = s.procs ∧ (setEntReg e o w s).arrays = s.arrays ∧ (setEntReg e o w s).pacer = s.pacer ∧
    (setEntReg e o w s).mem = s.mem ∧ (setEntReg e o w s).dma = s.dma ∧ (setEntReg e o w s).media = s.media ∧
    (setEntReg e o w s).ctlio = s.ctlio ∧ (setEntReg e o w s).pcie = s.pcie ∧ (setEntReg e o w s).herd = s.herd ∧
    (setEntReg e o w s).lfi = s.lfi ∧ (setEntReg e o w s).power = s.power ∧ (setEntReg e o w s).reset_ = s.reset_ ∧
    (setEntReg e o w s).pins = s.pins ∧ (setEntReg e o w s).time = s.time ∧ (setEntReg e o w s).trust = s.trust ∧
    (setEntReg e o w s).sent = s.sent ∧ (setEntReg e o w s).free = s.free := by
  simp only [setEntReg, setReg_frame, and_self]

@[simp] theorem modPcie_frame (f : Pcie → Pcie) :
    (modPcie f s).pending = s.pending ∧ (modPcie f s).bus = s.bus ∧ (modPcie f s).fuses = s.fuses ∧
    (modPcie f s).fuseOld = s.fuseOld ∧ (modPcie f s).procs = s.procs ∧ (modPcie f s).arrays = s.arrays ∧
    (modPcie f s).pacer = s.pacer ∧ (modPcie f s).mem = s.mem ∧ (modPcie f s).dma = s.dma ∧
    (modPcie f s).media = s.media ∧ (modPcie f s).ctlio = s.ctlio ∧ (modPcie f s).herd = s.herd ∧
    (modPcie f s).lfi = s.lfi ∧ (modPcie f s).power = s.power ∧ (modPcie f s).reset_ = s.reset_ ∧
    (modPcie f s).pins = s.pins ∧ (modPcie f s).time = s.time ∧ (modPcie f s).trust = s.trust ∧
    (modPcie f s).sent = s.sent ∧ (modPcie f s).free = s.free := by
  simp only [modPcie, and_self]

@[simp] theorem modFn_frame (n : Nat) (f : PcieFn → PcieFn) :
    (modFn n f s).pending = s.pending ∧ (modFn n f s).bus = s.bus ∧ (modFn n f s).fuses = s.fuses ∧
    (modFn n f s).fuseOld = s.fuseOld ∧ (modFn n f s).procs = s.procs ∧ (modFn n f s).arrays = s.arrays ∧
    (modFn n f s).pacer = s.pacer ∧ (modFn n f s).mem = s.mem ∧ (modFn n f s).dma = s.dma ∧
    (modFn n f s).media = s.media ∧ (modFn n f s).ctlio = s.ctlio ∧ (modFn n f s).herd = s.herd ∧
    (modFn n f s).lfi = s.lfi ∧ (modFn n f s).power = s.power ∧ (modFn n f s).reset_ = s.reset_ ∧
    (modFn n f s).pins = s.pins ∧ (modFn n f s).time = s.time ∧ (modFn n f s).trust = s.trust ∧
    (modFn n f s).sent = s.sent ∧ (modFn n f s).free = s.free := by
  simp only [modFn, modPcie_frame, and_self]

@[simp] theorem modQueue_frame (q : Nat) (f : Queue → Queue) :
    (modQueue q f s).pending = s.pending ∧ (modQueue q f s).bus = s.bus ∧ (modQueue q f s).fuses = s.fuses ∧
    (modQueue q f s).fuseOld = s.fuseOld ∧ (modQueue q f s).procs = s.procs ∧ (modQueue q f s).arrays = s.arrays ∧
    (modQueue q f s).pacer = s.pacer ∧ (modQueue q f s).mem = s.mem ∧ (modQueue q f s).dma = s.dma ∧
    (modQueue q f s).media = s.media ∧ (modQueue q f s).ctlio = s.ctlio ∧ (modQueue q f s).herd = s.herd ∧
    (modQueue q f s).lfi = s.lfi ∧ (modQueue q f s).power = s.power ∧ (modQueue q f s).reset_ = s.reset_ ∧
    (modQueue q f s).pins = s.pins ∧ (modQueue q f s).time = s.time ∧ (modQueue q f s).trust = s.trust ∧
    (modQueue q f s).sent = s.sent ∧ (modQueue q f s).free = s.free := by
  simp only [modQueue, modPcie_frame, and_self]

@[simp] theorem modMem_frame (f : Mem → Mem) :
    (modMem f s).pending = s.pending ∧ (modMem f s).bus = s.bus ∧ (modMem f s).fuses = s.fuses ∧
    (modMem f s).fuseOld = s.fuseOld ∧ (modMem f s).procs = s.procs ∧ (modMem f s).arrays = s.arrays ∧
    (modMem f s).pacer = s.pacer ∧ (modMem f s).dma = s.dma ∧ (modMem f s).media = s.media ∧
    (modMem f s).ctlio = s.ctlio ∧ (modMem f s).pcie = s.pcie ∧ (modMem f s).herd = s.herd ∧
    (modMem f s).lfi = s.lfi ∧ (modMem f s).power = s.power ∧ (modMem f s).reset_ = s.reset_ ∧
    (modMem f s).pins = s.pins ∧ (modMem f s).time = s.time ∧ (modMem f s).trust = s.trust ∧
    (modMem f s).sent = s.sent ∧ (modMem f s).free = s.free := by
  simp only [modMem, and_self]

@[simp] theorem modSlice_frame (n : Nat) (f : Slice → Slice) :
    (modSlice n f s).pending = s.pending ∧ (modSlice n f s).bus = s.bus ∧ (modSlice n f s).fuses = s.fuses ∧
    (modSlice n f s).fuseOld = s.fuseOld ∧ (modSlice n f s).procs = s.procs ∧ (modSlice n f s).arrays = s.arrays ∧
    (modSlice n f s).pacer = s.pacer ∧ (modSlice n f s).dma = s.dma ∧ (modSlice n f s).media = s.media ∧
    (modSlice n f s).ctlio = s.ctlio ∧ (modSlice n f s).pcie = s.pcie ∧ (modSlice n f s).herd = s.herd ∧
    (modSlice n f s).lfi = s.lfi ∧ (modSlice n f s).power = s.power ∧ (modSlice n f s).reset_ = s.reset_ ∧
    (modSlice n f s).pins = s.pins ∧ (modSlice n f s).time = s.time ∧ (modSlice n f s).trust = s.trust ∧
    (modSlice n f s).sent = s.sent ∧ (modSlice n f s).free = s.free := by
  simp only [modSlice, modMem_frame, and_self]

@[simp] theorem modCtl_frame (f : Ctlio → Ctlio) :
    (modCtl f s).pending = s.pending ∧ (modCtl f s).bus = s.bus ∧ (modCtl f s).fuses = s.fuses ∧
    (modCtl f s).fuseOld = s.fuseOld ∧ (modCtl f s).procs = s.procs ∧ (modCtl f s).arrays = s.arrays ∧
    (modCtl f s).pacer = s.pacer ∧ (modCtl f s).mem = s.mem ∧ (modCtl f s).dma = s.dma ∧
    (modCtl f s).media = s.media ∧ (modCtl f s).pcie = s.pcie ∧ (modCtl f s).herd = s.herd ∧
    (modCtl f s).lfi = s.lfi ∧ (modCtl f s).power = s.power ∧ (modCtl f s).reset_ = s.reset_ ∧
    (modCtl f s).pins = s.pins ∧ (modCtl f s).time = s.time ∧ (modCtl f s).trust = s.trust ∧
    (modCtl f s).sent = s.sent ∧ (modCtl f s).free = s.free := by
  simp only [modCtl, and_self]

@[simp] theorem modUart_frame (u : Nat) (f : UartSt → UartSt) :
    (modUart u f s).pending = s.pending ∧ (modUart u f s).bus = s.bus ∧ (modUart u f s).fuses = s.fuses ∧
    (modUart u f s).fuseOld = s.fuseOld ∧ (modUart u f s).procs = s.procs ∧ (modUart u f s).arrays = s.arrays ∧
    (modUart u f s).pacer = s.pacer ∧ (modUart u f s).mem = s.mem ∧ (modUart u f s).dma = s.dma ∧
    (modUart u f s).media = s.media ∧ (modUart u f s).pcie = s.pcie ∧ (modUart u f s).herd = s.herd ∧
    (modUart u f s).lfi = s.lfi ∧ (modUart u f s).power = s.power ∧ (modUart u f s).reset_ = s.reset_ ∧
    (modUart u f s).pins = s.pins ∧ (modUart u f s).time = s.time ∧ (modUart u f s).trust = s.trust ∧
    (modUart u f s).sent = s.sent ∧ (modUart u f s).free = s.free := by
  simp only [modUart, modCtl_frame, and_self]

@[simp] theorem modHerd_frame (f : Herd → Herd) :
    (modHerd f s).pending = s.pending ∧ (modHerd f s).bus = s.bus ∧ (modHerd f s).fuses = s.fuses ∧
    (modHerd f s).fuseOld = s.fuseOld ∧ (modHerd f s).procs = s.procs ∧ (modHerd f s).arrays = s.arrays ∧
    (modHerd f s).pacer = s.pacer ∧ (modHerd f s).mem = s.mem ∧ (modHerd f s).dma = s.dma ∧
    (modHerd f s).media = s.media ∧ (modHerd f s).ctlio = s.ctlio ∧ (modHerd f s).pcie = s.pcie ∧
    (modHerd f s).lfi = s.lfi ∧ (modHerd f s).power = s.power ∧ (modHerd f s).reset_ = s.reset_ ∧
    (modHerd f s).pins = s.pins ∧ (modHerd f s).time = s.time ∧ (modHerd f s).trust = s.trust ∧
    (modHerd f s).sent = s.sent ∧ (modHerd f s).free = s.free := by
  simp only [modHerd, and_self]

@[simp] theorem modPeer_frame (p : Nat) (f : Peer → Peer) :
    (modPeer p f s).pending = s.pending ∧ (modPeer p f s).bus = s.bus ∧ (modPeer p f s).fuses = s.fuses ∧
    (modPeer p f s).fuseOld = s.fuseOld ∧ (modPeer p f s).procs = s.procs ∧ (modPeer p f s).arrays = s.arrays ∧
    (modPeer p f s).pacer = s.pacer ∧ (modPeer p f s).mem = s.mem ∧ (modPeer p f s).dma = s.dma ∧
    (modPeer p f s).media = s.media ∧ (modPeer p f s).ctlio = s.ctlio ∧ (modPeer p f s).pcie = s.pcie ∧
    (modPeer p f s).lfi = s.lfi ∧ (modPeer p f s).power = s.power ∧ (modPeer p f s).reset_ = s.reset_ ∧
    (modPeer p f s).pins = s.pins ∧ (modPeer p f s).time = s.time ∧ (modPeer p f s).trust = s.trust ∧
    (modPeer p f s).sent = s.sent ∧ (modPeer p f s).free = s.free := by
  simp only [modPeer, modHerd_frame, and_self]

@[simp] theorem modLfi_frame (c : Nat) (f : LfiChan → LfiChan) :
    (modLfi c f s).pending = s.pending ∧ (modLfi c f s).bus = s.bus ∧ (modLfi c f s).fuses = s.fuses ∧
    (modLfi c f s).fuseOld = s.fuseOld ∧ (modLfi c f s).procs = s.procs ∧ (modLfi c f s).arrays = s.arrays ∧
    (modLfi c f s).pacer = s.pacer ∧ (modLfi c f s).mem = s.mem ∧ (modLfi c f s).dma = s.dma ∧
    (modLfi c f s).media = s.media ∧ (modLfi c f s).ctlio = s.ctlio ∧ (modLfi c f s).pcie = s.pcie ∧
    (modLfi c f s).herd = s.herd ∧ (modLfi c f s).power = s.power ∧ (modLfi c f s).reset_ = s.reset_ ∧
    (modLfi c f s).pins = s.pins ∧ (modLfi c f s).time = s.time ∧ (modLfi c f s).trust = s.trust ∧
    (modLfi c f s).sent = s.sent ∧ (modLfi c f s).free = s.free := by
  simp only [modLfi, and_self]

@[simp] theorem modReset_frame (f : ResetCtl → ResetCtl) :
    (modReset f s).pending = s.pending ∧ (modReset f s).bus = s.bus ∧ (modReset f s).fuses = s.fuses ∧
    (modReset f s).fuseOld = s.fuseOld ∧ (modReset f s).procs = s.procs ∧ (modReset f s).arrays = s.arrays ∧
    (modReset f s).pacer = s.pacer ∧ (modReset f s).mem = s.mem ∧ (modReset f s).dma = s.dma ∧
    (modReset f s).media = s.media ∧ (modReset f s).ctlio = s.ctlio ∧ (modReset f s).pcie = s.pcie ∧
    (modReset f s).herd = s.herd ∧ (modReset f s).lfi = s.lfi ∧ (modReset f s).power = s.power ∧
    (modReset f s).pins = s.pins ∧ (modReset f s).time = s.time ∧ (modReset f s).trust = s.trust ∧
    (modReset f s).sent = s.sent ∧ (modReset f s).free = s.free := by
  simp only [modReset, and_self]

@[simp] theorem modTrust_frame (f : Trust → Trust) :
    (modTrust f s).pending = s.pending ∧ (modTrust f s).bus = s.bus ∧ (modTrust f s).fuses = s.fuses ∧
    (modTrust f s).fuseOld = s.fuseOld ∧ (modTrust f s).procs = s.procs ∧ (modTrust f s).arrays = s.arrays ∧
    (modTrust f s).pacer = s.pacer ∧ (modTrust f s).mem = s.mem ∧ (modTrust f s).dma = s.dma ∧
    (modTrust f s).media = s.media ∧ (modTrust f s).ctlio = s.ctlio ∧ (modTrust f s).pcie = s.pcie ∧
    (modTrust f s).herd = s.herd ∧ (modTrust f s).lfi = s.lfi ∧ (modTrust f s).power = s.power ∧
    (modTrust f s).reset_ = s.reset_ ∧ (modTrust f s).pins = s.pins ∧ (modTrust f s).time = s.time ∧
    (modTrust f s).sent = s.sent ∧ (modTrust f s).free = s.free := by
  simp only [modTrust, and_self]

@[simp] theorem modTime_frame (f : Time → Time) :
    (modTime f s).pending = s.pending ∧ (modTime f s).bus = s.bus ∧ (modTime f s).fuses = s.fuses ∧
    (modTime f s).fuseOld = s.fuseOld ∧ (modTime f s).procs = s.procs ∧ (modTime f s).arrays = s.arrays ∧
    (modTime f s).pacer = s.pacer ∧ (modTime f s).mem = s.mem ∧ (modTime f s).dma = s.dma ∧
    (modTime f s).media = s.media ∧ (modTime f s).ctlio = s.ctlio ∧ (modTime f s).pcie = s.pcie ∧
    (modTime f s).herd = s.herd ∧ (modTime f s).lfi = s.lfi ∧ (modTime f s).power = s.power ∧
    (modTime f s).reset_ = s.reset_ ∧ (modTime f s).pins = s.pins ∧ (modTime f s).trust = s.trust ∧
    (modTime f s).sent = s.sent ∧ (modTime f s).free = s.free := by
  simp only [modTime, and_self]

@[simp] theorem modMedia_frame (f : Media → Media) :
    (modMedia f s).pending = s.pending ∧ (modMedia f s).bus = s.bus ∧ (modMedia f s).fuses = s.fuses ∧
    (modMedia f s).fuseOld = s.fuseOld ∧ (modMedia f s).procs = s.procs ∧ (modMedia f s).arrays = s.arrays ∧
    (modMedia f s).pacer = s.pacer ∧ (modMedia f s).mem = s.mem ∧ (modMedia f s).dma = s.dma ∧
    (modMedia f s).ctlio = s.ctlio ∧ (modMedia f s).pcie = s.pcie ∧ (modMedia f s).herd = s.herd ∧
    (modMedia f s).lfi = s.lfi ∧ (modMedia f s).power = s.power ∧ (modMedia f s).reset_ = s.reset_ ∧
    (modMedia f s).pins = s.pins ∧ (modMedia f s).time = s.time ∧ (modMedia f s).trust = s.trust ∧
    (modMedia f s).sent = s.sent ∧ (modMedia f s).free = s.free := by
  simp only [modMedia, and_self]

@[simp] theorem modEnt_frame (e : Nat) (f : StreamEnt → StreamEnt) :
    (modEnt e f s).pending = s.pending ∧ (modEnt e f s).bus = s.bus ∧ (modEnt e f s).fuses = s.fuses ∧
    (modEnt e f s).fuseOld = s.fuseOld ∧ (modEnt e f s).procs = s.procs ∧ (modEnt e f s).arrays = s.arrays ∧
    (modEnt e f s).pacer = s.pacer ∧ (modEnt e f s).mem = s.mem ∧ (modEnt e f s).dma = s.dma ∧
    (modEnt e f s).ctlio = s.ctlio ∧ (modEnt e f s).pcie = s.pcie ∧ (modEnt e f s).herd = s.herd ∧
    (modEnt e f s).lfi = s.lfi ∧ (modEnt e f s).power = s.power ∧ (modEnt e f s).reset_ = s.reset_ ∧
    (modEnt e f s).pins = s.pins ∧ (modEnt e f s).time = s.time ∧ (modEnt e f s).trust = s.trust ∧
    (modEnt e f s).sent = s.sent ∧ (modEnt e f s).free = s.free := by
  simp only [modEnt, modMedia_frame, and_self]

@[simp] theorem modCsi_frame (i : Nat) (f : CsiInput → CsiInput) :
    (modCsi i f s).pending = s.pending ∧ (modCsi i f s).bus = s.bus ∧ (modCsi i f s).fuses = s.fuses ∧
    (modCsi i f s).fuseOld = s.fuseOld ∧ (modCsi i f s).procs = s.procs ∧ (modCsi i f s).arrays = s.arrays ∧
    (modCsi i f s).pacer = s.pacer ∧ (modCsi i f s).mem = s.mem ∧ (modCsi i f s).dma = s.dma ∧
    (modCsi i f s).ctlio = s.ctlio ∧ (modCsi i f s).pcie = s.pcie ∧ (modCsi i f s).herd = s.herd ∧
    (modCsi i f s).lfi = s.lfi ∧ (modCsi i f s).power = s.power ∧ (modCsi i f s).reset_ = s.reset_ ∧
    (modCsi i f s).pins = s.pins ∧ (modCsi i f s).time = s.time ∧ (modCsi i f s).trust = s.trust ∧
    (modCsi i f s).sent = s.sent ∧ (modCsi i f s).free = s.free := by
  simp only [modCsi, modMedia_frame, and_self]

@[simp] theorem modFuses_frame (f : Fuses → Fuses) :
    (modFuses f s).pending = s.pending ∧ (modFuses f s).bus = s.bus ∧ (modFuses f s).fuseOld = s.fuseOld ∧
    (modFuses f s).procs = s.procs ∧ (modFuses f s).arrays = s.arrays ∧ (modFuses f s).pacer = s.pacer ∧
    (modFuses f s).mem = s.mem ∧ (modFuses f s).dma = s.dma ∧ (modFuses f s).media = s.media ∧
    (modFuses f s).ctlio = s.ctlio ∧ (modFuses f s).pcie = s.pcie ∧ (modFuses f s).herd = s.herd ∧
    (modFuses f s).lfi = s.lfi ∧ (modFuses f s).power = s.power ∧ (modFuses f s).reset_ = s.reset_ ∧
    (modFuses f s).pins = s.pins ∧ (modFuses f s).time = s.time ∧ (modFuses f s).trust = s.trust ∧
    (modFuses f s).sent = s.sent ∧ (modFuses f s).free = s.free := by
  simp only [modFuses, and_self]

/-! ### What is written -/

@[simp] theorem modDma_val (f : Dma → Dma) : (modDma f s).dma = f s.dma := rfl

@[simp] theorem modPins_val (f : Store Pin → Store Pin) : (modPins f s).pins = f s.pins := rfl

@[simp] theorem modPacer_val (f : Pacer → Pacer) : (modPacer f s).pacer = f s.pacer := rfl

@[simp] theorem modBus_val (f : Bus → Bus) : (modBus f s).bus = f s.bus := rfl

@[simp] theorem modPcie_val (f : Pcie → Pcie) : (modPcie f s).pcie = f s.pcie := rfl

@[simp] theorem modMem_val (f : Mem → Mem) : (modMem f s).mem = f s.mem := rfl

@[simp] theorem modCtl_val (f : Ctlio → Ctlio) : (modCtl f s).ctlio = f s.ctlio := rfl

@[simp] theorem modHerd_val (f : Herd → Herd) : (modHerd f s).herd = f s.herd := rfl

@[simp] theorem modPower_val (f : Power → Power) : (modPower f s).power = f s.power := rfl

@[simp] theorem modReset_val (f : ResetCtl → ResetCtl) : (modReset f s).reset_ = f s.reset_ := rfl

@[simp] theorem modTrust_val (f : Trust → Trust) : (modTrust f s).trust = f s.trust := rfl

@[simp] theorem modTime_val (f : Time → Time) : (modTime f s).time = f s.time := rfl

@[simp] theorem modMedia_val (f : Media → Media) : (modMedia f s).media = f s.media := rfl

@[simp] theorem modFuses_val (f : Fuses → Fuses) : (modFuses f s).fuses = f s.fuses := rfl

@[simp] theorem send_sent (x : Sent) : (send x s).sent = x :: s.sent := rfl

@[simp] theorem getProc_modProc (n : Nat) (f : ProcState → ProcState) : getProc (modProc n f s) n = f (getProc s n) := storeGet_mod_same _ _ _ _

theorem getProc_modProc_other {n j : Nat} (f : ProcState → ProcState) (h : j ≠ n) : getProc (modProc n f s) j = getProc s j :=
  storeGet_mod_other _ _ _ h

@[simp] theorem getArray_modArray (n : Nat) (f : ArrayState → ArrayState) : getArray (modArray n f s) n = f (getArray s n) := storeGet_mod_same _ _ _ _

theorem getArray_modArray_other {n j : Nat} (f : ArrayState → ArrayState) (h : j ≠ n) : getArray (modArray n f s) j = getArray s j :=
  storeGet_mod_other _ _ _ h

@[simp] theorem getHealth_modHealth (n : Nat) (f : Health → Health) : getHealth (modHealth n f s) n = f (getHealth s n) := storeGet_mod_same _ _ _ _

theorem getHealth_modHealth_other {n j : Nat} (f : Health → Health) (h : j ≠ n) : getHealth (modHealth n f s) j = getHealth s j :=
  storeGet_mod_other _ _ _ h

@[simp] theorem getClass_modClass (n : Nat) (f : ClassEntry → ClassEntry) : getClass (modClass n f s) n = f (getClass s n) := storeGet_mod_same _ _ _ _

theorem getClass_modClass_other {n j : Nat} (f : ClassEntry → ClassEntry) (h : j ≠ n) : getClass (modClass n f s) j = getClass s j :=
  storeGet_mod_other _ _ _ h

@[simp] theorem getChan_modChan (n : Nat) (f : Chan → Chan) : getChan (modChan n f s) n = f (getChan s n) := storeGet_mod_same _ _ _ _

theorem getChan_modChan_other {n j : Nat} (f : Chan → Chan) (h : j ≠ n) : getChan (modChan n f s) j = getChan s j :=
  storeGet_mod_other _ _ _ h

@[simp] theorem getFn_modFn (n : Nat) (f : PcieFn → PcieFn) : getFn (modFn n f s) n = f (getFn s n) := storeGet_mod_same _ _ _ _

theorem getFn_modFn_other {n j : Nat} (f : PcieFn → PcieFn) (h : j ≠ n) : getFn (modFn n f s) j = getFn s j :=
  storeGet_mod_other _ _ _ h

@[simp] theorem getQueue_modQueue (n : Nat) (f : Queue → Queue) : getQueue (modQueue n f s) n = f (getQueue s n) := storeGet_mod_same _ _ _ _

theorem getQueue_modQueue_other {n j : Nat} (f : Queue → Queue) (h : j ≠ n) : getQueue (modQueue n f s) j = getQueue s j :=
  storeGet_mod_other _ _ _ h

@[simp] theorem getSlice_modSlice (n : Nat) (f : Slice → Slice) : getSlice (modSlice n f s) n = f (getSlice s n) := storeGet_mod_same _ _ _ _

theorem getSlice_modSlice_other {n j : Nat} (f : Slice → Slice) (h : j ≠ n) : getSlice (modSlice n f s) j = getSlice s j :=
  storeGet_mod_other _ _ _ h

@[simp] theorem getUart_modUart (n : Nat) (f : UartSt → UartSt) : getUart (modUart n f s) n = f (getUart s n) := storeGet_mod_same _ _ _ _

theorem getUart_modUart_other {n j : Nat} (f : UartSt → UartSt) (h : j ≠ n) : getUart (modUart n f s) j = getUart s j :=
  storeGet_mod_other _ _ _ h

@[simp] theorem getPeer_modPeer (n : Nat) (f : Peer → Peer) : getPeer (modPeer n f s) n = f (getPeer s n) := storeGet_mod_same _ _ _ _

theorem getPeer_modPeer_other {n j : Nat} (f : Peer → Peer) (h : j ≠ n) : getPeer (modPeer n f s) j = getPeer s j :=
  storeGet_mod_other _ _ _ h

@[simp] theorem getLfi_modLfi (n : Nat) (f : LfiChan → LfiChan) : getLfi (modLfi n f s) n = f (getLfi s n) := storeGet_mod_same _ _ _ _

theorem getLfi_modLfi_other {n j : Nat} (f : LfiChan → LfiChan) (h : j ≠ n) : getLfi (modLfi n f s) j = getLfi s j :=
  storeGet_mod_other _ _ _ h

@[simp] theorem getEnt_modEnt (n : Nat) (f : StreamEnt → StreamEnt) : getEnt (modEnt n f s) n = f (getEnt s n) := storeGet_mod_same _ _ _ _

theorem getEnt_modEnt_other {n j : Nat} (f : StreamEnt → StreamEnt) (h : j ≠ n) : getEnt (modEnt n f s) j = getEnt s j :=
  storeGet_mod_other _ _ _ h

@[simp] theorem getCsi_modCsi (n : Nat) (f : CsiInput → CsiInput) : getCsi (modCsi n f s) n = f (getCsi s n) := storeGet_mod_same _ _ _ _

theorem getCsi_modCsi_other {n j : Nat} (f : CsiInput → CsiInput) (h : j ≠ n) : getCsi (modCsi n f s) j = getCsi s j :=
  storeGet_mod_other _ _ _ h

@[simp] theorem dom_modDom (n : Nat) (f : Dom → Dom) : dom (modDom n f s) n = f (dom s n) := storeGet_mod_same _ _ _ _

theorem dom_modDom_other {n j : Nat} (f : Dom → Dom) (h : j ≠ n) : dom (modDom n f s) j = dom s j :=
  storeGet_mod_other _ _ _ h

@[simp] theorem getReg_setReg (page chan off : Nat) (w : Word) : getReg (setReg page chan off w s) page chan off = w :=
  storeGet_set_same _ _ _ _

theorem getReg_setReg_other {page chan off page' chan' off' : Nat} (w : Word)
    (h : regKey page' chan' off' ≠ regKey page chan off) :
    getReg (setReg page chan off w s) page' chan' off' = getReg s page' chan' off' :=
  storeGet_set_other _ _ _ h

@[simp] theorem getHdr_setHdr (page : Nat) (h : Hdr) : getHdr (setHdr page h s) page = h := storeGet_set_same _ _ _ _

theorem getHdr_setHdr_other {page page' : Nat} (h : Hdr) (hp : page' ≠ page) : getHdr (setHdr page h s) page' = getHdr s page' :=
  storeGet_set_other _ _ _ hp

@[simp] theorem getAnswer_setAnswer (r : Requester) (w : Word) : getAnswer (setAnswer r w s) r = w := storeGet_set_same _ _ _ _

/-- A register access leaves the cells that its own update does not name: the bus alone changes. -/
@[simp] theorem getReg_of_bus {s t : State} (h : t.bus = s.bus) (page chan off : Nat) :
    getReg t page chan off = getReg s page chan off := by
  simp [getReg, h]

end Sys2Proof.Machine
end

