-- ==== Sys2Proof/Laws/Bus.lean ====
section
/-! SUPPORT. What the shared operations of the register pages do: a taken write reaches its register, a header changes alone, and
an error record changes one header. -/

namespace Sys2Proof.Machine

theorem unchangedBut.refl (l : List Part) (s : State) : unchangedBut l s s := by
  intro p _
  cases p <;> rfl

theorem unchangedBut.trans {l : List Part} {s t u : State} (h : unchangedBut l s t) (h' : unchangedBut l t u) : unchangedBut l s u := by
  intro p hp
  have a := h p hp
  have b := h' p hp
  cases p <;> simp only [Part.same] at * <;> exact b.trans a

theorem unchangedBut.mono {l m : List Part} {s t : State} (h : unchangedBut l s t) (hl : ∀ p, p ∈ l → p ∈ m) : unchangedBut m s t :=
  fun p hp => h p fun hm => hp (hl p hm)

/-! ### Headers -/

theorem msixRaise_unchanged (f v : Nat) (s : State) : unchangedBut [.pcie, .sent] s (msixRaise f v s) := by
  unfold msixRaise
  split
  · exact unchangedBut.refl _ s
  · split <;> intro p hp <;> cases p <;> simp_all [Part.same]

theorem msixRaise_bus (f v : Nat) (s : State) : (msixRaise f v s).bus = s.bus := msixRaise_unchanged f v s .bus (by decide)

theorem getHdr_bus {s t : State} (h : t.bus = s.bus) (page : Nat) : getHdr t page = getHdr s page := by
  simp only [getHdr, h]

theorem modHdr_unchanged (page : Nat) (f : Hdr → Hdr) (s : State) : unchangedBut [.bus, .pcie, .sent] s (modHdr page f s) := by
  unfold modHdr
  dsimp only
  have hs : unchangedBut [.bus, .pcie, .sent] s (setHdr page (f (getHdr s page)) s) := by
    intro p hp
    cases p <;> simp_all [Part.same]
  split
  · exact hs.trans ((msixRaise_unchanged _ _ _).mono (by decide))
  · exact hs

theorem modHdr_bus (page : Nat) (f : Hdr → Hdr) (s : State) : (modHdr page f s).bus = (setHdr page (f (getHdr s page)) s).bus := by
  unfold modHdr
  dsimp only
  split
  · exact msixRaise_bus _ _ _
  · rfl

@[simp] theorem getHdr_modHdr (page : Nat) (f : Hdr → Hdr) (s : State) : getHdr (modHdr page f s) page = f (getHdr s page) := by
  rw [getHdr_bus (modHdr_bus page f s), getHdr_setHdr]

theorem getHdr_modHdr_other {page q : Nat} (f : Hdr → Hdr) (s : State) (h : q ≠ page) :
    getHdr (modHdr page f s) q = getHdr s q := by
  rw [getHdr_bus (modHdr_bus page f s), getHdr_setHdr_other _ _ h]

@[simp] theorem getReg_setHdr (page : Nat) (h : Hdr) (s : State) (p c o : Nat) : getReg (setHdr page h s) p c o = getReg s p c o := rfl

@[simp] theorem getReg_modHdr (page : Nat) (f : Hdr → Hdr) (s : State) (p c o : Nat) :
    getReg (modHdr page f s) p c o = getReg s p c o := by
  rw [getReg_of_bus (modHdr_bus page f s)]
  rfl

/-! ### Error records (R34) -/

theorem recordErr_unchanged (page : Nat) (req code : Byte) (a : Addr) (s : State) :
    unchangedBut [.bus, .pcie, .sent] s (recordErr page req code a s) := by
  unfold recordErr
  dsimp only
  have h := modHdr_unchanged page (·.capture req code a) s
  split
  · exact h.trans ((msixRaise_unchanged _ _ _).mono (by decide))
  · exact h

theorem recordErr_bus (page : Nat) (req code : Byte) (a : Addr) (s : State) :
    (recordErr page req code a s).bus = (modHdr page (·.capture req code a) s).bus := by
  unfold recordErr
  dsimp only
  split
  · exact msixRaise_bus _ _ _
  · rfl

@[simp] theorem getHdr_recordErr (page : Nat) (req code : Byte) (a : Addr) (s : State) :
    getHdr (recordErr page req code a s) page = (getHdr s page).capture req code a := by
  rw [getHdr_bus (recordErr_bus page req code a s), getHdr_modHdr]

theorem getHdr_recordErr_other {page q : Nat} (req code : Byte) (a : Addr) (s : State) (h : q ≠ page) :
    getHdr (recordErr page req code a s) q = getHdr s q := by
  rw [getHdr_bus (recordErr_bus page req code a s), getHdr_modHdr_other _ _ h]

@[simp] theorem getReg_recordErr (page : Nat) (req code : Byte) (a : Addr) (s : State) (p c o : Nat) :
    getReg (recordErr page req code a s) p c o = getReg s p c o := by
  rw [getReg_of_bus (recordErr_bus page req code a s), getReg_modHdr]

/-! ### Writes that arrive -/

/-- With the injector at rest no stream is touched. -/
theorem lfiQuiet_of_off {s : State} (h : injectorOff s) (target sel dir : Nat) : lfiQuiet s target sel dir = true := by
  simp only [lfiQuiet, List.all_eq_true, List.mem_range]
  intro c hc
  simp [lfiOn, lfiHolds, (h c hc).1, (h c hc).2]


/-- A taken write of an aligned word reaches its page. -/
theorem regWrite_taken {s : State} {r : Requester} {page off : Nat} (v : Word) (h : Taken s r page off) (hp : page < 32)
    (ho : off < 0x1000) (ha : off % 4 = 0) : regWrite r (page * 0x1000 + off) 4 v s = pageWrite r page off v s := by
  have h1 : (page * 0x1000 + off) / 0x1000 = page := by omega
  have h2 : (page * 0x1000 + off) % 0x1000 = off := by omega
  have h3 : ¬ (0x20000 ≤ page * 0x1000 + off) := by omega
  have h4 : (page * 0x1000 + off) % 4 = 0 := by omega
  simp only [regWrite, regPass, regEffect, busWrite, h.live, h.free, h.quiet, h1, h2, h3, h4, h.check, Bool.not_true, Bool.or_false, if_false,
    if_true, ne_eq, not_true_eq_false, or_self, Bool.false_eq_true]

/-- A refused write of an aligned word records its error and is counted, and does nothing else. -/
theorem regWrite_turnedAway {s : State} {r : Requester} {page off pg : Nat} {code : Byte} (v : Word)
    (h : TurnedAway s r page off pg code) (hp : page < 32) (ho : off < 0x1000) (ha : off % 4 = 0) :
    regWrite r (page * 0x1000 + off) 4 v s = regRefused r code (recordErr pg r.code code (regAddr page off) s) := by
  have h1 : (page * 0x1000 + off) / 0x1000 = page := by omega
  have h2 : (page * 0x1000 + off) % 0x1000 = off := by omega
  have h3 : ¬ (0x20000 ≤ page * 0x1000 + off) := by omega
  have h4 : (page * 0x1000 + off) % 4 = 0 := by omega
  simp only [regWrite, regPass, regEffect, busWrite, h.live, h.free, h.quiet, h1, h2, h3, h4, h.check, Bool.not_true, Bool.or_false, if_false,
    if_true, ne_eq, not_true_eq_false, or_self, Bool.false_eq_true]

/-- No channel has halted where every channel's state is as it was. -/
theorem haltChecks_same {s t : State} (h : ∀ c, (getChan t c).st = (getChan s c).st) : haltChecks s t = t := by
  have hc : ∀ c, haltCheck c s t = t := by
    intro c
    unfold haltCheck
    rw [if_neg]
    intro ⟨a, b⟩
    exact a (h c ▸ b)
  unfold haltChecks
  generalize List.range 32 = l
  induction l with
  | nil => rfl
  | cons c l ih => rw [List.foldl_cons, hc, ih]

end Sys2Proof.Machine
end

