-- ==== Sys2Proof/Laws/Memory.lean ====
section
/-! SUPPORT. The memories keep their canonical form under every memory operation, and a byte written reads back. -/

namespace Sys2Proof.Machine

theorem Mem.wf_iff (m : Mem) : m.wf = true ↔ storeWf (memDefault m.eras) m.bytes = true ∧ storeWf (fun _ => false) m.damaged = true
    ∧ storeWf byteZero m.host = true ∧ storeWf byteZero m.flash = true := by
  simp [Mem.wf, and_assoc]

theorem Mem.wf_put (a : Nat) (b : Byte) {m : Mem} (h : m.wf = true) : (m.put a b).wf = true := by
  rw [Mem.wf_iff] at h ⊢
  exact ⟨storeWf_set _ m.bytes a b h.1, storeWf_set _ m.damaged a false h.2.1, h.2.2⟩

theorem Mem.wf_putAll (a : Nat) (bs : List Byte) {m : Mem} (h : m.wf = true) : (Mem.putAll a bs m).wf = true := by
  induction bs generalizing a m with
  | nil => exact h
  | cons b bs ih => exact ih (a + 1) (Mem.wf_put a b h)

theorem Mem.wf_clear (lo hi : Nat) {m : Mem} (h : m.wf = true) : (m.clear lo hi).wf = true := by
  rw [Mem.wf_iff] at h ⊢
  exact ⟨storeWf_filter _ _ _ h.1, storeWf_filter _ _ _ h.2.1, h.2.2⟩

/-- What an unlisted byte reads as changes only in the memory that loses its contents. -/
theorem memDefault_other (eras : Store Nat) (u a : Nat) (f : Nat → Nat) (h : memUnit a ≠ some u) :
    memDefault (storeMod (fun _ => 0) eras u f) a = memDefault eras a := by
  unfold memDefault
  cases hu : memUnit a with
  | none => rfl
  | some v =>
    have hv : v ≠ u := fun e => h (by rw [hu, e])
    simp only [storeGet_mod_other _ _ _ hv]

theorem Mem.wf_renew (u : Nat) (f : Nat → Nat) {m : Mem} (h : m.wf = true) : (m.renew u f).wf = true := by
  rw [Mem.wf_iff] at h ⊢
  refine ⟨?_, storeWf_filter _ _ _ h.2.1, h.2.2⟩
  have hb := (storeWf_iff _ _).1 h.1
  refine (storeWf_iff _ _).2 ⟨fun e he => ?_, hb.2.filter _⟩
  obtain ⟨hm, hu⟩ := List.mem_filter.1 he
  have hne : memUnit e.1 ≠ some u := by simpa using hu
  simp only [Mem.renew] at *
  rw [memDefault_other _ _ _ _ hne]
  exact hb.1 e hm

theorem Mem.wf_lose (u : Nat) {m : Mem} (h : m.wf = true) : (m.lose u).wf = true := Mem.wf_renew u _ h

theorem Mem.wf_wipe (u : Nat) {m : Mem} (h : m.wf = true) : (m.wipe u).wf = true := Mem.wf_renew u _ h

theorem Mem.wf_zeroBuffers (n : Nat) {m : Mem} (h : m.wf = true) : (m.zeroBuffers n).wf = true := Mem.wf_renew _ _ h

theorem Mem.wf_freshBuffers (n : Nat) {m : Mem} (h : m.wf = true) : (m.freshBuffers n).wf = true := Mem.wf_renew _ _ h

theorem Mem.wf_loseAll (us : List Nat) {m : Mem} (h : m.wf = true) : (us.foldl (fun m u => m.lose u) m).wf = true := by
  induction us generalizing m with
  | nil => exact h
  | cons u us ih => exact ih (Mem.wf_lose u h)

theorem Mem.wf_damaged {m : Mem} (d : Store Bool) (h : m.wf = true) (hd : storeWf (fun _ => false) d = true) :
    ({ m with damaged := d } : Mem).wf = true := by
  rw [Mem.wf_iff] at h ⊢
  exact ⟨h.1, hd, h.2.2⟩

theorem Mem.wf_host {m : Mem} (d : Store Byte) (h : m.wf = true) (hd : storeWf byteZero d = true) :
    ({ m with host := d } : Mem).wf = true := by
  rw [Mem.wf_iff] at h ⊢
  exact ⟨h.1, h.2.1, hd, h.2.2.2⟩

theorem Mem.wf_flash {m : Mem} (d : Store Byte) (h : m.wf = true) (hd : storeWf byteZero d = true) :
    ({ m with flash := d } : Mem).wf = true := by
  rw [Mem.wf_iff] at h ⊢
  exact ⟨h.1, h.2.1, h.2.2.1, hd⟩

/-- A change of other fields than the memories' bytes. -/
theorem Mem.wf_same {m m' : Mem} (h : m.wf = true) (hb : m'.bytes = m.bytes) (he : m'.eras = m.eras) (hd : m'.damaged = m.damaged)
    (hh : m'.host = m.host) (hf : m'.flash = m.flash) : m'.wf = true := by
  rw [Mem.wf_iff] at h ⊢
  rw [hb, he, hd, hh, hf]
  exact h

theorem Mem.damaged_wf {m : Mem} (h : m.wf = true) : storeWf (fun _ => false) m.damaged = true := ((Mem.wf_iff m).1 h).2.1
theorem Mem.host_wf {m : Mem} (h : m.wf = true) : storeWf byteZero m.host = true := ((Mem.wf_iff m).1 h).2.2.1
theorem Mem.flash_wf {m : Mem} (h : m.wf = true) : storeWf byteZero m.flash = true := ((Mem.wf_iff m).1 h).2.2.2

/-! ### Reading what was written -/

/-- A byte of the internal map as a memory holds it. -/
theorem memByte_put_same (s : State) (a : Nat) (b : Byte) : memByte (modMem (Mem.put a b) s) a = b :=
  storeGet_set_same _ _ _ _

theorem memByte_put_other (s : State) {a x : Nat} (b : Byte) (h : x ≠ a) : memByte (modMem (Mem.put a b) s) x = memByte s x :=
  storeGet_set_other _ _ _ h

theorem modMem_modMem (f g : Mem → Mem) (s : State) : modMem f (modMem g s) = modMem (fun m => f (g m)) s := rfl

/-- A write of bytes leaves every byte outside its range. -/
theorem memByte_memPut_other (s : State) (a : Nat) (bs : List Byte) (x : Nat) (h : x < a ∨ a + bs.length ≤ x) :
    memByte (memPut a bs s) x = memByte s x := by
  induction bs generalizing a s with
  | nil => rfl
  | cons b bs ih =>
    have hs : memPut a (b :: bs) s = memPut (a + 1) bs (modMem (Mem.put a b) s) := rfl
    rw [hs, ih (modMem (Mem.put a b) s) (a + 1) (by simp at h; omega), memByte_put_other s b (by simp at h; omega)]

/-- The i-th byte written reads back. -/
theorem memByte_memPut (s : State) (a : Nat) (bs : List Byte) (i : Nat) (h : i < bs.length) :
    memByte (memPut a bs s) (a + i) = bs[i] := by
  induction bs generalizing a s i with
  | nil => simp at h
  | cons b bs ih =>
    have hs : memPut a (b :: bs) s = memPut (a + 1) bs (modMem (Mem.put a b) s) := rfl
    cases i with
    | zero => rw [hs, memByte_memPut_other _ _ _ _ (by omega)]; exact memByte_put_same s a b
    | succ i =>
      rw [hs, show a + (i + 1) = a + 1 + i by omega, ih (modMem (Mem.put a b) s) (a + 1) i (by simpa using h)]
      rfl

end Sys2Proof.Machine
end

