-- ==== Sys2Proof/Laws/Keep.lean ====
section
/-! SUPPORT. What every operation keeps: the queue of waiting commands, the canonical form of the memories, and, of the fuses,
what is one-way. One lemma per operation; each says that the operation goes on keeping what held since some earlier state. -/
namespace Sys2Proof.Machine
variable {s₀ : State}
theorem OneWay.refl (a : Fuses) : OneWay a a :=
  ⟨Nat.le_refl _, BitVec.and_self, BitVec.and_self, BitVec.and_self, rfl, rfl, rfl, rfl, rfl, rfl, rfl, rfl, rfl⟩
theorem and_eq_trans {w : Nat} {a b c : BitVec w} (h : a &&& b = a) (h' : b &&& c = b) : a &&& c = a := by
  rw [← h, BitVec.and_assoc, h']
theorem OneWay.trans {a b c : Fuses} (h : OneWay a b) (h' : OneWay b c) : OneWay a c := by
  obtain ⟨x1, x2, x3, x4, x5, x6, x7, x8, x9, x10, x11, x12, x13⟩ := h
  obtain ⟨y1, y2, y3, y4, y5, y6, y7, y8, y9, y10, y11, y12, y13⟩ := h'
  exact ⟨Nat.le_trans x1 y1, and_eq_trans x2 y2, and_eq_trans x3 y3, and_eq_trans x4 y4, y5.trans x5, y6.trans x6, y7.trans x7,
    y8.trans x8, y9.trans x9, y10.trans x10, y11.trans x11, y12.trans x12, y13.trans x13⟩
/-- What every operation keeps. -/
structure Keeps (s t : State) : Prop where
  queue : t.pending = s.pending
  mem : s.mem.wf = true → t.mem.wf = true
  fuses : ∀ b, FuseBound b s → FuseBound b t
theorem Keeps.refl (s : State) : Keeps s s := ⟨rfl, id, fun _ => id⟩
theorem Keeps.trans {s t u : State} (h : Keeps s t) (h' : Keeps t u) : Keeps s u :=
  ⟨h'.queue.trans h.queue, h'.mem ∘ h.mem, fun b => h'.fuses b ∘ h.fuses b⟩
theorem FuseBound.same {b : Fuses} {s t : State} (hf : t.fuses = s.fuses) (ho : t.fuseOld = s.fuseOld) (h : FuseBound b s) :
    FuseBound b t := ⟨by rw [hf]; exact h.fuses, by rw [ho]; exact h.cut⟩
theorem keeps_of {s₀ s t : State} (h : Keeps s₀ s) (hq : t.pending = s.pending) (hm : t.mem = s.mem) (hf : t.fuses = s.fuses)
    (ho : t.fuseOld = s.fuseOld) : Keeps s₀ t :=
  ⟨hq.trans h.queue, fun w => hm ▸ h.mem w, fun b w => (h.fuses b w).same hf ho⟩
/-- A change of the other fields. -/
theorem keeps_mk {s₀ s : State} {f1 f2 f3 f4 f5 f6 f7 f8 f9 f10 f11 f12 f13 f14 f15 f16 f17} (h : Keeps s₀ s) :
    Keeps s₀ { s with
      bus := f1, procs := f2, arrays := f3, pacer := f4, dma := f5, media := f6, ctlio := f7, pcie := f8, herd := f9, lfi := f10
      power := f11, reset_ := f12, pins := f13, time := f14, trust := f15, sent := f16, free := f17 } :=
  keeps_of h rfl rfl rfl rfl
theorem modMem_keeps {s₀ : State} {f : Mem → Mem} {s : State} (h : Keeps s₀ s) (hf : ∀ m, m.wf = true → (f m).wf = true) :
    Keeps s₀ (modMem f s) :=
  ⟨h.queue, fun w => hf _ (h.mem w), fun b w => .same (s := s) rfl rfl (h.fuses b w)⟩
theorem foldl_keeps {β : Type} {s₀ : State} {f : State → β → State} {l : List β} {s : State} (h : Keeps s₀ s)
    (hf : ∀ s b, Keeps s₀ s → Keeps s₀ (f s b)) : Keeps s₀ (l.foldl f s) := by
  induction l generalizing s with
  | nil => exact h
  | cons b l ih => exact ih (hf s b h)
theorem of_snd {α : Type} {s₀ : State} {p : α × State} {x : α} {t : State} (e : p = (x, t)) (h : Keeps s₀ p.2) : Keeps s₀ t := by
  subst e
  exact h
theorem of_fst {α : Type} {s₀ : State} {p : State × α} {x : α} {t : State} (e : p = (t, x)) (h : Keeps s₀ p.1) : Keeps s₀ t := by
  subst e
  exact h
/-- A check that passes goes on to a state that keeps it. -/
structure OkKeeps (s₀ : State) (x : Except Byte State) : Prop where
  keeps : ∀ t, x = .ok t → Keeps s₀ t
theorem okKeeps_ok {s₀ t : State} (h : Keeps s₀ t) : OkKeeps s₀ (.ok t) := ⟨by
  intro u e
  cases e
  exact h⟩
theorem okKeeps_error {s₀ : State} {c : Byte} : OkKeeps s₀ (.error c) := ⟨by
  intro u e
  cases e⟩
/-- Every answer of a remote access leaves a state that keeps it. -/
inductive AnswerKeeps (s₀ : State) : Answer → Prop
  | done {bs : List Byte} {t : State} : Keeps s₀ t → AnswerKeeps s₀ (.done bs t)
  | spoiled {t : State} : Keeps s₀ t → AnswerKeeps s₀ (.spoiled t)
  | failed {c : Byte} {t : State} : Keeps s₀ t → AnswerKeeps s₀ (.failed c t)
  | waits {t : State} : Keeps s₀ t → AnswerKeeps s₀ (.waits t)
/-- The state that an answer leaves. -/
def Answer.left : Answer → State
  | .done _ t => t
  | .spoiled t => t
  | .failed _ t => t
  | .waits t => t
theorem AnswerKeeps.of_left {s₀ : State} {x : Answer} (h : AnswerKeeps s₀ x) : Keeps s₀ x.left := by cases h <;> assumption
theorem of_answer {s₀ t : State} {x y : Answer} (h : AnswerKeeps s₀ x) (e : x = y) (ht : y.left = t) : Keeps s₀ t := by
  subst e; exact ht ▸ h.of_left
/-- What is there keeps it. -/
structure SomeKeeps (s₀ : State) (x : Option State) : Prop where
  keeps : ∀ t, x = some t → Keeps s₀ t
theorem someKeeps_some {s₀ t : State} (h : Keeps s₀ t) : SomeKeeps s₀ (some t) := ⟨by
  intro u e
  cases e
  exact h⟩
theorem someKeeps_none {s₀ : State} : SomeKeeps s₀ none := ⟨by
  intro u e
  cases e⟩
/-- A next state keeps it. -/
structure OutKeeps (s₀ : State) (x : Out) : Prop where
  keeps : ∀ t, x = .next t → Keeps s₀ t
theorem outKeeps_next {s₀ t : State} (h : Keeps s₀ t) : OutKeeps s₀ (.next t) := ⟨by
  intro u e
  cases e
  exact h⟩
theorem and_or_absorb {w : Nat} (a b : BitVec w) : a &&& (a ||| b) = a := by
  ext i
  simp +contextual
theorem Lifecycle.rank_le (l : Lifecycle) : l.rank ≤ 3 := by cases l <;> decide
theorem mask_getLsbD (k i : Nat) (hi : i < 128) : (BitVec.ofNat 128 (2 ^ k - 1)).getLsbD i = decide (i < k) := by
  rw [BitVec.getLsbD_ofNat, Nat.testBit_two_pow_sub_one]
  simp [hi]
theorem Thermometer.or {a : BitVec 128} {v : Nat} (h : Thermometer a) (hv : v ≤ 128) :
    Thermometer (a ||| BitVec.ofNat 128 (2 ^ v - 1)) := by
  obtain ⟨k, hk, rfl⟩ := h
  refine ⟨max k v, by omega, ?_⟩
  apply BitVec.eq_of_getLsbD_eq
  intro i hi
  rw [BitVec.getLsbD_or, mask_getLsbD _ _ hi, mask_getLsbD _ _ hi, mask_getLsbD _ _ hi]
  simp
theorem ite_keeps {s₀ a b : State} {c : Prop} [Decidable c] (ha : Keeps s₀ a) (hb : Keeps s₀ b) : Keeps s₀ (if c then a else b) := by
  split
  · exact ha
  · exact hb

theorem foldl_snd_keeps {α β : Type} {s₀ : State} {f : α × State → β → α × State} {l : List β} {x : α × State} (h : Keeps s₀ x.2)
    (hf : ∀ x b, Keeps s₀ x.2 → Keeps s₀ (f x b).2) : Keeps s₀ (l.foldl f x).2 := by
  induction l generalizing x with
  | nil => exact h
  | cons b l ih => exact ih (hf x b h)

/-- A cut keeps the bits burnt before it. -/
theorem and_cutBits {w : Nat} (a b x : BitVec w) : a &&& cutBits a b x = a := and_or_absorb a _

theorem modCtl_keeps : ∀ a0 s, Keeps s₀ s → Keeps s₀ (modCtl a0 s) := by
  intro a0 s h; unfold modCtl
  repeat' with_reducible first
    | assumption | refine of_snd (by assumption) ?_ | apply foldl_keeps | intro _ _ _ _ _ | intro _ _ _ | intro _ _ | split
    | apply ite_keeps | dsimp only | (apply keeps_mk; assumption)

theorem modReset_keeps : ∀ a0 s, Keeps s₀ s → Keeps s₀ (modReset a0 s) := by
  intro a0 s h; unfold modReset
  repeat' with_reducible first
    | assumption | refine of_snd (by assumption) ?_ | apply foldl_keeps | intro _ _ _ _ _ | intro _ _ _ | intro _ _ | split
    | apply ite_keeps | dsimp only | (apply keeps_mk; assumption)

theorem modTrust_keeps : ∀ a0 s, Keeps s₀ s → Keeps s₀ (modTrust a0 s) := by
  intro a0 s h; unfold modTrust
  repeat' with_reducible first
    | assumption | refine of_snd (by assumption) ?_ | apply foldl_keeps | intro _ _ _ _ _ | intro _ _ _ | intro _ _ | split
    | apply ite_keeps | dsimp only | (apply keeps_mk; assumption)

theorem modTime_keeps : ∀ a0 s, Keeps s₀ s → Keeps s₀ (modTime a0 s) := by
  intro a0 s h; unfold modTime
  repeat' with_reducible first
    | assumption | refine of_snd (by assumption) ?_ | apply foldl_keeps | intro _ _ _ _ _ | intro _ _ _ | intro _ _ | split
    | apply ite_keeps | dsimp only | (apply keeps_mk; assumption)

theorem modHerd_keeps : ∀ a0 s, Keeps s₀ s → Keeps s₀ (modHerd a0 s) := by
  intro a0 s h; unfold modHerd
  repeat' with_reducible first
    | assumption | refine of_snd (by assumption) ?_ | apply foldl_keeps | intro _ _ _ _ _ | intro _ _ _ | intro _ _ | split
    | apply ite_keeps | dsimp only | (apply keeps_mk; assumption)

theorem modPower_keeps : ∀ a0 s, Keeps s₀ s → Keeps s₀ (modPower a0 s) := by
  intro a0 s h; unfold modPower
  repeat' with_reducible first
    | assumption | refine of_snd (by assumption) ?_ | apply foldl_keeps | intro _ _ _ _ _ | intro _ _ _ | intro _ _ | split
    | apply ite_keeps | dsimp only | (apply keeps_mk; assumption)

theorem modMedia_keeps : ∀ a0 s, Keeps s₀ s → Keeps s₀ (modMedia a0 s) := by
  intro a0 s h; unfold modMedia
  repeat' with_reducible first
    | assumption | refine of_snd (by assumption) ?_ | apply foldl_keeps | intro _ _ _ _ _ | intro _ _ _ | intro _ _ | split
    | apply ite_keeps | dsimp only | (apply keeps_mk; assumption)

theorem modDma_keeps : ∀ a0 s, Keeps s₀ s → Keeps s₀ (modDma a0 s) := by
  intro a0 s h; unfold modDma
  repeat' with_reducible first
    | assumption | refine of_snd (by assumption) ?_ | apply foldl_keeps | intro _ _ _ _ _ | intro _ _ _ | intro _ _ | split
    | apply ite_keeps | dsimp only | (apply keeps_mk; assumption)

theorem modPins_keeps : ∀ a0 s, Keeps s₀ s → Keeps s₀ (modPins a0 s) := by
  intro a0 s h; unfold modPins
  repeat' with_reducible first
    | assumption | refine of_snd (by assumption) ?_ | apply foldl_keeps | intro _ _ _ _ _ | intro _ _ _ | intro _ _ | split
    | apply ite_keeps | dsimp only | (apply keeps_mk; assumption)

theorem modDom_keeps : ∀ a0 a1 s, Keeps s₀ s → Keeps s₀ (modDom a0 a1 s) := by
  intro a0 a1 s h; unfold modDom
  repeat' with_reducible first | assumption | refine of_snd (by assumption) ?_ | apply modPower_keeps

theorem draw_keeps : ∀ a0 s, Keeps s₀ s → Keeps s₀ (draw a0 s).2 := by
  intro a0 s h; unfold draw
  repeat' with_reducible first
    | assumption | refine of_snd (by assumption) ?_ | apply foldl_keeps | intro _ _ _ _ _ | intro _ _ _ | intro _ _ | split
    | apply ite_keeps | dsimp only | (apply keeps_mk; assumption)

theorem drawn_keeps : ∀ a0 s, Keeps s₀ s → Keeps s₀ (drawn a0 s) := by
  intro a0 s h; unfold drawn
  repeat' with_reducible first
    | assumption | refine of_snd (by assumption) ?_ | apply foldl_keeps | intro _ _ _ _ _ | intro _ _ _ | intro _ _ | split
    | apply ite_keeps | dsimp only | (apply keeps_mk; assumption)

theorem send_keeps : ∀ a0 s, Keeps s₀ s → Keeps s₀ (send a0 s) := by
  intro a0 s h; unfold send
  repeat' with_reducible first
    | assumption | refine of_snd (by assumption) ?_ | apply foldl_keeps | intro _ _ _ _ _ | intro _ _ _ | intro _ _ | split
    | apply ite_keeps | dsimp only | (apply keeps_mk; assumption)

theorem challengeDrop_keeps : ∀ s, Keeps s₀ s → Keeps s₀ (challengeDrop s) := by
  intro s h; unfold challengeDrop
  repeat' with_reducible first
    | assumption | refine of_snd (by assumption) ?_ | apply modTrust_keeps | apply foldl_keeps | intro _ _ _ _ _ | intro _ _ _
    | intro _ _ | split

theorem modProc_keeps : ∀ a0 a1 s, Keeps s₀ s → Keeps s₀ (modProc a0 a1 s) := by
  intro a0 a1 s h; unfold modProc
  repeat' with_reducible first
    | assumption | refine of_snd (by assumption) ?_ | apply foldl_keeps | intro _ _ _ _ _ | intro _ _ _ | intro _ _ | split
    | apply ite_keeps | dsimp only | (apply keeps_mk; assumption)

theorem modArray_keeps : ∀ a0 a1 s, Keeps s₀ s → Keeps s₀ (modArray a0 a1 s) := by
  intro a0 a1 s h; unfold modArray
  repeat' with_reducible first
    | assumption | refine of_snd (by assumption) ?_ | apply foldl_keeps | intro _ _ _ _ _ | intro _ _ _ | intro _ _ | split
    | apply ite_keeps | dsimp only | (apply keeps_mk; assumption)

theorem modPacer_keeps : ∀ a0 s, Keeps s₀ s → Keeps s₀ (modPacer a0 s) := by
  intro a0 s h; unfold modPacer
  repeat' with_reducible first
    | assumption | refine of_snd (by assumption) ?_ | apply foldl_keeps | intro _ _ _ _ _ | intro _ _ _ | intro _ _ | split
    | apply ite_keeps | dsimp only | (apply keeps_mk; assumption)

theorem modHealth_keeps : ∀ a0 a1 s, Keeps s₀ s → Keeps s₀ (modHealth a0 a1 s) := by
  intro a0 a1 s h; unfold modHealth
  repeat' with_reducible first | assumption | refine of_snd (by assumption) ?_ | apply modPacer_keeps

theorem modChan_keeps : ∀ a0 a1 s, Keeps s₀ s → Keeps s₀ (modChan a0 a1 s) := by
  intro a0 a1 s h; unfold modChan
  repeat' with_reducible first | assumption | refine of_snd (by assumption) ?_ | apply modDma_keeps

theorem modBus_keeps : ∀ a0 s, Keeps s₀ s → Keeps s₀ (modBus a0 s) := by
  intro a0 s h; unfold modBus
  repeat' with_reducible first
    | assumption | refine of_snd (by assumption) ?_ | apply foldl_keeps | intro _ _ _ _ _ | intro _ _ _ | intro _ _ | split
    | apply ite_keeps | dsimp only | (apply keeps_mk; assumption)

theorem setReg_keeps : ∀ a0 a1 a2 a3 s, Keeps s₀ s → Keeps s₀ (setReg a0 a1 a2 a3 s) := by
  intro a0 a1 a2 a3 s h; unfold setReg
  repeat' with_reducible first | assumption | refine of_snd (by assumption) ?_ | apply modBus_keeps

theorem modReg_keeps : ∀ a0 a1 a2 a3 s, Keeps s₀ s → Keeps s₀ (modReg a0 a1 a2 a3 s) := by
  intro a0 a1 a2 a3 s h; unfold modReg
  repeat' with_reducible first | assumption | refine of_snd (by assumption) ?_ | apply setReg_keeps

theorem countWrap_keeps : ∀ a0 a1 a2 s, Keeps s₀ s → Keeps s₀ (countWrap a0 a1 a2 s) := by
  intro a0 a1 a2 s h; unfold countWrap
  repeat' with_reducible first | assumption | refine of_snd (by assumption) ?_ | apply modReg_keeps

theorem countSat_keeps : ∀ a0 a1 a2 s, Keeps s₀ s → Keeps s₀ (countSat a0 a1 a2 s) := by
  intro a0 a1 a2 s h; unfold countSat
  repeat' with_reducible first | assumption | refine of_snd (by assumption) ?_ | apply modReg_keeps

theorem setPair_keeps : ∀ a0 a1 a2 a3 s, Keeps s₀ s → Keeps s₀ (setPair a0 a1 a2 a3 s) := by
  intro a0 a1 a2 a3 s h; unfold setPair
  repeat' with_reducible first | assumption | refine of_snd (by assumption) ?_ | apply setReg_keeps

theorem setHdr_keeps : ∀ a0 a1 s, Keeps s₀ s → Keeps s₀ (setHdr a0 a1 s) := by
  intro a0 a1 s h; unfold setHdr
  repeat' with_reducible first | assumption | refine of_snd (by assumption) ?_ | apply modBus_keeps

theorem modPcie_keeps : ∀ a0 s, Keeps s₀ s → Keeps s₀ (modPcie a0 s) := by
  intro a0 s h; unfold modPcie
  repeat' with_reducible first
    | assumption | refine of_snd (by assumption) ?_ | apply foldl_keeps | intro _ _ _ _ _ | intro _ _ _ | intro _ _ | split
    | apply ite_keeps | dsimp only | (apply keeps_mk; assumption)

theorem modFn_keeps : ∀ a0 a1 s, Keeps s₀ s → Keeps s₀ (modFn a0 a1 s) := by
  intro a0 a1 s h; unfold modFn
  repeat' with_reducible first | assumption | refine of_snd (by assumption) ?_ | apply modPcie_keeps

theorem msixRaise_keeps : ∀ a0 a1 s, Keeps s₀ s → Keeps s₀ (msixRaise a0 a1 s) := by
  intro a0 a1 s h; unfold msixRaise
  repeat' with_reducible first
    | assumption | refine of_snd (by assumption) ?_ | apply modPcie_keeps | apply send_keeps | apply foldl_keeps
    | intro _ _ _ _ _ | intro _ _ _ | intro _ _ | split

theorem modHdr_keeps : ∀ a0 a1 s, Keeps s₀ s → Keeps s₀ (modHdr a0 a1 s) := by
  intro a0 a1 s h; unfold modHdr
  repeat' with_reducible first
    | assumption | refine of_snd (by assumption) ?_ | apply setHdr_keeps | apply msixRaise_keeps | apply foldl_keeps
    | intro _ _ _ _ _ | intro _ _ _ | intro _ _ | split | apply ite_keeps

theorem raiseBits_keeps : ∀ a0 a1 s, Keeps s₀ s → Keeps s₀ (raiseBits a0 a1 s) := by
  intro a0 a1 s h; unfold raiseBits
  repeat' with_reducible first | assumption | refine of_snd (by assumption) ?_ | apply modHdr_keeps

theorem raise_keeps : ∀ a0 a1 s, Keeps s₀ s → Keeps s₀ (raise a0 a1 s) := by
  intro a0 a1 s h; unfold raise
  repeat' with_reducible first | assumption | refine of_snd (by assumption) ?_ | apply raiseBits_keeps

theorem recordErr_keeps : ∀ a0 a1 a2 a3 s, Keeps s₀ s → Keeps s₀ (recordErr a0 a1 a2 a3 s) := by
  intro a0 a1 a2 a3 s h; unfold recordErr
  repeat' with_reducible first
    | assumption | refine of_snd (by assumption) ?_ | apply modHdr_keeps | apply msixRaise_keeps | apply foldl_keeps
    | intro _ _ _ _ _ | intro _ _ _ | intro _ _ | split | apply ite_keeps

theorem regErr_keeps : ∀ a0 a1 a2 a3 s, Keeps s₀ s → Keeps s₀ (regErr a0 a1 a2 a3 s) := by
  intro a0 a1 a2 a3 s h; unfold regErr
  repeat' with_reducible first | assumption | refine of_snd (by assumption) ?_ | apply recordErr_keeps

theorem memPut_keeps : ∀ a0 a1 s, Keeps s₀ s → Keeps s₀ (memPut a0 a1 s) := by
  intro a0 a1 s h; unfold memPut
  repeat' with_reducible first
    | assumption | refine of_snd (by assumption) ?_ | refine modMem_keeps ?_ fun m hm => Mem.wf_putAll _ _ hm

theorem hostPut_keeps : ∀ a0 a1 s, Keeps s₀ s → Keeps s₀ (hostPut a0 a1 s) := by
  intro a0 a1 s h; unfold hostPut
  repeat' with_reducible first
    | assumption | refine of_snd (by assumption) ?_
    | refine modMem_keeps ?_ fun m hm => Mem.wf_host _ hm (storeWf_foldl _ _ (fun _ _ hw => storeWf_set _ _ _ _ hw) _ _ (Mem.host_wf hm))

theorem modSlice_keeps : ∀ a0 a1 s, Keeps s₀ s → Keeps s₀ (modSlice a0 a1 s) := by
  intro a0 a1 s h; unfold modSlice
  repeat' with_reducible first
    | assumption | refine of_snd (by assumption) ?_ | refine modMem_keeps ?_ fun m hm => Mem.wf_same hm rfl rfl rfl rfl rfl

theorem viewPut_keeps : ∀ a0 a1 a2 s, Keeps s₀ s → Keeps s₀ (viewPut a0 a1 a2 s) := by
  intro a0 a1 a2 s h; unfold viewPut
  repeat' with_reducible first
    | assumption | refine of_snd (by assumption) ?_ | apply modProc_keeps | apply memPut_keeps | apply foldl_keeps
    | intro _ _ _ _ _ | intro _ _ _ | intro _ _ | split

theorem markBad_keeps : ∀ a0 a1 s, Keeps s₀ s → Keeps s₀ (markBad a0 a1 s) := by
  intro a0 a1 s h; unfold markBad
  repeat' with_reducible first
    | assumption | refine of_snd (by assumption) ?_ | apply modProc_keeps
    | refine modMem_keeps ?_ fun m hm => Mem.wf_damaged _ hm (storeWf_set _ _ _ _ (Mem.damaged_wf hm)) | apply foldl_keeps
    | intro _ _ _ _ _ | intro _ _ _ | intro _ _ | split

theorem memWrite_keeps : ∀ a0 a1 a2 a3 s, Keeps s₀ s → Keeps s₀ (memWrite a0 a1 a2 a3 s) := by
  intro a0 a1 a2 a3 s h; unfold memWrite
  repeat' with_reducible first
    | assumption | refine of_snd (by assumption) ?_ | apply recordErr_keeps | apply viewPut_keeps | apply memPut_keeps
    | apply foldl_keeps | intro _ _ _ _ _ | intro _ _ _ | intro _ _ | split

theorem countRefusal_keeps : ∀ a0 s, Keeps s₀ s → Keeps s₀ (countRefusal a0 s) := by
  intro a0 s h; unfold countRefusal
  repeat' with_reducible first
    | assumption | refine of_snd (by assumption) ?_ | apply countWrap_keeps | apply foldl_keeps | intro _ _ _ _ _ | intro _ _ _
    | intro _ _ | split

theorem pushRes_keeps : ∀ a0 a1 a2 a3 s, Keeps s₀ s → Keeps s₀ (pushRes a0 a1 a2 a3 s) := by
  intro a0 a1 a2 a3 s h; unfold pushRes
  repeat' with_reducible first | assumption | refine of_snd (by assumption) ?_ | apply modProc_keeps

theorem pushChain_keeps : ∀ a0 a1 a2 a3 a4 s, Keeps s₀ s → Keeps s₀ (pushChain a0 a1 a2 a3 a4 s) := by
  intro a0 a1 a2 a3 a4 s h; unfold pushChain
  repeat' with_reducible first | assumption | refine of_snd (by assumption) ?_ | apply modProc_keeps

theorem mgmtFault_keeps : ∀ a0 a1 s, Keeps s₀ s → Keeps s₀ (mgmtFault a0 a1 s) := by
  intro a0 a1 s h; unfold mgmtFault
  repeat' with_reducible first | assumption | refine of_snd (by assumption) ?_ | apply modProc_keeps

theorem sramDetection_keeps : ∀ s, Keeps s₀ s → Keeps s₀ (sramDetection s) := by
  intro s h; unfold sramDetection
  repeat' with_reducible first
    | assumption | refine of_snd (by assumption) ?_ | apply modReg_keeps | apply mgmtFault_keeps | apply modProc_keeps
    | apply foldl_keeps | intro _ _ _ _ _ | intro _ _ _ | intro _ _ | split | apply ite_keeps

theorem modClass_keeps : ∀ a0 a1 s, Keeps s₀ s → Keeps s₀ (modClass a0 a1 s) := by
  intro a0 a1 s h; unfold modClass
  repeat' with_reducible first | assumption | refine of_snd (by assumption) ?_ | apply modPacer_keeps

theorem modJob_keeps : ∀ a0 a1 s, Keeps s₀ s → Keeps s₀ (modJob a0 a1 s) := by
  intro a0 a1 s h; unfold modJob
  repeat' with_reducible first | assumption | refine of_snd (by assumption) ?_ | apply modPacer_keeps

theorem modShare_keeps : ∀ a0 a1 a2 s, Keeps s₀ s → Keeps s₀ (modShare a0 a1 a2 s) := by
  intro a0 a1 a2 s h; unfold modShare
  repeat' with_reducible first | assumption | refine of_snd (by assumption) ?_ | apply modJob_keeps

theorem setRelease_keeps : ∀ a0 a1 a2 s, Keeps s₀ s → Keeps s₀ (setRelease a0 a1 a2 s) := by
  intro a0 a1 a2 s h; unfold setRelease
  repeat' with_reducible first | assumption | refine of_snd (by assumption) ?_ | apply modClass_keeps | apply modJob_keeps

theorem bindWaiting_keeps : ∀ a0 a1 a2 s, Keeps s₀ s → Keeps s₀ (bindWaiting a0 a1 a2 s).2 := by
  intro a0 a1 a2 s h; unfold bindWaiting
  repeat' with_reducible first
    | assumption | refine of_snd (by assumption) ?_ | apply setRelease_keeps | apply modJob_keeps | apply foldl_keeps
    | intro _ _ _ _ _ | intro _ _ _ | intro _ _ | split

theorem endJob_keeps : ∀ a0 a1 a2 a3 s, Keeps s₀ s → Keeps s₀ (endJob a0 a1 a2 a3 s) := by
  intro a0 a1 a2 a3 s h; unfold endJob
  repeat' with_reducible first | assumption | refine of_snd (by assumption) ?_ | apply modPacer_keeps | apply modJob_keeps

theorem finishJob_keeps : ∀ a0 s, Keeps s₀ s → Keeps s₀ (finishJob a0 s) := by
  intro a0 s h; unfold finishJob
  repeat' with_reducible first
    | assumption | refine of_snd (by assumption) ?_ | apply endJob_keeps | apply foldl_keeps | intro _ _ _ _ _ | intro _ _ _
    | intro _ _ | split

theorem dropFrameJobs_keeps : ∀ a0 a1 s, Keeps s₀ s → Keeps s₀ (dropFrameJobs a0 a1 s) := by
  intro a0 a1 s h; unfold dropFrameJobs
  repeat' with_reducible first
    | assumption | refine of_snd (by assumption) ?_ | apply endJob_keeps | apply foldl_keeps | intro _ _ _ _ _ | intro _ _ _

theorem hostReadSent_keeps : ∀ a0 a1 a2 s, Keeps s₀ s → Keeps s₀ (hostReadSent a0 a1 a2 s) := by
  intro a0 a1 a2 s h; unfold hostReadSent
  repeat' with_reducible first
    | assumption | refine of_snd (by assumption) ?_ | apply send_keeps | apply foldl_keeps | intro _ _ _ _ _ | intro _ _ _
    | intro _ _ | split

theorem lfiClear_keeps : ∀ s, Keeps s₀ s → Keeps s₀ (lfiClear s) := by
  intro s h; unfold lfiClear
  repeat' with_reducible first
    | assumption | refine of_snd (by assumption) ?_ | apply foldl_keeps | apply foldl_snd_keeps | intro _ _ _ _ _
    | intro _ _ _ | intro _ _ | split | apply ite_keeps | dsimp only | (apply keeps_mk; assumption)

theorem modLfi_keeps : ∀ a0 a1 s, Keeps s₀ s → Keeps s₀ (modLfi a0 a1 s) := by
  intro a0 a1 s h; unfold modLfi
  repeat' with_reducible first
    | assumption | refine of_snd (by assumption) ?_ | apply foldl_keeps | intro _ _ _ _ _ | intro _ _ _ | intro _ _ | split
    | apply ite_keeps | dsimp only | (apply keeps_mk; assumption)

theorem lfiCount_keeps : ∀ a0 s, Keeps s₀ s → Keeps s₀ (lfiCount a0 s).2 := by
  intro a0 s h; unfold lfiCount
  repeat' with_reducible first
    | assumption | refine of_snd (by assumption) ?_ | apply modLfi_keeps | apply countWrap_keeps | apply raise_keeps
    | apply modReg_keeps | apply foldl_keeps | intro _ _ _ _ _ | intro _ _ _ | intro _ _ | split | apply ite_keeps | dsimp only

theorem lfiItem_keeps : ∀ a b c s, Keeps s₀ s → Keeps s₀ (lfiItem a b c s).2 := by
  intro a b c s h
  suffices hl : ∀ (l : List Nat) (x : Option (LfiAction × Nat) × State), Keeps s₀ x.2 → Keeps s₀ (l.foldl (fun (a', s) d =>
      if lfiOn s d a b c then
        match a', lfiCount d s with
        | none, (some x, s) => (some (x, d), s)
        | a', (_, s) => (a', s)
      else (a', s)) x).2 from hl _ _ h
  intro l
  induction l with
  | nil => intro x hx; exact hx
  | cons d l ih =>
    intro x hx
    refine ih _ ?_
    dsimp only
    have hk := lfiCount_keeps d _ hx
    split
    · split
      · exact of_snd (p := lfiCount d x.2) (by assumption) hk
      · exact of_snd (p := lfiCount d x.2) (by assumption) hk
    · exact hx

theorem lfiRelease_keeps : ∀ a0 a1 s, (∀ x s, Keeps s₀ s → Keeps s₀ (a0 x s)) → Keeps s₀ s → Keeps s₀ (lfiRelease a0 a1 s) := by
  intro a0 a1 s ha0 h; unfold lfiRelease
  repeat' with_reducible first
    | assumption | apply ha0 | refine of_snd (by assumption) ?_ | apply modLfi_keeps | apply foldl_keeps | intro _ _ _ _ _
    | intro _ _ _ | intro _ _ | split

theorem lfiPass_keeps : ∀ a0 a1 a2 a3 a4 s, (∀ x0 s, Keeps s₀ s → Keeps s₀ (a4 x0 s)) → Keeps s₀ s → Keeps s₀ (lfiPass a0 a1 a2 a3 a4 s).2 := by
  intro a0 a1 a2 a3 a4 s ha4 h; unfold lfiPass
  repeat' with_reducible first
    | assumption | apply ha4 | refine of_snd (by assumption) ?_ | apply deliver_keeps | apply lfiItem_keeps
    | apply modLfi_keeps | apply lfiRelease_keeps | apply foldl_keeps | apply foldl_snd_keeps | intro _ _ _ _ _ | intro _ _ _
    | intro _ _ | split | apply ite_keeps | dsimp only

theorem lfiLetGo_keeps : ∀ a0 a1 s, (∀ x0 s, Keeps s₀ s → Keeps s₀ (a0 x0 s)) → Keeps s₀ s → Keeps s₀ (lfiLetGo a0 a1 s) := by
  intro a0 a1 s ha0 h; unfold lfiLetGo
  repeat' with_reducible first
    | assumption | apply ha0 | refine of_snd (by assumption) ?_ | apply deliver_keeps | apply lfiRelease_keeps
    | apply foldl_keeps | apply foldl_snd_keeps | intro _ _ _ _ _ | intro _ _ _ | intro _ _ | split | apply ite_keeps
    | dsimp only

theorem lfiCtrlWrite_keeps : ∀ a0 a1 a2 a3 s, (∀ x0 s, Keeps s₀ s → Keeps s₀ (a0 x0 s)) → Keeps s₀ s → Keeps s₀ (lfiCtrlWrite a0 a1 a2 a3 s) := by
  intro a0 a1 a2 a3 s ha0 h; unfold lfiCtrlWrite
  repeat' with_reducible first
    | assumption | apply ha0 | refine of_snd (by assumption) ?_ | apply deliver_keeps | apply regErr_keeps
    | apply lfiLetGo_keeps | apply setReg_keeps | apply modLfi_keeps | apply foldl_keeps | apply foldl_snd_keeps
    | intro _ _ _ _ _ | intro _ _ _ | intro _ _ | split | apply ite_keeps | dsimp only

theorem lfiClose_keeps : ∀ a0 s, (∀ x0 s, Keeps s₀ s → Keeps s₀ (a0 x0 s)) → Keeps s₀ s → Keeps s₀ (lfiClose a0 s) := by
  intro a0 s ha0 h; unfold lfiClose
  repeat' with_reducible first
    | assumption | apply ha0 | refine of_snd (by assumption) ?_ | apply deliver_keeps | apply lfiLetGo_keeps
    | apply modReg_keeps | apply foldl_keeps | apply foldl_snd_keeps | intro _ _ _ _ _ | intro _ _ _ | intro _ _ | split
    | apply ite_keeps | dsimp only

theorem lfiTimeout_keeps : ∀ a0 a1 s, (∀ x s, Keeps s₀ s → Keeps s₀ (a0 x s)) → Keeps s₀ s → Keeps s₀ (lfiTimeout a0 a1 s) := by
  intro a0 a1 s ha0 h; unfold lfiTimeout
  repeat' with_reducible first
    | assumption | apply ha0 | refine of_snd (by assumption) ?_ | apply lfiRelease_keeps | apply foldl_keeps | intro _ _ _ _ _
    | intro _ _ _ | intro _ _ | split

theorem writeRun_keeps : ∀ a0 a1 a2 a3 a4 s, Keeps s₀ s → Keeps s₀ (writeRun a0 a1 a2 a3 a4 s) := by
  intro a0 a1 a2 a3 a4 s h; unfold writeRun
  repeat' with_reducible first
    | assumption | refine of_snd (by assumption) ?_ | apply hostPut_keeps | apply send_keeps | apply memWrite_keeps
    | apply foldl_keeps | apply foldl_snd_keeps | intro _ _ _ _ _ | intro _ _ _ | intro _ _ | split | apply ite_keeps
    | dsimp only

theorem packetLand_keeps : ∀ a0 s, Keeps s₀ s → Keeps s₀ (packetLand a0 s) := by
  intro a0 s h; unfold packetLand
  repeat' with_reducible first
    | assumption | refine of_snd (by assumption) ?_ | apply markBad_keeps | apply writeRun_keeps | apply foldl_keeps
    | apply foldl_snd_keeps | intro _ _ _ _ _ | intro _ _ _ | intro _ _ | split | apply ite_keeps | dsimp only

theorem setAnswer_keeps : ∀ a0 a1 s, Keeps s₀ s → Keeps s₀ (setAnswer a0 a1 s) := by
  intro a0 a1 s h; unfold setAnswer
  repeat' with_reducible first | assumption | refine of_snd (by assumption) ?_ | apply modBus_keeps

theorem semRelease_keeps : ∀ a0 s, Keeps s₀ s → Keeps s₀ (semRelease a0 s) := by
  intro a0 s h; unfold semRelease
  repeat' with_reducible first
    | assumption | refine of_snd (by assumption) ?_ | apply setAnswer_keeps
    | refine modMem_keeps ?_ fun m hm => Mem.wf_same hm rfl rfl rfl rfl rfl | apply foldl_keeps | intro _ _ _ _ _ | intro _ _ _

theorem semWrite_keeps : ∀ a0 a1 s, Keeps s₀ s → Keeps s₀ (semWrite a0 a1 s) := by
  intro a0 a1 s h; unfold semWrite
  repeat' with_reducible first
    | assumption | refine of_snd (by assumption) ?_ | apply semRelease_keeps
    | refine modMem_keeps ?_ fun m hm => Mem.wf_same hm rfl rfl rfl rfl rfl

theorem semPost_keeps : ∀ a0 a1 s, Keeps s₀ s → Keeps s₀ (semPost a0 a1 s) := by
  intro a0 a1 s h; unfold semPost
  repeat' with_reducible first | assumption | refine of_snd (by assumption) ?_ | apply semWrite_keeps

theorem semPostBy_keeps : ∀ a0 a1 a2 s, Keeps s₀ s → Keeps s₀ (semPostBy a0 a1 a2 s) := by
  intro a0 a1 a2 s h; unfold semPostBy
  repeat' with_reducible first
    | assumption | refine of_snd (by assumption) ?_ | apply modProc_keeps | apply semPost_keeps | apply foldl_keeps
    | intro _ _ _ _ _ | intro _ _ _ | intro _ _ | split

theorem semThreshold_keeps : ∀ a0 a1 a2 s, Keeps s₀ s → Keeps s₀ (semThreshold a0 a1 a2 s) := by
  intro a0 a1 a2 s h; unfold semThreshold
  repeat' with_reducible first
    | assumption | refine of_snd (by assumption) ?_ | refine modMem_keeps ?_ fun m hm => Mem.wf_same hm rfl rfl rfl rfl rfl

theorem semWait_keeps : ∀ a0 a1 s, Keeps s₀ s → Keeps s₀ (semWait a0 a1 s) := by
  intro a0 a1 s h; unfold semWait
  repeat' with_reducible first
    | assumption | refine of_snd (by assumption) ?_ | apply setAnswer_keeps
    | refine modMem_keeps ?_ fun m hm => Mem.wf_same hm rfl rfl rfl rfl rfl | apply foldl_keeps | intro _ _ _ _ _ | intro _ _ _
    | intro _ _ | split | apply ite_keeps

theorem semTimeout_keeps : ∀ a0 s, Keeps s₀ s → Keeps s₀ (semTimeout a0 s) := by
  intro a0 s h; unfold semTimeout
  repeat' with_reducible first
    | assumption | refine of_snd (by assumption) ?_ | apply setAnswer_keeps | apply regErr_keeps
    | refine modMem_keeps ?_ fun m hm => Mem.wf_same hm rfl rfl rfl rfl rfl | apply foldl_keeps | intro _ _ _ _ _ | intro _ _ _
    | intro _ _ | split

theorem semTake_keeps : ∀ a0 a1 s, Keeps s₀ s → Keeps s₀ (semTake a0 a1 s) := by
  intro a0 a1 s h; unfold semTake
  repeat' with_reducible first
    | assumption | refine of_snd (by assumption) ?_ | apply setAnswer_keeps | apply semWrite_keeps | apply foldl_keeps
    | intro _ _ _ _ _ | intro _ _ _ | intro _ _ | split | apply ite_keeps

theorem semReset_keeps : ∀ s, Keeps s₀ s → Keeps s₀ (semReset s) := by
  intro s h; unfold semReset
  repeat' with_reducible first
    | assumption | refine of_snd (by assumption) ?_ | apply setAnswer_keeps
    | refine modMem_keeps ?_ fun m hm => Mem.wf_same hm rfl rfl rfl rfl rfl | apply foldl_keeps | intro _ _ _ _ _ | intro _ _ _

theorem detLogAdd_keeps : ∀ a0 a1 s, Keeps s₀ s → Keeps s₀ (detLogAdd a0 a1 s) := by
  intro a0 a1 s h
  unfold detLogAdd
  dsimp only
  apply raise_keeps
  apply countSat_keeps
  apply modMem_keeps h
  intro m hm
  split <;> exact Mem.wf_same hm rfl rfl rfl rfl rfl

theorem detLogMark_keeps : ∀ a0 a1 s, Keeps s₀ s → Keeps s₀ (detLogMark a0 a1 s) := by
  intro a0 a1 s h; unfold detLogMark
  repeat' with_reducible first
    | assumption | refine of_snd (by assumption) ?_ | refine modMem_keeps ?_ fun m hm => Mem.wf_same hm rfl rfl rfl rfl rfl

theorem detLogPop_keeps : ∀ a0 s, Keeps s₀ s → Keeps s₀ (detLogPop a0 s) := by
  intro a0 s h; unfold detLogPop
  repeat' with_reducible first
    | assumption | refine of_snd (by assumption) ?_ | apply setAnswer_keeps
    | refine modMem_keeps ?_ fun m hm => Mem.wf_same hm rfl rfl rfl rfl rfl | apply foldl_keeps | intro _ _ _ _ _ | intro _ _ _
    | intro _ _ | split

theorem restoreLine_keeps : ∀ a0 a1 s, Keeps s₀ s → Keeps s₀ (restoreLine a0 a1 s) := by
  intro a0 a1 s h; unfold restoreLine
  repeat' with_reducible first
    | assumption | refine of_snd (by assumption) ?_ | apply memPut_keeps | apply detLogMark_keeps | apply countWrap_keeps

theorem markDamaged_keeps : ∀ a0 s, Keeps s₀ s → Keeps s₀ (markDamaged a0 s) := by
  intro a0 s h
  apply modMem_keeps h
  intro m hm
  exact Mem.wf_damaged _ hm (storeWf_foldl _ _ (fun _ _ hw => storeWf_set _ _ _ _ hw) _ _ (Mem.damaged_wf hm))

theorem restoreFail_keeps : ∀ a0 s, Keeps s₀ s → Keeps s₀ (restoreFail a0 s) := by
  intro a0 s h; unfold restoreFail
  repeat' with_reducible first
    | assumption | refine of_snd (by assumption) ?_ | apply raise_keeps | apply detLogMark_keeps | apply markDamaged_keeps

theorem restoreStart_keeps : ∀ a0 a1 a2 s, Keeps s₀ s → Keeps s₀ (restoreStart a0 a1 a2 s) := by
  intro a0 a1 a2 s h; unfold restoreStart
  repeat' with_reducible first
    | assumption | refine of_snd (by assumption) ?_ | refine modMem_keeps ?_ fun m hm => Mem.wf_same hm rfl rfl rfl rfl rfl

theorem dramError_keeps : ∀ a0 a1 s, Keeps s₀ s → Keeps s₀ (dramError a0 a1 s) := by
  intro a0 a1 s h; unfold dramError
  repeat' with_reducible first
    | assumption | refine of_snd (by assumption) ?_ | apply countSat_keeps | apply setReg_keeps | apply raise_keeps
    | apply recordErr_keeps | refine modMem_keeps ?_ fun m hm => Mem.wf_same hm rfl rfl rfl rfl rfl | apply foldl_keeps
    | intro _ _ _ _ _ | intro _ _ _ | intro _ _ | split

theorem dramCorrected_keeps : ∀ a0 s, Keeps s₀ s → Keeps s₀ (dramCorrected a0 s) := by
  intro a0 s h; unfold dramCorrected
  repeat' with_reducible first
    | assumption | refine of_snd (by assumption) ?_ | apply raise_keeps | apply modReg_keeps | apply foldl_keeps
    | apply foldl_snd_keeps | intro _ _ _ _ _ | intro _ _ _ | intro _ _ | split | apply ite_keeps | dsimp only

theorem dramCorrects_keeps : ∀ a0 a1 s, Keeps s₀ s → Keeps s₀ (dramCorrects a0 a1 s) := by
  intro a0 a1 s h; unfold dramCorrects
  repeat' with_reducible first
    | assumption | refine of_snd (by assumption) ?_ | apply dramCorrected_keeps | apply foldl_keeps | apply foldl_snd_keeps
    | intro _ _ _ _ _ | intro _ _ _ | intro _ _ | split | apply ite_keeps | dsimp only

theorem scrubCtrlWrite_keeps : ∀ a0 s, Keeps s₀ s → Keeps s₀ (scrubCtrlWrite a0 s) := by
  intro a0 s h; unfold scrubCtrlWrite
  repeat' with_reducible first
    | assumption | refine of_snd (by assumption) ?_ | apply setReg_keeps
    | refine modMem_keeps ?_ fun m hm => Mem.wf_same hm rfl rfl rfl rfl rfl | apply foldl_keeps | intro _ _ _ _ _ | intro _ _ _
    | intro _ _ | split | apply ite_keeps

theorem patrolPass_keeps : ∀ a0 s, Keeps s₀ s → Keeps s₀ (patrolPass a0 s) := by
  intro a0 s h; unfold patrolPass
  repeat' with_reducible first
    | assumption | refine of_snd (by assumption) ?_ | apply dramCorrected_keeps | apply foldl_keeps | apply foldl_snd_keeps
    | intro _ _ _ _ _ | intro _ _ _ | intro _ _ | split | apply ite_keeps | dsimp only

theorem ddrEnable_keeps : ∀ s, Keeps s₀ s → Keeps s₀ (ddrEnable s) := by
  intro s h; unfold ddrEnable
  repeat' with_reducible first
    | assumption | refine of_snd (by assumption) ?_ | refine modMem_keeps ?_ fun m hm => Mem.wf_lose _ hm | apply foldl_keeps
    | intro _ _ _ _ _ | intro _ _ _ | intro _ _ | split | apply ite_keeps

theorem dramTrain_keeps : ∀ a0 a1 s, Keeps s₀ s → Keeps s₀ (dramTrain a0 a1 s) := by
  intro a0 a1 s h; unfold dramTrain
  repeat' with_reducible first
    | assumption | refine of_snd (by assumption) ?_ | apply raise_keeps
    | refine modMem_keeps ?_ fun m hm => Mem.wf_same hm rfl rfl rfl rfl rfl | apply foldl_keeps | apply foldl_snd_keeps
    | intro _ _ _ _ _ | intro _ _ _ | intro _ _ | split | apply ite_keeps | dsimp only

theorem goldenCheck_keeps : ∀ a0 s, Keeps s₀ s → Keeps s₀ (goldenCheck a0 s) := by
  intro a0 s h; unfold goldenCheck
  repeat' with_reducible first
    | assumption | refine of_snd (by assumption) ?_ | apply recordErr_keeps | apply setReg_keeps | apply foldl_keeps
    | intro _ _ _ _ _ | intro _ _ _ | intro _ _ | split | apply ite_keeps

theorem countDet_keeps : ∀ a0 s, Keeps s₀ s → Keeps s₀ (countDet a0 s) := by
  intro a0 s h; unfold countDet
  repeat' with_reducible first | assumption | refine of_snd (by assumption) ?_ | apply modHealth_keeps

theorem coreParity_keeps : ∀ a0 a1 a2 s, Keeps s₀ s → Keeps s₀ (coreParity a0 a1 a2 s) := by
  intro a0 a1 a2 s h; unfold coreParity
  repeat' with_reducible first | assumption | refine of_snd (by assumption) ?_ | apply recordErr_keeps | apply countDet_keeps

theorem shmOtherDetection_keeps : ∀ a0 s, Keeps s₀ s → Keeps s₀ (shmOtherDetection a0 s) := by
  intro a0 s h; unfold shmOtherDetection
  repeat' with_reducible first
    | assumption | refine of_snd (by assumption) ?_ | apply detLogAdd_keeps | apply restoreStart_keeps | apply restoreFail_keeps
    | apply foldl_keeps | intro _ _ _ _ _ | intro _ _ _ | intro _ _ | split | apply ite_keeps | dsimp only

theorem carafeDetection_keeps : ∀ a0 s, Keeps s₀ s → Keeps s₀ (carafeDetection a0 s) := by
  intro a0 s h; unfold carafeDetection
  repeat' with_reducible first
    | assumption | refine of_snd (by assumption) ?_ | apply countSat_keeps | apply modTrust_keeps | apply raise_keeps
    | apply foldl_keeps | intro _ _ _ _ _ | intro _ _ _ | intro _ _ | split

theorem readerDetection_keeps : ∀ a0 a1 s, Keeps s₀ s → Keeps s₀ (readerDetection a0 a1 s) := by
  intro a0 a1 s h; unfold readerDetection
  repeat' with_reducible first
    | assumption | refine of_snd (by assumption) ?_ | apply shmOtherDetection_keeps | apply coreParity_keeps
    | apply sramDetection_keeps | apply carafeDetection_keeps | apply foldl_keeps | intro _ _ _ _ _ | intro _ _ _ | intro _ _
    | split

theorem rangeDetected_keeps : ∀ a0 a1 a2 s, Keeps s₀ s → Keeps s₀ (rangeDetected a0 a1 a2 s) := by
  intro a0 a1 a2 s h; unfold rangeDetected
  repeat' with_reducible first
    | assumption | refine of_snd (by assumption) ?_ | apply shmOtherDetection_keeps | apply readerDetection_keeps
    | apply foldl_keeps | apply foldl_snd_keeps | intro _ _ _ _ _ | intro _ _ _ | intro _ _ | split | apply ite_keeps
    | dsimp only

theorem devFails_keeps : ∀ a0 a1 a2 a3 s, Keeps s₀ s → Keeps s₀ (devFails a0 a1 a2 a3 s) := by
  intro a0 a1 a2 a3 s h; unfold devFails
  repeat' with_reducible first
    | assumption | refine of_snd (by assumption) ?_ | apply recordErr_keeps | apply countRefusal_keeps | apply foldl_keeps
    | apply foldl_snd_keeps | intro _ _ _ _ _ | intro _ _ _ | intro _ _ | split | apply ite_keeps | dsimp only

theorem devWrite_keeps : ∀ a0 a1 a2 a3 s, Keeps s₀ s → Keeps s₀ (devWrite a0 a1 a2 a3 s) := by
  intro a0 a1 a2 a3 s h; unfold devWrite
  repeat' with_reducible first
    | assumption | refine of_snd (by assumption) ?_ | apply lfiPass_keeps | apply packetLand_keeps | apply devFails_keeps
    | apply foldl_keeps | apply foldl_snd_keeps | intro _ _ _ _ _ | intro _ _ _ | intro _ _ | split | apply ite_keeps
    | dsimp only

theorem devPut_keeps : ∀ a0 a1 a2 a3 s, Keeps s₀ s → Keeps s₀ (devPut a0 a1 a2 a3 s) := by
  intro a0 a1 a2 a3 s h; unfold devPut
  repeat' with_reducible first
    | assumption | refine of_snd (by assumption) ?_ | apply devWrite_keeps | apply devFails_keeps | apply foldl_keeps
    | apply foldl_snd_keeps | intro _ _ _ _ _ | intro _ _ _ | intro _ _ | split | apply ite_keeps | dsimp only

theorem devAnswer_keeps : ∀ a0 a1 a2 a3 a4 s, Keeps s₀ s → Keeps s₀ (devAnswer a0 a1 a2 a3 a4 s).2 := by
  intro a0 a1 a2 a3 a4 s h; unfold devAnswer
  repeat' with_reducible first
    | assumption | apply okKeeps_ok | exact okKeeps_error | refine of_snd (by assumption) ?_ | apply devFails_keeps
    | apply countWrap_keeps | apply dramError_keeps | apply lfiItem_keeps | apply rangeDetected_keeps
    | apply dramCorrects_keeps | apply foldl_keeps | apply foldl_snd_keeps | intro _ _ _ _ _ | intro _ _ _ | intro _ _
    | split | apply ite_keeps | dsimp only

theorem devGet_keeps : ∀ a0 a1 a2 a3 a4 s, Keeps s₀ s → Keeps s₀ (devGet a0 a1 a2 a3 a4 s).2 := by
  intro a0 a1 a2 a3 a4 s h; unfold devGet
  repeat' with_reducible first
    | assumption | apply okKeeps_ok | exact okKeeps_error | refine of_snd (by assumption) ?_ | apply devFails_keeps
    | apply devAnswer_keeps | apply foldl_keeps | apply foldl_snd_keeps | intro _ _ _ _ _ | intro _ _ _ | intro _ _ | split
    | apply ite_keeps | dsimp only

theorem setEntReg_keeps : ∀ a0 a1 a2 s, Keeps s₀ s → Keeps s₀ (setEntReg a0 a1 a2 s) := by
  intro a0 a1 a2 s h; unfold setEntReg
  repeat' with_reducible first | assumption | refine of_snd (by assumption) ?_ | apply setReg_keeps

theorem entInc_keeps : ∀ a0 a1 a2 s, Keeps s₀ s → Keeps s₀ (entInc a0 a1 a2 s) := by
  intro a0 a1 a2 s h; unfold entInc
  repeat' with_reducible first | assumption | refine of_snd (by assumption) ?_ | apply setEntReg_keeps

theorem modEnt_keeps : ∀ a0 a1 s, Keeps s₀ s → Keeps s₀ (modEnt a0 a1 s) := by
  intro a0 a1 s h; unfold modEnt
  repeat' with_reducible first | assumption | refine of_snd (by assumption) ?_ | apply modMedia_keeps

theorem ringPut_keeps : ∀ a0 a1 a2 a3 a4 a5 s, Keeps s₀ s → Keeps s₀ (ringPut a0 a1 a2 a3 a4 a5 s) := by
  intro a0 a1 a2 a3 a4 a5 s h; unfold ringPut
  repeat' with_reducible first
    | assumption | refine of_snd (by assumption) ?_ | apply devPut_keeps | apply foldl_keeps | apply foldl_snd_keeps
    | intro _ _ _ _ _ | intro _ _ _ | intro _ _ | split | apply ite_keeps | dsimp only

theorem frameRecord_keeps : ∀ a0 a1 a2 a3 a4 a5 a6 a7 s, Keeps s₀ s → Keeps s₀ (frameRecord a0 a1 a2 a3 a4 a5 a6 a7 s) := by
  intro a0 a1 a2 a3 a4 a5 a6 a7 s h; unfold frameRecord
  repeat' with_reducible first
    | assumption | refine of_snd (by assumption) ?_ | apply devPut_keeps | apply setEntReg_keeps | apply entInc_keeps
    | apply bindWaiting_keeps | apply modEnt_keeps | apply raise_keeps | apply foldl_keeps | intro _ _ _ _ _ | intro _ _ _
    | intro _ _ | split | apply ite_keeps

theorem frameClose_keeps : ∀ a0 a1 a2 s, Keeps s₀ s → Keeps s₀ (frameClose a0 a1 a2 s) := by
  intro a0 a1 a2 s h; unfold frameClose
  repeat' with_reducible first
    | assumption | refine of_snd (by assumption) ?_ | apply modEnt_keeps | apply raise_keeps | apply entInc_keeps
    | apply ringPut_keeps | apply setEntReg_keeps | apply frameRecord_keeps | apply foldl_keeps | intro _ _ _ _ _ | intro _ _ _
    | intro _ _ | split | apply ite_keeps

theorem packetRelease_keeps : ∀ a0 a1 s, Keeps s₀ s → Keeps s₀ (packetRelease a0 a1 s) := by
  intro a0 a1 s h; unfold packetRelease
  repeat' with_reducible first
    | assumption | refine of_snd (by assumption) ?_ | apply frameClose_keeps | apply modEnt_keeps | apply entInc_keeps
    | apply drawn_keeps | apply foldl_keeps | intro _ _ _ _ _ | intro _ _ _ | intro _ _ | split | apply ite_keeps | dsimp only

theorem countLost_keeps : ∀ a0 s, Keeps s₀ s → Keeps s₀ (countLost a0 s) := by
  intro a0 s h; unfold countLost
  repeat' with_reducible first
    | assumption | refine of_snd (by assumption) ?_ | apply raise_keeps | apply entInc_keeps | apply modEnt_keeps

theorem advance_keeps : ∀ e n s, Keeps s₀ s → Keeps s₀ (advance e n s) := by
  intro e n
  induction n with
  | zero => intro s h; exact h
  | succ n ih =>
    intro s h
    unfold advance
    repeat' with_reducible first
      | apply ih | assumption | refine of_snd (by assumption) ?_ | apply packetRelease_keeps | apply modEnt_keeps | apply countLost_keeps | intro _ _
      | split

theorem releaseRun_keeps : ∀ e n s, Keeps s₀ s → Keeps s₀ (releaseRun e n s) := by
  intro e n
  induction n with
  | zero => intro s h; exact h
  | succ n ih =>
    intro s h
    unfold releaseRun
    repeat' with_reducible first
      | apply ih | assumption | refine of_snd (by assumption) ?_ | apply advance_keeps | intro _ _
      | split

theorem entPacket_keeps : ∀ a0 a1 s, Keeps s₀ s → Keeps s₀ (entPacket a0 a1 s) := by
  intro a0 a1 s h; unfold entPacket
  repeat' with_reducible first
    | assumption | refine of_snd (by assumption) ?_ | apply entInc_keeps | apply modEnt_keeps | apply releaseRun_keeps
    | apply advance_keeps | apply foldl_keeps | intro _ _ _ _ _ | intro _ _ _ | intro _ _ | split | apply ite_keeps

theorem loadKey_keeps : ∀ a0 s, Keeps s₀ s → Keeps s₀ (loadKey a0 s) := by
  intro a0 s h; unfold loadKey
  repeat' with_reducible first
    | assumption | refine of_snd (by assumption) ?_ | apply setReg_keeps | apply modMedia_keeps | apply foldl_keeps
    | intro _ _ _ _ _ | intro _ _ _

theorem quarantinePut_keeps : ∀ a0 s, Keeps s₀ s → Keeps s₀ (quarantinePut a0 s) := by
  intro a0 s h; unfold quarantinePut
  repeat' with_reducible first
    | assumption | refine of_snd (by assumption) ?_ | apply raise_keeps | apply countSat_keeps | apply modMedia_keeps
    | apply loadKey_keeps | apply foldl_keeps | intro _ _ _ _ _ | intro _ _ _ | intro _ _ | split | apply ite_keeps

theorem quarantine_keeps : ∀ a0 s, Keeps s₀ s → Keeps s₀ (quarantine a0 s) := by
  intro a0 s h; unfold quarantine
  repeat' with_reducible first
    | assumption | refine of_snd (by assumption) ?_ | apply draw_keeps | apply quarantinePut_keeps | apply modMedia_keeps
    | apply foldl_keeps | apply foldl_snd_keeps | intro _ _ _ _ _ | intro _ _ _ | intro _ _ | split | apply ite_keeps
    | dsimp only

theorem rtpPacket_keeps : ∀ a0 s, Keeps s₀ s → Keeps s₀ (rtpPacket a0 s) := by
  intro a0 s h; unfold rtpPacket
  repeat' with_reducible first
    | assumption | refine of_snd (by assumption) ?_ | apply entPacket_keeps | apply quarantine_keeps | apply foldl_keeps
    | intro _ _ _ _ _ | intro _ _ _ | intro _ _ | split

theorem feedQuarantine_keeps : ∀ a0 s, Keeps s₀ s → Keeps s₀ (feedQuarantine a0 s) := by
  intro a0 s h; unfold feedQuarantine
  repeat' with_reducible first
    | assumption | refine of_snd (by assumption) ?_ | apply modMedia_keeps | apply entPacket_keeps | apply foldl_keeps
    | intro _ _ _ _ _ | intro _ _ _

theorem qDiscard_keeps : ∀ s, Keeps s₀ s → Keeps s₀ (qDiscard s) := by
  intro s h; unfold qDiscard
  repeat' with_reducible first | assumption | refine of_snd (by assumption) ?_ | apply modMedia_keeps

theorem qNext_keeps : ∀ s, Keeps s₀ s → Keeps s₀ (qNext s) := by
  intro s h; unfold qNext
  repeat' with_reducible first
    | assumption | refine of_snd (by assumption) ?_ | apply modMedia_keeps | apply loadKey_keeps | apply foldl_keeps
    | intro _ _ _ _ _ | intro _ _ _ | intro _ _ | split

theorem reorderTimeout_keeps : ∀ a0 s, Keeps s₀ s → Keeps s₀ (reorderTimeout a0 s) := by
  intro a0 s h; unfold reorderTimeout
  repeat' with_reducible first
    | assumption | refine of_snd (by assumption) ?_ | apply releaseRun_keeps | apply advance_keeps | apply foldl_keeps
    | apply foldl_snd_keeps | intro _ _ _ _ _ | intro _ _ _ | intro _ _ | split | apply ite_keeps | dsimp only

theorem frameTimeout_keeps : ∀ a0 s, Keeps s₀ s → Keeps s₀ (frameTimeout a0 s) := by
  intro a0 s h; unfold frameTimeout
  repeat' with_reducible first
    | assumption | refine of_snd (by assumption) ?_ | apply frameClose_keeps | apply modEnt_keeps | apply foldl_keeps
    | apply foldl_snd_keeps | intro _ _ _ _ _ | intro _ _ _ | intro _ _ | split | apply ite_keeps | dsimp only

theorem outRelease_keeps : ∀ a0 a1 s, Keeps s₀ s → Keeps s₀ (outRelease a0 a1 s) := by
  intro a0 a1 s h; unfold outRelease
  repeat' with_reducible first | assumption | refine of_snd (by assumption) ?_ | apply modEnt_keeps | apply setEntReg_keeps

theorem entStop_keeps : ∀ a0 s, Keeps s₀ s → Keeps s₀ (entStop a0 s) := by
  intro a0 s h; unfold entStop
  repeat' with_reducible first
    | assumption | refine of_snd (by assumption) ?_ | apply modEnt_keeps | apply modMedia_keeps | apply foldl_keeps
    | intro _ _ _ _ _ | intro _ _ _ | intro _ _ | split | apply ite_keeps

theorem entStart_keeps : ∀ a0 s, Keeps s₀ s → Keeps s₀ (entStart a0 s) := by
  intro a0 s h; unfold entStart
  repeat' with_reducible first
    | assumption | refine of_snd (by assumption) ?_ | apply modEnt_keeps | apply setEntReg_keeps | apply feedQuarantine_keeps
    | apply modMedia_keeps

theorem entWrite_keeps : ∀ a0 a1 a2 a3 a4 s, Keeps s₀ s → Keeps s₀ (entWrite a0 a1 a2 a3 a4 s) := by
  intro a0 a1 a2 a3 a4 s h; unfold entWrite
  repeat' with_reducible first
    | assumption | refine of_snd (by assumption) ?_ | apply regErr_keeps | apply setEntReg_keeps | apply entStop_keeps
    | apply entStart_keeps | apply outRelease_keeps | apply foldl_keeps | intro _ _ _ _ _ | intro _ _ _ | intro _ _ | split
    | apply ite_keeps

theorem rxDrop_keeps : ∀ a0 s, Keeps s₀ s → Keeps s₀ (rxDrop a0 s) := by
  intro a0 s h; unfold rxDrop
  repeat' with_reducible first | assumption | refine of_snd (by assumption) ?_ | apply countWrap_keeps

theorem controlRing_keeps : ∀ a0 a1 a2 a3 s, Keeps s₀ s → Keeps s₀ (controlRing a0 a1 a2 a3 s) := by
  intro a0 a1 a2 a3 s h; unfold controlRing
  repeat' with_reducible first
    | assumption | refine of_snd (by assumption) ?_ | apply rxDrop_keeps | apply raise_keeps | apply setReg_keeps
    | apply devPut_keeps | apply foldl_keeps | apply foldl_snd_keeps | intro _ _ _ _ _ | intro _ _ _ | intro _ _ | split
    | apply ite_keeps | dsimp only

theorem ethReceive_keeps : ∀ a0 a1 a2 s, Keeps s₀ s → Keeps s₀ (ethReceive a0 a1 a2 s) := by
  intro a0 a1 a2 s h; unfold ethReceive
  repeat' with_reducible first
    | assumption | refine of_snd (by assumption) ?_ | apply rxDrop_keeps | apply countWrap_keeps | apply rtpPacket_keeps
    | apply controlRing_keeps | apply foldl_keeps | apply foldl_snd_keeps | intro _ _ _ _ _ | intro _ _ _ | intro _ _ | split
    | apply ite_keeps | dsimp only

theorem ethTransmit_keeps : ∀ a0 a1 s, Keeps s₀ s → Keeps s₀ (ethTransmit a0 a1 s) := by
  intro a0 a1 s h; unfold ethTransmit
  repeat' with_reducible first
    | assumption | apply okKeeps_ok | exact okKeeps_error | refine of_snd (by assumption) ?_ | apply devGet_keeps
    | apply send_keeps | apply raise_keeps | apply devPut_keeps | apply setReg_keeps | apply foldl_keeps
    | apply foldl_snd_keeps | intro _ _ _ _ _ | intro _ _ _ | intro _ _ | split | apply ite_keeps | dsimp only

theorem ethLink_keeps : ∀ a0 a1 s, Keeps s₀ s → Keeps s₀ (ethLink a0 a1 s) := by
  intro a0 a1 s h; unfold ethLink
  repeat' with_reducible first
    | assumption | refine of_snd (by assumption) ?_ | apply raise_keeps | apply modMedia_keeps | apply foldl_keeps
    | intro _ _ _ _ _ | intro _ _ _ | intro _ _ | split

theorem unitsReady_keeps : ∀ a0 s, Keeps s₀ s → Keeps s₀ (unitsReady a0 s).2 := by
  intro a0 s h; unfold unitsReady
  repeat' with_reducible first
    | assumption | apply okKeeps_ok | exact okKeeps_error | refine of_snd (by assumption) ?_ | apply devGet_keeps
    | apply foldl_keeps | apply foldl_snd_keeps | intro _ _ _ _ _ | intro _ _ _ | intro _ _ | split | apply ite_keeps
    | dsimp only

theorem decodeTake_keeps : ∀ a0 a1 s, Keeps s₀ s → Keeps s₀ (decodeTake a0 a1 s) := by
  intro a0 a1 s h; unfold decodeTake
  repeat' with_reducible first
    | assumption | refine of_snd (by assumption) ?_ | apply modMedia_keeps | apply foldl_keeps | apply foldl_snd_keeps
    | intro _ _ _ _ _ | intro _ _ _ | intro _ _ | split | apply ite_keeps | dsimp only

theorem decodeStart_keeps : ∀ a0 s, Keeps s₀ s → Keeps s₀ (decodeStart a0 s) := by
  intro a0 s h; unfold decodeStart
  repeat' with_reducible first
    | assumption | refine of_snd (by assumption) ?_ | apply unitsReady_keeps | apply decodeTake_keeps | apply foldl_keeps
    | apply foldl_snd_keeps | intro _ _ _ _ _ | intro _ _ _ | intro _ _ | split | apply ite_keeps | dsimp only

theorem picturePut_keeps : ∀ a0 a1 a2 a3 s, Keeps s₀ s → Keeps s₀ (picturePut a0 a1 a2 a3 s) := by
  intro a0 a1 a2 a3 s h; unfold picturePut
  repeat' with_reducible first
    | assumption | refine of_snd (by assumption) ?_ | apply devPut_keeps | apply foldl_keeps | intro _ _ _ _ _ | intro _ _ _

theorem setDec_keeps : ∀ a0 a1 a2 s, Keeps s₀ s → Keeps s₀ (setDec a0 a1 a2 s) := by
  intro a0 a1 a2 s h; unfold setDec
  repeat' with_reducible first | assumption | refine of_snd (by assumption) ?_ | apply devPut_keeps

theorem modFrame_keeps : ∀ a0 a1 a2 s, Keeps s₀ s → Keeps s₀ (modFrame a0 a1 a2 s) := by
  intro a0 a1 a2 s h; unfold modFrame
  repeat' with_reducible first | assumption | refine of_snd (by assumption) ?_ | apply modEnt_keeps

theorem esConsume_keeps : ∀ a0 a1 s, Keeps s₀ s → Keeps s₀ (esConsume a0 a1 s) := by
  intro a0 a1 s h; unfold esConsume
  repeat' with_reducible first | assumption | refine of_snd (by assumption) ?_ | apply setEntReg_keeps

theorem decodeCount_keeps : ∀ s, Keeps s₀ s → Keeps s₀ (decodeCount s) := by
  intro s h; unfold decodeCount
  repeat' with_reducible first
    | assumption | refine of_snd (by assumption) ?_ | apply raise_keeps | apply countWrap_keeps | apply modMedia_keeps

theorem frameDrop_keeps : ∀ a0 a1 s, Keeps s₀ s → Keeps s₀ (frameDrop a0 a1 s) := by
  intro a0 a1 s h; unfold frameDrop
  repeat' with_reducible first
    | assumption | refine of_snd (by assumption) ?_ | apply dropFrameJobs_keeps | apply setDec_keeps | apply modFrame_keeps

theorem frameDone_keeps : ∀ a0 a1 a2 a3 s, Keeps s₀ s → Keeps s₀ (frameDone a0 a1 a2 a3 s) := by
  intro a0 a1 a2 a3 s h; unfold frameDone
  repeat' with_reducible first
    | assumption | refine of_snd (by assumption) ?_ | apply modEnt_keeps | apply modFrame_keeps | apply setDec_keeps
    | apply decodeCount_keeps | apply esConsume_keeps

theorem refStop_keeps : ∀ a0 s, Keeps s₀ s → Keeps s₀ (refStop a0 s) := by
  intro a0 s h; unfold refStop
  repeat' with_reducible first
    | assumption | refine of_snd (by assumption) ?_ | apply recordErr_keeps | apply modMedia_keeps | apply modEnt_keeps

theorem streamDecoded_keeps : ∀ a0 a1 a2 s, Keeps s₀ s → Keeps s₀ (streamDecoded a0 a1 a2 s) := by
  intro a0 a1 a2 s h; unfold streamDecoded
  repeat' with_reducible first
    | assumption | refine of_snd (by assumption) ?_ | apply refStop_keeps | apply frameDone_keeps | apply frameDrop_keeps
    | apply setEntReg_keeps | apply picturePut_keeps | apply modEnt_keeps | apply modFrame_keeps | apply raise_keeps
    | apply entInc_keeps | apply foldl_keeps | apply foldl_snd_keeps | intro _ _ _ _ _ | intro _ _ _ | intro _ _ | split
    | apply ite_keeps | dsimp only

theorem unitDone_keeps : ∀ a0 a1 a2 a3 s, Keeps s₀ s → Keeps s₀ (unitDone a0 a1 a2 a3 s) := by
  intro a0 a1 a2 a3 s h; unfold unitDone
  repeat' with_reducible first
    | assumption | refine of_snd (by assumption) ?_ | apply devPut_keeps | apply modMedia_keeps | apply decodeCount_keeps
    | apply setReg_keeps | apply foldl_keeps | apply foldl_snd_keeps | intro _ _ _ _ _ | intro _ _ _ | intro _ _ | split
    | apply ite_keeps | dsimp only

theorem unitDecoded_keeps : ∀ a0 a1 a2 a3 s, Keeps s₀ s → Keeps s₀ (unitDecoded a0 a1 a2 a3 s) := by
  intro a0 a1 a2 a3 s h; unfold unitDecoded
  repeat' with_reducible first
    | assumption | refine of_snd (by assumption) ?_ | apply unitDone_keeps | apply modMedia_keeps | apply setReg_keeps
    | apply picturePut_keeps | apply raise_keeps | apply foldl_keeps | apply foldl_snd_keeps | intro _ _ _ _ _ | intro _ _ _
    | intro _ _ | split | apply ite_keeps | dsimp only

theorem decodeDone_keeps : ∀ a0 s, Keeps s₀ s → Keeps s₀ (decodeDone a0 s) := by
  intro a0 s h; unfold decodeDone
  repeat' with_reducible first
    | assumption | refine of_snd (by assumption) ?_ | apply streamDecoded_keeps | apply modMedia_keeps
    | apply unitDecoded_keeps | apply foldl_keeps | apply foldl_snd_keeps | intro _ _ _ _ _ | intro _ _ _ | intro _ _ | split
    | apply ite_keeps | dsimp only

theorem outputTimeout_keeps : ∀ s, Keeps s₀ s → Keeps s₀ (outputTimeout s) := by
  intro s h; unfold outputTimeout
  repeat' with_reducible first
    | assumption | refine of_snd (by assumption) ?_ | apply frameDrop_keeps | apply entInc_keeps | apply modMedia_keeps
    | apply foldl_keeps | apply foldl_snd_keeps | intro _ _ _ _ _ | intro _ _ _ | intro _ _ | split | apply ite_keeps
    | dsimp only

theorem encodeInput_keeps : ∀ a0 a1 s, Keeps s₀ s → Keeps s₀ (encodeInput a0 a1 s).2 := by
  intro a0 a1 s h; unfold encodeInput
  repeat' with_reducible first
    | assumption | apply okKeeps_ok | exact okKeeps_error | refine of_snd (by assumption) ?_ | apply devGet_keeps
    | apply foldl_keeps | apply foldl_snd_keeps | intro _ _ _ _ _ | intro _ _ _ | intro _ _ | split | apply ite_keeps
    | dsimp only

theorem encodeNext_keeps : ∀ x ns s, Keeps s₀ s → Keeps s₀ (encodeNext x ns s).2 := by
  intro x ns
  induction ns with
  | nil => intro s h; exact h
  | cons n ns ih =>
    intro s h
    unfold encodeNext
    repeat' with_reducible first
      | apply ih | assumption | refine of_snd (by assumption) ?_ | apply encodeInput_keeps
      | split

theorem encodeStart_keeps : ∀ a0 s, Keeps s₀ s → Keeps s₀ (encodeStart a0 s) := by
  intro a0 s h; unfold encodeStart
  repeat' with_reducible first
    | assumption | refine of_snd (by assumption) ?_ | apply encodeNext_keeps | apply modMedia_keeps | apply foldl_keeps
    | apply foldl_snd_keeps | intro _ _ _ _ _ | intro _ _ _ | intro _ _ | split | apply ite_keeps | dsimp only

theorem encodeRelease_keeps : ∀ a0 s, Keeps s₀ s → Keeps s₀ (encodeRelease a0 s) := by
  intro a0 s h; unfold encodeRelease
  repeat' with_reducible first
    | assumption | refine of_snd (by assumption) ?_ | apply modFrame_keeps | apply setEntReg_keeps | apply devPut_keeps
    | apply setReg_keeps | apply foldl_keeps | apply foldl_snd_keeps | intro _ _ _ _ _ | intro _ _ _ | intro _ _ | split
    | apply ite_keeps | dsimp only

theorem encodeDone_keeps : ∀ a0 a1 s, Keeps s₀ s → Keeps s₀ (encodeDone a0 a1 s) := by
  intro a0 a1 s h; unfold encodeDone
  repeat' with_reducible first
    | assumption | refine of_snd (by assumption) ?_ | apply modMedia_keeps | apply raise_keeps | apply countWrap_keeps
    | apply encodeRelease_keeps | apply ringPut_keeps | apply setReg_keeps | apply foldl_keeps | apply foldl_snd_keeps
    | intro _ _ _ _ _ | intro _ _ _ | intro _ _ | split | apply ite_keeps | dsimp only

theorem pinSet_keeps : ∀ a0 a1 a2 s, Keeps s₀ s → Keeps s₀ (pinSet a0 a1 a2 s) := by
  intro a0 a1 a2 s h; unfold pinSet
  repeat' with_reducible first | assumption | refine of_snd (by assumption) ?_ | apply modPins_keeps

theorem outPin_keeps : ∀ a0 a1 s, Keeps s₀ s → Keeps s₀ (outPin a0 a1 s) := by
  intro a0 a1 s h; unfold outPin
  repeat' with_reducible first | assumption | refine of_snd (by assumption) ?_ | apply pinSet_keeps

theorem levelPin_keeps : ∀ a0 a1 s, Keeps s₀ s → Keeps s₀ (levelPin a0 a1 s) := by
  intro a0 a1 s h; unfold levelPin
  repeat' with_reducible first | assumption | refine of_snd (by assumption) ?_ | apply pinSet_keeps

theorem outLevel_keeps : ∀ a0 a1 s, Keeps s₀ s → Keeps s₀ (outLevel a0 a1 s) := by
  intro a0 a1 s h; unfold outLevel
  repeat' with_reducible first
    | assumption | refine of_snd (by assumption) ?_ | apply outPin_keeps | apply modCtl_keeps | apply foldl_keeps
    | intro _ _ _ _ _ | intro _ _ _ | intro _ _ | split

theorem outPulse_keeps : ∀ a0 a1 s, Keeps s₀ s → Keeps s₀ (outPulse a0 a1 s) := by
  intro a0 a1 s h; unfold outPulse
  repeat' with_reducible first | assumption | refine of_snd (by assumption) ?_ | apply outLevel_keeps | apply modCtl_keeps

theorem pulseEnd_keeps : ∀ a0 s, Keeps s₀ s → Keeps s₀ (pulseEnd a0 s) := by
  intro a0 s h; unfold pulseEnd
  repeat' with_reducible first
    | assumption | refine of_snd (by assumption) ?_ | apply outLevel_keeps | apply foldl_keeps | intro _ _ _ _ _ | intro _ _ _
    | intro _ _ | split

theorem pwmCfgWrite_keeps : ∀ a0 a1 a2 s, Keeps s₀ s → Keeps s₀ (pwmCfgWrite a0 a1 a2 s) := by
  intro a0 a1 a2 s h; unfold pwmCfgWrite
  repeat' with_reducible first
    | assumption | refine of_snd (by assumption) ?_ | apply regErr_keeps | apply setReg_keeps | apply foldl_keeps
    | intro _ _ _ _ _ | intro _ _ _ | intro _ _ | split

theorem pwmBoundary_keeps : ∀ a0 s, Keeps s₀ s → Keeps s₀ (pwmBoundary a0 s) := by
  intro a0 s h; unfold pwmBoundary
  repeat' with_reducible first
    | assumption | refine of_snd (by assumption) ?_ | apply modCtl_keeps | apply pinSet_keeps | apply levelPin_keeps
    | apply foldl_keeps | apply foldl_snd_keeps | intro _ _ _ _ _ | intro _ _ _ | intro _ _ | split | apply ite_keeps
    | dsimp only

theorem modUart_keeps : ∀ a0 a1 s, Keeps s₀ s → Keeps s₀ (modUart a0 a1 s) := by
  intro a0 a1 s h; unfold modUart
  repeat' with_reducible first | assumption | refine of_snd (by assumption) ?_ | apply modCtl_keeps

theorem uartCfgWrite_keeps : ∀ a0 a1 a2 s, Keeps s₀ s → Keeps s₀ (uartCfgWrite a0 a1 a2 s) := by
  intro a0 a1 a2 s h; unfold uartCfgWrite
  repeat' with_reducible first
    | assumption | refine of_snd (by assumption) ?_ | apply regErr_keeps | apply levelPin_keeps | apply setReg_keeps
    | apply foldl_keeps | intro _ _ _ _ _ | intro _ _ _ | intro _ _ | split

theorem uartDirection_keeps : ∀ a0 s, Keeps s₀ s → Keeps s₀ (uartDirection a0 s) := by
  intro a0 s h; unfold uartDirection
  repeat' with_reducible first
    | assumption | refine of_snd (by assumption) ?_ | apply levelPin_keeps | apply foldl_keeps | intro _ _ _ _ _ | intro _ _ _
    | intro _ _ | split

theorem uartTrail_keeps : ∀ a0 s, Keeps s₀ s → Keeps s₀ (uartTrail a0 s) := by
  intro a0 s h; unfold uartTrail
  repeat' with_reducible first
    | assumption | refine of_snd (by assumption) ?_ | apply uartDirection_keeps | apply modUart_keeps | apply foldl_keeps
    | intro _ _ _ _ _ | intro _ _ _ | intro _ _ | split

theorem uartDataWrite_keeps : ∀ a0 a1 s, Keeps s₀ s → Keeps s₀ (uartDataWrite a0 a1 s) := by
  intro a0 a1 s h; unfold uartDataWrite
  repeat' with_reducible first
    | assumption | refine of_snd (by assumption) ?_ | apply uartDirection_keeps | apply modUart_keeps | apply foldl_keeps
    | intro _ _ _ _ _ | intro _ _ _ | intro _ _ | split

theorem uartDataRead_keeps : ∀ a0 s, Keeps s₀ s → Keeps s₀ (uartDataRead a0 s).2 := by
  intro a0 s h; unfold uartDataRead
  repeat' with_reducible first
    | assumption | refine of_snd (by assumption) ?_ | apply modUart_keeps | apply foldl_keeps | intro _ _ _ _ _ | intro _ _ _
    | intro _ _ | split

theorem uartSend_keeps : ∀ a0 s, Keeps s₀ s → Keeps s₀ (uartSend a0 s) := by
  intro a0 s h; unfold uartSend
  repeat' with_reducible first
    | assumption | refine of_snd (by assumption) ?_ | apply modUart_keeps | apply uartTrail_keeps | apply uartDirection_keeps
    | apply send_keeps | apply foldl_keeps | intro _ _ _ _ _ | intro _ _ _ | intro _ _ | split | apply ite_keeps | dsimp only

theorem uartReceive_keeps : ∀ a0 a1 a2 a3 s, Keeps s₀ s → Keeps s₀ (uartReceive a0 a1 a2 a3 s) := by
  intro a0 a1 a2 a3 s h; unfold uartReceive
  repeat' with_reducible first
    | assumption | refine of_snd (by assumption) ?_ | apply raise_keeps | apply modUart_keeps | apply foldl_keeps
    | intro _ _ _ _ _ | intro _ _ _ | intro _ _ | split | apply ite_keeps

theorem levelStamp_keeps : ∀ s, Keeps s₀ s → Keeps s₀ (levelStamp s) := by
  intro s h; unfold levelStamp
  repeat' with_reducible first | assumption | refine of_snd (by assumption) ?_ | apply modCtl_keeps

theorem condChange_keeps : ∀ s, Keeps s₀ s → Keeps s₀ (condChange s) := by
  intro s h; unfold condChange
  repeat' with_reducible first | assumption | refine of_snd (by assumption) ?_ | apply modCtl_keeps

theorem gpioPin_keeps : ∀ a0 a1 s, Keeps s₀ s → Keeps s₀ (gpioPin a0 a1 s) := by
  intro a0 a1 s h; unfold gpioPin
  repeat' with_reducible first
    | assumption | refine of_snd (by assumption) ?_ | apply condChange_keeps | apply modCtl_keeps | apply levelStamp_keeps

theorem gpioWrite_keeps : ∀ a0 s, Keeps s₀ s → Keeps s₀ (gpioWrite a0 s) := by
  intro a0 s h; unfold gpioWrite
  repeat' with_reducible first
    | assumption | refine of_snd (by assumption) ?_ | apply setReg_keeps | apply levelStamp_keeps | apply levelPin_keeps
    | apply pinSet_keeps | apply condChange_keeps | apply foldl_keeps | intro _ _ _ _ _ | intro _ _ _ | intro _ _ | split

theorem inputPin_keeps : ∀ a0 a1 s, Keeps s₀ s → Keeps s₀ (inputPin a0 a1 s) := by
  intro a0 a1 s h; unfold inputPin
  repeat' with_reducible first
    | assumption | refine of_snd (by assumption) ?_ | apply modCtl_keeps | apply foldl_keeps | intro _ _ _ _ _ | intro _ _ _
    | intro _ _ | split

theorem debounced_keeps : ∀ a0 s, Keeps s₀ s → Keeps s₀ (debounced a0 s) := by
  intro a0 s h; unfold debounced
  repeat' with_reducible first
    | assumption | refine of_snd (by assumption) ?_ | apply levelStamp_keeps | apply modCtl_keeps | apply modReg_keeps
    | apply condChange_keeps | apply raise_keeps | apply foldl_keeps | intro _ _ _ _ _ | intro _ _ _ | intro _ _ | split

theorem postEvent_keeps : ∀ a0 a1 s, Keeps s₀ s → Keeps s₀ (postEvent a0 a1 s) := by
  intro a0 a1 s h; unfold postEvent
  repeat' with_reducible first
    | assumption | refine of_snd (by assumption) ?_ | apply modCtl_keeps | apply raise_keeps | apply countSat_keeps
    | apply foldl_keeps | intro _ _ _ _ _ | intro _ _ _ | intro _ _ | split

theorem setTimer_keeps : ∀ a0 a1 s, Keeps s₀ s → Keeps s₀ (setTimer a0 a1 s) := by
  intro a0 a1 s h; unfold setTimer
  repeat' with_reducible first | assumption | refine of_snd (by assumption) ?_ | apply modCtl_keeps

theorem timerCommit_keeps : ∀ a0 s, Keeps s₀ s → Keeps s₀ (timerCommit a0 s) := by
  intro a0 s h; unfold timerCommit
  repeat' with_reducible first | assumption | refine of_snd (by assumption) ?_ | apply levelStamp_keeps | apply setTimer_keeps

theorem timerExpire_keeps : ∀ a0 s, Keeps s₀ s → Keeps s₀ (timerExpire a0 s) := by
  intro a0 s h; unfold timerExpire
  repeat' with_reducible first
    | assumption | refine of_snd (by assumption) ?_ | apply levelStamp_keeps | apply setTimer_keeps | apply condChange_keeps
    | apply modCtl_keeps | apply foldl_keeps | intro _ _ _ _ _ | intro _ _ _ | intro _ _ | split

theorem timersStart_keeps : ∀ a0 s, Keeps s₀ s → Keeps s₀ (timersStart a0 s) := by
  intro a0 s h; unfold timersStart
  repeat' with_reducible first
    | assumption | refine of_snd (by assumption) ?_ | apply setTimer_keeps | apply foldl_keeps | intro _ _ _ _ _ | intro _ _ _
    | intro _ _ | split | apply ite_keeps

theorem templateSend_keeps : ∀ t ev s, Keeps s₀ s → Keeps s₀ (templateSend t ev s) := by
  intro t ev s h
  have hd : ∀ c r u, (match ev with
      | some e => (e.code, e.req.setWidth 16, s)
      | none => let (x, s) := draw 32 s; ((x >>> 16).setWidth 16, x.setWidth 16, s) : BitVec 16 × BitVec 16 × State) = (c, r, u) →
      Keeps s₀ u := by
    intro c r u e
    cases ev with
    | some x => simp only [Prod.mk.injEq] at e; exact e.2.2 ▸ h
    | none => simp only [Prod.mk.injEq] at e; exact e.2.2 ▸ draw_keeps 32 s h
  unfold templateSend
  repeat' first
    | refine hd _ _ _ (by assumption)
    | (with_reducible first
        | assumption | refine of_snd (by assumption) ?_ | apply raise_keeps | apply modCtl_keeps | apply draw_keeps
        | apply foldl_keeps | intro _ _ _ _ _ | intro _ _ _ | intro _ _ | split | apply ite_keeps)

theorem templateTx_keeps : ∀ a0 s, Keeps s₀ s → Keeps s₀ (templateTx a0 s) := by
  intro a0 s h; unfold templateTx
  repeat' with_reducible first
    | assumption | refine of_snd (by assumption) ?_ | apply send_keeps | apply modCtl_keeps | apply foldl_keeps
    | intro _ _ _ _ _ | intro _ _ _ | intro _ _ | split

theorem ruleFire_keeps : ∀ a0 a1 s, Keeps s₀ s → Keeps s₀ (ruleFire a0 a1 s) := by
  intro a0 a1 s h; unfold ruleFire
  repeat' with_reducible first
    | assumption | refine of_snd (by assumption) ?_ | apply countWrap_keeps | apply outPulse_keeps | apply outLevel_keeps
    | apply setReg_keeps | apply templateSend_keeps | apply raise_keeps | apply modReg_keeps | apply timersStart_keeps
    | apply draw_keeps | apply postEvent_keeps | apply foldl_keeps | intro _ _ _ _ _ | intro _ _ _ | intro _ _ | split

theorem journal_keeps : ∀ a0 a1 s, Keeps s₀ s → Keeps s₀ (journal a0 a1 s) := by
  intro a0 a1 s h; unfold journal
  repeat' with_reducible first
    | assumption | refine of_snd (by assumption) ?_ | apply devPut_keeps | apply devFails_keeps | apply setReg_keeps
    | apply foldl_keeps | intro _ _ _ _ _ | intro _ _ _ | intro _ _ | split | apply ite_keeps

theorem rulePass_keeps : ∀ s, Keeps s₀ s → Keeps s₀ (rulePass s) := by
  intro s h; unfold rulePass
  repeat' with_reducible first
    | assumption | refine of_snd (by assumption) ?_ | apply modCtl_keeps | apply journal_keeps | apply ruleFire_keeps
    | apply foldl_keeps | intro _ _ _ _ _ | intro _ _ _ | intro _ _ | split

theorem windowEnd_keeps : ∀ a0 a1 s, Keeps s₀ s → Keeps s₀ (windowEnd a0 a1 s) := by
  intro a0 a1 s h; unfold windowEnd
  repeat' with_reducible first
    | assumption | refine of_snd (by assumption) ?_ | apply condChange_keeps | apply modCtl_keeps | apply foldl_keeps
    | intro _ _ _ _ _ | intro _ _ _ | intro _ _ | split | apply ite_keeps | dsimp only

theorem ctlioCommit_keeps : ∀ a0 a1 s, Keeps s₀ s → Keeps s₀ (ctlioCommit a0 a1 s) := by
  intro a0 a1 s h; unfold ctlioCommit
  repeat' with_reducible first
    | assumption | refine of_snd (by assumption) ?_ | apply timerCommit_keeps | apply modCtl_keeps | apply recordErr_keeps
    | apply foldl_keeps | intro _ _ _ _ _ | intro _ _ _ | intro _ _ | split | apply ite_keeps

theorem setOwner_keeps : ∀ a0 a1 s, Keeps s₀ s → Keeps s₀ (setOwner a0 a1 s) := by
  intro a0 a1 s h; unfold setOwner
  repeat' with_reducible first | assumption | refine of_snd (by assumption) ?_ | apply modDma_keeps

theorem chanIrq_keeps : ∀ a0 s, Keeps s₀ s → Keeps s₀ (chanIrq a0 s) := by
  intro a0 s h; unfold chanIrq
  repeat' with_reducible first
    | assumption | refine of_snd (by assumption) ?_ | apply modProc_keeps | apply foldl_keeps | intro _ _ _ _ _ | intro _ _ _
    | intro _ _ | split

theorem chanHalt_keeps : ∀ a0 a1 a2 a3 s, Keeps s₀ s → Keeps s₀ (chanHalt a0 a1 a2 a3 s) := by
  intro a0 a1 a2 a3 s h; unfold chanHalt
  repeat' with_reducible first
    | assumption | refine of_snd (by assumption) ?_ | apply modChan_keeps | apply recordErr_keeps | apply countRefusal_keeps
    | apply chanIrq_keeps | apply raise_keeps

theorem takeTurn_keeps : ∀ s, Keeps s₀ s → Keeps s₀ (takeTurn s).2 := by
  intro s h; unfold takeTurn
  repeat' with_reducible first | assumption | refine of_snd (by assumption) ?_ | apply modDma_keeps

theorem handOver_keeps : ∀ a0 s, Keeps s₀ s → Keeps s₀ (handOver a0 s) := by
  intro a0 s h; unfold handOver
  repeat' with_reducible first
    | assumption | refine of_snd (by assumption) ?_ | apply takeTurn_keeps | apply modChan_keeps | apply chanHalt_keeps
    | apply foldl_keeps | apply foldl_snd_keeps | intro _ _ _ _ _ | intro _ _ _ | intro _ _ | split | apply ite_keeps
    | dsimp only

theorem fetchStart_keeps : ∀ a0 s, Keeps s₀ s → Keeps s₀ (fetchStart a0 s) := by
  intro a0 s h; unfold fetchStart
  repeat' with_reducible first | assumption | refine of_snd (by assumption) ?_ | apply modChan_keeps

theorem kick_keeps : ∀ a0 s, Keeps s₀ s → Keeps s₀ (kick a0 s) := by
  intro a0 s h; unfold kick
  repeat' with_reducible first
    | assumption | refine of_snd (by assumption) ?_ | apply modChan_keeps | apply handOver_keeps | apply fetchStart_keeps
    | apply foldl_keeps | intro _ _ _ _ _ | intro _ _ _ | intro _ _ | split | apply ite_keeps | dsimp only

theorem chanDone_keeps : ∀ a0 a1 s, Keeps s₀ s → Keeps s₀ (chanDone a0 a1 s) := by
  intro a0 a1 s h; unfold chanDone
  repeat' with_reducible first
    | assumption | refine of_snd (by assumption) ?_ | apply modChan_keeps | apply chanIrq_keeps | apply raise_keeps
    | apply foldl_keeps | intro _ _ _ _ _ | intro _ _ _ | intro _ _ | split

theorem endTransfer_keeps : ∀ a0 s, Keeps s₀ s → Keeps s₀ (endTransfer a0 s) := by
  intro a0 s h; unfold endTransfer
  repeat' with_reducible first
    | assumption | refine of_snd (by assumption) ?_ | apply recordErr_keeps | apply modChan_keeps | apply chanDone_keeps
    | apply handOver_keeps | apply foldl_keeps | intro _ _ _ _ _ | intro _ _ _ | intro _ _ | split | apply ite_keeps

theorem transferEnd_keeps : ∀ a0 s, Keeps s₀ s → Keeps s₀ (transferEnd a0 s) := by
  intro a0 s h; unfold transferEnd
  repeat' with_reducible first
    | assumption | refine of_snd (by assumption) ?_ | apply endTransfer_keeps | apply send_keeps | apply modChan_keeps
    | apply chanHalt_keeps | apply foldl_keeps | apply foldl_snd_keeps | intro _ _ _ _ _ | intro _ _ _ | intro _ _ | split
    | apply ite_keeps | dsimp only

theorem freeRegister_keeps : ∀ a0 a1 a2 s, Keeps s₀ s → Keeps s₀ (freeRegister a0 a1 a2 s) := by
  intro a0 a1 a2 s h; unfold freeRegister
  repeat' with_reducible first
    | assumption | refine of_snd (by assumption) ?_ | apply modReg_keeps | apply modBus_keeps | apply foldl_keeps
    | apply foldl_snd_keeps | intro _ _ _ _ _ | intro _ _ _ | intro _ _ | split | apply ite_keeps | dsimp only

theorem freeExtent_keeps : ∀ a0 s, Keeps s₀ s → Keeps s₀ (freeExtent a0 s) := by
  intro a0 s h; unfold freeExtent
  repeat' with_reducible first
    | assumption | refine of_snd (by assumption) ?_ | apply hostPut_keeps | apply freeRegister_keeps | apply viewPut_keeps
    | apply drawn_keeps | apply foldl_keeps | apply foldl_snd_keeps | intro _ _ _ _ _ | intro _ _ _ | intro _ _ | split
    | apply ite_keeps | dsimp only

theorem beatsLost_keeps : ∀ a0 s, Keeps s₀ s → Keeps s₀ (beatsLost a0 s) := by
  intro a0 s h; unfold beatsLost
  repeat' with_reducible first
    | assumption | refine of_snd (by assumption) ?_ | apply foldl_keeps | apply foldl_snd_keeps | intro _ _ _ _ _
    | intro _ _ _ | intro _ _ | split | apply ite_keeps | dsimp only | (apply keeps_mk; assumption)

theorem chanStop_keeps : ∀ a0 s, Keeps s₀ s → Keeps s₀ (chanStop a0 s) := by
  intro a0 s h; unfold chanStop
  repeat' with_reducible first
    | assumption | refine of_snd (by assumption) ?_ | apply freeExtent_keeps | apply beatsLost_keeps | apply draw_keeps
    | apply modChan_keeps | apply foldl_keeps | apply foldl_snd_keeps | intro _ _ _ _ _ | intro _ _ _ | intro _ _ | split
    | apply ite_keeps | dsimp only

theorem chansForStep_keeps : ∀ a0 s, Keeps s₀ s → Keeps s₀ (chansForStep a0 s) := by
  intro a0 s h; unfold chansForStep
  repeat' with_reducible first
    | assumption | refine of_snd (by assumption) ?_ | apply modChan_keeps | apply foldl_keeps | apply foldl_snd_keeps
    | intro _ _ _ _ _ | intro _ _ _ | intro _ _ | split | apply ite_keeps | dsimp only

theorem chansStop_keeps : ∀ a0 s, Keeps s₀ s → Keeps s₀ (chansStop a0 s) := by
  intro a0 s h; unfold chansStop
  repeat' with_reducible first
    | assumption | refine of_snd (by assumption) ?_ | apply chanStop_keeps | apply foldl_keeps | intro _ _ _ _ _ | intro _ _ _

theorem chCtrlWrite_keeps : ∀ a0 a1 s, Keeps s₀ s → Keeps s₀ (chCtrlWrite a0 a1 s) := by
  intro a0 a1 s h; unfold chCtrlWrite
  repeat' with_reducible first
    | assumption | refine of_snd (by assumption) ?_ | apply modChan_keeps | apply chanStop_keeps | apply foldl_keeps
    | intro _ _ _ _ _ | intro _ _ _ | intro _ _ | split | apply ite_keeps

theorem disarm_keeps : ∀ a0 a1 s, Keeps s₀ s → Keeps s₀ (disarm a0 a1 s) := by
  intro a0 a1 s h; unfold disarm
  repeat' with_reducible first
    | assumption | refine of_snd (by assumption) ?_ | apply modChan_keeps | apply kick_keeps | apply endTransfer_keeps
    | apply foldl_keeps | apply foldl_snd_keeps | intro _ _ _ _ _ | intro _ _ _ | intro _ _ | split | apply ite_keeps
    | dsimp only

theorem chanClear_keeps : ∀ a0 s, Keeps s₀ s → Keeps s₀ (chanClear a0 s) := by
  intro a0 s h; unfold chanClear
  repeat' with_reducible first | assumption | refine of_snd (by assumption) ?_ | apply modChan_keeps

theorem shadowArm_keeps : ∀ a0 s, Keeps s₀ s → Keeps s₀ (shadowArm a0 s) := by
  intro a0 s h; unfold shadowArm
  repeat' with_reducible first
    | assumption | refine of_snd (by assumption) ?_ | apply modChan_keeps | apply foldl_keeps | apply foldl_snd_keeps
    | intro _ _ _ _ _ | intro _ _ _ | intro _ _ | split | apply ite_keeps | dsimp only

theorem dmaReset_keeps : ∀ s, Keeps s₀ s → Keeps s₀ (dmaReset s) := by
  intro s h; unfold dmaReset
  repeat' with_reducible first
    | assumption | refine of_snd (by assumption) ?_ | apply freeExtent_keeps | apply beatsLost_keeps | apply modDma_keeps
    | apply foldl_keeps | intro _ _ _ _ _ | intro _ _ _ | intro _ _ | split | apply ite_keeps

theorem pageClear_keeps : ∀ a0 a1 s, Keeps s₀ s → Keeps s₀ (pageClear a0 a1 s) := by
  intro a0 a1 s h; unfold pageClear
  repeat' with_reducible first | assumption | refine of_snd (by assumption) ?_ | apply modBus_keeps

theorem arrayReset_keeps : ∀ a0 s, Keeps s₀ s → Keeps s₀ (arrayReset a0 s) := by
  intro a0 s h; unfold arrayReset
  repeat' with_reducible first
    | assumption | refine of_snd (by assumption) ?_ | apply modArray_keeps
    | refine modMem_keeps ?_ fun m hm => Mem.wf_clear _ _ (Mem.wf_zeroBuffers _ hm)

theorem coreReset_keeps : ∀ a0 a1 s, Keeps s₀ s → Keeps s₀ (coreReset a0 a1 s) := by
  intro a0 a1 s h; unfold coreReset
  repeat' with_reducible first
    | assumption | refine of_snd (by assumption) ?_ | apply pageClear_keeps | apply arrayReset_keeps | apply modProc_keeps
    | apply modHealth_keeps | apply foldl_keeps | apply foldl_snd_keeps | intro _ _ _ _ _ | intro _ _ _ | intro _ _ | split
    | apply ite_keeps | dsimp only

theorem unpark_keeps : ∀ a0 s, Keeps s₀ s → Keeps s₀ (unpark a0 s) := by
  intro a0 s h; unfold unpark
  repeat' with_reducible first
    | assumption | refine of_snd (by assumption) ?_ | refine modMem_keeps ?_ fun m hm => Mem.wf_same hm rfl rfl rfl rfl rfl

theorem arrayIdle_keeps : ∀ a0 s, Keeps s₀ s → Keeps s₀ (arrayIdle a0 s) := by
  intro a0 s h; unfold arrayIdle
  repeat' with_reducible first | assumption | refine of_snd (by assumption) ?_ | apply modArray_keeps

theorem stepDiscard_keeps : ∀ a0 s, Keeps s₀ s → Keeps s₀ (stepDiscard a0 s) := by
  intro a0 s h; unfold stepDiscard
  repeat' with_reducible first
    | assumption | refine of_snd (by assumption) ?_ | apply chansStop_keeps | apply modShare_keeps | apply unpark_keeps
    | apply arrayIdle_keeps | apply modProc_keeps | apply foldl_keeps | intro _ _ _ _ _ | intro _ _ _ | intro _ _ | split

theorem jobStop_keeps : ∀ a0 a1 a2 a3 s, Keeps s₀ s → Keeps s₀ (jobStop a0 a1 a2 a3 s) := by
  intro a0 a1 a2 a3 s h; unfold jobStop
  repeat' with_reducible first
    | assumption | refine of_snd (by assumption) ?_ | apply endJob_keeps | apply stepDiscard_keeps | apply foldl_keeps
    | intro _ _ _ _ _ | intro _ _ _

theorem railWrite_keeps : ∀ a0 a1 s, Keeps s₀ s → Keeps s₀ (railWrite a0 a1 s) := by
  intro a0 a1 s h; unfold railWrite
  repeat' with_reducible first
    | assumption | refine of_snd (by assumption) ?_ | apply modPower_keeps | apply send_keeps | apply modPacer_keeps

theorem floorFall_keeps : ∀ s, Keeps s₀ s → Keeps s₀ (floorFall s) := by
  intro s h; unfold floorFall
  repeat' with_reducible first
    | assumption | refine of_snd (by assumption) ?_ | apply modPacer_keeps | apply railWrite_keeps | apply foldl_keeps
    | intro _ _ _ _ _ | intro _ _ _ | intro _ _ | split | apply ite_keeps | dsimp only

theorem classFree_keeps : ∀ a0 s, Keeps s₀ s → Keeps s₀ (classFree a0 s) := by
  intro a0 s h; unfold classFree
  repeat' with_reducible first | assumption | refine of_snd (by assumption) ?_ | apply modClass_keeps

theorem classSettle_keeps : ∀ a0 s, Keeps s₀ s → Keeps s₀ (classSettle a0 s) := by
  intro a0 s h; unfold classSettle
  repeat' with_reducible first
    | assumption | refine of_snd (by assumption) ?_ | apply raise_keeps | apply modPacer_keeps | apply classFree_keeps
    | apply modClass_keeps | apply foldl_keeps | intro _ _ _ _ _ | intro _ _ _ | intro _ _ | split | apply ite_keeps

theorem pacerResetSettle_keeps : ∀ s, Keeps s₀ s → Keeps s₀ (pacerResetSettle s) := by
  intro s h; unfold pacerResetSettle
  repeat' with_reducible first
    | assumption | refine of_snd (by assumption) ?_ | apply modPacer_keeps | apply railWrite_keeps | apply pageClear_keeps
    | apply foldl_keeps | apply foldl_snd_keeps | intro _ _ _ _ _ | intro _ _ _ | intro _ _ | split | apply ite_keeps
    | dsimp only

theorem jobSettle_keeps : ∀ a0 s, Keeps s₀ s → Keeps s₀ (jobSettle a0 s) := by
  intro a0 s h; unfold jobSettle
  repeat' with_reducible first
    | assumption | refine of_snd (by assumption) ?_ | apply finishJob_keeps | apply endJob_keeps | apply foldl_keeps
    | intro _ _ _ _ _ | intro _ _ _ | intro _ _ | split | apply ite_keeps

theorem abortsSettle_keeps : ∀ s, Keeps s₀ s → Keeps s₀ (abortsSettle s) := by
  intro s h; unfold abortsSettle
  repeat' with_reducible first
    | assumption | refine of_snd (by assumption) ?_ | apply jobSettle_keeps | apply foldl_keeps | intro _ _ _ _ _ | intro _ _ _

theorem pacerSettle_keeps : ∀ s, Keeps s₀ s → Keeps s₀ (pacerSettle s) := by
  intro s h; unfold pacerSettle
  repeat' with_reducible first
    | assumption | refine of_snd (by assumption) ?_ | apply pacerResetSettle_keeps | apply floorFall_keeps
    | apply classSettle_keeps | apply abortsSettle_keeps | apply foldl_keeps | intro _ _ _ _ _ | intro _ _ _

theorem strikesFor_keeps : ∀ a0 a1 s, Keeps s₀ s → Keeps s₀ (strikesFor a0 a1 s) := by
  intro a0 a1 s h; unfold strikesFor
  repeat' with_reducible first
    | assumption | refine of_snd (by assumption) ?_ | apply modHealth_keeps | apply foldl_keeps | apply foldl_snd_keeps
    | intro _ _ _ _ _ | intro _ _ _ | intro _ _ | split | apply ite_keeps | dsimp only

theorem codeTimeout_keeps : ∀ a0 a1 s, Keeps s₀ s → Keeps s₀ (codeTimeout a0 a1 s) := by
  intro a0 a1 s h; unfold codeTimeout
  repeat' with_reducible first
    | assumption | refine of_snd (by assumption) ?_ | apply pacerSettle_keeps | apply jobStop_keeps | apply countWrap_keeps
    | apply foldl_keeps | intro _ _ _ _ _ | intro _ _ _ | intro _ _ | split

theorem codeRead_keeps : ∀ a0 a1 a2 a3 s, Keeps s₀ s → Keeps s₀ (codeRead a0 a1 a2 a3 s).2 := by
  intro a0 a1 a2 a3 s h; unfold codeRead
  repeat' with_reducible first
    | assumption | apply okKeeps_ok | exact okKeeps_error | refine of_snd (by assumption) ?_ | apply countRefusal_keeps
    | apply dramError_keeps | apply lfiItem_keeps | apply dramCorrects_keeps | apply foldl_keeps | apply foldl_snd_keeps
    | intro _ _ _ _ _ | intro _ _ _ | intro _ _ | split | apply ite_keeps | dsimp only

theorem stepStart_keeps : ∀ a0 a1 a2 a3 s, Keeps s₀ s → Keeps s₀ (stepStart a0 a1 a2 a3 s) := by
  intro a0 a1 a2 a3 s h; unfold stepStart
  repeat' with_reducible first
    | assumption | refine of_snd (by assumption) ?_ | apply memPut_keeps | apply hostReadSent_keeps | apply strikesFor_keeps
    | apply chansForStep_keeps | apply modProc_keeps | apply modArray_keeps | apply modJob_keeps
    | refine modMem_keeps ?_ fun m hm => Mem.wf_same hm rfl rfl rfl rfl rfl
    | refine modMem_keeps ?_ fun m hm => Mem.wf_clear _ _ hm
    | refine modMem_keeps ?_ fun m hm => Mem.wf_clear _ _ (Mem.wf_freshBuffers _ hm) | apply foldl_keeps
    | apply foldl_snd_keeps | intro _ _ _ _ _ | intro _ _ _ | intro _ _ | split | apply ite_keeps | dsimp only

theorem carryStart_keeps : ∀ a0 a1 a2 a3 s, Keeps s₀ s → Keeps s₀ (carryStart a0 a1 a2 a3 s) := by
  intro a0 a1 a2 a3 s h; unfold carryStart
  repeat' with_reducible first
    | assumption | refine of_snd (by assumption) ?_ | apply modShare_keeps | apply modPacer_keeps | apply foldl_keeps
    | intro _ _ _ _ _ | intro _ _ _ | intro _ _ | split | apply ite_keeps

theorem stageApply_keeps : ∀ a0 s, Keeps s₀ s → Keeps s₀ (stageApply a0 s) := by
  intro a0 s h; unfold stageApply
  repeat' with_reducible first
    | assumption | refine of_snd (by assumption) ?_ | apply memPut_keeps
    | refine modMem_keeps ?_ fun m hm => Mem.wf_damaged _ hm (storeWf_foldl _ _ (fun _ _ hw => storeWf_set _ _ _ _ hw) _ _ (Mem.damaged_wf hm))
    | apply foldl_keeps | intro _ _ _ _ _ | intro _ _ _ | intro _ _ | split

theorem stepCommit_keeps : ∀ a0 s, Keeps s₀ s → Keeps s₀ (stepCommit a0 s) := by
  intro a0 s h; unfold stepCommit
  repeat' with_reducible first
    | assumption | refine of_snd (by assumption) ?_ | apply modProc_keeps | apply stageApply_keeps | apply semPost_keeps
    | apply postEvent_keeps | apply arrayIdle_keeps | apply modShare_keeps | apply carryStart_keeps | apply pacerSettle_keeps
    | apply jobSettle_keeps | apply foldl_keeps | intro _ _ _ _ _ | intro _ _ _ | intro _ _ | split | apply ite_keeps
    | dsimp only

theorem coreFaultEnds_keeps : ∀ a0 a1 a2 a3 s, Keeps s₀ s → Keeps s₀ (coreFaultEnds a0 a1 a2 a3 s) := by
  intro a0 a1 a2 a3 s h; unfold coreFaultEnds
  repeat' with_reducible first
    | assumption | refine of_snd (by assumption) ?_ | apply modProc_keeps | apply raise_keeps | apply pacerSettle_keeps
    | apply jobStop_keeps | apply stepDiscard_keeps | apply foldl_keeps | intro _ _ _ _ _ | intro _ _ _ | intro _ _ | split
    | apply ite_keeps | dsimp only

theorem modResult_keeps : ∀ a0 a1 s, Keeps s₀ s → Keeps s₀ (modResult a0 a1 s) := by
  intro a0 a1 s h; unfold modResult
  repeat' with_reducible first
    | assumption | refine of_snd (by assumption) ?_ | apply modPacer_keeps | apply foldl_keeps | intro _ _ _ _ _ | intro _ _ _
    | intro _ _ | split

theorem setResult_keeps : ∀ a0 a1 a2 a3 s, Keeps s₀ s → Keeps s₀ (setResult a0 a1 a2 a3 s) := by
  intro a0 a1 a2 a3 s h; unfold setResult
  repeat' with_reducible first
    | assumption | refine of_snd (by assumption) ?_ | apply modResult_keeps | apply foldl_keeps | apply foldl_snd_keeps
    | intro _ _ _ _ _ | intro _ _ _ | intro _ _ | split | apply ite_keeps | dsimp only

theorem cmdFinish_keeps : ∀ a0 a1 s, Keeps s₀ s → Keeps s₀ (cmdFinish a0 a1 s) := by
  intro a0 a1 s h; unfold cmdFinish
  repeat' with_reducible first
    | assumption | refine of_snd (by assumption) ?_ | apply setResult_keeps | apply modPacer_keeps | apply foldl_keeps
    | intro _ _ _ _ _ | intro _ _ _ | intro _ _ | split

theorem cmdErr_keeps : ∀ a0 a1 s, Keeps s₀ s → Keeps s₀ (cmdErr a0 a1 s) := by
  intro a0 a1 s h; unfold cmdErr
  repeat' with_reducible first | assumption | refine of_snd (by assumption) ?_ | apply recordErr_keeps

theorem cmdRefuse_keeps : ∀ a0 s, Keeps s₀ s → Keeps s₀ (cmdRefuse a0 s) := by
  intro a0 s h; unfold cmdRefuse
  repeat' with_reducible first
    | assumption | refine of_snd (by assumption) ?_ | apply cmdFinish_keeps | apply cmdErr_keeps | apply foldl_keeps
    | intro _ _ _ _ _ | intro _ _ _ | intro _ _ | split

theorem nameReserve_keeps : ∀ s, Keeps s₀ s → Keeps s₀ (nameReserve s) := by
  intro s h; unfold nameReserve
  repeat' with_reducible first
    | assumption | refine of_snd (by assumption) ?_ | apply modPacer_keeps | apply raise_keeps | apply foldl_keeps
    | apply foldl_snd_keeps | intro _ _ _ _ _ | intro _ _ _ | intro _ _ | split | apply ite_keeps | dsimp only

theorem reserveCommit_keeps : ∀ a0 s, Keeps s₀ s → Keeps s₀ (reserveCommit a0 s) := by
  intro a0 s h; unfold reserveCommit
  repeat' with_reducible first
    | assumption | refine of_snd (by assumption) ?_ | apply modPacer_keeps | apply nameReserve_keeps | apply foldl_keeps
    | intro _ _ _ _ _ | intro _ _ _ | intro _ _ | split

theorem admitRun_keeps : ∀ a0 s, Keeps s₀ s → Keeps s₀ (admitRun a0 s) := by
  intro a0 s h; unfold admitRun
  repeat' with_reducible first
    | assumption | refine of_snd (by assumption) ?_ | apply cmdFinish_keeps | apply railWrite_keeps | apply modPacer_keeps
    | apply foldl_keeps | intro _ _ _ _ _ | intro _ _ _ | intro _ _ | split

theorem admitStart_keeps : ∀ a0 s, Keeps s₀ s → Keeps s₀ (admitStart a0 s) := by
  intro a0 s h; unfold admitStart
  repeat' with_reducible first
    | assumption | refine of_snd (by assumption) ?_ | apply admitRun_keeps | apply cmdFinish_keeps | apply cmdRefuse_keeps
    | apply foldl_keeps | intro _ _ _ _ _ | intro _ _ _ | intro _ _ | split | apply ite_keeps

theorem admitDone_keeps : ∀ s, Keeps s₀ s → Keeps s₀ (admitDone s) := by
  intro s h; unfold admitDone
  repeat' with_reducible first
    | assumption | refine of_snd (by assumption) ?_ | apply modClass_keeps | apply modPacer_keeps | apply raise_keeps
    | apply cmdFinish_keeps | apply foldl_keeps | apply foldl_snd_keeps | intro _ _ _ _ _ | intro _ _ _ | intro _ _ | split
    | apply ite_keeps | dsimp only

theorem railUndo_keeps : ∀ s, Keeps s₀ s → Keeps s₀ (railUndo s) := by
  intro s h; unfold railUndo
  repeat' with_reducible first
    | assumption | refine of_snd (by assumption) ?_ | apply railWrite_keeps | apply foldl_keeps | apply foldl_snd_keeps
    | intro _ _ _ _ _ | intro _ _ _ | intro _ _ | split | apply ite_keeps | dsimp only

theorem admitAgain_keeps : ∀ s, Keeps s₀ s → Keeps s₀ (admitAgain s) := by
  intro s h; unfold admitAgain
  repeat' with_reducible first
    | assumption | refine of_snd (by assumption) ?_ | apply admitStart_keeps | apply modPacer_keeps | apply railUndo_keeps
    | apply foldl_keeps | intro _ _ _ _ _ | intro _ _ _ | intro _ _ | split | apply ite_keeps

theorem planCheck_keeps : ∀ s, Keeps s₀ s → Keeps s₀ (planCheck s) := by
  intro s h; unfold planCheck
  repeat' with_reducible first
    | assumption | refine of_snd (by assumption) ?_ | apply railUndo_keeps | apply cmdFinish_keeps | apply foldl_keeps
    | intro _ _ _ _ _ | intro _ _ _ | intro _ _ | split

theorem coreOff_keeps : ∀ a0 s, Keeps s₀ s → Keeps s₀ (coreOff a0 s) := by
  intro a0 s h; unfold coreOff
  repeat' with_reducible first
    | assumption | refine of_snd (by assumption) ?_ | apply modDom_keeps
    | refine modMem_keeps ?_ fun m hm => Mem.wf_clear _ _ (Mem.wf_zeroBuffers _ (Mem.wf_lose _ hm))

theorem sharesMove_keeps : ∀ a0 a1 s, Keeps s₀ s → Keeps s₀ (sharesMove a0 a1 s) := by
  intro a0 a1 s h; unfold sharesMove
  repeat' with_reducible first
    | assumption | refine of_snd (by assumption) ?_ | apply modClass_keeps | apply foldl_keeps | intro _ _ _ _ _ | intro _ _ _
    | intro _ _ | split

theorem classShed_keeps : ∀ a0 s, Keeps s₀ s → Keeps s₀ (classShed a0 s) := by
  intro a0 s h; unfold classShed
  repeat' with_reducible first | assumption | refine of_snd (by assumption) ?_ | apply modClass_keeps

theorem markFence_keeps : ∀ s, Keeps s₀ s → Keeps s₀ (markFence s) := by
  intro s h; unfold markFence
  repeat' with_reducible first | assumption | refine of_snd (by assumption) ?_ | apply modPacer_keeps

theorem sharesReplace_keeps : ∀ a0 s, Keeps s₀ s → Keeps s₀ (sharesReplace a0 s) := by
  intro a0 s h; unfold sharesReplace
  repeat' with_reducible first
    | assumption | refine of_snd (by assumption) ?_ | apply modClass_keeps | apply classShed_keeps | apply raise_keeps
    | apply modPacer_keeps | apply markFence_keeps | apply foldl_keeps | intro _ _ _ _ _ | intro _ _ _ | intro _ _ | split

theorem jobsMove_keeps : ∀ a0 s, Keeps s₀ s → Keeps s₀ (jobsMove a0 s) := by
  intro a0 s h; unfold jobsMove
  repeat' with_reducible first
    | assumption | refine of_snd (by assumption) ?_ | apply modShare_keeps | apply carryStart_keeps | apply foldl_keeps
    | intro _ _ _ _ _ | intro _ _ _ | intro _ _ | split | apply ite_keeps

theorem noSurvivor_keeps : ∀ s, Keeps s₀ s → Keeps s₀ (noSurvivor s) := by
  intro s h; unfold noSurvivor
  repeat' with_reducible first
    | assumption | refine of_snd (by assumption) ?_ | apply jobStop_keeps | apply modPacer_keeps | apply raise_keeps
    | apply classShed_keeps | apply classFree_keeps | apply foldl_keeps | intro _ _ _ _ _ | intro _ _ _ | intro _ _ | split
    | apply ite_keeps

theorem fenceHoldEnd_keeps : ∀ a0 s, Keeps s₀ s → Keeps s₀ (fenceHoldEnd a0 s) := by
  intro a0 s h; unfold fenceHoldEnd
  repeat' with_reducible first
    | assumption | refine of_snd (by assumption) ?_ | apply raise_keeps | apply coreOff_keeps | apply modHealth_keeps
    | apply foldl_keeps | intro _ _ _ _ _ | intro _ _ _ | intro _ _ | split

theorem fenceCore_keeps : ∀ a0 a1 s, Keeps s₀ s → Keeps s₀ (fenceCore a0 a1 s) := by
  intro a0 a1 s h; unfold fenceCore
  repeat' with_reducible first
    | assumption | refine of_snd (by assumption) ?_ | apply modDom_keeps | apply stepDiscard_keeps | apply modHealth_keeps
    | apply noSurvivor_keeps | apply raise_keeps | apply modPacer_keeps | apply nameReserve_keeps | apply sharesMove_keeps
    | apply sharesReplace_keeps | apply pacerSettle_keeps | apply admitAgain_keeps | apply fenceHoldEnd_keeps
    | apply jobsMove_keeps | apply foldl_keeps | intro _ _ _ _ _ | intro _ _ _ | intro _ _ | split

theorem unfenceCore_keeps : ∀ a0 s, Keeps s₀ s → Keeps s₀ (unfenceCore a0 s) := by
  intro a0 s h; unfold unfenceCore
  repeat' with_reducible first
    | assumption | refine of_snd (by assumption) ?_ | apply challengeDrop_keeps | apply coreReset_keeps
    | apply modHealth_keeps | apply modDom_keeps | apply foldl_keeps | apply foldl_snd_keeps | intro _ _ _ _ _ | intro _ _ _
    | intro _ _ | split | apply ite_keeps | dsimp only

theorem strike_keeps : ∀ a0 a1 s, Keeps s₀ s → Keeps s₀ (strike a0 a1 s) := by
  intro a0 a1 s h; unfold strike
  repeat' with_reducible first
    | assumption | refine of_snd (by assumption) ?_ | apply modHealth_keeps | apply foldl_keeps | apply foldl_snd_keeps
    | intro _ _ _ _ _ | intro _ _ _ | intro _ _ | split | apply ite_keeps | dsimp only

theorem markRelocation_keeps : ∀ a0 s, Keeps s₀ s → Keeps s₀ (markRelocation a0 s) := by
  intro a0 s h; unfold markRelocation
  repeat' with_reducible first
    | assumption | refine of_snd (by assumption) ?_ | apply modPacer_keeps | apply foldl_keeps | apply foldl_snd_keeps
    | intro _ _ _ _ _ | intro _ _ _ | intro _ _ | split | apply ite_keeps | dsimp only

theorem rerun_keeps : ∀ a0 a1 a2 s, Keeps s₀ s → Keeps s₀ (rerun a0 a1 a2 s) := by
  intro a0 a1 a2 s h; unfold rerun
  repeat' with_reducible first
    | assumption | refine of_snd (by assumption) ?_ | apply pacerSettle_keeps | apply modJob_keeps | apply modShare_keeps
    | apply countWrap_keeps | apply fenceCore_keeps | apply strike_keeps | apply markRelocation_keeps
    | apply carryStart_keeps | apply foldl_keeps | apply foldl_snd_keeps | intro _ _ _ _ _ | intro _ _ _ | intro _ _ | split
    | apply ite_keeps | dsimp only

theorem stepDetection_keeps : ∀ a0 s, Keeps s₀ s → Keeps s₀ (stepDetection a0 s) := by
  intro a0 s h; unfold stepDetection
  repeat' with_reducible first
    | assumption | refine of_snd (by assumption) ?_ | apply rerun_keeps | apply stepDiscard_keeps | apply foldl_keeps
    | intro _ _ _ _ _ | intro _ _ _ | intro _ _ | split

theorem carriedDetection_keeps : ∀ a0 s, Keeps s₀ s → Keeps s₀ (carriedDetection a0 s) := by
  intro a0 s h; unfold carriedDetection
  repeat' with_reducible first
    | assumption | refine of_snd (by assumption) ?_ | apply pacerSettle_keeps | apply jobStop_keeps | apply rerun_keeps
    | apply modShare_keeps | apply stepDiscard_keeps | apply foldl_keeps | intro _ _ _ _ _ | intro _ _ _ | intro _ _ | split

theorem carriedRowBad_keeps : ∀ a0 a1 a2 s, Keeps s₀ s → Keeps s₀ (carriedRowBad a0 a1 a2 s) := by
  intro a0 a1 a2 s h; unfold carriedRowBad
  repeat' with_reducible first
    | assumption | refine of_snd (by assumption) ?_ | apply pacerSettle_keeps | apply jobStop_keeps | apply rerun_keeps
    | apply modShare_keeps | apply foldl_keeps | intro _ _ _ _ _ | intro _ _ _ | intro _ _ | split

theorem carryDone_keeps : ∀ a0 a1 s, Keeps s₀ s → Keeps s₀ (carryDone a0 a1 s) := by
  intro a0 a1 s h; unfold carryDone
  repeat' with_reducible first
    | assumption | refine of_snd (by assumption) ?_ | apply memPut_keeps | apply modShare_keeps | apply modPacer_keeps
    | apply carriedRowBad_keeps | apply coreParity_keeps | apply foldl_keeps | intro _ _ _ _ _ | intro _ _ _ | intro _ _ | split
    | apply ite_keeps | dsimp only

theorem waitLine_keeps : ∀ a0 a1 a2 s, Keeps s₀ s → Keeps s₀ (waitLine a0 a1 a2 s) := by
  intro a0 a1 a2 s h; unfold waitLine
  repeat' with_reducible first | assumption | refine of_snd (by assumption) ?_ | apply modJob_keeps | apply markDamaged_keeps

theorem shmStepDetection_keeps : ∀ a0 a1 s, Keeps s₀ s → Keeps s₀ (shmStepDetection a0 a1 s) := by
  intro a0 a1 s h; unfold shmStepDetection
  repeat' with_reducible first
    | assumption | refine of_snd (by assumption) ?_ | apply detLogAdd_keeps | apply pacerSettle_keeps | apply waitLine_keeps
    | apply stepDiscard_keeps | apply modShare_keeps | apply restoreStart_keeps | apply restoreFail_keeps | apply rerun_keeps
    | apply foldl_keeps | intro _ _ _ _ _ | intro _ _ _ | intro _ _ | split | apply ite_keeps

theorem restoreDone_keeps : ∀ a0 a1 s, Keeps s₀ s → Keeps s₀ (restoreDone a0 a1 s) := by
  intro a0 a1 s h; unfold restoreDone
  repeat' with_reducible first
    | assumption | refine of_snd (by assumption) ?_ | apply dramError_keeps | apply restoreLine_keeps | apply restoreFail_keeps
    | apply rerun_keeps | apply modShare_keeps | apply waitLine_keeps
    | refine modMem_keeps ?_ fun m hm => Mem.wf_same hm rfl rfl rfl rfl rfl | apply foldl_keeps | intro _ _ _ _ _ | intro _ _ _
    | intro _ _ | split | apply ite_keeps | dsimp only

theorem codeDetection_keeps : ∀ a0 a1 s, Keeps s₀ s → Keeps s₀ (codeDetection a0 a1 s) := by
  intro a0 a1 s h; unfold codeDetection
  repeat' with_reducible first
    | assumption | refine of_snd (by assumption) ?_ | apply shmStepDetection_keeps | apply countDet_keeps
    | apply stepDetection_keeps | apply coreParity_keeps | apply sramDetection_keeps | apply carafeDetection_keeps
    | apply foldl_keeps | apply foldl_snd_keeps | intro _ _ _ _ _ | intro _ _ _ | intro _ _ | split | apply ite_keeps
    | dsimp only

theorem stepBegin_keeps : ∀ a0 a1 s, Keeps s₀ s → Keeps s₀ (stepBegin a0 a1 s) := by
  intro a0 a1 s h; unfold stepBegin
  repeat' with_reducible first
    | assumption | apply okKeeps_ok | exact okKeeps_error | refine of_snd (by assumption) ?_ | apply codeRead_keeps
    | apply pacerSettle_keeps | apply jobStop_keeps | apply stepStart_keeps | apply stepDetection_keeps
    | apply coreParity_keeps | apply codeDetection_keeps | apply foldl_keeps | apply foldl_snd_keeps | intro _ _ _ _ _
    | intro _ _ _ | intro _ _ | split | apply ite_keeps | dsimp only

theorem lineArrived_keeps : ∀ a0 s, Keeps s₀ s → Keeps s₀ (lineArrived a0 s) := by
  intro a0 s h; unfold lineArrived
  repeat' with_reducible first
    | assumption | refine of_snd (by assumption) ?_ | apply rerun_keeps | apply modShare_keeps | apply foldl_keeps
    | intro _ _ _ _ _ | intro _ _ _ | intro _ _ | split | apply ite_keeps

theorem scrubRead_keeps : ∀ a0 a1 s, Keeps s₀ s → Keeps s₀ (scrubRead a0 a1 s) := by
  intro a0 a1 s h; unfold scrubRead
  repeat' with_reducible first
    | assumption | refine of_snd (by assumption) ?_ | apply shmOtherDetection_keeps | apply foldl_keeps | intro _ _ _ _ _
    | intro _ _ _

theorem scrubAdvance_keeps : ∀ s, Keeps s₀ s → Keeps s₀ (scrubAdvance s) := by
  intro s h; unfold scrubAdvance
  repeat' with_reducible first
    | assumption | refine of_snd (by assumption) ?_ | apply scrubRead_keeps
    | refine modMem_keeps ?_ fun m hm => Mem.wf_same hm rfl rfl rfl rfl rfl | apply foldl_keeps | intro _ _ _ _ _ | intro _ _ _
    | intro _ _ | split

theorem scrubEnd_keeps : ∀ s, Keeps s₀ s → Keeps s₀ (scrubEnd s) := by
  intro s h; unfold scrubEnd
  repeat' with_reducible first
    | assumption | refine of_snd (by assumption) ?_ | apply scrubAdvance_keeps | apply raise_keeps
    | refine modMem_keeps ?_ fun m hm => Mem.wf_same hm rfl rfl rfl rfl rfl | apply foldl_keeps | intro _ _ _ _ _ | intro _ _ _
    | intro _ _ | split | apply ite_keeps

theorem paceWindow_keeps : ∀ a0 a1 a2 s, Keeps s₀ s → Keeps s₀ (paceWindow a0 a1 a2 s) := by
  intro a0 a1 a2 s h; unfold paceWindow
  repeat' with_reducible first
    | assumption | refine of_snd (by assumption) ?_ | apply modHealth_keeps | apply fenceCore_keeps | apply foldl_keeps
    | intro _ _ _ _ _ | intro _ _ _ | intro _ _ | split | apply ite_keeps

theorem thermalEnter_keeps : ∀ s, Keeps s₀ s → Keeps s₀ (thermalEnter s) := by
  intro s h; unfold thermalEnter
  repeat' with_reducible first
    | assumption | refine of_snd (by assumption) ?_ | apply modPacer_keeps | apply raise_keeps | apply railUndo_keeps
    | apply cmdFinish_keeps | apply foldl_keeps | intro _ _ _ _ _ | intro _ _ _ | intro _ _ | split | apply ite_keeps

theorem thermalLower_keeps : ∀ s, Keeps s₀ s → Keeps s₀ (thermalLower s) := by
  intro s h; unfold thermalLower
  repeat' with_reducible first
    | assumption | refine of_snd (by assumption) ?_ | apply railWrite_keeps | apply modPacer_keeps | apply foldl_keeps
    | apply foldl_snd_keeps | intro _ _ _ _ _ | intro _ _ _ | intro _ _ | split | apply ite_keeps | dsimp only

theorem floorBack_keeps : ∀ s, Keeps s₀ s → Keeps s₀ (floorBack s) := by
  intro s h; unfold floorBack
  repeat' with_reducible first
    | assumption | refine of_snd (by assumption) ?_ | apply modPacer_keeps | apply foldl_keeps | apply foldl_snd_keeps
    | intro _ _ _ _ _ | intro _ _ _ | intro _ _ | split | apply ite_keeps | dsimp only

theorem thermalRestore_keeps : ∀ s, Keeps s₀ s → Keeps s₀ (thermalRestore s) := by
  intro s h; unfold thermalRestore
  repeat' with_reducible first
    | assumption | refine of_snd (by assumption) ?_ | apply railWrite_keeps | apply modPacer_keeps | apply foldl_keeps
    | apply foldl_snd_keeps | intro _ _ _ _ _ | intro _ _ _ | intro _ _ | split | apply ite_keeps | dsimp only

theorem thermalOver_keeps : ∀ s, Keeps s₀ s → Keeps s₀ (thermalOver s) := by
  intro s h; unfold thermalOver
  repeat' with_reducible first
    | assumption | refine of_snd (by assumption) ?_ | apply modPacer_keeps | apply floorBack_keeps | apply foldl_keeps
    | apply foldl_snd_keeps | intro _ _ _ _ _ | intro _ _ _ | intro _ _ | split | apply ite_keeps | dsimp only

theorem thermalRetry_keeps : ∀ s, Keeps s₀ s → Keeps s₀ (thermalRetry s) := by
  intro s h; unfold thermalRetry
  repeat' with_reducible first
    | assumption | refine of_snd (by assumption) ?_ | apply thermalRestore_keeps | apply modPacer_keeps | apply foldl_keeps
    | intro _ _ _ _ _ | intro _ _ _ | intro _ _ | split

theorem railSettled_keeps : ∀ s, Keeps s₀ s → Keeps s₀ (railSettled s) := by
  intro s h; unfold railSettled
  repeat' with_reducible first
    | assumption | refine of_snd (by assumption) ?_ | apply modPacer_keeps | apply pacerSettle_keeps | apply admitDone_keeps
    | apply thermalRestore_keeps | apply thermalOver_keeps | apply floorBack_keeps | apply foldl_keeps
    | apply foldl_snd_keeps | intro _ _ _ _ _ | intro _ _ _ | intro _ _ | split | apply ite_keeps | dsimp only

theorem railTimeout_keeps : ∀ s, Keeps s₀ s → Keeps s₀ (railTimeout s) := by
  intro s h; unfold railTimeout
  repeat' with_reducible first
    | assumption | refine of_snd (by assumption) ?_ | apply railUndo_keeps | apply raise_keeps | apply cmdFinish_keeps
    | apply railWrite_keeps | apply modPacer_keeps | apply foldl_keeps | intro _ _ _ _ _ | intro _ _ _ | intro _ _ | split

theorem classWrite_keeps : ∀ a0 a1 a2 a3 s, Keeps s₀ s → Keeps s₀ (classWrite a0 a1 a2 a3 s) := by
  intro a0 a1 a2 a3 s h; unfold classWrite
  repeat' with_reducible first
    | assumption | refine of_snd (by assumption) ?_ | apply modClass_keeps | apply recordErr_keeps | apply foldl_keeps
    | intro _ _ _ _ _ | intro _ _ _ | intro _ _ | split | apply ite_keeps

theorem revokeClass_keeps : ∀ a0 s, Keeps s₀ s → Keeps s₀ (revokeClass a0 s) := by
  intro a0 s h; unfold revokeClass
  repeat' with_reducible first
    | assumption | refine of_snd (by assumption) ?_ | apply cmdFinish_keeps | apply raise_keeps | apply classFree_keeps
    | apply pacerSettle_keeps | apply modClass_keeps | apply foldl_keeps | intro _ _ _ _ _ | intro _ _ _ | intro _ _ | split
    | apply ite_keeps | dsimp only

theorem revokeNow_keeps : ∀ a0 s, Keeps s₀ s → Keeps s₀ (revokeNow a0 s) := by
  intro a0 s h; unfold revokeNow
  repeat' with_reducible first
    | assumption | refine of_snd (by assumption) ?_ | apply classFree_keeps | apply modClass_keeps | apply foldl_keeps
    | intro _ _ _ _ _ | intro _ _ _ | intro _ _ | split

theorem revokeSome_keeps : ∀ a0 s, Keeps s₀ s → Keeps s₀ (revokeSome a0 s) := by
  intro a0 s h; unfold revokeSome
  repeat' with_reducible first
    | assumption | refine of_snd (by assumption) ?_ | apply planCheck_keeps | apply revokeNow_keeps | apply foldl_keeps
    | intro _ _ _ _ _ | intro _ _ _

theorem shrinkClass_keeps : ∀ a0 s, Keeps s₀ s → Keeps s₀ (shrinkClass a0 s) := by
  intro a0 s h; unfold shrinkClass
  repeat' with_reducible first
    | assumption | refine of_snd (by assumption) ?_ | apply cmdFinish_keeps | apply pacerSettle_keeps | apply modClass_keeps
    | apply foldl_keeps | intro _ _ _ _ _ | intro _ _ _ | intro _ _ | split | apply ite_keeps

theorem runCommand_keeps : ∀ a0 s, Keeps s₀ s → Keeps s₀ (runCommand a0 s) := by
  intro a0 s h; unfold runCommand
  repeat' with_reducible first
    | assumption | refine of_snd (by assumption) ?_ | apply modPacer_keeps | apply revokeClass_keeps | apply cmdRefuse_keeps
    | apply shrinkClass_keeps | apply cmdFinish_keeps | apply classFree_keeps | apply fenceCore_keeps | apply unfenceCore_keeps
    | apply admitStart_keeps | apply foldl_keeps | intro _ _ _ _ _ | intro _ _ _ | intro _ _ | split | apply ite_keeps

theorem nextCommand_keeps : ∀ s, Keeps s₀ s → Keeps s₀ (nextCommand s) := by
  intro s h; unfold nextCommand
  repeat' with_reducible first
    | assumption | refine of_snd (by assumption) ?_ | apply floorFall_keeps | apply runCommand_keeps | apply modPacer_keeps
    | apply foldl_keeps | intro _ _ _ _ _ | intro _ _ _ | intro _ _ | split

theorem pacerCommand_keeps : ∀ a0 a1 a2 s, Keeps s₀ s → Keeps s₀ (pacerCommand a0 a1 a2 s) := by
  intro a0 a1 a2 s h; unfold pacerCommand
  repeat' with_reducible first
    | assumption | refine of_snd (by assumption) ?_ | apply setResult_keeps | apply cmdErr_keeps | apply modResult_keeps
    | apply modPacer_keeps | apply nextCommand_keeps | apply foldl_keeps | intro _ _ _ _ _ | intro _ _ _ | intro _ _ | split
    | apply ite_keeps

theorem pacerFuncReset_keeps : ∀ s, Keeps s₀ s → Keeps s₀ (pacerFuncReset s) := by
  intro s h; unfold pacerFuncReset
  repeat' with_reducible first
    | assumption | refine of_snd (by assumption) ?_ | apply pacerSettle_keeps | apply modPacer_keeps | apply revokeSome_keeps

theorem jobRelease_keeps : ∀ a0 s, Keeps s₀ s → Keeps s₀ (jobRelease a0 s) := by
  intro a0 s h; unfold jobRelease
  repeat' with_reducible first
    | assumption | refine of_snd (by assumption) ?_ | apply modJob_keeps | apply foldl_keeps | intro _ _ _ _ _ | intro _ _ _
    | intro _ _ | split

theorem jobReady_keeps : ∀ a0 s, Keeps s₀ s → Keeps s₀ (jobReady a0 s) := by
  intro a0 s h; unfold jobReady
  repeat' with_reducible first
    | assumption | refine of_snd (by assumption) ?_ | apply modJob_keeps | apply foldl_keeps | intro _ _ _ _ _ | intro _ _ _
    | intro _ _ | split

theorem framesReady_keeps : ∀ s, Keeps s₀ s → Keeps s₀ (framesReady s) := by
  intro s h; unfold framesReady
  repeat' with_reducible first
    | assumption | refine of_snd (by assumption) ?_ | apply jobReady_keeps | apply foldl_keeps | intro _ _ _ _ _ | intro _ _ _

theorem deadlinePass_keeps : ∀ a0 s, Keeps s₀ s → Keeps s₀ (deadlinePass a0 s) := by
  intro a0 s h; unfold deadlinePass
  repeat' with_reducible first
    | assumption | refine of_snd (by assumption) ?_ | apply pacerSettle_keeps | apply modJob_keeps | apply foldl_keeps
    | intro _ _ _ _ _ | intro _ _ _ | intro _ _ | split

theorem overrun_keeps : ∀ a0 s, Keeps s₀ s → Keeps s₀ (overrun a0 s) := by
  intro a0 s h; unfold overrun
  repeat' with_reducible first
    | assumption | refine of_snd (by assumption) ?_ | apply pacerSettle_keeps | apply jobStop_keeps | apply foldl_keeps
    | intro _ _ _ _ _ | intro _ _ _ | intro _ _ | split

theorem modQueue_keeps : ∀ a0 a1 s, Keeps s₀ s → Keeps s₀ (modQueue a0 a1 s) := by
  intro a0 a1 s h; unfold modQueue
  repeat' with_reducible first | assumption | refine of_snd (by assumption) ?_ | apply modPcie_keeps

theorem queueReset_keeps : ∀ a0 s, Keeps s₀ s → Keeps s₀ (queueReset a0 s) := by
  intro a0 s h; unfold queueReset
  repeat' with_reducible first | assumption | refine of_snd (by assumption) ?_ | apply modPcie_keeps | apply modQueue_keeps

theorem qCtrlWrite_keeps : ∀ a0 a1 a2 s, Keeps s₀ s → Keeps s₀ (qCtrlWrite a0 a1 a2 s) := by
  intro a0 a1 a2 s h; unfold qCtrlWrite
  repeat' with_reducible first
    | assumption | refine of_snd (by assumption) ?_ | apply regErr_keeps | apply modQueue_keeps | apply setReg_keeps
    | apply foldl_keeps | intro _ _ _ _ _ | intro _ _ _ | intro _ _ | split | apply ite_keeps

theorem doorbell_keeps : ∀ a0 a1 a2 a3 a4 s, Keeps s₀ s → Keeps s₀ (doorbell a0 a1 a2 a3 a4 s) := by
  intro a0 a1 a2 a3 a4 s h; unfold doorbell
  repeat' with_reducible first
    | assumption | refine of_snd (by assumption) ?_ | apply raise_keeps | apply regErr_keeps | apply modQueue_keeps
    | apply foldl_keeps | intro _ _ _ _ _ | intro _ _ _ | intro _ _ | split

theorem sqDoorbell_keeps : ∀ a0 a1 a2 s, Keeps s₀ s → Keeps s₀ (sqDoorbell a0 a1 a2 s) := by
  intro a0 a1 a2 s h; unfold sqDoorbell
  repeat' with_reducible first | assumption | refine of_snd (by assumption) ?_ | apply doorbell_keeps

theorem cqDoorbell_keeps : ∀ a0 a1 a2 s, Keeps s₀ s → Keeps s₀ (cqDoorbell a0 a1 a2 s) := by
  intro a0 a1 a2 s h; unfold cqDoorbell
  repeat' with_reducible first | assumption | refine of_snd (by assumption) ?_ | apply doorbell_keeps

theorem sqRead_keeps : ∀ a0 a1 s, Keeps s₀ s → Keeps s₀ (sqRead a0 a1 s).2 := by
  intro a0 a1 s h; unfold sqRead
  repeat' with_reducible first
    | assumption | apply okKeeps_ok | exact okKeeps_error | refine of_snd (by assumption) ?_ | apply send_keeps
    | apply devFails_keeps | apply devAnswer_keeps | apply foldl_keeps | apply foldl_snd_keeps | intro _ _ _ _ _
    | intro _ _ _ | intro _ _ | split | apply ite_keeps | dsimp only

theorem sqFetch_keeps : ∀ a0 a1 s, Keeps s₀ s → Keeps s₀ (sqFetch a0 a1 s) := by
  intro a0 a1 s h; unfold sqFetch
  repeat' with_reducible first
    | assumption | refine of_snd (by assumption) ?_ | apply sqRead_keeps | apply modQueue_keeps | apply modPcie_keeps
    | apply foldl_keeps | apply foldl_snd_keeps | intro _ _ _ _ _ | intro _ _ _ | intro _ _ | split | apply ite_keeps
    | dsimp only

theorem addJob_keeps : ∀ a0 s, Keeps s₀ s → Keeps s₀ (addJob a0 s) := by
  intro a0 s h; unfold addJob
  repeat' with_reducible first | assumption | refine of_snd (by assumption) ?_ | apply modPacer_keeps

theorem rejectJob_keeps : ∀ a0 a1 a2 a3 s, Keeps s₀ s → Keeps s₀ (rejectJob a0 a1 a2 a3 s) := by
  intro a0 a1 a2 a3 s h; unfold rejectJob
  repeat' with_reducible first | assumption | refine of_snd (by assumption) ?_ | apply addJob_keeps

theorem acceptJob_keeps : ∀ a0 a1 a2 a3 a4 s, Keeps s₀ s → Keeps s₀ (acceptJob a0 a1 a2 a3 a4 s) := by
  intro a0 a1 a2 a3 a4 s h; unfold acceptJob
  repeat' with_reducible first
    | assumption | refine of_snd (by assumption) ?_ | apply addJob_keeps | apply modEnt_keeps | apply setRelease_keeps
    | apply modJob_keeps | apply endJob_keeps | apply foldl_keeps | intro _ _ _ _ _ | intro _ _ _ | intro _ _ | split
    | apply ite_keeps

theorem listRead_keeps : ∀ a0 a1 a2 a3 s, Keeps s₀ s → Keeps s₀ (listRead a0 a1 a2 a3 s).2 := by
  intro a0 a1 a2 a3 s h; unfold listRead
  repeat' with_reducible first
    | assumption | apply okKeeps_ok | exact okKeeps_error | refine of_snd (by assumption) ?_ | apply countRefusal_keeps
    | apply hostReadSent_keeps | apply devAnswer_keeps | apply foldl_keeps | apply foldl_snd_keeps | intro _ _ _ _ _
    | intro _ _ _ | intro _ _ | split | apply ite_keeps | dsimp only

theorem listsRead_keeps : ∀ a0 a1 a2 a3 s, Keeps s₀ s → Keeps s₀ (listsRead a0 a1 a2 a3 s).2 := by
  intro a0 a1 a2 a3 s h; unfold listsRead
  repeat' with_reducible first
    | assumption | refine of_snd (by assumption) ?_ | apply listRead_keeps | apply foldl_keeps | apply foldl_snd_keeps
    | intro _ _ _ _ _ | intro _ _ _ | intro _ _ | split | apply ite_keeps | dsimp only

theorem jobEntry_keeps : ∀ a0 s, Keeps s₀ s → Keeps s₀ (jobEntry a0 s) := by
  intro a0 s h; unfold jobEntry
  repeat' with_reducible first
    | assumption | apply okKeeps_ok | exact okKeeps_error | refine of_snd (by assumption) ?_ | apply modPcie_keeps
    | apply listsRead_keeps | apply rejectJob_keeps | apply acceptJob_keeps | apply foldl_keeps | apply foldl_snd_keeps
    | intro _ _ _ _ _ | intro _ _ _ | intro _ _ | split | apply ite_keeps | dsimp only

theorem abortEntry_keeps : ∀ s, Keeps s₀ s → Keeps s₀ (abortEntry s) := by
  intro s h; unfold abortEntry
  repeat' with_reducible first
    | assumption | refine of_snd (by assumption) ?_ | apply modPcie_keeps | apply countWrap_keeps | apply pacerSettle_keeps
    | apply jobSettle_keeps | apply modJob_keeps | apply foldl_keeps | intro _ _ _ _ _ | intro _ _ _ | intro _ _ | split
    | apply ite_keeps

theorem queueSignal_keeps : ∀ a0 s, Keeps s₀ s → Keeps s₀ (queueSignal a0 s) := by
  intro a0 s h; unfold queueSignal
  repeat' with_reducible first
    | assumption | refine of_snd (by assumption) ?_ | apply modQueue_keeps | apply msixRaise_keeps | apply raise_keeps
    | apply foldl_keeps | intro _ _ _ _ _ | intro _ _ _ | intro _ _ | split

theorem queueEval_keeps : ∀ a0 s, Keeps s₀ s → Keeps s₀ (queueEval a0 s) := by
  intro a0 s h; unfold queueEval
  repeat' with_reducible first
    | assumption | refine of_snd (by assumption) ?_ | apply queueSignal_keeps | apply foldl_keeps | intro _ _ _ _ _
    | intro _ _ _ | intro _ _ | split | apply ite_keeps

theorem queueCount_keeps : ∀ a0 a1 s, Keeps s₀ s → Keeps s₀ (queueCount a0 a1 s) := by
  intro a0 a1 s h; unfold queueCount
  repeat' with_reducible first
    | assumption | refine of_snd (by assumption) ?_ | apply queueEval_keeps | apply modQueue_keeps | apply foldl_keeps
    | intro _ _ _ _ _ | intro _ _ _ | intro _ _ | split

theorem hostqPut_keeps : ∀ a0 a1 s, Keeps s₀ s → Keeps s₀ (hostqPut a0 a1 s) := by
  intro a0 a1 s h; unfold hostqPut
  repeat' with_reducible first
    | assumption | refine of_snd (by assumption) ?_ | apply devWrite_keeps | apply devFails_keeps | apply foldl_keeps
    | apply foldl_snd_keeps | intro _ _ _ _ _ | intro _ _ _ | intro _ _ | split | apply ite_keeps | dsimp only

theorem cqWrite_keeps : ∀ a0 a1 s, Keeps s₀ s → Keeps s₀ (cqWrite a0 a1 s) := by
  intro a0 a1 s h; unfold cqWrite
  repeat' with_reducible first
    | assumption | refine of_snd (by assumption) ?_ | apply hostPut_keeps | apply send_keeps | apply hostqPut_keeps
    | apply modQueue_keeps | apply queueCount_keeps | apply foldl_keeps | intro _ _ _ _ _ | intro _ _ _ | intro _ _ | split

theorem completionHandoff_keeps : ∀ a0 s, Keeps s₀ s → Keeps s₀ (completionHandoff a0 s) := by
  intro a0 s h; unfold completionHandoff
  repeat' with_reducible first
    | assumption | refine of_snd (by assumption) ?_ | apply modPacer_keeps | apply raise_keeps | apply countWrap_keeps
    | apply cqWrite_keeps | apply foldl_keeps | intro _ _ _ _ _ | intro _ _ _ | intro _ _ | split | apply ite_keeps

theorem irqAggTimeout_keeps : ∀ a0 s, Keeps s₀ s → Keeps s₀ (irqAggTimeout a0 s) := by
  intro a0 s h; unfold irqAggTimeout
  repeat' with_reducible first
    | assumption | refine of_snd (by assumption) ?_ | apply queueSignal_keeps | apply foldl_keeps | intro _ _ _ _ _
    | intro _ _ _ | intro _ _ | split | apply ite_keeps

theorem msixFlush_keeps : ∀ a0 s, Keeps s₀ s → Keeps s₀ (msixFlush a0 s) := by
  intro a0 s h; unfold msixFlush
  repeat' with_reducible first
    | assumption | refine of_snd (by assumption) ?_ | apply msixRaise_keeps | apply modPcie_keeps | apply foldl_keeps
    | intro _ _ _ _ _ | intro _ _ _ | intro _ _ | split | apply ite_keeps

theorem msixTableWrite_keeps : ∀ a0 a1 a2 s, Keeps s₀ s → Keeps s₀ (msixTableWrite a0 a1 a2 s) := by
  intro a0 a1 a2 s h; unfold msixTableWrite
  repeat' with_reducible first | assumption | refine of_snd (by assumption) ?_ | apply msixFlush_keeps | apply modPcie_keeps

theorem msixReset_keeps : ∀ a0 s, Keeps s₀ s → Keeps s₀ (msixReset a0 s) := by
  intro a0 s h; unfold msixReset
  repeat' with_reducible first
    | assumption | refine of_snd (by assumption) ?_ | apply modPcie_keeps | apply modFn_keeps | apply setReg_keeps

theorem fnReset_keeps : ∀ a0 s, Keeps s₀ s → Keeps s₀ (fnReset a0 s) := by
  intro a0 s h; unfold fnReset
  repeat' with_reducible first
    | assumption | refine of_snd (by assumption) ?_ | apply queueReset_keeps | apply revokeSome_keeps | apply chanStop_keeps
    | apply pacerSettle_keeps | apply challengeDrop_keeps | apply modFn_keeps | apply msixReset_keeps | apply foldl_keeps
    | apply foldl_snd_keeps | intro _ _ _ _ _ | intro _ _ _ | intro _ _ | split | apply ite_keeps | dsimp only

theorem adoptClasses_keeps : ∀ s, Keeps s₀ s → Keeps s₀ (adoptClasses s) := by
  intro s h; unfold adoptClasses
  repeat' with_reducible first | assumption | refine of_snd (by assumption) ?_ | apply modPacer_keeps

theorem linkFunctions_keeps : ∀ s, Keeps s₀ s → Keeps s₀ (linkFunctions s) := by
  intro s h; unfold linkFunctions
  repeat' with_reducible first
    | assumption | refine of_snd (by assumption) ?_ | apply modQueue_keeps | apply queueReset_keeps | apply msixReset_keeps
    | apply adoptClasses_keeps | apply foldl_keeps | intro _ _ _ _ _ | intro _ _ _ | intro _ _ | split | apply ite_keeps

theorem linkLoss_keeps : ∀ s, Keeps s₀ s → Keeps s₀ (linkLoss s) := by
  intro s h; unfold linkLoss
  repeat' with_reducible first
    | assumption | refine of_snd (by assumption) ?_ | apply linkFunctions_keeps | apply modPcie_keeps | apply raise_keeps
    | apply modReg_keeps | apply foldl_keeps | intro _ _ _ _ _ | intro _ _ _ | intro _ _ | split | apply ite_keeps

theorem linkTrain_keeps : ∀ s, Keeps s₀ s → Keeps s₀ (linkTrain s) := by
  intro s h; unfold linkTrain
  repeat' with_reducible first
    | assumption | refine of_snd (by assumption) ?_ | apply modPcie_keeps | apply foldl_keeps | intro _ _ _ _ _ | intro _ _ _
    | intro _ _ | split

theorem linkUp_keeps : ∀ a0 a1 s, Keeps s₀ s → Keeps s₀ (linkUp a0 a1 s) := by
  intro a0 a1 s h; unfold linkUp
  repeat' with_reducible first
    | assumption | refine of_snd (by assumption) ?_ | apply raise_keeps | apply modPcie_keeps | apply foldl_keeps
    | intro _ _ _ _ _ | intro _ _ _ | intro _ _ | split

theorem vfEnable_keeps : ∀ a0 a1 s, Keeps s₀ s → Keeps s₀ (vfEnable a0 a1 s) := by
  intro a0 a1 s h; unfold vfEnable
  repeat' with_reducible first
    | assumption | refine of_snd (by assumption) ?_ | apply modPcie_keeps | apply modFn_keeps | apply foldl_keeps
    | intro _ _ _ _ _ | intro _ _ _ | intro _ _ | split

theorem configRequest_keeps : ∀ a0 s, Keeps s₀ s → Keeps s₀ (configRequest a0 s) := by
  intro a0 s h; unfold configRequest
  repeat' with_reducible first
    | assumption | refine of_snd (by assumption) ?_ | apply vfEnable_keeps | apply msixFlush_keeps | apply modFn_keeps
    | apply modPcie_keeps | apply send_keeps | apply foldl_keeps | apply foldl_snd_keeps | intro _ _ _ _ _ | intro _ _ _
    | intro _ _ | split | apply ite_keeps | dsimp only

theorem timeDiscipline_keeps : ∀ a0 s, Keeps s₀ s → Keeps s₀ (timeDiscipline a0 s) := by
  intro a0 s h; unfold timeDiscipline
  repeat' with_reducible first
    | assumption | refine of_snd (by assumption) ?_ | apply modTime_keeps | apply raise_keeps | apply setReg_keeps
    | apply foldl_keeps | apply foldl_snd_keeps | intro _ _ _ _ _ | intro _ _ _ | intro _ _ | split | apply ite_keeps
    | dsimp only

theorem ptmDialogue_keeps : ∀ a0 a1 a2 s, Keeps s₀ s → Keeps s₀ (ptmDialogue a0 a1 a2 s) := by
  intro a0 a1 a2 s h; unfold ptmDialogue
  repeat' with_reducible first
    | assumption | refine of_snd (by assumption) ?_ | apply modReg_keeps | apply modPcie_keeps | apply setReg_keeps
    | apply setPair_keeps | apply raise_keeps | apply timeDiscipline_keeps | apply foldl_keeps | intro _ _ _ _ _ | intro _ _ _
    | intro _ _ | split

theorem classGive_keeps : ∀ a0 a1 s, Keeps s₀ s → Keeps s₀ (classGive a0 a1 s) := by
  intro a0 a1 s h; unfold classGive
  repeat' with_reducible first
    | assumption | refine of_snd (by assumption) ?_ | apply regErr_keeps | apply modClass_keeps | apply foldl_keeps
    | intro _ _ _ _ _ | intro _ _ _ | intro _ _ | split | apply ite_keeps

theorem modPeer_keeps : ∀ a0 a1 s, Keeps s₀ s → Keeps s₀ (modPeer a0 a1 s) := by
  intro a0 a1 s h; unfold modPeer
  repeat' with_reducible first | assumption | refine of_snd (by assumption) ?_ | apply modHerd_keeps

theorem becomeBell_keeps : ∀ s, Keeps s₀ s → Keeps s₀ (becomeBell s) := by
  intro s h; unfold becomeBell
  repeat' with_reducible first | assumption | refine of_snd (by assumption) ?_ | apply raise_keeps | apply modHerd_keeps

theorem herdEnable_keeps : ∀ s, Keeps s₀ s → Keeps s₀ (herdEnable s) := by
  intro s h; unfold herdEnable
  repeat' with_reducible first
    | assumption | refine of_snd (by assumption) ?_ | apply modHerd_keeps | apply foldl_keeps | intro _ _ _ _ _ | intro _ _ _
    | intro _ _ | split

theorem herdDisable_keeps : ∀ s, Keeps s₀ s → Keeps s₀ (herdDisable s) := by
  intro s h; unfold herdDisable
  repeat' with_reducible first | assumption | refine of_snd (by assumption) ?_ | apply modHerd_keeps

theorem bellCommit_keeps : ∀ s, Keeps s₀ s → Keeps s₀ (bellCommit s) := by
  intro s h; unfold bellCommit
  repeat' with_reducible first
    | assumption | refine of_snd (by assumption) ?_ | apply becomeBell_keeps | apply raise_keeps | apply modHerd_keeps
    | apply foldl_keeps | intro _ _ _ _ _ | intro _ _ _ | intro _ _ | split | apply ite_keeps

theorem refuse_keeps : ∀ a0 s, Keeps s₀ s → Keeps s₀ (refuse a0 s) := by
  intro a0 s h; unfold refuse
  repeat' with_reducible first | assumption | refine of_snd (by assumption) ?_ | apply setReg_keeps | apply devPut_keeps

theorem beRefused_keeps : ∀ a0 s, Keeps s₀ s → Keeps s₀ (beRefused a0 s) := by
  intro a0 s h; unfold beRefused
  repeat' with_reducible first
    | assumption | refine of_snd (by assumption) ?_ | apply raise_keeps | apply modHerd_keeps | apply foldl_keeps
    | intro _ _ _ _ _ | intro _ _ _ | intro _ _ | split

theorem herdUnlock_keeps : ∀ s, Keeps s₀ s → Keeps s₀ (herdUnlock s) := by
  intro s h; unfold herdUnlock
  repeat' with_reducible first
    | assumption | refine of_snd (by assumption) ?_ | apply raise_keeps | apply modHerd_keeps | apply modTrust_keeps
    | apply foldl_keeps | intro _ _ _ _ _ | intro _ _ _ | intro _ _ | split | apply ite_keeps

theorem herdOffset_keeps : ∀ a0 s, Keeps s₀ s → Keeps s₀ (herdOffset a0 s) := by
  intro a0 s h; unfold herdOffset
  repeat' with_reducible first
    | assumption | refine of_snd (by assumption) ?_ | apply draw_keeps | apply modHerd_keeps | apply herdUnlock_keeps
    | apply foldl_keeps | intro _ _ _ _ _ | intro _ _ _ | intro _ _ | split | apply ite_keeps

theorem recordTake_keeps : ∀ a0 a1 a2 s, Keeps s₀ s → Keeps s₀ (recordTake a0 a1 a2 s) := by
  intro a0 a1 a2 s h; unfold recordTake
  repeat' with_reducible first
    | assumption | refine of_snd (by assumption) ?_ | apply modPeer_keeps | apply raise_keeps | apply modHerd_keeps
    | apply herdOffset_keeps | apply foldl_keeps | apply foldl_snd_keeps | intro _ _ _ _ _ | intro _ _ _ | intro _ _ | split
    | apply ite_keeps | dsimp only

theorem recordStore_keeps : ∀ a0 a1 a2 s, Keeps s₀ s → Keeps s₀ (recordStore a0 a1 a2 s) := by
  intro a0 a1 a2 s h; unfold recordStore
  repeat' with_reducible first
    | assumption | refine of_snd (by assumption) ?_ | apply modPeer_keeps | apply refuse_keeps | apply devPut_keeps
    | apply recordErr_keeps | apply recordTake_keeps | apply foldl_keeps | apply foldl_snd_keeps | intro _ _ _ _ _
    | intro _ _ _ | intro _ _ | split | apply ite_keeps | dsimp only

theorem electBell_keeps : ∀ s, Keeps s₀ s → Keeps s₀ (electBell s) := by
  intro s h; unfold electBell
  repeat' with_reducible first
    | assumption | refine of_snd (by assumption) ?_ | apply becomeBell_keeps | apply foldl_keeps | intro _ _ _ _ _ | intro _ _ _
    | intro _ _ | split | apply ite_keeps

theorem peerMiss_keeps : ∀ a0 s, Keeps s₀ s → Keeps s₀ (peerMiss a0 s) := by
  intro a0 s h; unfold peerMiss
  repeat' with_reducible first
    | assumption | refine of_snd (by assumption) ?_ | apply modPeer_keeps | apply raise_keeps | apply electBell_keeps
    | apply herdUnlock_keeps | apply foldl_keeps | intro _ _ _ _ _ | intro _ _ _ | intro _ _ | split

theorem rxAdvance_keeps : ∀ a0 s, Keeps s₀ s → Keeps s₀ (rxAdvance a0 s) := by
  intro a0 s h; unfold rxAdvance
  repeat' with_reducible first
    | assumption | refine of_snd (by assumption) ?_ | apply modPeer_keeps | apply raise_keeps | apply foldl_keeps
    | intro _ _ _ _ _ | intro _ _ _ | intro _ _ | split | apply ite_keeps

theorem messageStore_keeps : ∀ a0 a1 a2 a3 a4 s, Keeps s₀ s → Keeps s₀ (messageStore a0 a1 a2 a3 a4 s) := by
  intro a0 a1 a2 a3 a4 s h; unfold messageStore
  repeat' with_reducible first
    | assumption | refine of_snd (by assumption) ?_ | apply modPeer_keeps | apply devPut_keeps | apply rxAdvance_keeps
    | apply foldl_keeps | intro _ _ _ _ _ | intro _ _ _ | intro _ _ | split | apply ite_keeps

theorem gapTimeout_keeps : ∀ a0 s, Keeps s₀ s → Keeps s₀ (gapTimeout a0 s) := by
  intro a0 s h; unfold gapTimeout
  repeat' with_reducible first
    | assumption | refine of_snd (by assumption) ?_ | apply rxAdvance_keeps | apply modPeer_keeps | apply foldl_keeps
    | intro _ _ _ _ _ | intro _ _ _ | intro _ _ | split | apply ite_keeps | dsimp only

theorem deliver_keeps : ∀ a0 s, Keeps s₀ s → Keeps s₀ (deliver a0 s) := by
  intro a0 s h; unfold deliver
  repeat' with_reducible first
    | assumption | refine of_snd (by assumption) ?_ | apply ethReceive_keeps | apply messageStore_keeps
    | apply recordStore_keeps | apply send_keeps | apply packetLand_keeps | apply foldl_keeps | apply foldl_snd_keeps
    | intro _ _ _ _ _ | intro _ _ _ | intro _ _ | split | apply ite_keeps | dsimp only

theorem ethArrive_keeps : ∀ a0 a1 s, Keeps s₀ s → Keeps s₀ (ethArrive a0 a1 s) := by
  intro a0 a1 s h; unfold ethArrive
  repeat' with_reducible first
    | assumption | refine of_snd (by assumption) ?_ | apply lfiPass_keeps | apply deliver_keeps | apply ethReceive_keeps
    | apply foldl_keeps | apply foldl_snd_keeps | intro _ _ _ _ _ | intro _ _ _ | intro _ _ | split | apply ite_keeps
    | dsimp only

theorem messageArrive_keeps : ∀ a0 a1 a2 a3 a4 s, Keeps s₀ s → Keeps s₀ (messageArrive a0 a1 a2 a3 a4 s) := by
  intro a0 a1 a2 a3 a4 s h; unfold messageArrive
  repeat' with_reducible first | assumption | refine of_snd (by assumption) ?_ | apply lfiPass_keeps | apply deliver_keeps

theorem recordArrive_keeps : ∀ a0 a1 s, Keeps s₀ s → Keeps s₀ (recordArrive a0 a1 s) := by
  intro a0 a1 s h; unfold recordArrive
  repeat' with_reducible first
    | assumption | refine of_snd (by assumption) ?_ | apply lfiPass_keeps | apply deliver_keeps | apply foldl_keeps
    | apply foldl_snd_keeps | intro _ _ _ _ _ | intro _ _ _ | intro _ _ | split | apply ite_keeps | dsimp only

theorem peerSend_keeps : ∀ a0 a1 a2 s, Keeps s₀ s → Keeps s₀ (peerSend a0 a1 a2 s) := by
  intro a0 a1 a2 s h; unfold peerSend
  repeat' with_reducible first | assumption | refine of_snd (by assumption) ?_ | apply lfiPass_keeps | apply deliver_keeps

theorem recordsSend_keeps : ∀ s, Keeps s₀ s → Keeps s₀ (recordsSend s) := by
  intro s h; unfold recordsSend
  repeat' with_reducible first
    | assumption | refine of_snd (by assumption) ?_ | apply modPeer_keeps | apply peerSend_keeps | apply foldl_keeps
    | intro _ _ _ _ _ | intro _ _ _ | intro _ _ | split

theorem refusalRead_keeps : ∀ s, Keeps s₀ s → Keeps s₀ (refusalRead s) := by
  intro s h; unfold refusalRead
  repeat' with_reducible first
    | assumption | refine of_snd (by assumption) ?_ | apply send_keeps | apply foldl_keeps | intro _ _ _ _ _ | intro _ _ _
    | intro _ _ | split | apply ite_keeps

theorem mbxSend_keeps : ∀ a0 a1 s, Keeps s₀ s → Keeps s₀ (mbxSend a0 a1 s) := by
  intro a0 a1 s h; unfold mbxSend
  repeat' with_reducible first
    | assumption | refine of_snd (by assumption) ?_ | apply modHerd_keeps | apply modPeer_keeps | apply peerSend_keeps
    | apply foldl_keeps | intro _ _ _ _ _ | intro _ _ _ | intro _ _ | split | apply ite_keeps

theorem rxDoneWrite_keeps : ∀ a0 a1 s, Keeps s₀ s → Keeps s₀ (rxDoneWrite a0 a1 s) := by
  intro a0 a1 s h; unfold rxDoneWrite
  repeat' with_reducible first
    | assumption | refine of_snd (by assumption) ?_ | apply modPeer_keeps | apply send_keeps | apply foldl_keeps
    | intro _ _ _ _ _ | intro _ _ _ | intro _ _ | split | apply ite_keeps

theorem peerRegWrite_keeps : ∀ a0 a1 a2 a3 a4 s, Keeps s₀ s → Keeps s₀ (peerRegWrite a0 a1 a2 a3 a4 s) := by
  intro a0 a1 a2 a3 a4 s h; unfold peerRegWrite
  repeat' with_reducible first
    | assumption | refine of_snd (by assumption) ?_ | apply regErr_keeps | apply modPeer_keeps | apply setReg_keeps
    | apply foldl_keeps | intro _ _ _ _ _ | intro _ _ _ | intro _ _ | split

theorem modCsi_keeps : ∀ a0 a1 s, Keeps s₀ s → Keeps s₀ (modCsi a0 a1 s) := by
  intro a0 a1 s h; unfold modCsi
  repeat' with_reducible first | assumption | refine of_snd (by assumption) ?_ | apply modMedia_keeps

theorem csiErr_keeps : ∀ a0 a1 s, Keeps s₀ s → Keeps s₀ (csiErr a0 a1 s) := by
  intro a0 a1 s h; unfold csiErr
  repeat' with_reducible first | assumption | refine of_snd (by assumption) ?_ | apply raise_keeps | apply setReg_keeps

theorem csiPacket_keeps : ∀ a0 a1 s, Keeps s₀ s → Keeps s₀ (csiPacket a0 a1 s) := by
  intro a0 a1 s h; unfold csiPacket
  repeat' with_reducible first
    | assumption | refine of_snd (by assumption) ?_ | apply csiErr_keeps | apply raise_keeps | apply modCsi_keeps
    | apply foldl_keeps | intro _ _ _ _ _ | intro _ _ _ | intro _ _ | split | apply ite_keeps

theorem csiFrameEnd_keeps : ∀ a0 s, Keeps s₀ s → Keeps s₀ (csiFrameEnd a0 s) := by
  intro a0 s h; unfold csiFrameEnd
  repeat' with_reducible first
    | assumption | refine of_snd (by assumption) ?_ | apply raise_keeps | apply modReg_keeps | apply modCsi_keeps
    | apply csiErr_keeps | apply foldl_keeps | intro _ _ _ _ _ | intro _ _ _ | intro _ _ | split | apply ite_keeps

theorem outputTaken_keeps : ∀ a0 a1 s, Keeps s₀ s → Keeps s₀ (outputTaken a0 a1 s) := by
  intro a0 a1 s h; unfold outputTaken
  repeat' with_reducible first | assumption | refine of_snd (by assumption) ?_ | apply modCsi_keeps

theorem frameWritten_keeps : ∀ a0 a1 s, Keeps s₀ s → Keeps s₀ (frameWritten a0 a1 s) := by
  intro a0 a1 s h; unfold frameWritten
  repeat' with_reducible first
    | assumption | refine of_snd (by assumption) ?_ | apply raise_keeps | apply countWrap_keeps | apply outputTaken_keeps
    | apply devPut_keeps | apply modReg_keeps | apply setReg_keeps | apply frameRecord_keeps | apply foldl_keeps
    | intro _ _ _ _ _ | intro _ _ _ | intro _ _ | split | apply ite_keeps | dsimp only

theorem pfeCommit_keeps : ∀ a0 a1 a2 s, Keeps s₀ s → Keeps s₀ (pfeCommit a0 a1 a2 s) := by
  intro a0 a1 a2 s h; unfold pfeCommit
  repeat' with_reducible first
    | assumption | refine of_snd (by assumption) ?_ | apply modBus_keeps | apply recordErr_keeps | apply foldl_keeps
    | intro _ _ _ _ _ | intro _ _ _ | intro _ _ | split | apply ite_keeps

theorem pinReset_keeps : ∀ a0 a1 s, Keeps s₀ s → Keeps s₀ (pinReset a0 a1 s) := by
  intro a0 a1 s h; unfold pinReset
  repeat' with_reducible first
    | assumption | refine of_snd (by assumption) ?_ | apply draw_keeps | apply modPins_keeps | apply foldl_keeps
    | apply foldl_snd_keeps | intro _ _ _ _ _ | intro _ _ _ | intro _ _ | split | apply ite_keeps | dsimp only

theorem pinsReset_keeps : ∀ a0 a1 s, Keeps s₀ s → Keeps s₀ (pinsReset a0 a1 s) := by
  intro a0 a1 s h; unfold pinsReset
  repeat' with_reducible first
    | assumption | refine of_snd (by assumption) ?_ | apply pinReset_keeps | apply foldl_keeps | intro _ _ _ _ _ | intro _ _ _

theorem ctlioReset_keeps : ∀ s, Keeps s₀ s → Keeps s₀ (ctlioReset s) := by
  intro s h; unfold ctlioReset
  repeat' with_reducible first | assumption | refine of_snd (by assumption) ?_ | apply pinsReset_keeps | apply modCtl_keeps

theorem coreBlockReset_keeps : ∀ a0 s, Keeps s₀ s → Keeps s₀ (coreBlockReset a0 s) := by
  intro a0 s h; unfold coreBlockReset
  repeat' with_reducible first
    | assumption | refine of_snd (by assumption) ?_ | apply pacerSettle_keeps | apply coreReset_keeps | apply stepDiscard_keeps

theorem blockState_keeps : ∀ a0 s, Keeps s₀ s → Keeps s₀ (blockState a0 s) := by
  intro a0 s h; unfold blockState
  repeat' with_reducible first
    | assumption | refine of_snd (by assumption) ?_ | apply dmaReset_keeps | apply queueReset_keeps | apply modPcie_keeps
    | apply linkLoss_keeps | apply modHerd_keeps | apply modMedia_keeps | apply quarantine_keeps | apply ctlioReset_keeps
    | apply semReset_keeps | apply lfiClear_keeps | apply lfiLetGo_keeps | apply deliver_keeps
    | refine modMem_keeps ?_ fun m hm => Mem.wf_same hm rfl rfl rfl rfl rfl | apply foldl_keeps | apply foldl_snd_keeps
    | intro _ _ _ _ _ | intro _ _ _ | intro _ _ | split | apply ite_keeps | dsimp only

theorem blockReset_keeps : ∀ a0 a1 s, Keeps s₀ s → Keeps s₀ (blockReset a0 a1 s) := by
  intro a0 a1 s h; unfold blockReset
  repeat' with_reducible first
    | assumption | refine of_snd (by assumption) ?_ | apply pinsReset_keeps | apply coreBlockReset_keeps
    | apply pageClear_keeps | apply modProc_keeps | apply modTime_keeps | apply blockState_keeps | apply foldl_keeps
    | apply foldl_snd_keeps | intro _ _ _ _ _ | intro _ _ _ | intro _ _ | split | apply ite_keeps | dsimp only

theorem domLoses_keeps : ∀ a0 s, Keeps s₀ s → Keeps s₀ (domLoses a0 s) := by
  intro a0 s h; unfold domLoses
  repeat' with_reducible first
    | assumption | refine of_snd (by assumption) ?_ | apply coreOff_keeps | apply blockState_keeps | apply linkLoss_keeps
    | refine modMem_keeps ?_ fun m hm => Mem.wf_same hm rfl rfl rfl rfl rfl
    | refine modMem_keeps ?_ fun m hm => Mem.wf_lose _ hm
    | refine modMem_keeps ?_ fun m hm => Mem.wf_same (Mem.wf_lose _ hm) rfl rfl rfl rfl rfl | apply foldl_keeps
    | apply foldl_snd_keeps | intro _ _ _ _ _ | intro _ _ _ | intro _ _ | split | apply ite_keeps | dsimp only

theorem domEnter_keeps : ∀ a0 a1 s, Keeps s₀ s → Keeps s₀ (domEnter a0 a1 s) := by
  intro a0 a1 s h; unfold domEnter
  repeat' with_reducible first
    | assumption | refine of_snd (by assumption) ?_ | apply domLoses_keeps | apply challengeDrop_keeps
    | apply blockReset_keeps | apply modDom_keeps | apply modSlice_keeps | apply raise_keeps | apply fenceCore_keeps
    | refine modMem_keeps ?_ fun m hm => Mem.wf_same hm rfl rfl rfl rfl rfl | apply foldl_keeps | apply foldl_snd_keeps
    | intro _ _ _ _ _ | intro _ _ _ | intro _ _ | split | apply ite_keeps | dsimp only

theorem domReached_keeps : ∀ a0 s, Keeps s₀ s → Keeps s₀ (domReached a0 s) := by
  intro a0 s h; unfold domReached
  repeat' with_reducible first
    | assumption | refine of_snd (by assumption) ?_ | apply domEnter_keeps | apply foldl_keeps | intro _ _ _ _ _ | intro _ _ _
    | intro _ _ | split | apply ite_keeps

theorem sliceDrained_keeps : ∀ a0 s, Keeps s₀ s → Keeps s₀ (sliceDrained a0 s) := by
  intro a0 s h; unfold sliceDrained
  repeat' with_reducible first
    | assumption | refine of_snd (by assumption) ?_ | apply domEnter_keeps | apply foldl_keeps | intro _ _ _ _ _ | intro _ _ _
    | intro _ _ | split

theorem sliceTimeout_keeps : ∀ a0 s, Keeps s₀ s → Keeps s₀ (sliceTimeout a0 s) := by
  intro a0 s h; unfold sliceTimeout
  repeat' with_reducible first
    | assumption | refine of_snd (by assumption) ?_ | apply modSlice_keeps | apply modDom_keeps | apply raise_keeps
    | apply recordErr_keeps | apply foldl_keeps | intro _ _ _ _ _ | intro _ _ _ | intro _ _ | split

theorem domRequest_keeps : ∀ a0 a1 a2 s, Keeps s₀ s → Keeps s₀ (domRequest a0 a1 a2 s) := by
  intro a0 a1 a2 s h; unfold domRequest
  repeat' with_reducible first
    | assumption | refine of_snd (by assumption) ?_ | apply regErr_keeps | apply recordErr_keeps | apply modDom_keeps
    | apply modSlice_keeps | apply foldl_keeps | intro _ _ _ _ _ | intro _ _ _ | intro _ _ | split | apply ite_keeps

theorem railPoll_keeps : ∀ a0 s, Keeps s₀ s → Keeps s₀ (railPoll a0 s) := by
  intro a0 s h; unfold railPoll
  repeat' with_reducible first
    | assumption | refine of_snd (by assumption) ?_ | apply modPower_keeps | apply raise_keeps | apply railSettled_keeps
    | apply modPacer_keeps | apply foldl_keeps | intro _ _ _ _ _ | intro _ _ _ | intro _ _ | split | apply ite_keeps

theorem bootRail_keeps : ∀ s, Keeps s₀ s → Keeps s₀ (bootRail s) := by
  intro s h; unfold bootRail
  repeat' with_reducible first
    | assumption | refine of_snd (by assumption) ?_ | apply railWrite_keeps | apply foldl_keeps | intro _ _ _ _ _ | intro _ _ _
    | intro _ _ | split

theorem dripWrite_keeps : ∀ a0 a1 s, Keeps s₀ s → Keeps s₀ (dripWrite a0 a1 s) := by
  intro a0 a1 s h; unfold dripWrite
  repeat' with_reducible first
    | assumption | refine of_snd (by assumption) ?_ | apply regErr_keeps | apply modPower_keeps | apply foldl_keeps
    | intro _ _ _ _ _ | intro _ _ _ | intro _ _ | split

theorem i2cCtrlWrite_keeps : ∀ a0 a1 a2 s, Keeps s₀ s → Keeps s₀ (i2cCtrlWrite a0 a1 a2 s) := by
  intro a0 a1 a2 s h; unfold i2cCtrlWrite
  repeat' with_reducible first
    | assumption | refine of_snd (by assumption) ?_ | apply regErr_keeps | apply setReg_keeps | apply foldl_keeps
    | intro _ _ _ _ _ | intro _ _ _ | intro _ _ | split

theorem i2cCmdWrite_keeps : ∀ a0 a1 s, Keeps s₀ s → Keeps s₀ (i2cCmdWrite a0 a1 s) := by
  intro a0 a1 s h; unfold i2cCmdWrite
  repeat' with_reducible first
    | assumption | refine of_snd (by assumption) ?_ | apply setReg_keeps | apply send_keeps | apply modPower_keeps
    | apply foldl_keeps | intro _ _ _ _ _ | intro _ _ _ | intro _ _ | split | apply ite_keeps

theorem i2cDone_keeps : ∀ a0 a1 a2 s, Keeps s₀ s → Keeps s₀ (i2cDone a0 a1 a2 s) := by
  intro a0 a1 a2 s h; unfold i2cDone
  repeat' with_reducible first
    | assumption | refine of_snd (by assumption) ?_ | apply modPower_keeps | apply setPair_keeps | apply raise_keeps
    | apply foldl_keeps | intro _ _ _ _ _ | intro _ _ _ | intro _ _ | split

theorem mgmtReset_keeps : ∀ s, Keeps s₀ s → Keeps s₀ (mgmtReset s) := by
  intro s h; unfold mgmtReset
  repeat' with_reducible first
    | assumption | refine of_snd (by assumption) ?_ | apply modProc_keeps | apply pageClear_keeps | apply pinsReset_keeps
    | apply modTime_keeps | refine modMem_keeps ?_ fun m hm => Mem.wf_lose _ hm

theorem fabricReset_keeps : ∀ s, Keeps s₀ s → Keeps s₀ (fabricReset s) := by
  intro s h; unfold fabricReset
  repeat' with_reducible first
    | assumption | refine of_snd (by assumption) ?_ | apply coreOff_keeps | apply coreReset_keeps | apply modPacer_keeps
    | apply modDma_keeps | apply blockState_keeps | apply pageClear_keeps | apply bootRail_keeps | apply mgmtReset_keeps
    | apply modTrust_keeps | refine modMem_keeps ?_ fun m hm => Mem.wf_same hm rfl rfl rfl rfl rfl
    | refine modMem_keeps ?_ fun m hm => Mem.wf_lose _ hm
    | refine modMem_keeps ?_ fun m hm => Mem.wf_same (Mem.wf_lose _ hm) rfl rfl rfl rfl rfl | apply foldl_keeps
    | apply foldl_snd_keeps | intro _ _ _ _ _ | intro _ _ _ | intro _ _ | split | apply ite_keeps | dsimp only
    | refine keeps_mk (s := List.foldl _ _ _) ?_

theorem pd2Reset_keeps : ∀ s, Keeps s₀ s → Keeps s₀ (pd2Reset s) := by
  intro s h; unfold pd2Reset
  repeat' with_reducible first
    | assumption | refine of_snd (by assumption) ?_ | apply pageClear_keeps | apply setReg_keeps | apply modTrust_keeps
    | apply foldl_keeps | apply foldl_snd_keeps | intro _ _ _ _ _ | intro _ _ _ | intro _ _ | split | apply ite_keeps
    | dsimp only

theorem deviceReset_keeps : ∀ s, Keeps s₀ s → Keeps s₀ (deviceReset s) := by
  intro s h; unfold deviceReset
  repeat' with_reducible first
    | assumption | refine of_snd (by assumption) ?_ | apply pd2Reset_keeps | apply fabricReset_keeps | apply modPacer_keeps
    | apply linkLoss_keeps | apply modPcie_keeps | apply modHerd_keeps | apply modMedia_keeps | apply modPower_keeps
    | apply ctlioReset_keeps | apply pageClear_keeps | refine modMem_keeps ?_ fun m hm => Mem.wf_loseAll _ hm
    | apply foldl_keeps | intro _ _ _ _ _ | intro _ _ _

theorem carafeErase_keeps : ∀ a0 s, Keeps s₀ s → Keeps s₀ (carafeErase a0 s) := by
  intro a0 s h; unfold carafeErase
  repeat' with_reducible first
    | assumption | refine of_snd (by assumption) ?_ | apply modTrust_keeps
    | refine modMem_keeps ?_ fun m hm => Mem.wf_clear _ _ hm

theorem coldReset_keeps : ∀ s, Keeps s₀ s → Keeps s₀ (coldReset s) := by
  intro s h; unfold coldReset
  repeat' with_reducible first
    | assumption | refine of_snd (by assumption) ?_ | apply deviceReset_keeps | apply pageClear_keeps | apply modTrust_keeps
    | apply carafeErase_keeps | apply modPins_keeps | apply modPower_keeps | apply modTime_keeps | apply modReset_keeps
    | apply foldl_keeps | intro _ _ _ _ _ | intro _ _ _

theorem levelReset_keeps : ∀ a0 s, Keeps s₀ s → Keeps s₀ (levelReset a0 s) := by
  intro a0 s h; unfold levelReset
  repeat' with_reducible first
    | assumption | refine of_snd (by assumption) ?_ | apply coldReset_keeps | apply deviceReset_keeps | apply fabricReset_keeps
    | apply foldl_keeps | intro _ _ _ _ _ | intro _ _ _ | intro _ _ | split

theorem episodeEnter_keeps : ∀ a0 a1 s, Keeps s₀ s → Keeps s₀ (episodeEnter a0 a1 s) := by
  intro a0 a1 s h; unfold episodeEnter
  repeat' with_reducible first
    | assumption | refine of_snd (by assumption) ?_ | apply modReset_keeps | apply levelReset_keeps | apply foldl_keeps
    | apply foldl_snd_keeps | intro _ _ _ _ _ | intro _ _ _ | intro _ _ | split | apply ite_keeps | dsimp only

theorem episodeJoin_keeps : ∀ a0 s, Keeps s₀ s → Keeps s₀ (episodeJoin a0 s) := by
  intro a0 s h; unfold episodeJoin
  repeat' with_reducible first
    | assumption | refine of_snd (by assumption) ?_ | apply modReset_keeps | apply foldl_keeps | intro _ _ _ _ _ | intro _ _ _
    | intro _ _ | split

theorem svnCount_le (f : Fuses) : svnCount f ≤ 128 := by
  unfold svnCount
  cases h : (List.range 128).find? fun i => !bit f.svn i with
  | none => exact Nat.le_refl _
  | some i => exact Nat.le_of_lt (List.mem_range.1 (List.mem_of_find?_eq_some h))

/-- A code that counts at least as far as another holds its bits. -/
theorem svnCode_above {f : Fuses} {v : Nat} (ht : Thermometer f.svn) (hv : svnCount f ≤ v) : f.svn &&& svnCode v = f.svn := by
  obtain ⟨k, hk, e⟩ := ht
  have hkv : k ≤ v := by
    refine Nat.le_trans ?_ hv
    unfold svnCount
    cases h : (List.range 128).find? fun i => !bit f.svn i with
    | none => exact hk
    | some i =>
      have hb := List.find?_some h
      have hi := List.mem_range.1 (List.mem_of_find?_eq_some h)
      rw [e] at hb
      simp only [bit, mask_getLsbD _ _ hi, Bool.not_eq_true', decide_eq_false_iff_not, Nat.not_lt] at hb
      exact hb
  rw [e]
  apply BitVec.eq_of_getLsbD_eq
  intro i hi
  rw [BitVec.getLsbD_and, svnCode, mask_getLsbD _ _ hi, mask_getLsbD _ _ hi]
  by_cases h : i < k
  · simp [h, Nat.lt_of_lt_of_le h hkv]
  · simp [h]

theorem cutFuses_keeps : ∀ a0 a1 s, Keeps s₀ s → Keeps s₀ (cutFuses a0 a1 s).2 := by
  intro a0 a1 s h; unfold cutFuses
  repeat' with_reducible first
    | assumption | apply draw_keeps | apply foldl_snd_keeps | intro _ _ _ | dsimp only

/-- Fuses that a cut leaves (R403, R420, R423): a bit burnt before the command stays so. -/
theorem cut_bound {b old new : Fuses} (s : State) (h : OneWay b old ∧ Thermometer old.svn) (hn : OneWay b new) :
    OneWay b (cutFuses old new s).1 ∧ Thermometer (cutFuses old new s).1.svn := by
  obtain ⟨x1, x2, x3, x4, x5⟩ := h.1
  unfold cutFuses
  dsimp only
  refine ⟨⟨?_, and_eq_trans x2 (svnCode_above h.2 (Nat.le_add_right _ _)), and_eq_trans x3 (and_cutBits _ _ _),
    and_eq_trans x4 (and_cutBits _ _ _), x5⟩, _, ?_, rfl⟩
  · split
    · exact hn.lifecycle
    · exact x1
  · have h1 := svnCount_le old
    have h2 := svnCount_le new
    have h3 : (draw 8 s).1.toNat % (svnCount new - svnCount old + 1) < svnCount new - svnCount old + 1 := Nat.mod_lt _ (by omega)
    omega

theorem cutPulse_keeps : ∀ s, Keeps s₀ s → Keeps s₀ (cutPulse s) := by
  intro s h
  unfold cutPulse
  have h1 : Keeps s₀ (if s.trust.sstoreBusy then
      let (w, s) := draw 32 s
      memPut (sstoreBase + s.trust.sstoreAddr.toNat) (bytesOf 4 w.toNat) (modTrust (fun t => { t with sstoreBusy := false }) s)
    else s) := by
    split
    · exact memPut_keeps _ _ _ (modTrust_keeps _ _ (draw_keeps 32 _ h))
    · exact h
  revert h1
  generalize (if s.trust.sstoreBusy then
      let (w, s) := draw 32 s
      memPut (sstoreBase + s.trust.sstoreAddr.toNat) (bytesOf 4 w.toNat) (modTrust (fun t => { t with sstoreBusy := false }) s)
    else s) = u
  intro h1
  dsimp only
  split
  · next old e =>
    split
    · have h2 : Keeps s₀ (cutFuses old u.fuses u).2 := cutFuses_keeps old u.fuses u h1
      exact ⟨h2.queue, h2.mem, fun b w => ⟨cut_bound u ((h1.fuses b w).cut old e) (h1.fuses b w).fuses.1, nofun⟩⟩
    · exact h1
  · exact h1

theorem sourceEffect_keeps : ∀ a0 s, Keeps s₀ s → Keeps s₀ (sourceEffect a0 s) := by
  intro a0 s h; unfold sourceEffect
  repeat' with_reducible first
    | assumption | refine of_snd (by assumption) ?_ | apply challengeDrop_keeps | apply cutPulse_keeps | apply modReset_keeps
    | apply modTime_keeps | apply modPcie_keeps | apply linkLoss_keeps | apply episodeJoin_keeps | apply episodeEnter_keeps
    | apply foldl_keeps | intro _ _ _ _ _ | intro _ _ _ | intro _ _ | split | apply ite_keeps

theorem sourceAssert_keeps : ∀ a0 s, Keeps s₀ s → Keeps s₀ (sourceAssert a0 s) := by
  intro a0 s h; unfold sourceAssert
  repeat' with_reducible first
    | assumption | refine of_snd (by assumption) ?_ | apply raise_keeps | apply modReset_keeps | apply sourceEffect_keeps
    | apply foldl_keeps | intro _ _ _ _ _ | intro _ _ _ | intro _ _ | split

theorem debugErase_keeps : ∀ s, Keeps s₀ s → Keeps s₀ (debugErase s) := by
  intro s h
  unfold debugErase
  apply modTrust_keeps
  apply carafeErase_keeps
  apply modMem_keeps h
  intro m hm
  simp only [List.foldl]
  repeat' with_reducible first | exact hm | apply Mem.wf_wipe | apply Mem.wf_clear | apply Mem.wf_zeroBuffers

theorem bootPut_keeps : ∀ a0 s, Keeps s₀ s → Keeps s₀ (bootPut a0 s) := by
  intro a0 s h; unfold bootPut
  repeat' with_reducible first
    | assumption | refine of_snd (by assumption) ?_ | apply memPut_keeps | apply modTrust_keeps | apply modReg_keeps
    | apply foldl_keeps | apply foldl_snd_keeps | intro _ _ _ _ _ | intro _ _ _ | intro _ _ | split | apply ite_keeps
    | dsimp only

theorem bootSwitch_keeps : ∀ s, Keeps s₀ s → Keeps s₀ (bootSwitch s) := by
  intro s h; unfold bootSwitch
  repeat' with_reducible first
    | assumption | refine of_snd (by assumption) ?_ | apply bootPut_keeps | apply foldl_keeps | apply foldl_snd_keeps
    | intro _ _ _ _ _ | intro _ _ _ | intro _ _ | split | apply ite_keeps | dsimp only

theorem updateAtReset_keeps : ∀ s, Keeps s₀ s → Keeps s₀ (updateAtReset s) := by
  intro s h; unfold updateAtReset
  repeat' with_reducible first
    | assumption | refine of_snd (by assumption) ?_ | apply bootSwitch_keeps | apply modTrust_keeps | apply foldl_keeps
    | intro _ _ _ _ _ | intro _ _ _ | intro _ _ | split | apply ite_keeps

theorem historyAdd_keeps : ∀ s, Keeps s₀ s → Keeps s₀ (historyAdd s) := by
  intro s h; unfold historyAdd
  repeat' with_reducible first
    | assumption | refine of_snd (by assumption) ?_ | apply modReset_keeps | apply raise_keeps | apply foldl_keeps
    | intro _ _ _ _ _ | intro _ _ _ | intro _ _ | split | apply ite_keeps

theorem bkpCount_keeps : ∀ s, Keeps s₀ s → Keeps s₀ (bkpCount s) := by
  intro s h; unfold bkpCount
  repeat' with_reducible first
    | assumption | refine of_snd (by assumption) ?_ | refine modMem_keeps ?_ fun m hm => Mem.wf_put _ _ hm

theorem romStart_keeps : ∀ a0 s, Keeps s₀ s → Keeps s₀ (romStart a0 s) := by
  intro a0 s h; unfold romStart
  repeat' with_reducible first
    | assumption | refine of_snd (by assumption) ?_ | apply historyAdd_keeps | apply bkpCount_keeps | apply debugErase_keeps
    | apply updateAtReset_keeps | apply modReset_keeps | apply modTrust_keeps | apply modTime_keeps | apply bootRail_keeps
    | apply foldl_keeps | intro _ _ _ _ _ | intro _ _ _ | intro _ _ | split

theorem episodeEnd_keeps : ∀ s, Keeps s₀ s → Keeps s₀ (episodeEnd s) := by
  intro s h; unfold episodeEnd
  repeat' with_reducible first
    | assumption | refine of_snd (by assumption) ?_ | apply romStart_keeps | apply foldl_keeps | intro _ _ _ _ _ | intro _ _ _
    | intro _ _ | split

theorem sourceRelease_keeps : ∀ a0 s, Keeps s₀ s → Keeps s₀ (sourceRelease a0 s) := by
  intro a0 s h; unfold sourceRelease
  repeat' with_reducible first
    | assumption | refine of_snd (by assumption) ?_ | apply modPcie_keeps | apply modReset_keeps | apply episodeEnd_keeps
    | apply foldl_keeps | intro _ _ _ _ _ | intro _ _ _ | intro _ _ | split | apply ite_keeps

theorem stretchEnd_keeps : ∀ a0 s, Keeps s₀ s → Keeps s₀ (stretchEnd a0 s) := by
  intro a0 s h; unfold stretchEnd
  repeat' with_reducible first
    | assumption | refine of_snd (by assumption) ?_ | apply modReset_keeps | apply episodeEnd_keeps | apply foldl_keeps
    | intro _ _ _ _ _ | intro _ _ _ | intro _ _ | split | apply ite_keeps

theorem sstoreDone_keeps : ∀ s, Keeps s₀ s → Keeps s₀ (sstoreDone s) := by
  intro s h; unfold sstoreDone
  repeat' with_reducible first
    | assumption | refine of_snd (by assumption) ?_ | apply memPut_keeps | apply raise_keeps | apply countWrap_keeps
    | apply modTrust_keeps | apply foldl_keeps | intro _ _ _ _ _ | intro _ _ _ | intro _ _ | split

theorem fuseSettle_keeps : ∀ s, Keeps s₀ s → Keeps s₀ (fuseSettle s) := by
  intro s h; unfold fuseSettle
  split
  · exact ⟨h.queue, h.mem, fun b w => ⟨(h.fuses b w).fuses, nofun⟩⟩
  · exact h

theorem deferredEnded_keeps : ∀ a0 s, Keeps s₀ s → Keeps s₀ (deferredEnded a0 s) := by
  intro a0 s h; unfold deferredEnded
  repeat' with_reducible first
    | assumption | refine of_snd (by assumption) ?_ | apply modPcie_keeps | apply modReset_keeps | split | apply ite_keeps

theorem deferralEnd_keeps : ∀ s, Keeps s₀ s → Keeps s₀ (deferralEnd s) := by
  intro s h; unfold deferralEnd
  repeat' with_reducible first
    | assumption | refine of_snd (by assumption) ?_ | apply fuseSettle_keeps | apply modTrust_keeps | apply sstoreDone_keeps
    | apply modReset_keeps | apply deferredEnded_keeps | apply sourceEffect_keeps | apply fnReset_keeps | apply foldl_keeps | intro _ _ _ _ _ | intro _ _ _
    | intro _ _ | split | apply ite_keeps

theorem flrAssert_keeps : ∀ a0 s, Keeps s₀ s → Keeps s₀ (flrAssert a0 s) := by
  intro a0 s h; unfold flrAssert
  repeat' with_reducible first
    | assumption | refine of_snd (by assumption) ?_ | apply sourceAssert_keeps | apply modReset_keeps | apply fnReset_keeps
    | apply foldl_keeps | intro _ _ _ _ _ | intro _ _ _ | intro _ _ | split

theorem swrstWrite_keeps : ∀ a0 a1 s, Keeps s₀ s → Keeps s₀ (swrstWrite a0 a1 s) := by
  intro a0 a1 s h; unfold swrstWrite
  repeat' with_reducible first
    | assumption | refine of_snd (by assumption) ?_ | apply regErr_keeps | apply sourceAssert_keeps | apply foldl_keeps
    | intro _ _ _ _ _ | intro _ _ _ | intro _ _ | split

theorem recoverWrite_keeps : ∀ a0 a1 s, Keeps s₀ s → Keeps s₀ (recoverWrite a0 a1 s) := by
  intro a0 a1 s h; unfold recoverWrite
  repeat' with_reducible first
    | assumption | refine of_snd (by assumption) ?_ | apply regErr_keeps | apply modReset_keeps | apply foldl_keeps
    | intro _ _ _ _ _ | intro _ _ _ | intro _ _ | split

theorem serviceWrite_keeps : ∀ a0 a1 s, Keeps s₀ s → Keeps s₀ (serviceWrite a0 a1 s) := by
  intro a0 a1 s h; unfold serviceWrite
  repeat' with_reducible first
    | assumption | refine of_snd (by assumption) ?_ | apply regErr_keeps | apply raise_keeps | apply modReset_keeps
    | apply foldl_keeps | intro _ _ _ _ _ | intro _ _ _ | intro _ _ | split | apply ite_keeps

theorem coreWatchdog_keeps : ∀ a0 s, Keeps s₀ s → Keeps s₀ (coreWatchdog a0 s) := by
  intro a0 s h; unfold coreWatchdog
  repeat' with_reducible first
    | assumption | refine of_snd (by assumption) ?_ | apply fenceCore_keeps | apply sourceAssert_keeps | apply raise_keeps
    | apply foldl_keeps | intro _ _ _ _ _ | intro _ _ _ | intro _ _ | split | apply ite_keeps

theorem mgmtWatchdog_keeps : ∀ s, Keeps s₀ s → Keeps s₀ (mgmtWatchdog s) := by
  intro s h; unfold mgmtWatchdog
  repeat' with_reducible first
    | assumption | refine of_snd (by assumption) ?_ | apply sourceAssert_keeps | apply foldl_keeps | intro _ _ _ _ _
    | intro _ _ _ | intro _ _ | split

theorem sensorReading_keeps : ∀ a0 s, Keeps s₀ s → Keeps s₀ (sensorReading a0 s) := by
  intro a0 s h; unfold sensorReading
  repeat' with_reducible first
    | assumption | refine of_snd (by assumption) ?_ | apply modPower_keeps | apply raise_keeps | apply thermalEnter_keeps
    | apply sourceAssert_keeps | apply pacerSettle_keeps | apply thermalRestore_keeps | apply foldl_keeps
    | apply foldl_snd_keeps | intro _ _ _ _ _ | intro _ _ _ | intro _ _ | split | apply ite_keeps | dsimp only

theorem fuseRead_keeps : ∀ s, Keeps s₀ s → Keeps s₀ (fuseRead s) := by
  intro s h; unfold fuseRead
  repeat' with_reducible first
    | assumption | refine of_snd (by assumption) ?_ | apply pinsReset_keeps | apply modReset_keeps | apply foldl_keeps
    | intro _ _ _ _ _ | intro _ _ _ | intro _ _ | split

theorem crystalStart_keeps : ∀ s, Keeps s₀ s → Keeps s₀ (crystalStart s) := by
  intro s h; unfold crystalStart
  repeat' with_reducible first
    | assumption | refine of_snd (by assumption) ?_ | apply modTime_keeps | apply bootRail_keeps | apply foldl_keeps
    | intro _ _ _ _ _ | intro _ _ _ | intro _ _ | split | apply ite_keeps

theorem reportsReady_keeps : ∀ a0 s, Keeps s₀ s → Keeps s₀ (reportsReady a0 s) := by
  intro a0 s h; unfold reportsReady
  repeat' with_reducible first
    | assumption | refine of_snd (by assumption) ?_ | apply modHdr_keeps | apply modFn_keeps | apply foldl_keeps
    | intro _ _ _ _ _ | intro _ _ _ | intro _ _ | split

theorem fuseProgram_keeps : ∀ f s, OneWay s.fuses (f s.fuses) → (Thermometer s.fuses.svn → Thermometer (f s.fuses).svn) →
    Keeps s₀ s → Keeps s₀ (fuseProgram f s) := by
  intro f s hf ht h
  unfold fuseProgram
  refine modTrust_keeps _ _ ⟨?_, ?_, fun b w => ⟨?_, ?_⟩⟩
  · split <;> exact h.queue
  · split <;> exact h.mem
  · have q := (h.fuses b w).fuses
    split <;> exact ⟨q.1.trans hf, ht q.2⟩
  · split
    · exact (h.fuses b w).cut
    · rintro old ⟨⟩
      exact (h.fuses b w).fuses

theorem provisionHash_keeps : ∀ r a s, Keeps s₀ s → Keeps s₀ (provisionHash r a s) := by
  intro r a s h
  unfold provisionHash
  split
  · exact regErr_keeps _ _ _ _ _ h
  · dsimp only
    refine fuseProgram_keeps _ _ ⟨?_, BitVec.and_self, BitVec.and_self, and_or_absorb _ _, ⟨rfl, rfl, rfl, rfl, rfl, rfl, rfl, rfl, rfl⟩⟩ id (modTrust_keeps _ _ (draw_keeps _ _ h))
    dsimp only
    split
    · next e => rw [e]; decide
    · exact Nat.le_refl _

theorem deployDevice_keeps : ∀ r s, Keeps s₀ s → Keeps s₀ (deployDevice r s) := by
  intro r s h
  unfold deployDevice
  split
  · next e =>
    refine lfiClose_keeps _ _ deliver_keeps (fuseProgram_keeps _ _ ⟨?_, BitVec.and_self, BitVec.and_self, BitVec.and_self, ⟨rfl, rfl, rfl, rfl, rfl, rfl, rfl, rfl, rfl⟩⟩ id h)
    rw [e.1]
    exact Nat.le_succ 1
  · exact regErr_keeps _ _ _ _ _ h

theorem returnDevice_keeps : ∀ r s, Keeps s₀ s → Keeps s₀ (returnDevice r s) := by
  intro r s h
  unfold returnDevice
  split
  · exact regErr_keeps _ _ _ _ _ h
  · exact modTrust_keeps _ _ (fuseProgram_keeps _ _ ⟨Lifecycle.rank_le _, BitVec.and_self, BitVec.and_self, BitVec.and_self, ⟨rfl, rfl, rfl, rfl, rfl, rfl, rfl, rfl, rfl⟩⟩ id h)

theorem revokeHash_keeps : ∀ r a s, Keeps s₀ s → Keeps s₀ (revokeHash r a s) := by
  intro r a s h
  unfold revokeHash
  split
  · exact regErr_keeps _ _ _ _ _ h
  · exact fuseProgram_keeps _ _ ⟨Nat.le_refl _, BitVec.and_self, and_or_absorb _ _, BitVec.and_self, ⟨rfl, rfl, rfl, rfl, rfl, rfl, rfl, rfl, rfl⟩⟩ id h

theorem lcCmdWrite_keeps : ∀ a0 a1 s, Keeps s₀ s → Keeps s₀ (lcCmdWrite a0 a1 s) := by
  intro a0 a1 s h; unfold lcCmdWrite
  repeat' with_reducible first
    | assumption | refine of_snd (by assumption) ?_ | apply regErr_keeps | apply provisionHash_keeps | apply deployDevice_keeps
    | apply returnDevice_keeps | apply revokeHash_keeps | apply foldl_keeps | intro _ _ _ _ _ | intro _ _ _ | intro _ _ | split

theorem tamperDetected_keeps : ∀ s, Keeps s₀ s → Keeps s₀ (tamperDetected s) := by
  intro s h; unfold tamperDetected
  repeat' with_reducible first
    | assumption | refine of_snd (by assumption) ?_ | apply modTrust_keeps | apply sourceAssert_keeps | apply raise_keeps
    | apply carafeErase_keeps

theorem debugCtrlWrite_keeps : ∀ a0 s, Keeps s₀ s → Keeps s₀ (debugCtrlWrite a0 s) := by
  intro a0 s h; unfold debugCtrlWrite
  repeat' with_reducible first
    | assumption | refine of_snd (by assumption) ?_ | apply setReg_keeps | apply modTrust_keeps | apply draw_keeps
    | apply foldl_keeps | apply foldl_snd_keeps | intro _ _ _ _ _ | intro _ _ _ | intro _ _ | split | apply ite_keeps
    | dsimp only

theorem debugSubmit_keeps : ∀ a0 s, Keeps s₀ s → Keeps s₀ (debugSubmit a0 s) := by
  intro a0 s h; unfold debugSubmit
  repeat' with_reducible first
    | assumption | refine of_snd (by assumption) ?_ | apply regErr_keeps | apply raise_keeps | apply modTrust_keeps
    | apply foldl_keeps | apply foldl_snd_keeps | intro _ _ _ _ _ | intro _ _ _ | intro _ _ | split | apply ite_keeps
    | dsimp only

theorem challengeExpire_keeps : ∀ s, Keeps s₀ s → Keeps s₀ (challengeExpire s) := by
  intro s h; unfold challengeExpire
  repeat' with_reducible first
    | assumption | refine of_snd (by assumption) ?_ | apply challengeDrop_keeps | apply foldl_keeps | intro _ _ _ _ _
    | intro _ _ _ | intro _ _ | split

theorem flashErase_keeps : ∀ a0 a1 s, Keeps s₀ s → Keeps s₀ (flashErase a0 a1 s) := by
  intro a0 a1 s h; unfold flashErase
  repeat' with_reducible first
    | assumption | refine of_snd (by assumption) ?_
    | refine modMem_keeps ?_ fun m hm => Mem.wf_flash _ hm (storeWf_filter _ _ _ (Mem.flash_wf hm))

theorem flashPut_keeps : ∀ a0 a1 s, Keeps s₀ s → Keeps s₀ (flashPut a0 a1 s) := by
  intro a0 a1 s h; unfold flashPut
  repeat' with_reducible first
    | assumption | refine of_snd (by assumption) ?_
    | refine modMem_keeps ?_ fun m hm => Mem.wf_flash _ hm (storeWf_foldl _ _ (fun _ _ hw => storeWf_set _ _ _ _ hw) _ _ (Mem.flash_wf hm))

theorem eraseInactive_keeps : ∀ s, Keeps s₀ s → Keeps s₀ (eraseInactive s) := by
  intro s h; unfold eraseInactive
  repeat' with_reducible first | assumption | refine of_snd (by assumption) ?_ | apply flashErase_keeps

theorem writeInactive_keeps : ∀ a0 s, Keeps s₀ s → Keeps s₀ (writeInactive a0 s) := by
  intro a0 s h; unfold writeInactive
  repeat' with_reducible first | assumption | refine of_snd (by assumption) ?_ | apply flashPut_keeps | apply flashErase_keeps

theorem bootSlot_keeps : ∀ a0 s, Keeps s₀ s → Keeps s₀ (bootSlot a0 s) := by
  intro a0 s h; unfold bootSlot
  repeat' with_reducible first
    | assumption | refine of_snd (by assumption) ?_ | apply modTrust_keeps
    | refine modMem_keeps ?_ fun m hm => Mem.wf_same hm rfl rfl rfl rfl rfl

theorem trialStart_keeps : ∀ s, Keeps s₀ s → Keeps s₀ (trialStart s) := by
  intro s h; unfold trialStart
  repeat' with_reducible first
    | assumption | refine of_snd (by assumption) ?_ | apply raise_keeps | apply bootPut_keeps | apply foldl_keeps
    | apply foldl_snd_keeps | intro _ _ _ _ _ | intro _ _ _ | intro _ _ | split | apply ite_keeps | dsimp only

theorem secureBoot_keeps : ∀ s, Keeps s₀ s → Keeps s₀ (secureBoot s) := by
  intro s h; unfold secureBoot
  repeat' with_reducible first
    | assumption | refine of_snd (by assumption) ?_ | apply modTrust_keeps | apply trialStart_keeps | apply bootSlot_keeps
    | apply raise_keeps | apply foldl_keeps | intro _ _ _ _ _ | intro _ _ _ | intro _ _ | split | apply ite_keeps | dsimp only

theorem updLoad_keeps : ∀ a0 s, Keeps s₀ s → Keeps s₀ (updLoad a0 s) := by
  intro a0 s h; unfold updLoad
  repeat' with_reducible first
    | assumption | refine of_snd (by assumption) ?_ | apply regErr_keeps | apply modTrust_keeps | apply foldl_keeps
    | intro _ _ _ _ _ | intro _ _ _ | intro _ _ | split

theorem loadFail_keeps : ∀ a0 s, Keeps s₀ s → Keeps s₀ (loadFail a0 s) := by
  intro a0 s h; unfold loadFail
  repeat' with_reducible first
    | assumption | refine of_snd (by assumption) ?_ | apply raise_keeps | apply modTrust_keeps | apply eraseInactive_keeps

theorem loadReady_keeps : ∀ a0 a1 s, Keeps s₀ s → Keeps s₀ (loadReady a0 a1 s) := by
  intro a0 a1 s h; unfold loadReady
  repeat' with_reducible first
    | assumption | refine of_snd (by assumption) ?_ | apply raise_keeps | apply modTrust_keeps | apply writeInactive_keeps

theorem loadDelta_keeps : ∀ a0 a1 s, Keeps s₀ s → Keeps s₀ (loadDelta a0 a1 s) := by
  intro a0 a1 s h; unfold loadDelta
  repeat' with_reducible first
    | assumption | refine of_snd (by assumption) ?_ | apply loadFail_keeps | apply draw_keeps | apply loadReady_keeps
    | apply foldl_keeps | intro _ _ _ _ _ | intro _ _ _ | intro _ _ | split | apply ite_keeps

theorem loadStep_keeps : ∀ s, Keeps s₀ s → Keeps s₀ (loadStep s) := by
  intro s h; unfold loadStep
  repeat' with_reducible first
    | assumption | refine of_snd (by assumption) ?_ | apply draw_keeps | apply modTrust_keeps | apply foldl_keeps
    | apply foldl_snd_keeps | intro _ _ _ _ _ | intro _ _ _ | intro _ _ | split | apply ite_keeps | dsimp only

theorem loadRead_keeps : ∀ a0 a1 a2 s, Keeps s₀ s → Keeps s₀ (loadRead a0 a1 a2 s).2 := by
  intro a0 a1 a2 s h; unfold loadRead
  repeat' with_reducible first
    | assumption | apply okKeeps_ok | exact okKeeps_error | refine of_snd (by assumption) ?_ | apply devFails_keeps
    | apply hostReadSent_keeps | apply devAnswer_keeps | apply foldl_keeps | apply foldl_snd_keeps | intro _ _ _ _ _
    | intro _ _ _ | intro _ _ | split | apply ite_keeps | dsimp only

theorem loadDone_keeps : ∀ a0 s, Keeps s₀ s → Keeps s₀ (loadDone a0 s) := by
  intro a0 s h; unfold loadDone
  repeat' with_reducible first
    | assumption | refine of_snd (by assumption) ?_ | apply loadFail_keeps | apply loadRead_keeps | apply loadDelta_keeps
    | apply loadReady_keeps | apply foldl_keeps | apply foldl_snd_keeps | intro _ _ _ _ _ | intro _ _ _ | intro _ _ | split
    | apply ite_keeps | dsimp only

theorem planActivating_keeps : ∀ s, Keeps s₀ s → Keeps s₀ (planActivating s) := by
  intro s h; unfold planActivating
  repeat' with_reducible first
    | assumption | refine of_snd (by assumption) ?_ | apply railUndo_keeps | apply cmdFinish_keeps | apply foldl_keeps
    | apply foldl_snd_keeps | intro _ _ _ _ _ | intro _ _ _ | intro _ _ | split | apply ite_keeps | dsimp only

theorem updArm_keeps : ∀ a0 s, Keeps s₀ s → Keeps s₀ (updArm a0 s) := by
  intro a0 s h; unfold updArm
  repeat' with_reducible first
    | assumption | refine of_snd (by assumption) ?_ | apply regErr_keeps | apply modTrust_keeps | apply bootSwitch_keeps
    | apply planActivating_keeps | apply foldl_keeps | apply foldl_snd_keeps | intro _ _ _ _ _ | intro _ _ _ | intro _ _
    | split | apply ite_keeps | dsimp only

theorem unswitch_keeps : ∀ s, Keeps s₀ s → Keeps s₀ (unswitch s) := by
  intro s h; unfold unswitch
  repeat' with_reducible first
    | assumption | refine of_snd (by assumption) ?_ | apply bootPut_keeps | apply foldl_keeps | apply foldl_snd_keeps
    | intro _ _ _ _ _ | intro _ _ _ | intro _ _ | split | apply ite_keeps | dsimp only

theorem updDisarm_keeps : ∀ a0 s, Keeps s₀ s → Keeps s₀ (updDisarm a0 s) := by
  intro a0 s h; unfold updDisarm
  repeat' with_reducible first
    | assumption | refine of_snd (by assumption) ?_ | apply modTrust_keeps | apply unswitch_keeps | apply regErr_keeps
    | apply foldl_keeps | intro _ _ _ _ _ | intro _ _ _ | intro _ _ | split

theorem updConfirm_keeps : ∀ s, Keeps s₀ s → Keeps s₀ (updConfirm s) := by
  intro s h
  unfold updConfirm
  dsimp only
  split
  · exact bootPut_keeps _ _ h
  · exact fuseProgram_keeps _ _ ⟨Nat.le_refl _, and_or_absorb _ _, BitVec.and_self, BitVec.and_self, ⟨rfl, rfl, rfl, rfl, rfl, rfl, rfl, rfl, rfl⟩⟩
      (fun ht => ht.or (Nat.min_le_left _ _)) (bootPut_keeps _ _ h)

theorem updAbandon_keeps : ∀ s, Keeps s₀ s → Keeps s₀ (updAbandon s) := by
  intro s h; unfold updAbandon
  repeat' with_reducible first
    | assumption | refine of_snd (by assumption) ?_ | apply modTrust_keeps | apply eraseInactive_keeps | apply unswitch_keeps
    | apply foldl_keeps | intro _ _ _ _ _ | intro _ _ _ | intro _ _ | split

theorem updCmdWrite_keeps : ∀ a0 a1 s, Keeps s₀ s → Keeps s₀ (updCmdWrite a0 a1 s) := by
  intro a0 a1 s h; unfold updCmdWrite
  repeat' with_reducible first
    | assumption | refine of_snd (by assumption) ?_ | apply updLoad_keeps | apply updArm_keeps | apply updDisarm_keeps
    | apply updConfirm_keeps | apply updAbandon_keeps | apply regErr_keeps | apply foldl_keeps | intro _ _ _ _ _ | intro _ _ _
    | intro _ _ | split

theorem revokeAt_keeps : ∀ a0 a1 s, Keeps s₀ s → Keeps s₀ (revokeAt a0 a1 s) := by
  intro a0 a1 s h; unfold revokeAt
  repeat' with_reducible first
    | assumption | refine of_snd (by assumption) ?_ | apply raise_keeps | apply classFree_keeps | apply modClass_keeps
    | apply foldl_keeps | intro _ _ _ _ _ | intro _ _ _ | intro _ _ | split

theorem activationStop_keeps : ∀ s, Keeps s₀ s → Keeps s₀ (activationStop s) := by
  intro s h; unfold activationStop
  repeat' with_reducible first
    | assumption | refine of_snd (by assumption) ?_ | apply raise_keeps | apply modTrust_keeps | apply railUndo_keeps
    | apply cmdFinish_keeps | apply pacerSettle_keeps | apply revokeAt_keeps | apply foldl_keeps | intro _ _ _ _ _ | intro _ _ _
    | intro _ _ | split | apply ite_keeps

theorem activationTime_keeps : ∀ s, Keeps s₀ s → Keeps s₀ (activationTime s) := by
  intro s h; unfold activationTime
  repeat' with_reducible first
    | assumption | refine of_snd (by assumption) ?_ | apply pacerSettle_keeps | apply jobStop_keeps | apply foldl_keeps
    | intro _ _ _ _ _ | intro _ _ _ | intro _ _ | split

theorem activationReset_keeps : ∀ s, Keeps s₀ s → Keeps s₀ (activationReset s) := by
  intro s h; unfold activationReset
  repeat' with_reducible first
    | assumption | refine of_snd (by assumption) ?_ | apply sourceAssert_keeps | apply modTrust_keeps | apply bootSwitch_keeps
    | apply foldl_keeps | intro _ _ _ _ _ | intro _ _ _ | intro _ _ | split

theorem sstoreRegWrite_keeps : ∀ a0 a1 a2 s, Keeps s₀ s → Keeps s₀ (sstoreRegWrite a0 a1 a2 s) := by
  intro a0 a1 a2 s h; unfold sstoreRegWrite
  repeat' with_reducible first
    | assumption | refine of_snd (by assumption) ?_ | apply regErr_keeps | apply modTrust_keeps | apply foldl_keeps
    | intro _ _ _ _ _ | intro _ _ _ | intro _ _ | split

theorem readClear_keeps : ∀ a0 a1 a2 a3 a4 s, Keeps s₀ s → Keeps s₀ (readClear a0 a1 a2 a3 a4 s) := by
  intro a0 a1 a2 a3 a4 s h; unfold readClear
  repeat' with_reducible first | assumption | refine of_snd (by assumption) ?_ | apply setAnswer_keeps | apply setReg_keeps

theorem blockRead_keeps : ∀ a0 a1 a2 a3 s, Keeps s₀ s → Keeps s₀ (blockRead a0 a1 a2 a3 s) := by
  intro a0 a1 a2 a3 s h; unfold blockRead
  repeat' with_reducible first
    | assumption | refine of_snd (by assumption) ?_ | apply detLogPop_keeps | apply semWait_keeps | apply semTake_keeps
    | apply readClear_keeps | apply setAnswer_keeps | apply modPeer_keeps | apply modTrust_keeps | apply draw_keeps
    | apply modPower_keeps | apply uartDataRead_keeps | apply modProc_keeps | apply foldl_keeps | intro _ _ _ _ _ | intro _ _ _
    | intro _ _ | split | apply ite_keeps

theorem commitHook_keeps : ∀ a0 a1 a2 a3 a4 s, Keeps s₀ s → Keeps s₀ (commitHook a0 a1 a2 a3 a4 s) := by
  intro a0 a1 a2 a3 a4 s h; unfold commitHook
  repeat' with_reducible first
    | assumption | refine of_snd (by assumption) ?_ | apply reserveCommit_keeps | apply goldenCheck_keeps
    | apply ctlioCommit_keeps | apply pfeCommit_keeps | apply bellCommit_keeps | apply foldl_keeps | intro _ _ _ _ _
    | intro _ _ _ | intro _ _ | split

theorem commitApply_keeps : ∀ a0 a1 s, Keeps s₀ s → Keeps s₀ (commitApply a0 a1 s) := by
  intro a0 a1 s h; unfold commitApply
  repeat' with_reducible first
    | assumption | refine of_snd (by assumption) ?_ | apply modBus_keeps | apply modHdr_keeps | apply commitHook_keeps

theorem commitAsk_keeps : ∀ a0 a1 s, Keeps s₀ s → Keeps s₀ (commitAsk a0 a1 s) := by
  intro a0 a1 s h; unfold commitAsk
  repeat' with_reducible first
    | assumption | refine of_snd (by assumption) ?_ | apply commitApply_keeps | apply modHdr_keeps | apply foldl_keeps
    | intro _ _ _ _ _ | intro _ _ _ | intro _ _ | split

theorem commitPoint_keeps : ∀ a0 s, Keeps s₀ s → Keeps s₀ (commitPoint a0 s) := by
  intro a0 s h; unfold commitPoint
  repeat' with_reducible first
    | assumption | refine of_snd (by assumption) ?_ | apply commitApply_keeps | apply foldl_keeps | intro _ _ _ _ _
    | intro _ _ _ | intro _ _ | split

theorem enableSet_keeps : ∀ a0 a1 a2 s, Keeps s₀ s → Keeps s₀ (enableSet a0 a1 a2 s) := by
  intro a0 a1 a2 s h; unfold enableSet
  repeat' with_reducible first
    | assumption | refine of_snd (by assumption) ?_ | apply modHealth_keeps | apply modHdr_keeps | apply foldl_keeps
    | apply foldl_snd_keeps | intro _ _ _ _ _ | intro _ _ _ | intro _ _ | split | apply ite_keeps | dsimp only

theorem enableWrite_keeps : ∀ a0 a1 s, Keeps s₀ s → Keeps s₀ (enableWrite a0 a1 s) := by
  intro a0 a1 s h; unfold enableWrite
  repeat' with_reducible first
    | assumption | refine of_snd (by assumption) ?_ | apply herdEnable_keeps | apply enableSet_keeps | apply ddrEnable_keeps
    | apply nextCommand_keeps | apply herdDisable_keeps | apply commitPoint_keeps | apply foldl_keeps | apply foldl_snd_keeps
    | intro _ _ _ _ _ | intro _ _ _ | intro _ _ | split | apply ite_keeps | dsimp only

theorem blockDrained_keeps : ∀ a0 s, Keeps s₀ s → Keeps s₀ (blockDrained a0 s) := by
  intro a0 s h; unfold blockDrained
  repeat' with_reducible first
    | assumption | refine of_snd (by assumption) ?_ | apply commitPoint_keeps | apply modHdr_keeps | apply foldl_keeps
    | apply foldl_snd_keeps | intro _ _ _ _ _ | intro _ _ _ | intro _ _ | split | apply ite_keeps | dsimp only

theorem funcReset_keeps : ∀ a0 a1 s, Keeps s₀ s → Keeps s₀ (funcReset a0 a1 s) := by
  intro a0 a1 s h; unfold funcReset
  repeat' with_reducible first
    | assumption | refine of_snd (by assumption) ?_ | apply regErr_keeps | apply challengeDrop_keeps
    | apply pacerFuncReset_keeps | apply blockReset_keeps | apply modHdr_keeps | apply foldl_keeps | intro _ _ _ _ _
    | intro _ _ _ | intro _ _ | split

theorem blkCtrlWrite_keeps : ∀ a0 a1 a2 s, Keeps s₀ s → Keeps s₀ (blkCtrlWrite a0 a1 a2 s) := by
  intro a0 a1 a2 s h; unfold blkCtrlWrite
  repeat' with_reducible first
    | assumption | refine of_snd (by assumption) ?_ | apply regErr_keeps | apply funcReset_keeps | apply commitAsk_keeps
    | apply enableWrite_keeps | apply foldl_keeps | apply foldl_snd_keeps | intro _ _ _ _ _ | intro _ _ _ | intro _ _ | split
    | apply ite_keeps | dsimp only

theorem irqClear_keeps : ∀ a0 a1 a2 s, Keeps s₀ s → Keeps s₀ (irqClear a0 a1 a2 s) := by
  intro a0 a1 a2 s h; unfold irqClear
  repeat' with_reducible first | assumption | refine of_snd (by assumption) ?_ | apply modHdr_keeps

theorem chSelWrite_keeps : ∀ a0 a1 a2 s, Keeps s₀ s → Keeps s₀ (chSelWrite a0 a1 a2 s) := by
  intro a0 a1 a2 s h; unfold chSelWrite
  repeat' with_reducible first
    | assumption | refine of_snd (by assumption) ?_ | apply regErr_keeps | apply modBus_keeps | apply foldl_keeps
    | intro _ _ _ _ _ | intro _ _ _ | intro _ _ | split | apply ite_keeps

theorem errClear_keeps : ∀ a0 a1 s, Keeps s₀ s → Keeps s₀ (errClear a0 a1 s) := by
  intro a0 a1 s h; unfold errClear
  repeat' with_reducible first
    | assumption | refine of_snd (by assumption) ?_ | apply modHdr_keeps
    | refine modMem_keeps ?_ fun m hm => Mem.wf_same hm rfl rfl rfl rfl rfl | apply foldl_keeps | intro _ _ _ _ _ | intro _ _ _
    | intro _ _ | split

theorem hdrWrite_keeps : ∀ a0 a1 a2 a3 s, Keeps s₀ s → Keeps s₀ (hdrWrite a0 a1 a2 a3 s) := by
  intro a0 a1 a2 a3 s h; unfold hdrWrite
  repeat' with_reducible first
    | assumption | refine of_snd (by assumption) ?_ | apply blkCtrlWrite_keeps | apply irqClear_keeps | apply modHdr_keeps
    | apply raiseBits_keeps | apply chSelWrite_keeps | apply errClear_keeps | apply foldl_keeps | intro _ _ _ _ _ | intro _ _ _
    | intro _ _ | split

theorem chCmdWrite_keeps : ∀ a0 a1 a2 a3 s, Keeps s₀ s → Keeps s₀ (chCmdWrite a0 a1 a2 a3 s) := by
  intro a0 a1 a2 a3 s h; unfold chCmdWrite
  repeat' with_reducible first
    | assumption | refine of_snd (by assumption) ?_ | apply chanClear_keeps | apply disarm_keeps | apply kick_keeps
    | apply regErr_keeps | apply foldl_keeps | intro _ _ _ _ _ | intro _ _ _ | intro _ _ | split | apply ite_keeps

theorem dmaWrite_keeps : ∀ a0 a1 a2 a3 s, Keeps s₀ s → Keeps s₀ (dmaWrite a0 a1 a2 a3 s) := by
  intro a0 a1 a2 a3 s h; unfold dmaWrite
  repeat' with_reducible first
    | assumption | refine of_snd (by assumption) ?_ | apply chCtrlWrite_keeps | apply chCmdWrite_keeps | apply modChan_keeps
    | apply regErr_keeps | apply shadowArm_keeps | apply setOwner_keeps | apply foldl_keeps | apply foldl_snd_keeps
    | intro _ _ _ _ _ | intro _ _ _ | intro _ _ | split | apply ite_keeps | dsimp only

theorem timeWrite_keeps : ∀ a0 a1 a2 s, Keeps s₀ s → Keeps s₀ (timeWrite a0 a1 a2 s) := by
  intro a0 a1 a2 s h; unfold timeWrite
  repeat' with_reducible first
    | assumption | refine of_snd (by assumption) ?_ | apply regErr_keeps | apply setReg_keeps | apply foldl_keeps
    | intro _ _ _ _ _ | intro _ _ _ | intro _ _ | split | apply ite_keeps

theorem timeStep_keeps : ∀ a0 a1 a2 s, Keeps s₀ s → Keeps s₀ (timeStep a0 a1 a2 s) := by
  intro a0 a1 a2 s h; unfold timeStep
  repeat' with_reducible first
    | assumption | refine of_snd (by assumption) ?_ | apply regErr_keeps | apply modTime_keeps | apply foldl_keeps
    | intro _ _ _ _ _ | intro _ _ _ | intro _ _ | split

theorem powerWrite_keeps : ∀ a0 a1 a2 s, Keeps s₀ s → Keeps s₀ (powerWrite a0 a1 a2 s) := by
  intro a0 a1 a2 s h; unfold powerWrite
  repeat' with_reducible first
    | assumption | refine of_snd (by assumption) ?_ | apply regErr_keeps | apply dripWrite_keeps | apply modPower_keeps
    | apply domRequest_keeps | apply i2cCtrlWrite_keeps | apply i2cCmdWrite_keeps | apply foldl_keeps | intro _ _ _ _ _
    | intro _ _ _ | intro _ _ | split

theorem resetWrite_keeps : ∀ a0 a1 a2 s, Keeps s₀ s → Keeps s₀ (resetWrite a0 a1 a2 s) := by
  intro a0 a1 a2 s h; unfold resetWrite
  repeat' with_reducible first
    | assumption | refine of_snd (by assumption) ?_ | apply modReset_keeps | apply swrstWrite_keeps | apply recoverWrite_keeps
    | apply serviceWrite_keeps | apply foldl_keeps | intro _ _ _ _ _ | intro _ _ _ | intro _ _ | split

theorem ctlioWrite_keeps : ∀ a0 a1 a2 s, Keeps s₀ s → Keeps s₀ (ctlioWrite a0 a1 a2 s) := by
  intro a0 a1 a2 s h; unfold ctlioWrite
  repeat' with_reducible first
    | assumption | refine of_snd (by assumption) ?_ | apply outLevel_keeps | apply gpioWrite_keeps | apply postEvent_keeps
    | apply pwmCfgWrite_keeps | apply uartCfgWrite_keeps | apply uartDataWrite_keeps | apply modUart_keeps | apply foldl_keeps
    | intro _ _ _ _ _ | intro _ _ _ | intro _ _ | split

theorem shmWrite_keeps : ∀ a0 a1 a2 a3 s, Keeps s₀ s → Keeps s₀ (shmWrite a0 a1 a2 a3 s) := by
  intro a0 a1 a2 a3 s h; unfold shmWrite
  repeat' with_reducible first
    | assumption | refine of_snd (by assumption) ?_ | apply scrubCtrlWrite_keeps | apply semPostBy_keeps
    | apply semThreshold_keeps | apply semWrite_keeps | apply regErr_keeps | apply foldl_keeps | intro _ _ _ _ _ | intro _ _ _
    | intro _ _ | split

theorem coreWrite_keeps : ∀ a0 a1 a2 s, Keeps s₀ s → Keeps s₀ (coreWrite a0 a1 a2 s) := by
  intro a0 a1 a2 s h; unfold coreWrite
  repeat' with_reducible first
    | assumption | refine of_snd (by assumption) ?_ | apply modProc_keeps | apply modArray_keeps | apply foldl_keeps
    | intro _ _ _ _ _ | intro _ _ _ | intro _ _ | split

theorem wdtKick_keeps : ∀ a0 a1 s, Keeps s₀ s → Keeps s₀ (wdtKick a0 a1 s) := by
  intro a0 a1 s h; unfold wdtKick
  repeat' with_reducible first
    | assumption | refine of_snd (by assumption) ?_ | apply modTime_keeps | apply regErr_keeps | apply foldl_keeps
    | intro _ _ _ _ _ | intro _ _ _ | intro _ _ | split

theorem mgmtWrite_keeps : ∀ a0 a1 a2 s, Keeps s₀ s → Keeps s₀ (mgmtWrite a0 a1 a2 s) := by
  intro a0 a1 a2 s h; unfold mgmtWrite
  repeat' with_reducible first
    | assumption | refine of_snd (by assumption) ?_ | apply modProc_keeps | apply setReg_keeps | apply regErr_keeps
    | apply wdtKick_keeps | apply foldl_keeps | intro _ _ _ _ _ | intro _ _ _ | intro _ _ | split

theorem poolRelease_keeps : ∀ a0 a1 a2 a3 s, Keeps s₀ s → Keeps s₀ (poolRelease a0 a1 a2 a3 s) := by
  intro a0 a1 a2 a3 s h; unfold poolRelease
  repeat' with_reducible first | assumption | refine of_snd (by assumption) ?_ | apply modReg_keeps

theorem pfeWrite_keeps : ∀ a0 a1 a2 a3 s, Keeps s₀ s → Keeps s₀ (pfeWrite a0 a1 a2 a3 s) := by
  intro a0 a1 a2 a3 s h; unfold pfeWrite
  repeat' with_reducible first
    | assumption | refine of_snd (by assumption) ?_ | apply poolRelease_keeps | apply regErr_keeps | apply modBus_keeps
    | apply foldl_keeps | intro _ _ _ _ _ | intro _ _ _ | intro _ _ | split

theorem herdWrite_keeps : ∀ a0 a1 a2 a3 a4 s, Keeps s₀ s → Keeps s₀ (herdWrite a0 a1 a2 a3 a4 s) := by
  intro a0 a1 a2 a3 a4 s h; unfold herdWrite
  repeat' with_reducible first
    | assumption | refine of_snd (by assumption) ?_ | apply modHerd_keeps | apply mbxSend_keeps | apply rxDoneWrite_keeps
    | apply setReg_keeps | apply peerRegWrite_keeps | apply foldl_keeps | intro _ _ _ _ _ | intro _ _ _ | intro _ _ | split

theorem ownWrite_keeps : ∀ a0 a1 a2 a3 a4 a5 s, Keeps s₀ s → Keeps s₀ (ownWrite a0 a1 a2 a3 a4 a5 s) := by
  intro a0 a1 a2 a3 a4 a5 s h; unfold ownWrite
  repeat' with_reducible first
    | assumption | refine of_snd (by assumption) ?_ | apply pacerCommand_keeps | apply classWrite_keeps
    | apply powerWrite_keeps | apply resetWrite_keeps | apply timeWrite_keeps | apply lcCmdWrite_keeps
    | apply debugCtrlWrite_keeps | apply debugSubmit_keeps | apply updCmdWrite_keeps | apply dmaWrite_keeps
    | apply setReg_keeps | apply regErr_keeps | apply fnReset_keeps | apply classGive_keeps | apply queueEval_keeps
    | apply qCtrlWrite_keeps | apply sqDoorbell_keeps | apply cqDoorbell_keeps | apply herdWrite_keeps | apply qDiscard_keeps
    | apply qNext_keeps | apply poolRelease_keeps | apply pfeWrite_keeps | apply ctlioWrite_keeps | apply shmWrite_keeps
    | apply lfiCtrlWrite_keeps | apply deliver_keeps | apply modTrust_keeps | apply sstoreRegWrite_keeps
    | apply mgmtWrite_keeps | apply coreWrite_keeps | apply foldl_keeps | apply foldl_snd_keeps | intro _ _ _ _ _
    | intro _ _ _ | intro _ _ | split | apply ite_keeps | dsimp only

theorem cellPut_keeps : ∀ a0 a1 a2 a3 a4 a5 s, Keeps s₀ s → Keeps s₀ (cellPut a0 a1 a2 a3 a4 a5 s) := by
  intro a0 a1 a2 a3 a4 a5 s h; unfold cellPut
  repeat' with_reducible first
    | assumption | refine of_snd (by assumption) ?_ | apply setReg_keeps | apply regErr_keeps | apply modBus_keeps
    | apply foldl_keeps | intro _ _ _ _ _ | intro _ _ _ | intro _ _ | split | apply ite_keeps

theorem cellApply_keeps : ∀ a0 a1 a2 a3 a4 a5 s, Keeps s₀ s → Keeps s₀ (cellApply a0 a1 a2 a3 a4 a5 s) := by
  intro a0 a1 a2 a3 a4 a5 s h; unfold cellApply
  repeat' with_reducible first
    | assumption | refine of_snd (by assumption) ?_ | apply entWrite_keeps | apply ownWrite_keeps | apply queueEval_keeps
    | apply cellPut_keeps | apply foldl_keeps | intro _ _ _ _ _ | intro _ _ _ | intro _ _ | split

theorem setHiHeld_keeps : ∀ a0 a1 a2 a3 a4 s, Keeps s₀ s → Keeps s₀ (setHiHeld a0 a1 a2 a3 a4 s) := by
  intro a0 a1 a2 a3 a4 s h; unfold setHiHeld
  repeat' with_reducible first | assumption | refine of_snd (by assumption) ?_ | apply modBus_keeps

theorem pairWrite_keeps : ∀ a0 a1 a2 a3 a4 a5 s, Keeps s₀ s → Keeps s₀ (pairWrite a0 a1 a2 a3 a4 a5 s) := by
  intro a0 a1 a2 a3 a4 a5 s h; unfold pairWrite
  repeat' with_reducible first
    | assumption | refine of_snd (by assumption) ?_ | apply setHiHeld_keeps | apply timeStep_keeps | apply cellApply_keeps
    | apply foldl_keeps | intro _ _ _ _ _ | intro _ _ _ | intro _ _ | split

theorem blockWrite_keeps : ∀ a0 a1 a2 a3 a4 s, Keeps s₀ s → Keeps s₀ (blockWrite a0 a1 a2 a3 a4 s) := by
  intro a0 a1 a2 a3 a4 s h; unfold blockWrite
  repeat' with_reducible first
    | assumption | refine of_snd (by assumption) ?_ | apply regErr_keeps | apply setHiHeld_keeps | apply pairWrite_keeps
    | apply cellApply_keeps | apply foldl_keeps | intro _ _ _ _ _ | intro _ _ _ | intro _ _ | split

theorem pairRead_keeps : ∀ a0 a1 a2 a3 s, Keeps s₀ s → Keeps s₀ (pairRead a0 a1 a2 a3 s) := by
  intro a0 a1 a2 a3 s h; unfold pairRead
  repeat' with_reducible first
    | assumption | refine of_snd (by assumption) ?_ | apply setAnswer_keeps | apply modBus_keeps | apply blockRead_keeps
    | apply foldl_keeps | intro _ _ _ _ _ | intro _ _ _ | intro _ _ | split

theorem autoInc_keeps : ∀ a0 a1 a2 s, Keeps s₀ s → Keeps s₀ (autoInc a0 a1 a2 s) := by
  intro a0 a1 a2 s h; unfold autoInc
  repeat' with_reducible first
    | assumption | refine of_snd (by assumption) ?_ | apply modBus_keeps | apply foldl_keeps | intro _ _ _ _ _ | intro _ _ _
    | intro _ _ | split | apply ite_keeps

theorem pageWrite_keeps : ∀ a0 a1 a2 a3 s, Keeps s₀ s → Keeps s₀ (pageWrite a0 a1 a2 a3 s) := by
  intro a0 a1 a2 a3 s h; unfold pageWrite
  repeat' with_reducible first
    | assumption | refine of_snd (by assumption) ?_ | apply hdrWrite_keeps | apply blockWrite_keeps | apply autoInc_keeps
    | apply foldl_keeps | apply foldl_snd_keeps | intro _ _ _ _ _ | intro _ _ _ | intro _ _ | split | apply ite_keeps
    | dsimp only

theorem regRefused_keeps : ∀ a0 a1 s, Keeps s₀ s → Keeps s₀ (regRefused a0 a1 s) := by
  intro a0 a1 s h; unfold regRefused
  repeat' with_reducible first
    | assumption | refine of_snd (by assumption) ?_ | apply countRefusal_keeps | apply foldl_keeps | apply foldl_snd_keeps
    | intro _ _ _ _ _ | intro _ _ _ | intro _ _ | split | apply ite_keeps | dsimp only

theorem busWrite_keeps : ∀ a0 a1 a2 a3 s, Keeps s₀ s → Keeps s₀ (busWrite a0 a1 a2 a3 s) := by
  intro a0 a1 a2 a3 s h; unfold busWrite
  repeat' with_reducible first
    | assumption | refine of_snd (by assumption) ?_ | apply regRefused_keeps | apply recordErr_keeps | apply pageWrite_keeps
    | apply foldl_keeps | apply foldl_snd_keeps | intro _ _ _ _ _ | intro _ _ _ | intro _ _ | split | apply ite_keeps
    | dsimp only

theorem busRead_keeps : ∀ a0 a1 a2 s, Keeps s₀ s → Keeps s₀ (busRead a0 a1 a2 s) := by
  intro a0 a1 a2 s h; unfold busRead
  repeat' with_reducible first
    | assumption | refine of_snd (by assumption) ?_ | apply setAnswer_keeps | apply regRefused_keeps | apply regErr_keeps
    | apply pairRead_keeps | apply autoInc_keeps | apply foldl_keeps | apply foldl_snd_keeps | intro _ _ _ _ _ | intro _ _ _
    | intro _ _ | split | apply ite_keeps | dsimp only

theorem bar0Write_keeps : ∀ a0 a1 a2 s, Keeps s₀ s → Keeps s₀ (bar0Write a0 a1 a2 s) := by
  intro a0 a1 a2 s h; unfold bar0Write
  repeat' with_reducible first
    | assumption | refine of_snd (by assumption) ?_ | apply sqDoorbell_keeps | apply cqDoorbell_keeps
    | apply msixTableWrite_keeps | apply foldl_keeps | intro _ _ _ _ _ | intro _ _ _ | intro _ _ | split

theorem bar0Read_keeps : ∀ a0 a1 s, Keeps s₀ s → Keeps s₀ (bar0Read a0 a1 s) := by
  intro a0 a1 s h; unfold bar0Read
  repeat' with_reducible first | assumption | refine of_snd (by assumption) ?_ | apply setAnswer_keeps

theorem regEffect_keeps : ∀ a0 a1 a2 a3 s, Keeps s₀ s → Keeps s₀ (regEffect a0 a1 a2 a3 s) := by
  intro a0 a1 a2 a3 s h; unfold regEffect
  repeat' with_reducible first
    | assumption | refine of_snd (by assumption) ?_ | apply bar0Write_keeps | apply regErr_keeps | apply busWrite_keeps
    | apply foldl_keeps | apply foldl_snd_keeps | intro _ _ _ _ _ | intro _ _ _ | intro _ _ | split | apply ite_keeps
    | dsimp only

theorem regAnswer_keeps : ∀ a0 a1 a2 s, Keeps s₀ s → Keeps s₀ (regAnswer a0 a1 a2 s) := by
  intro a0 a1 a2 s h; unfold regAnswer
  repeat' with_reducible first
    | assumption | refine of_snd (by assumption) ?_ | apply bar0Read_keeps | apply setAnswer_keeps | apply regErr_keeps
    | apply busRead_keeps | apply foldl_keeps | apply foldl_snd_keeps | intro _ _ _ _ _ | intro _ _ _ | intro _ _ | split
    | apply ite_keeps | dsimp only

theorem packetEnd_keeps : ∀ a0 s, Keeps s₀ s → Keeps s₀ (packetEnd a0 s) := by
  intro a0 s h; unfold packetEnd
  repeat' with_reducible first
    | assumption | refine of_snd (by assumption) ?_ | apply regEffect_keeps | apply deliver_keeps | apply foldl_keeps
    | apply foldl_snd_keeps | intro _ _ _ _ _ | intro _ _ _ | intro _ _ | split | apply ite_keeps | dsimp only

theorem regPass_keeps : ∀ a0 a1 a2 a3 s, Keeps s₀ s → Keeps s₀ (regPass a0 a1 a2 a3 s).2 := by
  intro a0 a1 a2 a3 s h; unfold regPass
  repeat' with_reducible first
    | assumption | refine of_snd (by assumption) ?_ | apply regEffect_keeps | apply lfiPass_keeps | apply packetEnd_keeps
    | apply foldl_keeps | apply foldl_snd_keeps | intro _ _ _ _ _ | intro _ _ _ | intro _ _ | split | apply ite_keeps
    | dsimp only

theorem itemErr_keeps : ∀ a0 a1 a2 s, Keeps s₀ s → Keeps s₀ (itemErr a0 a1 a2 s) := by
  intro a0 a1 a2 s h; unfold itemErr
  repeat' with_reducible first
    | assumption | refine of_snd (by assumption) ?_ | apply regErr_keeps | apply foldl_keeps | apply foldl_snd_keeps
    | intro _ _ _ _ _ | intro _ _ _ | intro _ _ | split | apply ite_keeps | dsimp only

theorem regWrite_keeps : ∀ a0 a1 a2 a3 s, Keeps s₀ s → Keeps s₀ (regWrite a0 a1 a2 a3 s) := by
  intro a0 a1 a2 a3 s h; unfold regWrite
  repeat' with_reducible first
    | assumption | refine of_snd (by assumption) ?_ | apply regPass_keeps | apply itemErr_keeps | apply foldl_keeps
    | apply foldl_snd_keeps | intro _ _ _ _ _ | intro _ _ _ | intro _ _ | split | apply ite_keeps | dsimp only

theorem readPass_keeps : ∀ a0 a1 a2 s, Keeps s₀ s → Keeps s₀ (readPass a0 a1 a2 s).2 := by
  intro a0 a1 a2 s h; unfold readPass
  repeat' with_reducible first
    | assumption | refine of_snd (by assumption) ?_ | apply regAnswer_keeps | apply lfiItem_keeps | apply setAnswer_keeps
    | apply foldl_keeps | apply foldl_snd_keeps | intro _ _ _ _ _ | intro _ _ _ | intro _ _ | split | apply ite_keeps
    | dsimp only

theorem regRead_keeps : ∀ a0 a1 a2 s, Keeps s₀ s → Keeps s₀ (regRead a0 a1 a2 s) := by
  intro a0 a1 a2 s h; unfold regRead
  repeat' with_reducible first
    | assumption | refine of_snd (by assumption) ?_ | apply readPass_keeps | apply itemErr_keeps | apply foldl_keeps
    | apply foldl_snd_keeps | intro _ _ _ _ _ | intro _ _ _ | intro _ _ | split | apply ite_keeps | dsimp only

theorem pageReg_keeps : ∀ a0 a1 a2 a3 s, Keeps s₀ s → Keeps s₀ (pageReg a0 a1 a2 a3 s) := by
  intro a0 a1 a2 a3 s h; unfold pageReg
  repeat' with_reducible first | assumption | refine of_snd (by assumption) ?_ | apply regWrite_keeps

theorem pageGet_keeps : ∀ a0 a1 a2 s, Keeps s₀ s → Keeps s₀ (pageGet a0 a1 a2 s) := by
  intro a0 a1 a2 s h; unfold pageGet
  repeat' with_reducible first | assumption | refine of_snd (by assumption) ?_ | apply regRead_keeps

theorem setAccOvf_keeps : ∀ a0 a1 s, Keeps s₀ s → Keeps s₀ (setAccOvf a0 a1 s) := by
  intro a0 a1 s h; unfold setAccOvf
  repeat' with_reducible first
    | assumption | refine of_snd (by assumption) ?_ | apply raise_keeps | apply modProc_keeps | apply foldl_keeps
    | intro _ _ _ _ _ | intro _ _ _ | intro _ _ | split

theorem setMovSat_keeps : ∀ a0 a1 s, Keeps s₀ s → Keeps s₀ (setMovSat a0 a1 s) := by
  intro a0 a1 s h; unfold setMovSat
  repeat' with_reducible first
    | assumption | refine of_snd (by assumption) ?_ | apply modProc_keeps | apply foldl_keeps | intro _ _ _ _ _ | intro _ _ _
    | intro _ _ | split

theorem countSatEvents_keeps : ∀ a0 a1 s, Keeps s₀ s → Keeps s₀ (countSatEvents a0 a1 s) := by
  intro a0 a1 s h; unfold countSatEvents
  repeat' with_reducible first | assumption | refine of_snd (by assumption) ?_ | apply modProc_keeps

theorem countSteps_keeps : ∀ a0 a1 s, Keeps s₀ s → Keeps s₀ (countSteps a0 a1 s) := by
  intro a0 a1 s h; unfold countSteps
  repeat' with_reducible first
    | assumption | refine of_snd (by assumption) ?_ | apply modProc_keeps | apply modShare_keeps | apply foldl_keeps
    | intro _ _ _ _ _ | intro _ _ _ | intro _ _ | split | apply ite_keeps | dsimp only

theorem countWaits_keeps : ∀ a0 a1 s, Keeps s₀ s → Keeps s₀ (countWaits a0 a1 s) := by
  intro a0 a1 s h; unfold countWaits
  repeat' with_reducible first | assumption | refine of_snd (by assumption) ?_ | apply modProc_keeps | apply countSteps_keeps

theorem procFault_keeps : ∀ a0 a1 a2 s, Keeps s₀ s → Keeps s₀ (procFault a0 a1 a2 s) := by
  intro a0 a1 a2 s h; unfold procFault
  repeat' with_reducible first
    | assumption | refine of_snd (by assumption) ?_ | apply mgmtFault_keeps | apply coreFaultEnds_keeps | apply foldl_keeps
    | intro _ _ _ _ _ | intro _ _ _ | intro _ _ | split

theorem cmemDetection_keeps : ∀ a0 a1 a2 s, Keeps s₀ s → Keeps s₀ (cmemDetection a0 a1 a2 s) := by
  intro a0 a1 a2 s h; unfold cmemDetection
  repeat' with_reducible first
    | assumption | refine of_snd (by assumption) ?_ | apply coreParity_keeps | apply carriedDetection_keeps
    | apply stepDetection_keeps | apply foldl_keeps | intro _ _ _ _ _ | intro _ _ _ | intro _ _ | split

theorem ownDetection_keeps : ∀ a0 a1 s, Keeps s₀ s → Keeps s₀ (ownDetection a0 a1 s) := by
  intro a0 a1 s h; unfold ownDetection
  repeat' with_reducible first
    | assumption | refine of_snd (by assumption) ?_ | apply sramDetection_keeps | apply shmStepDetection_keeps
    | apply countDet_keeps | apply cmemDetection_keeps | apply stepDetection_keeps | apply coreParity_keeps | apply foldl_keeps
    | intro _ _ _ _ _ | intro _ _ _ | intro _ _ | split

theorem serveOp_keeps : ∀ a0 a1 s, Keeps s₀ s → Keeps s₀ (serveOp a0 a1 s) := by
  intro a0 a1 s h; unfold serveOp
  repeat' with_reducible first
    | assumption | refine of_snd (by assumption) ?_ | apply pushRes_keeps | apply viewPut_keeps | apply foldl_keeps
    | intro _ _ _ _ _ | intro _ _ _ | intro _ _ | split

theorem gsRun_keeps : ∀ a0 a1 a2 s, Keeps s₀ s → Keeps s₀ (gsRun a0 a1 a2 s).1 := by
  intro a0 a1 a2 s h; unfold gsRun
  repeat' with_reducible first
    | assumption | refine of_snd (by assumption) ?_ | apply viewPut_keeps | apply modProc_keeps | apply countWaits_keeps
    | apply foldl_keeps | intro _ _ _ _ _ | intro _ _ _ | intro _ _ | split

theorem gsFault_keeps : ∀ a0 a1 a2 a3 a4 a5 a6 s, Keeps s₀ s → Keeps s₀ (gsFault a0 a1 a2 a3 a4 a5 a6 s) := by
  intro a0 a1 a2 a3 a4 a5 a6 s h; unfold gsFault
  repeat' with_reducible first
    | assumption | refine of_snd (by assumption) ?_ | apply modProc_keeps | apply coreFaultEnds_keeps | apply foldl_keeps
    | apply foldl_snd_keeps | intro _ _ _ _ _ | intro _ _ _ | intro _ _ | split | apply ite_keeps | dsimp only

theorem gsServe_keeps : ∀ n sc ops (x : State × Option GsStop), Keeps s₀ x.1 → Keeps s₀ (gsServe n sc ops x).1 := by
  intro n sc ops x h
  unfold gsServe
  induction ops generalizing x with
  | nil => exact h
  | cons o ops ih =>
    refine ih _ ?_
    repeat' with_reducible first
      | assumption | apply gsRun_keeps | split | dsimp only

theorem bundleFinish_keeps : ∀ n s, Keeps s₀ s → Keeps s₀ (bundleFinish n s) := by
  intro n s h; unfold bundleFinish
  repeat' with_reducible first
    | assumption | apply ownDetection_keeps | apply gsFault_keeps | apply modProc_keeps | apply gsServe_keeps | apply countWaits_keeps
    | apply countSteps_keeps | apply repeatEnd_keeps | apply serveOp_keeps | apply foldl_keeps | intro _ _ _ | split | dsimp only

theorem arrayPush_keeps : ∀ a0 a1 s, Keeps s₀ s → Keeps s₀ (arrayPush a0 a1 s) := by
  intro a0 a1 s h; unfold arrayPush
  repeat' with_reducible first | assumption | refine of_snd (by assumption) ?_ | apply modArray_keeps

theorem coreKick_keeps : ∀ a0 a1 s, Keeps s₀ s → Keeps s₀ (coreKick a0 a1 s) := by
  intro a0 a1 s h; unfold coreKick
  repeat' with_reducible first
    | assumption | refine of_snd (by assumption) ?_ | apply procFault_keeps | apply regErr_keeps | apply kick_keeps
    | apply modProc_keeps | apply foldl_keeps | intro _ _ _ _ _ | intro _ _ _ | intro _ _ | split | apply ite_keeps

theorem waitDo_keeps : ∀ a0 a1 s, Keeps s₀ s → Keeps s₀ (waitDo a0 a1 s) := by
  intro a0 a1 s h; unfold waitDo
  repeat' with_reducible first
    | assumption | refine of_snd (by assumption) ?_ | apply arrayPush_keeps | apply modProc_keeps | apply kick_keeps
    | apply coreKick_keeps | apply foldl_keeps | apply foldl_snd_keeps | intro _ _ _ _ _ | intro _ _ _ | intro _ _ | split
    | apply ite_keeps | dsimp only

theorem waitsRun_keeps : ∀ n ws s, Keeps s₀ s → Keeps s₀ (waitsRun n ws s).2 := by
  intro n ws
  induction ws with
  | nil => intro s h; exact h
  | cons w ws ih =>
    intro s h
    unfold waitsRun
    repeat' with_reducible first
      | apply ih | assumption | refine of_snd (by assumption) ?_ | apply waitDo_keeps | intro _ _
      | split

theorem settle_keeps : ∀ a0 s, Keeps s₀ s → Keeps s₀ (settle a0 s) := by
  intro a0 s h; unfold settle
  repeat' with_reducible first
    | assumption | refine of_snd (by assumption) ?_ | apply waitsRun_keeps | apply modProc_keeps | apply bundleFinish_keeps
    | apply foldl_keeps | apply foldl_snd_keeps | intro _ _ _ _ _ | intro _ _ _ | intro _ _ | split | apply ite_keeps
    | dsimp only

theorem waitRelease_keeps : ∀ a0 a1 s, Keeps s₀ s → Keeps s₀ (waitRelease a0 a1 s) := by
  intro a0 a1 s h; unfold waitRelease
  repeat' with_reducible first
    | assumption | refine of_snd (by assumption) ?_ | apply settle_keeps | apply countWaits_keeps | apply foldl_keeps
    | intro _ _ _ _ _ | intro _ _ _ | intro _ _ | split | apply ite_keeps | dsimp only

theorem bundleEnd_keeps : ∀ a0 s, Keeps s₀ s → Keeps s₀ (bundleEnd a0 s) := by
  intro a0 s h; unfold bundleEnd
  repeat' with_reducible first
    | assumption | refine of_snd (by assumption) ?_ | apply procFault_keeps | apply pushRes_keeps | apply draw_keeps
    | apply settle_keeps | apply modProc_keeps | apply foldl_keeps | intro _ _ _ _ _ | intro _ _ _ | intro _ _ | split
    | apply ite_keeps

theorem sylPlace_keeps : ∀ a0 a1 a2 s, Keeps s₀ s → Keeps s₀ (sylPlace a0 a1 a2 s) := by
  intro a0 a1 a2 s h; unfold sylPlace
  repeat' with_reducible first | assumption | refine of_snd (by assumption) ?_ | apply modProc_keeps

theorem issue_keeps : ∀ a slot ext f s, (∀ t, Keeps s₀ t → OkKeeps s₀ (f t)) → Keeps s₀ s → Keeps s₀ (issue a slot ext f s) := by
  intro a slot ext f s hf h
  unfold issue
  repeat' with_reducible first
    | (refine (hf _ ?_).keeps _ (by assumption)) | assumption | apply sylPlace_keeps | apply procFault_keeps | apply bundleEnd_keeps | apply ownDetection_keeps
    | split | apply ite_keeps | dsimp only

theorem issueRes_keeps : ∀ a0 a1 a2 a3 a4 s, Keeps s₀ s → Keeps s₀ (issueRes a0 a1 a2 a3 a4 s) := by
  intro a0 a1 a2 a3 a4 s h; unfold issueRes
  repeat' with_reducible first
    | assumption | apply okKeeps_ok | exact okKeeps_error | refine of_snd (by assumption) ?_ | apply issue_keeps
    | apply pushRes_keeps | apply foldl_keeps | intro _ _ _ _ _ | intro _ _ _ | intro _ _

theorem touchV_keeps : ∀ a0 a1 s, Keeps s₀ s → Keeps s₀ (touchV a0 a1 s) := by
  intro a0 a1 s h; unfold touchV
  repeat' with_reducible first
    | assumption | refine of_snd (by assumption) ?_ | apply countWaits_keeps | apply modProc_keeps | apply foldl_keeps
    | intro _ _ _ _ _ | intro _ _ _ | intro _ _ | split | apply ite_keeps

theorem interruptEntry_keeps : ∀ a0 s, Keeps s₀ s → Keeps s₀ (interruptEntry a0 s) := by
  intro a0 s h; unfold interruptEntry
  repeat' with_reducible first
    | assumption | refine of_snd (by assumption) ?_ | apply modProc_keeps | apply foldl_keeps | intro _ _ _ _ _ | intro _ _ _
    | intro _ _ | split | apply ite_keeps

theorem remoteLoad_keeps : ∀ a0 a1 a2 s, Keeps s₀ s → AnswerKeeps s₀ (remoteLoad a0 a1 a2 s) := by
  intro a0 a1 a2 s h; unfold remoteLoad
  repeat' with_reducible first
    | assumption | apply AnswerKeeps.done | apply AnswerKeeps.failed | apply AnswerKeeps.waits | apply AnswerKeeps.spoiled
    | refine of_snd (by assumption) ?_ | apply countRefusal_keeps | apply readPass_keeps | apply lfiItem_keeps
    | apply hostReadSent_keeps | apply draw_keeps | apply send_keeps | apply foldl_keeps | apply foldl_snd_keeps
    | intro _ _ _ _ _ | intro _ _ _ | intro _ _ | split | apply ite_keeps | dsimp only

theorem remoteStore_keeps : ∀ a0 a1 a2 a3 s, Keeps s₀ s → AnswerKeeps s₀ (remoteStore a0 a1 a2 a3 s) := by
  intro a0 a1 a2 a3 s h; unfold remoteStore
  repeat' with_reducible first
    | assumption | apply AnswerKeeps.done | apply AnswerKeeps.failed | apply AnswerKeeps.waits | apply AnswerKeeps.spoiled
    | refine of_snd (by assumption) ?_ | apply countRefusal_keeps | apply regPass_keeps | apply lfiPass_keeps
    | apply packetEnd_keeps | apply foldl_keeps | apply foldl_snd_keeps | intro _ _ _ _ _ | intro _ _ _ | intro _ _ | split
    | apply ite_keeps | dsimp only

theorem remoteWaited_keeps : ∀ a0 s, Keeps s₀ s → Keeps s₀ (remoteWaited a0 s) := by
  intro a0 s h; unfold remoteWaited
  repeat' with_reducible first | assumption | refine of_snd (by assumption) ?_ | apply draw_keeps | apply countWaits_keeps

theorem remoteOver_keeps : ∀ a0 s, Keeps s₀ s → Keeps s₀ (remoteOver a0 s) := by
  intro a0 s h; unfold remoteOver
  repeat' with_reducible first
    | assumption | refine of_snd (by assumption) ?_ | apply remoteWaited_keeps | apply settle_keeps | apply modProc_keeps

theorem remoteFails_keeps : ∀ a0 a1 a2 s, Keeps s₀ s → Keeps s₀ (remoteFails a0 a1 a2 s) := by
  intro a0 a1 a2 s h; unfold remoteFails
  repeat' with_reducible first
    | assumption | refine of_snd (by assumption) ?_ | apply procFault_keeps | apply remoteWaited_keeps

theorem remoteLanded_keeps : ∀ a0 a1 a2 a3 a4 a5 a6 s, Keeps s₀ s → Keeps s₀ (remoteLanded a0 a1 a2 a3 a4 a5 a6 s) := by
  intro a0 a1 a2 a3 a4 a5 a6 s h; unfold remoteLanded
  repeat' with_reducible first
    | assumption | refine of_snd (by assumption) ?_ | apply pushRes_keeps | apply remoteOver_keeps | apply readerDetection_keeps
    | apply ownDetection_keeps | apply remoteWaited_keeps | apply foldl_keeps | intro _ _ _ _ _ | intro _ _ _ | intro _ _
    | split

theorem remoteEcc_keeps : ∀ a0 a1 a2 s, Keeps s₀ s → Keeps s₀ (remoteEcc a0 a1 a2 s) := by
  intro a0 a1 a2 s h; unfold remoteEcc
  repeat' with_reducible first
    | assumption | refine of_snd (by assumption) ?_ | apply draw_keeps | apply dramError_keeps | apply remoteFails_keeps
    | apply foldl_keeps | apply foldl_snd_keeps | intro _ _ _ _ _ | intro _ _ _ | intro _ _ | split | apply ite_keeps
    | dsimp only

theorem remoteSpoiled_keeps : ∀ a0 a1 a2 s, Keeps s₀ s → Keeps s₀ (remoteSpoiled a0 a1 a2 s) := by
  intro a0 a1 a2 s h; unfold remoteSpoiled
  repeat' with_reducible first
    | assumption | refine of_snd (by assumption) ?_ | apply remoteFails_keeps | apply stepDetection_keeps
    | apply coreParity_keeps | apply remoteWaited_keeps | apply foldl_keeps | apply foldl_snd_keeps | intro _ _ _ _ _
    | intro _ _ _ | intro _ _ | split | apply ite_keeps | dsimp only

theorem remoteDone_keeps : ∀ n x s, Keeps s₀ s → Keeps s₀ (remoteDone n x s) := by
  intro n x s h
  have hl : ∀ a size x, remoteLoad n a size s = x → Keeps s₀ x.left := fun a size x e => e ▸ (remoteLoad_keeps n a size s h).of_left
  have hs : ∀ a size v x, remoteStore n a size v s = x → Keeps s₀ x.left :=
    fun a size v x e => e ▸ (remoteStore_keeps n a size v s h).of_left
  unfold remoteDone
  repeat' first
    | (with_reducible first
        | assumption | apply remoteEcc_keeps | apply remoteLanded_keeps | apply remoteFails_keeps | apply remoteSpoiled_keeps
        | apply modProc_keeps | apply dramCorrects_keeps | apply remoteOver_keeps | apply pushRes_keeps | split | apply ite_keeps | dsimp only)
    | (refine hl _ _ (.done _ _) (by assumption)) | (refine hs _ _ _ (.done _ _) (by assumption))
    | (refine hl _ _ (.failed _ _) (by assumption)) | (refine hs _ _ _ (.failed _ _) (by assumption))
    | (refine hl _ _ (.waits _) (by assumption)) | (refine hs _ _ _ (.waits _) (by assumption))
    | (refine hl _ _ (.spoiled _) (by assumption)) | (refine hs _ _ _ (.spoiled _) (by assumption))

theorem nocTimeout_keeps : ∀ a0 s, Keeps s₀ s → Keeps s₀ (nocTimeout a0 s) := by
  intro a0 s h; unfold nocTimeout
  repeat' with_reducible first
    | assumption | refine of_snd (by assumption) ?_ | apply remoteFails_keeps | apply countWrap_keeps | apply codeTimeout_keeps
    | apply foldl_keeps | intro _ _ _ _ _ | intro _ _ _ | intro _ _ | split | apply ite_keeps | dsimp only

theorem beatRead_keeps : ∀ a0 a1 a2 s, Keeps s₀ s → Keeps s₀ (beatRead a0 a1 a2 s).2 := by
  intro a0 a1 a2 s h; unfold beatRead
  repeat' with_reducible first
    | assumption | apply okKeeps_ok | exact okKeeps_error | refine of_snd (by assumption) ?_ | apply busRead_keeps
    | apply hostReadSent_keeps | apply draw_keeps | apply send_keeps | apply rangeDetected_keeps | apply foldl_keeps
    | apply foldl_snd_keeps | intro _ _ _ _ _ | intro _ _ _ | intro _ _ | split | apply ite_keeps | dsimp only

theorem haltCheck_keeps : ∀ a0 a1 s, Keeps s₀ s → Keeps s₀ (haltCheck a0 a1 s) := by
  intro a0 a1 s h; unfold haltCheck
  repeat' with_reducible first
    | assumption | refine of_snd (by assumption) ?_ | apply stepDetection_keeps | apply coreFaultEnds_keeps | apply foldl_keeps
    | intro _ _ _ _ _ | intro _ _ _ | intro _ _ | split | apply ite_keeps

theorem chanDetection_keeps : ∀ a0 a1 a2 s, Keeps s₀ s → Keeps s₀ (chanDetection a0 a1 a2 s) := by
  intro a0 a1 a2 s h; unfold chanDetection
  repeat' with_reducible first
    | assumption | refine of_snd (by assumption) ?_ | apply shmStepDetection_keeps | apply countDet_keeps | apply chanHalt_keeps
    | apply haltCheck_keeps | apply readerDetection_keeps | apply foldl_keeps | intro _ _ _ _ _ | intro _ _ _ | intro _ _
    | split | apply ite_keeps | dsimp only

theorem chanFails_keeps : ∀ a0 a1 a2 a3 s, Keeps s₀ s → Keeps s₀ (chanFails a0 a1 a2 a3 s) := by
  intro a0 a1 a2 a3 s h; unfold chanFails
  repeat' with_reducible first
    | assumption | refine of_snd (by assumption) ?_ | apply chanDetection_keeps | apply haltCheck_keeps | apply chanHalt_keeps
    | apply foldl_keeps | intro _ _ _ _ _ | intro _ _ _ | intro _ _ | split

theorem loadBeat_keeps : ∀ a0 a1 a2 s, Keeps s₀ s → Keeps s₀ (loadBeat a0 a1 a2 s).2 := by
  intro a0 a1 a2 s h; unfold loadBeat
  repeat' with_reducible first
    | assumption | refine of_snd (by assumption) ?_ | apply lfiItem_keeps | apply beatRead_keeps | apply modChan_keeps
    | apply foldl_keeps | intro _ _ _ _ _ | intro _ _ _ | intro _ _ | split

theorem loadBeats_keeps : ∀ c size as s, Keeps s₀ s → Keeps s₀ (loadBeats c size as s).2 := by
  intro c size as
  induction as with
  | nil => intro s h; exact h
  | cons a as ih =>
    intro s h
    unfold loadBeats
    repeat' with_reducible first
      | apply ih | assumption | refine of_snd (by assumption) ?_ | apply loadBeat_keeps | intro _ _
      | split

theorem storeCells_keeps : ∀ a0 a1 s, Keeps s₀ s → Keeps s₀ (storeCells a0 a1 s).2 := by
  intro a0 a1 s h; unfold storeCells
  repeat' with_reducible first
    | assumption | refine of_snd (by assumption) ?_ | apply regPass_keeps | apply lfiPass_keeps | apply packetEnd_keeps
    | apply foldl_keeps | apply foldl_snd_keeps | intro _ _ _ _ _ | intro _ _ _ | intro _ _ | split | apply ite_keeps
    | dsimp only

theorem noteMalformed_keeps : ∀ a0 a1 a2 a3 a4 s, Keeps s₀ s → Keeps s₀ (noteMalformed a0 a1 a2 a3 a4 s) := by
  intro a0 a1 a2 a3 a4 s h; unfold noteMalformed
  repeat' with_reducible first
    | assumption | refine of_snd (by assumption) ?_ | apply modChan_keeps | apply foldl_keeps | intro _ _ _ _ _ | intro _ _ _
    | intro _ _ | split

theorem moveBeat_keeps : ∀ a0 s, Keeps s₀ s → Keeps s₀ (moveBeat a0 s).2 := by
  intro a0 s h; unfold moveBeat
  repeat' with_reducible first
    | assumption | refine of_snd (by assumption) ?_ | apply loadBeats_keeps | apply noteMalformed_keeps
    | apply storeCells_keeps | apply setPair_keeps | apply modChan_keeps | apply foldl_keeps | apply foldl_snd_keeps
    | intro _ _ _ _ _ | intro _ _ _ | intro _ _ | split | apply ite_keeps | dsimp only

theorem moveBeats_keeps : ∀ c n s, Keeps s₀ s → Keeps s₀ (moveBeats c n s).2 := by
  intro c n
  induction n with
  | zero => intro s h; exact h
  | succ n ih =>
    intro s h
    unfold moveBeats
    repeat' with_reducible first
      | apply ih | assumption | refine of_snd (by assumption) ?_ | apply moveBeat_keeps | intro _ _
      | split

theorem beatStopped_keeps : ∀ c b (x : Option BeatStop × State), Keeps s₀ x.2 → Keeps s₀ (beatStopped c b x) := by
  intro c b x h; unfold beatStopped
  repeat' with_reducible first
    | assumption | apply chanDetection_keeps | apply haltCheck_keeps | apply chanHalt_keeps | split

theorem takeMover_keeps : ∀ a0 a1 s, Keeps s₀ s → Keeps s₀ (takeMover a0 a1 s) := by
  intro a0 a1 s h; unfold takeMover
  repeat' with_reducible first | assumption | refine of_snd (by assumption) ?_ | apply takeTurn_keeps | apply modChan_keeps

theorem preempt_keeps : ∀ a0 s, Keeps s₀ s → Keeps s₀ (preempt a0 s) := by
  intro a0 s h; unfold preempt
  repeat' with_reducible first
    | assumption | refine of_snd (by assumption) ?_ | apply takeTurn_keeps | apply countWrap_keeps | apply modChan_keeps

theorem beatsCorrected_keeps : ∀ a0 a1 a2 s, Keeps s₀ s → Keeps s₀ (beatsCorrected a0 a1 a2 s) := by
  intro a0 a1 a2 s h; unfold beatsCorrected
  repeat' with_reducible first
    | assumption | refine of_snd (by assumption) ?_ | apply dramCorrected_keeps | apply foldl_keeps | apply foldl_snd_keeps
    | intro _ _ _ _ _ | intro _ _ _ | intro _ _ | split | apply ite_keeps | dsimp only

theorem moverGrant_keeps : ∀ a0 a1 a2 a3 s, Keeps s₀ s → Keeps s₀ (moverGrant a0 a1 a2 a3 s) := by
  intro a0 a1 a2 a3 s h; unfold moverGrant
  repeat' with_reducible first
    | assumption | refine of_snd (by assumption) ?_ | apply moveBeats_keeps | apply beatStopped_keeps
    | apply beatsCorrected_keeps | apply takeMover_keeps | apply preempt_keeps | apply foldl_keeps | apply foldl_snd_keeps
    | intro _ _ _ _ _ | intro _ _ _ | intro _ _ | split | apply ite_keeps | dsimp only

theorem descFetched_keeps : ∀ a0 a1 s, Keeps s₀ s → Keeps s₀ (descFetched a0 a1 s) := by
  intro a0 a1 s h; unfold descFetched
  repeat' with_reducible first
    | assumption | apply okKeeps_ok | exact okKeeps_error | refine of_snd (by assumption) ?_ | apply chanHalt_keeps
    | apply dramError_keeps | apply lfiItem_keeps | apply dramCorrects_keeps | apply beatRead_keeps
    | apply chanDetection_keeps | apply modChan_keeps | apply handOver_keeps | apply foldl_keeps | apply foldl_snd_keeps
    | intro _ _ _ _ _ | intro _ _ _ | intro _ _ | split | apply ite_keeps | dsimp only

theorem wbFails_keeps : ∀ a0 a1 a2 s, Keeps s₀ s → Keeps s₀ (wbFails a0 a1 a2 s) := by
  intro a0 a1 a2 s h; unfold wbFails
  repeat' with_reducible first
    | assumption | refine of_snd (by assumption) ?_ | apply modChan_keeps | apply recordErr_keeps | apply countRefusal_keeps
    | apply chanHalt_keeps | apply foldl_keeps | apply foldl_snd_keeps | intro _ _ _ _ _ | intro _ _ _ | intro _ _ | split
    | apply ite_keeps | dsimp only

theorem wbIssue_keeps : ∀ c w k ws s, Keeps s₀ s → Keeps s₀ (wbIssue c w k ws s) := by
  intro c w k ws
  induction ws with
  | nil => intro s h; exact h
  | cons x ws ih =>
    intro s h
    unfold wbIssue
    repeat' with_reducible first
      | apply ih | assumption | refine of_snd (by assumption) ?_ | apply storeCells_keeps | apply wbFails_keeps | apply modChan_keeps
      | split

theorem wbAdvance_keeps : ∀ a0 s, Keeps s₀ s → Keeps s₀ (wbAdvance a0 s) := by
  intro a0 s h; unfold wbAdvance
  repeat' with_reducible first
    | assumption | refine of_snd (by assumption) ?_ | apply wbIssue_keeps | apply modChan_keeps | apply chanDone_keeps
    | apply foldl_keeps | apply foldl_snd_keeps | intro _ _ _ _ _ | intro _ _ _ | intro _ _ | split | apply ite_keeps
    | dsimp only

theorem wbRest_keeps : ∀ a0 a1 s, Keeps s₀ s → Keeps s₀ (wbRest a0 a1 s) := by
  intro a0 a1 s h; unfold wbRest
  repeat' with_reducible first
    | assumption | refine of_snd (by assumption) ?_ | apply wbAdvance_keeps | apply foldl_keeps | apply foldl_snd_keeps
    | intro _ _ _ _ _ | intro _ _ _ | intro _ _ | split | apply ite_keeps | dsimp only

theorem writebackDone_keeps : ∀ a0 s, Keeps s₀ s → Keeps s₀ (writebackDone a0 s) := by
  intro a0 s h; unfold writebackDone
  repeat' with_reducible first
    | assumption | refine of_snd (by assumption) ?_ | apply wbRest_keeps | apply wbAdvance_keeps | apply foldl_keeps
    | apply foldl_snd_keeps | intro _ _ _ _ _ | intro _ _ _ | intro _ _ | split | apply ite_keeps | dsimp only

theorem transferHalt_keeps : ∀ a0 a1 a2 s, Keeps s₀ s → Keeps s₀ (transferHalt a0 a1 a2 s) := by
  intro a0 a1 a2 s h; unfold transferHalt
  repeat' with_reducible first
    | assumption | refine of_snd (by assumption) ?_ | apply countWrap_keeps | apply dramError_keeps | apply chanFails_keeps
    | apply foldl_keeps | intro _ _ _ _ _ | intro _ _ _ | intro _ _ | split | apply ite_keeps

theorem parityAt_coreMemory_keeps : ∀ s a0 a1 a2, Keeps s₀ s → Keeps s₀ (parityAt.coreMemory s a0 a1 a2) := by
  intro s a0 a1 a2 h; unfold parityAt.coreMemory
  repeat' with_reducible first
    | assumption | refine of_snd (by assumption) ?_ | apply chanDetection_keeps | apply stepDetection_keeps
    | apply coreParity_keeps | apply foldl_keeps | intro _ _ _ _ _ | intro _ _ _ | intro _ _ | split

theorem parityAt_keeps : ∀ a0 s, Keeps s₀ s → Keeps s₀ (parityAt a0 s) := by
  intro a0 s h; unfold parityAt
  repeat' with_reducible first
    | assumption | refine of_snd (by assumption) ?_ | apply parityAt_coreMemory_keeps | apply cmemDetection_keeps
    | apply chanDetection_keeps | apply coreParity_keeps | apply shmStepDetection_keeps | apply countDet_keeps
    | apply shmOtherDetection_keeps | apply sramDetection_keeps | apply carafeDetection_keeps | apply foldl_keeps
    | intro _ _ _ _ _ | intro _ _ _ | intro _ _ | split

theorem intOp_keeps : ∀ a0 a1 a2 a3 a4 a5 s, Keeps s₀ s → Keeps s₀ (intOp a0 a1 a2 a3 a4 a5 s) := by
  intro a0 a1 a2 a3 a4 a5 s h; unfold intOp
  repeat' with_reducible first | assumption | refine of_snd (by assumption) ?_ | apply issueRes_keeps

theorem shiftOp_keeps : ∀ a0 a1 a2 a3 a4 a5 s, Keeps s₀ s → Keeps s₀ (shiftOp a0 a1 a2 a3 a4 a5 s) := by
  intro a0 a1 a2 a3 a4 a5 s h; unfold shiftOp
  repeat' with_reducible first | assumption | refine of_snd (by assumption) ?_ | apply issueRes_keeps

theorem execNop_keeps : ∀ a0 a1 s, Keeps s₀ s → OutKeeps s₀ (execNop a0 a1 s) := by
  intro a0 a1 s h; unfold execNop
  repeat' with_reducible first
    | apply outKeeps_next | assumption | apply okKeeps_ok | exact okKeeps_error | refine of_snd (by assumption) ?_
    | apply issue_keeps

theorem execAdd_keeps : ∀ a0 a1 a2 a3 s, Keeps s₀ s → OutKeeps s₀ (execAdd a0 a1 a2 a3 s) := by
  intro a0 a1 a2 a3 s h; unfold execAdd
  repeat' with_reducible first | apply outKeeps_next | assumption | refine of_snd (by assumption) ?_ | apply intOp_keeps

theorem execAddi_keeps : ∀ a0 a1 a2 a3 a4 s, Keeps s₀ s → OutKeeps s₀ (execAddi a0 a1 a2 a3 a4 s) := by
  intro a0 a1 a2 a3 a4 s h; unfold execAddi
  repeat' with_reducible first | apply outKeeps_next | assumption | refine of_snd (by assumption) ?_ | apply issueRes_keeps

theorem execSub_keeps : ∀ a0 a1 a2 a3 s, Keeps s₀ s → OutKeeps s₀ (execSub a0 a1 a2 a3 s) := by
  intro a0 a1 a2 a3 s h; unfold execSub
  repeat' with_reducible first | apply outKeeps_next | assumption | refine of_snd (by assumption) ?_ | apply intOp_keeps

theorem execAnd_keeps : ∀ a0 a1 a2 a3 s, Keeps s₀ s → OutKeeps s₀ (execAnd a0 a1 a2 a3 s) := by
  intro a0 a1 a2 a3 s h; unfold execAnd
  repeat' with_reducible first | apply outKeeps_next | assumption | refine of_snd (by assumption) ?_ | apply intOp_keeps

theorem execOr_keeps : ∀ a0 a1 a2 a3 s, Keeps s₀ s → OutKeeps s₀ (execOr a0 a1 a2 a3 s) := by
  intro a0 a1 a2 a3 s h; unfold execOr
  repeat' with_reducible first | apply outKeeps_next | assumption | refine of_snd (by assumption) ?_ | apply intOp_keeps

theorem execXor_keeps : ∀ a0 a1 a2 a3 s, Keeps s₀ s → OutKeeps s₀ (execXor a0 a1 a2 a3 s) := by
  intro a0 a1 a2 a3 s h; unfold execXor
  repeat' with_reducible first | apply outKeeps_next | assumption | refine of_snd (by assumption) ?_ | apply intOp_keeps

theorem execShl_keeps : ∀ a0 a1 a2 a3 a4 s, Keeps s₀ s → OutKeeps s₀ (execShl a0 a1 a2 a3 a4 s) := by
  intro a0 a1 a2 a3 a4 s h; unfold execShl
  repeat' with_reducible first | apply outKeeps_next | assumption | refine of_snd (by assumption) ?_ | apply shiftOp_keeps

theorem execShr_keeps : ∀ a0 a1 a2 a3 a4 s, Keeps s₀ s → OutKeeps s₀ (execShr a0 a1 a2 a3 a4 s) := by
  intro a0 a1 a2 a3 a4 s h; unfold execShr
  repeat' with_reducible first | apply outKeeps_next | assumption | refine of_snd (by assumption) ?_ | apply shiftOp_keeps

theorem execSra_keeps : ∀ a0 a1 a2 a3 a4 s, Keeps s₀ s → OutKeeps s₀ (execSra a0 a1 a2 a3 a4 s) := by
  intro a0 a1 a2 a3 a4 s h; unfold execSra
  repeat' with_reducible first | apply outKeeps_next | assumption | refine of_snd (by assumption) ?_ | apply shiftOp_keeps

theorem execSlt_keeps : ∀ a0 a1 a2 a3 s, Keeps s₀ s → OutKeeps s₀ (execSlt a0 a1 a2 a3 s) := by
  intro a0 a1 a2 a3 s h; unfold execSlt
  repeat' with_reducible first | apply outKeeps_next | assumption | refine of_snd (by assumption) ?_ | apply intOp_keeps

theorem execSltu_keeps : ∀ a0 a1 a2 a3 s, Keeps s₀ s → OutKeeps s₀ (execSltu a0 a1 a2 a3 s) := by
  intro a0 a1 a2 a3 s h; unfold execSltu
  repeat' with_reducible first | apply outKeeps_next | assumption | refine of_snd (by assumption) ?_ | apply intOp_keeps

theorem execMul_keeps : ∀ a0 a1 a2 a3 s, Keeps s₀ s → OutKeeps s₀ (execMul a0 a1 a2 a3 s) := by
  intro a0 a1 a2 a3 s h; unfold execMul
  repeat' with_reducible first | apply outKeeps_next | assumption | refine of_snd (by assumption) ?_ | apply intOp_keeps

theorem execMulh_keeps : ∀ a0 a1 a2 a3 s, Keeps s₀ s → OutKeeps s₀ (execMulh a0 a1 a2 a3 s) := by
  intro a0 a1 a2 a3 s h; unfold execMulh
  repeat' with_reducible first | apply outKeeps_next | assumption | refine of_snd (by assumption) ?_ | apply intOp_keeps

theorem execMovi_keeps : ∀ a0 a1 a2 a3 s, Keeps s₀ s → OutKeeps s₀ (execMovi a0 a1 a2 a3 s) := by
  intro a0 a1 a2 a3 s h; unfold execMovi
  repeat' with_reducible first | apply outKeeps_next | assumption | refine of_snd (by assumption) ?_ | apply issueRes_keeps

theorem openDelay_keeps : ∀ a0 a1 a2 s, Keeps s₀ s → Keeps s₀ (openDelay a0 a1 a2 s) := by
  intro a0 a1 a2 s h; unfold openDelay
  repeat' with_reducible first | assumption | refine of_snd (by assumption) ?_ | apply modProc_keeps

theorem transfer_keeps : ∀ a0 a1 a2 s, Keeps s₀ s → Keeps s₀ (transfer a0 a1 a2 s) := by
  intro a0 a1 a2 s h; unfold transfer
  repeat' with_reducible first
    | assumption | apply okKeeps_ok | exact okKeeps_error | refine of_snd (by assumption) ?_ | apply issue_keeps
    | apply openDelay_keeps | apply foldl_keeps | intro _ _ _ _ _ | intro _ _ _ | intro _ _ | split | apply ite_keeps
    | dsimp only

theorem execBnz_keeps : ∀ a0 a1 a2 s, Keeps s₀ s → OutKeeps s₀ (execBnz a0 a1 a2 s) := by
  intro a0 a1 a2 s h; unfold execBnz
  repeat' with_reducible first | apply outKeeps_next | assumption | refine of_snd (by assumption) ?_ | apply transfer_keeps

theorem execBz_keeps : ∀ a0 a1 a2 s, Keeps s₀ s → OutKeeps s₀ (execBz a0 a1 a2 s) := by
  intro a0 a1 a2 s h; unfold execBz
  repeat' with_reducible first | apply outKeeps_next | assumption | refine of_snd (by assumption) ?_ | apply transfer_keeps

theorem execJmp_keeps : ∀ a0 a1 s, Keeps s₀ s → OutKeeps s₀ (execJmp a0 a1 s) := by
  intro a0 a1 s h; unfold execJmp
  repeat' with_reducible first | apply outKeeps_next | assumption | refine of_snd (by assumption) ?_ | apply transfer_keeps

theorem execCall_keeps : ∀ a0 a1 s, Keeps s₀ s → OutKeeps s₀ (execCall a0 a1 s) := by
  intro a0 a1 s h; unfold execCall
  repeat' with_reducible first
    | apply outKeeps_next | assumption | apply okKeeps_ok | exact okKeeps_error | refine of_snd (by assumption) ?_
    | apply issue_keeps | apply openDelay_keeps | apply modProc_keeps | apply foldl_keeps | intro _ _ _ _ _ | intro _ _ _
    | intro _ _ | split | apply ite_keeps | dsimp only

theorem execJr_keeps : ∀ a0 a1 s, Keeps s₀ s → OutKeeps s₀ (execJr a0 a1 s) := by
  intro a0 a1 s h; unfold execJr
  repeat' with_reducible first | apply outKeeps_next | assumption | refine of_snd (by assumption) ?_ | apply transfer_keeps

theorem execReti_keeps : ∀ a0 s, Keeps s₀ s → OutKeeps s₀ (execReti a0 s) := by
  intro a0 s h; unfold execReti
  repeat' with_reducible first | apply outKeeps_next | assumption | refine of_snd (by assumption) ?_ | apply transfer_keeps

theorem execResume_keeps : ∀ a0 s, Keeps s₀ s → OutKeeps s₀ (execResume a0 s) := by
  intro a0 s h; unfold execResume
  repeat' with_reducible first
    | apply outKeeps_next | assumption | apply okKeeps_ok | exact okKeeps_error | refine of_snd (by assumption) ?_
    | apply issue_keeps | apply modProc_keeps | apply touchV_keeps | apply openDelay_keeps | apply foldl_keeps | intro _ _ _ _ _
    | intro _ _ _ | intro _ _ | split | apply ite_keeps | dsimp only

theorem execRepeatOp_keeps : ∀ a0 a1 a2 a3 a4 a5 s, Keeps s₀ s → OutKeeps s₀ (execRepeatOp a0 a1 a2 a3 a4 a5 s) := by
  intro a0 a1 a2 a3 a4 a5 s h; unfold execRepeatOp
  repeat' with_reducible first
    | apply outKeeps_next | assumption | apply okKeeps_ok | exact okKeeps_error | refine of_snd (by assumption) ?_
    | apply issue_keeps | apply modProc_keeps | apply foldl_keeps | intro _ _ _ _ _ | intro _ _ _ | intro _ _ | split
    | apply ite_keeps | dsimp only

theorem execGetcr_keeps : ∀ a0 a1 a2 s, Keeps s₀ s → OutKeeps s₀ (execGetcr a0 a1 a2 s) := by
  intro a0 a1 a2 s h; unfold execGetcr
  repeat' with_reducible first
    | apply outKeeps_next | assumption | apply okKeeps_ok | exact okKeeps_error | refine of_snd (by assumption) ?_
    | apply issue_keeps | apply pushRes_keeps | apply draw_keeps | apply foldl_keeps | intro _ _ _ _ _ | intro _ _ _ | intro _ _
    | split

theorem execSetcr_keeps : ∀ a0 a1 a2 s, Keeps s₀ s → OutKeeps s₀ (execSetcr a0 a1 a2 s) := by
  intro a0 a1 a2 s h; unfold execSetcr
  repeat' with_reducible first | apply outKeeps_next | assumption | refine of_snd (by assumption) ?_ | apply issueRes_keeps

theorem addWait_keeps : ∀ a0 a1 s, Keeps s₀ s → Keeps s₀ (addWait a0 a1 s) := by
  intro a0 a1 s h; unfold addWait
  repeat' with_reducible first | assumption | refine of_snd (by assumption) ?_ | apply modProc_keeps

theorem execStepend_keeps : ∀ a0 a1 s, Keeps s₀ s → OutKeeps s₀ (execStepend a0 a1 s) := by
  intro a0 a1 s h; unfold execStepend
  repeat' with_reducible first
    | apply outKeeps_next | assumption | apply okKeeps_ok | exact okKeeps_error | refine of_snd (by assumption) ?_
    | apply issue_keeps | apply addWait_keeps | apply foldl_keeps | intro _ _ _ _ _ | intro _ _ _ | intro _ _ | split

theorem execEvpostOp_keeps : ∀ a0 a1 s, Keeps s₀ s → OutKeeps s₀ (execEvpostOp a0 a1 s) := by
  intro a0 a1 s h; unfold execEvpostOp
  repeat' with_reducible first
    | apply outKeeps_next | assumption | apply okKeeps_ok | exact okKeeps_error | refine of_snd (by assumption) ?_
    | apply issue_keeps | apply modProc_keeps | apply foldl_keeps | intro _ _ _ _ _ | intro _ _ _ | intro _ _ | split

theorem execMfence_keeps : ∀ a0 s, Keeps s₀ s → OutKeeps s₀ (execMfence a0 s) := by
  intro a0 s h; unfold execMfence
  repeat' with_reducible first
    | apply outKeeps_next | assumption | apply okKeeps_ok | exact okKeeps_error | refine of_snd (by assumption) ?_
    | apply issue_keeps | apply addWait_keeps | apply foldl_keeps | intro _ _ _ _ _ | intro _ _ _ | intro _ _

theorem execTrap_keeps : ∀ a0 a1 a2 s, Keeps s₀ s → OutKeeps s₀ (execTrap a0 a1 a2 s) := by
  intro a0 a1 a2 s h; unfold execTrap
  repeat' with_reducible first
    | apply outKeeps_next | assumption | apply okKeeps_ok | exact okKeeps_error | refine of_snd (by assumption) ?_
    | apply issue_keeps | apply foldl_keeps | intro _ _ _ _ _ | intro _ _ _ | intro _ _

theorem execWaitRelease_keeps : ∀ a0 a1 s, Keeps s₀ s → OutKeeps s₀ (execWaitRelease a0 a1 s) := by
  intro a0 a1 s h; unfold execWaitRelease
  repeat' with_reducible first | apply outKeeps_next | assumption | refine of_snd (by assumption) ?_ | apply waitRelease_keeps

theorem execRemoteAccessComplete_keeps : ∀ a0 a1 s, Keeps s₀ s → OutKeeps s₀ (execRemoteAccessComplete a0 a1 s) := by
  intro a0 a1 s h; unfold execRemoteAccessComplete
  repeat' with_reducible first
    | assumption | apply outKeeps_next | refine of_snd (by assumption) ?_ | apply remoteDone_keeps | apply foldl_keeps
    | apply foldl_snd_keeps | intro _ _ _ _ _ | intro _ _ _ | intro _ _ | split | apply ite_keeps | dsimp only

theorem execInterruptEntry_keeps : ∀ a0 s, Keeps s₀ s → OutKeeps s₀ (execInterruptEntry a0 s) := by
  intro a0 s h; unfold execInterruptEntry
  repeat' with_reducible first
    | apply outKeeps_next | assumption | refine of_snd (by assumption) ?_ | apply interruptEntry_keeps

theorem execNocTimeout_keeps : ∀ a0 s, Keeps s₀ s → OutKeeps s₀ (execNocTimeout a0 s) := by
  intro a0 s h; unfold execNocTimeout
  repeat' with_reducible first | apply outKeeps_next | assumption | refine of_snd (by assumption) ?_ | apply nocTimeout_keeps

theorem execPaddi_keeps : ∀ a0 a1 a2 a3 a4 s, Keeps s₀ s → OutKeeps s₀ (execPaddi a0 a1 a2 a3 a4 s) := by
  intro a0 a1 a2 a3 a4 s h; unfold execPaddi
  repeat' with_reducible first | apply outKeeps_next | assumption | refine of_snd (by assumption) ?_ | apply issueRes_keeps

theorem execPaddo_keeps : ∀ a0 a1 a2 a3 s, Keeps s₀ s → OutKeeps s₀ (execPaddo a0 a1 a2 a3 s) := by
  intro a0 a1 a2 a3 s h; unfold execPaddo
  repeat' with_reducible first | apply outKeeps_next | assumption | refine of_snd (by assumption) ?_ | apply issueRes_keeps

theorem execPli_keeps : ∀ a0 a1 a2 a3 s, Keeps s₀ s → OutKeeps s₀ (execPli a0 a1 a2 a3 s) := by
  intro a0 a1 a2 a3 s h; unfold execPli
  repeat' with_reducible first | apply outKeeps_next | assumption | refine of_snd (by assumption) ?_ | apply issueRes_keeps

theorem execOli_keeps : ∀ a0 a1 a2 a3 s, Keeps s₀ s → OutKeeps s₀ (execOli a0 a1 a2 a3 s) := by
  intro a0 a1 a2 a3 s h; unfold execOli
  repeat' with_reducible first | apply outKeeps_next | assumption | refine of_snd (by assumption) ?_ | apply issueRes_keeps

theorem execGtop_keeps : ∀ a0 a1 a2 a3 s, Keeps s₀ s → OutKeeps s₀ (execGtop a0 a1 a2 a3 s) := by
  intro a0 a1 a2 a3 s h; unfold execGtop
  repeat' with_reducible first | apply outKeeps_next | assumption | refine of_snd (by assumption) ?_ | apply issueRes_keeps

theorem execPtog_keeps : ∀ a0 a1 a2 a3 s, Keeps s₀ s → OutKeeps s₀ (execPtog a0 a1 a2 a3 s) := by
  intro a0 a1 a2 a3 s h; unfold execPtog
  repeat' with_reducible first | apply outKeeps_next | assumption | refine of_snd (by assumption) ?_ | apply issueRes_keeps

theorem execRrot_keeps : ∀ a0 s, Keeps s₀ s → OutKeeps s₀ (execRrot a0 s) := by
  intro a0 s h; unfold execRrot
  repeat' with_reducible first
    | apply outKeeps_next | assumption | apply okKeeps_ok | exact okKeeps_error | refine of_snd (by assumption) ?_
    | apply issue_keeps | apply modProc_keeps | apply foldl_keeps | intro _ _ _ _ _ | intro _ _ _ | intro _ _ | split

theorem addMem_keeps : ∀ a0 a1 a2 a3 a4 s, Keeps s₀ s → Keeps s₀ (addMem a0 a1 a2 a3 a4 s) := by
  intro a0 a1 a2 a3 a4 s h; unfold addMem
  repeat' with_reducible first
    | assumption | refine of_snd (by assumption) ?_ | apply modProc_keeps | apply pushRes_keeps | apply foldl_keeps
    | intro _ _ _ _ _ | intro _ _ _ | intro _ _ | split

theorem scalarMem_keeps : ∀ a0 a1 a2 a3 a4 s, Keeps s₀ s → Keeps s₀ (scalarMem a0 a1 a2 a3 a4 s) := by
  intro a0 a1 a2 a3 a4 s h; unfold scalarMem
  repeat' with_reducible first
    | assumption | apply okKeeps_ok | exact okKeeps_error | refine of_snd (by assumption) ?_ | apply issue_keeps
    | apply addMem_keeps | apply foldl_keeps | intro _ _ _ _ _ | intro _ _ _ | intro _ _ | split | apply ite_keeps | dsimp only

theorem execLdw_keeps : ∀ a0 a1 a2 s, Keeps s₀ s → OutKeeps s₀ (execLdw a0 a1 a2 s) := by
  intro a0 a1 a2 s h; unfold execLdw
  repeat' with_reducible first | apply outKeeps_next | assumption | refine of_snd (by assumption) ?_ | apply scalarMem_keeps

theorem execLdh_keeps : ∀ a0 a1 s, Keeps s₀ s → OutKeeps s₀ (execLdh a0 a1 s) := by
  intro a0 a1 s h; unfold execLdh
  repeat' with_reducible first | apply outKeeps_next | assumption | refine of_snd (by assumption) ?_ | apply scalarMem_keeps

theorem execLdb_keeps : ∀ a0 a1 s, Keeps s₀ s → OutKeeps s₀ (execLdb a0 a1 s) := by
  intro a0 a1 s h; unfold execLdb
  repeat' with_reducible first | apply outKeeps_next | assumption | refine of_snd (by assumption) ?_ | apply scalarMem_keeps

theorem execStw_keeps : ∀ a0 a1 a2 s, Keeps s₀ s → OutKeeps s₀ (execStw a0 a1 a2 s) := by
  intro a0 a1 a2 s h; unfold execStw
  repeat' with_reducible first | apply outKeeps_next | assumption | refine of_snd (by assumption) ?_ | apply scalarMem_keeps

theorem execSth_keeps : ∀ a0 a1 s, Keeps s₀ s → OutKeeps s₀ (execSth a0 a1 s) := by
  intro a0 a1 s h; unfold execSth
  repeat' with_reducible first | apply outKeeps_next | assumption | refine of_snd (by assumption) ?_ | apply scalarMem_keeps

theorem execStb_keeps : ∀ a0 a1 s, Keeps s₀ s → OutKeeps s₀ (execStb a0 a1 s) := by
  intro a0 a1 s h; unfold execStb
  repeat' with_reducible first | apply outKeeps_next | assumption | refine of_snd (by assumption) ?_ | apply scalarMem_keeps

theorem execLdf_keeps : ∀ a0 a1 s, Keeps s₀ s → OutKeeps s₀ (execLdf a0 a1 s) := by
  intro a0 a1 s h; unfold execLdf
  repeat' with_reducible first | apply outKeeps_next | assumption | refine of_snd (by assumption) ?_ | apply scalarMem_keeps

theorem execStf_keeps : ∀ a0 a1 s, Keeps s₀ s → OutKeeps s₀ (execStf a0 a1 s) := by
  intro a0 a1 s h; unfold execStf
  repeat' with_reducible first | apply outKeeps_next | assumption | refine of_snd (by assumption) ?_ | apply scalarMem_keeps

theorem execFaddS_keeps : ∀ a0 a1 a2 a3 s, Keeps s₀ s → OutKeeps s₀ (execFaddS a0 a1 a2 a3 s) := by
  intro a0 a1 a2 a3 s h; unfold execFaddS
  repeat' with_reducible first | apply outKeeps_next | assumption | refine of_snd (by assumption) ?_ | apply issueRes_keeps

theorem execFmulS_keeps : ∀ a0 a1 a2 a3 s, Keeps s₀ s → OutKeeps s₀ (execFmulS a0 a1 a2 a3 s) := by
  intro a0 a1 a2 a3 s h; unfold execFmulS
  repeat' with_reducible first | apply outKeeps_next | assumption | refine of_snd (by assumption) ?_ | apply issueRes_keeps

theorem execFmaS_keeps : ∀ a0 a1 a2 a3 s, Keeps s₀ s → OutKeeps s₀ (execFmaS a0 a1 a2 a3 s) := by
  intro a0 a1 a2 a3 s h; unfold execFmaS
  repeat' with_reducible first | apply outKeeps_next | assumption | refine of_snd (by assumption) ?_ | apply issueRes_keeps

theorem execFaddD_keeps : ∀ a0 a1 a2 a3 s, Keeps s₀ s → OutKeeps s₀ (execFaddD a0 a1 a2 a3 s) := by
  intro a0 a1 a2 a3 s h; unfold execFaddD
  repeat' with_reducible first | apply outKeeps_next | assumption | refine of_snd (by assumption) ?_ | apply issueRes_keeps

theorem execFmulD_keeps : ∀ a0 a1 a2 a3 s, Keeps s₀ s → OutKeeps s₀ (execFmulD a0 a1 a2 a3 s) := by
  intro a0 a1 a2 a3 s h; unfold execFmulD
  repeat' with_reducible first | apply outKeeps_next | assumption | refine of_snd (by assumption) ?_ | apply issueRes_keeps

theorem execFdivS_keeps : ∀ a0 a1 a2 a3 s, Keeps s₀ s → OutKeeps s₀ (execFdivS a0 a1 a2 a3 s) := by
  intro a0 a1 a2 a3 s h; unfold execFdivS
  repeat' with_reducible first | apply outKeeps_next | assumption | refine of_snd (by assumption) ?_ | apply issueRes_keeps

theorem execFcvt_keeps : ∀ a0 a1 a2 a3 s, Keeps s₀ s → OutKeeps s₀ (execFcvt a0 a1 a2 a3 s) := by
  intro a0 a1 a2 a3 s h; unfold execFcvt
  repeat' with_reducible first
    | apply outKeeps_next | assumption | apply okKeeps_ok | exact okKeeps_error | refine of_snd (by assumption) ?_
    | apply issue_keeps | apply pushRes_keeps | apply draw_keeps | apply foldl_keeps | intro _ _ _ _ _ | intro _ _ _ | intro _ _
    | split

theorem execFcmp_keeps : ∀ a0 a1 a2 a3 a4 s, Keeps s₀ s → OutKeeps s₀ (execFcmp a0 a1 a2 a3 a4 s) := by
  intro a0 a1 a2 a3 a4 s h; unfold execFcmp
  repeat' with_reducible first | apply outKeeps_next | assumption | refine of_snd (by assumption) ?_ | apply issueRes_keeps

theorem execGtof_keeps : ∀ a0 a1 a2 s, Keeps s₀ s → OutKeeps s₀ (execGtof a0 a1 a2 s) := by
  intro a0 a1 a2 s h; unfold execGtof
  repeat' with_reducible first | apply outKeeps_next | assumption | refine of_snd (by assumption) ?_ | apply issueRes_keeps

theorem execFtog_keeps : ∀ a0 a1 a2 s, Keeps s₀ s → OutKeeps s₀ (execFtog a0 a1 a2 s) := by
  intro a0 a1 a2 s h; unfold execFtog
  repeat' with_reducible first | apply outKeeps_next | assumption | refine of_snd (by assumption) ?_ | apply issueRes_keeps

theorem svOp_keeps : ∀ a0 a1 a2 a3 a4 a5 a6 a7 s, Keeps s₀ s → Keeps s₀ (svOp a0 a1 a2 a3 a4 a5 a6 a7 s) := by
  intro a0 a1 a2 a3 a4 a5 a6 a7 s h; unfold svOp
  repeat' with_reducible first
    | assumption | apply okKeeps_ok | exact okKeeps_error | refine of_snd (by assumption) ?_ | apply issue_keeps
    | apply pushRes_keeps | apply foldl_keeps | intro _ _ _ _ _ | intro _ _ _ | intro _ _ | split

theorem svInt_keeps : ∀ a0 a1 a2 a3 a4 a5 s, Keeps s₀ s → Keeps s₀ (svInt a0 a1 a2 a3 a4 a5 s) := by
  intro a0 a1 a2 a3 a4 a5 s h; unfold svInt
  repeat' with_reducible first
    | assumption | apply okKeeps_ok | exact okKeeps_error | refine of_snd (by assumption) ?_ | apply svOp_keeps
    | apply issue_keeps | apply draw_keeps | apply pushRes_keeps | apply foldl_keeps | intro _ _ _ _ _ | intro _ _ _ | intro _ _
    | split

theorem execSvadd_keeps : ∀ a0 a1 a2 a3 a4 s, Keeps s₀ s → OutKeeps s₀ (execSvadd a0 a1 a2 a3 a4 s) := by
  intro a0 a1 a2 a3 a4 s h; unfold execSvadd
  repeat' with_reducible first | apply outKeeps_next | assumption | refine of_snd (by assumption) ?_ | apply svInt_keeps

theorem execSvmul_keeps : ∀ a0 a1 a2 a3 a4 s, Keeps s₀ s → OutKeeps s₀ (execSvmul a0 a1 a2 a3 a4 s) := by
  intro a0 a1 a2 a3 a4 s h; unfold execSvmul
  repeat' with_reducible first | apply outKeeps_next | assumption | refine of_snd (by assumption) ?_ | apply svInt_keeps

theorem execSvfma_keeps : ∀ a0 a1 a2 a3 a4 s, Keeps s₀ s → OutKeeps s₀ (execSvfma a0 a1 a2 a3 a4 s) := by
  intro a0 a1 a2 a3 a4 s h; unfold execSvfma
  repeat' with_reducible first | apply outKeeps_next | assumption | refine of_snd (by assumption) ?_ | apply svOp_keeps

theorem vectorMem_keeps : ∀ a0 a1 a2 a3 a4 a5 s, Keeps s₀ s → Keeps s₀ (vectorMem a0 a1 a2 a3 a4 a5 s) := by
  intro a0 a1 a2 a3 a4 a5 s h; unfold vectorMem
  repeat' with_reducible first
    | assumption | apply okKeeps_ok | exact okKeeps_error | refine of_snd (by assumption) ?_ | apply issue_keeps
    | apply touchV_keeps | apply addMem_keeps | apply foldl_keeps | intro _ _ _ _ _ | intro _ _ _ | intro _ _ | split
    | apply ite_keeps | dsimp only

theorem execVld_keeps : ∀ a0 a1 a2 s, Keeps s₀ s → OutKeeps s₀ (execVld a0 a1 a2 s) := by
  intro a0 a1 a2 s h; unfold execVld
  repeat' with_reducible first | apply outKeeps_next | assumption | refine of_snd (by assumption) ?_ | apply vectorMem_keeps

theorem execVst_keeps : ∀ a0 a1 a2 s, Keeps s₀ s → OutKeeps s₀ (execVst a0 a1 a2 s) := by
  intro a0 a1 a2 s h; unfold execVst
  repeat' with_reducible first | apply outKeeps_next | assumption | refine of_snd (by assumption) ?_ | apply vectorMem_keeps

theorem execVldb_keeps : ∀ a0 a1 a2 s, Keeps s₀ s → OutKeeps s₀ (execVldb a0 a1 a2 s) := by
  intro a0 a1 a2 s h; unfold execVldb
  repeat' with_reducible first | apply outKeeps_next | assumption | refine of_snd (by assumption) ?_ | apply vectorMem_keeps

theorem gsIssue_keeps : ∀ a0 a1 a2 a3 s, Keeps s₀ s → Keeps s₀ (gsIssue a0 a1 a2 a3 s) := by
  intro a0 a1 a2 a3 s h; unfold gsIssue
  repeat' with_reducible first
    | assumption | apply okKeeps_ok | exact okKeeps_error | refine of_snd (by assumption) ?_ | apply issue_keeps
    | apply touchV_keeps | apply modProc_keeps | apply foldl_keeps | intro _ _ _ _ _ | intro _ _ _ | intro _ _ | split
    | apply ite_keeps | dsimp only

theorem execGather_keeps : ∀ a0 a1 a2 s, Keeps s₀ s → OutKeeps s₀ (execGather a0 a1 a2 s) := by
  intro a0 a1 a2 s h; unfold execGather
  repeat' with_reducible first | apply outKeeps_next | assumption | refine of_snd (by assumption) ?_ | apply gsIssue_keeps

theorem execScatter_keeps : ∀ a0 a1 a2 s, Keeps s₀ s → OutKeeps s₀ (execScatter a0 a1 a2 s) := by
  intro a0 a1 a2 s h; unfold execScatter
  repeat' with_reducible first | apply outKeeps_next | assumption | refine of_snd (by assumption) ?_ | apply gsIssue_keeps

theorem vOp_keeps : ∀ a0 a1 a2 a3 a4 a5 s, (∀ x0 x1 x2 s, Keeps s₀ s → OkKeeps s₀ (a5 x0 x1 x2 s)) → Keeps s₀ s → Keeps s₀ (vOp a0 a1 a2 a3 a4 a5 s) := by
  intro a0 a1 a2 a3 a4 a5 s ha5 h; unfold vOp
  repeat' with_reducible first
    | assumption | apply okKeeps_ok | exact okKeeps_error | apply ha5 | refine of_snd (by assumption) ?_ | apply issue_keeps
    | apply touchV_keeps | apply foldl_keeps | intro _ _ _ _ _ | intro _ _ _ | intro _ _ | split | apply ite_keeps | dsimp only

theorem putV_keeps : ∀ a0 a1 a2 a3 a4 s, Keeps s₀ s → Keeps s₀ (putV a0 a1 a2 a3 a4 s) := by
  intro a0 a1 a2 a3 a4 s h; unfold putV
  repeat' with_reducible first | assumption | refine of_snd (by assumption) ?_ | apply pushRes_keeps

theorem vLanes_keeps : ∀ a0 a1 a2 a3 a4 a5 s, Keeps s₀ s → Keeps s₀ (vLanes a0 a1 a2 a3 a4 a5 s) := by
  intro a0 a1 a2 a3 a4 a5 s h; unfold vLanes
  repeat' with_reducible first
    | assumption | apply okKeeps_ok | exact okKeeps_error | refine of_snd (by assumption) ?_ | apply vOp_keeps
    | apply putV_keeps | apply foldl_keeps | intro _ _ _ _ _

theorem vInt_keeps : ∀ a0 a1 a2 a3 s, Keeps s₀ s → Keeps s₀ (vInt a0 a1 a2 a3 s) := by
  intro a0 a1 a2 a3 s h; unfold vInt
  repeat' with_reducible first | assumption | refine of_snd (by assumption) ?_ | apply vLanes_keeps

theorem vBits_keeps : ∀ a0 a1 a2 a3 s, Keeps s₀ s → Keeps s₀ (vBits a0 a1 a2 a3 s) := by
  intro a0 a1 a2 a3 s h; unfold vBits
  repeat' with_reducible first | assumption | refine of_snd (by assumption) ?_ | apply vLanes_keeps

theorem execVadd_keeps : ∀ a0 a1 a2 s, Keeps s₀ s → OutKeeps s₀ (execVadd a0 a1 a2 s) := by
  intro a0 a1 a2 s h; unfold execVadd
  repeat' with_reducible first | apply outKeeps_next | assumption | refine of_snd (by assumption) ?_ | apply vInt_keeps

theorem execVsub_keeps : ∀ a0 a1 a2 s, Keeps s₀ s → OutKeeps s₀ (execVsub a0 a1 a2 s) := by
  intro a0 a1 a2 s h; unfold execVsub
  repeat' with_reducible first | apply outKeeps_next | assumption | refine of_snd (by assumption) ?_ | apply vInt_keeps

theorem execVadds_keeps : ∀ a0 a1 a2 s, Keeps s₀ s → OutKeeps s₀ (execVadds a0 a1 a2 s) := by
  intro a0 a1 a2 s h; unfold execVadds
  repeat' with_reducible first | apply outKeeps_next | assumption | refine of_snd (by assumption) ?_ | apply vInt_keeps

theorem execVsubs_keeps : ∀ a0 a1 a2 s, Keeps s₀ s → OutKeeps s₀ (execVsubs a0 a1 a2 s) := by
  intro a0 a1 a2 s h; unfold execVsubs
  repeat' with_reducible first | apply outKeeps_next | assumption | refine of_snd (by assumption) ?_ | apply vInt_keeps

theorem execVmul_keeps : ∀ a0 a1 a2 s, Keeps s₀ s → OutKeeps s₀ (execVmul a0 a1 a2 s) := by
  intro a0 a1 a2 s h; unfold execVmul
  repeat' with_reducible first | apply outKeeps_next | assumption | refine of_snd (by assumption) ?_ | apply vInt_keeps

theorem execVmulh_keeps : ∀ a0 a1 a2 s, Keeps s₀ s → OutKeeps s₀ (execVmulh a0 a1 a2 s) := by
  intro a0 a1 a2 s h; unfold execVmulh
  repeat' with_reducible first | apply outKeeps_next | assumption | refine of_snd (by assumption) ?_ | apply vInt_keeps

theorem execVavg_keeps : ∀ a0 a1 a2 s, Keeps s₀ s → OutKeeps s₀ (execVavg a0 a1 a2 s) := by
  intro a0 a1 a2 s h; unfold execVavg
  repeat' with_reducible first | apply outKeeps_next | assumption | refine of_snd (by assumption) ?_ | apply vInt_keeps

theorem execVmin_keeps : ∀ a0 a1 a2 s, Keeps s₀ s → OutKeeps s₀ (execVmin a0 a1 a2 s) := by
  intro a0 a1 a2 s h; unfold execVmin
  repeat' with_reducible first | apply outKeeps_next | assumption | refine of_snd (by assumption) ?_ | apply vLanes_keeps

theorem execVmax_keeps : ∀ a0 a1 a2 s, Keeps s₀ s → OutKeeps s₀ (execVmax a0 a1 a2 s) := by
  intro a0 a1 a2 s h; unfold execVmax
  repeat' with_reducible first | apply outKeeps_next | assumption | refine of_snd (by assumption) ?_ | apply vLanes_keeps

theorem execVabsd_keeps : ∀ a0 a1 a2 s, Keeps s₀ s → OutKeeps s₀ (execVabsd a0 a1 a2 s) := by
  intro a0 a1 a2 s h; unfold execVabsd
  repeat' with_reducible first | apply outKeeps_next | assumption | refine of_snd (by assumption) ?_ | apply vLanes_keeps

theorem execVand_keeps : ∀ a0 a1 a2 s, Keeps s₀ s → OutKeeps s₀ (execVand a0 a1 a2 s) := by
  intro a0 a1 a2 s h; unfold execVand
  repeat' with_reducible first | apply outKeeps_next | assumption | refine of_snd (by assumption) ?_ | apply vBits_keeps

theorem execVor_keeps : ∀ a0 a1 a2 s, Keeps s₀ s → OutKeeps s₀ (execVor a0 a1 a2 s) := by
  intro a0 a1 a2 s h; unfold execVor
  repeat' with_reducible first | apply outKeeps_next | assumption | refine of_snd (by assumption) ?_ | apply vBits_keeps

theorem execVxor_keeps : ∀ a0 a1 a2 s, Keeps s₀ s → OutKeeps s₀ (execVxor a0 a1 a2 s) := by
  intro a0 a1 a2 s h; unfold execVxor
  repeat' with_reducible first | apply outKeeps_next | assumption | refine of_snd (by assumption) ?_ | apply vBits_keeps

theorem execVshl_keeps : ∀ a0 a1 a2 s, Keeps s₀ s → OutKeeps s₀ (execVshl a0 a1 a2 s) := by
  intro a0 a1 a2 s h; unfold execVshl
  repeat' with_reducible first | apply outKeeps_next | assumption | refine of_snd (by assumption) ?_ | apply vLanes_keeps

theorem execVshr_keeps : ∀ a0 a1 a2 s, Keeps s₀ s → OutKeeps s₀ (execVshr a0 a1 a2 s) := by
  intro a0 a1 a2 s h; unfold execVshr
  repeat' with_reducible first | apply outKeeps_next | assumption | refine of_snd (by assumption) ?_ | apply vLanes_keeps

theorem vCmp_keeps : ∀ a0 a1 a2 a3 s, Keeps s₀ s → Keeps s₀ (vCmp a0 a1 a2 a3 s) := by
  intro a0 a1 a2 a3 s h; unfold vCmp
  repeat' with_reducible first
    | assumption | apply okKeeps_ok | exact okKeeps_error | refine of_snd (by assumption) ?_ | apply vOp_keeps
    | apply pushRes_keeps | apply foldl_keeps | intro _ _ _ _ _

theorem execVcmpeq_keeps : ∀ a0 a1 a2 s, Keeps s₀ s → OutKeeps s₀ (execVcmpeq a0 a1 a2 s) := by
  intro a0 a1 a2 s h; unfold execVcmpeq
  repeat' with_reducible first | apply outKeeps_next | assumption | refine of_snd (by assumption) ?_ | apply vCmp_keeps

theorem execVcmplt_keeps : ∀ a0 a1 a2 s, Keeps s₀ s → OutKeeps s₀ (execVcmplt a0 a1 a2 s) := by
  intro a0 a1 a2 s h; unfold execVcmplt
  repeat' with_reducible first | apply outKeeps_next | assumption | refine of_snd (by assumption) ?_ | apply vCmp_keeps

theorem execVcmple_keeps : ∀ a0 a1 a2 s, Keeps s₀ s → OutKeeps s₀ (execVcmple a0 a1 a2 s) := by
  intro a0 a1 a2 s h; unfold execVcmple
  repeat' with_reducible first | apply outKeeps_next | assumption | refine of_snd (by assumption) ?_ | apply vCmp_keeps

theorem execVsel_keeps : ∀ a0 a1 a2 s, Keeps s₀ s → OutKeeps s₀ (execVsel a0 a1 a2 s) := by
  intro a0 a1 a2 s h; unfold execVsel
  repeat' with_reducible first
    | apply outKeeps_next | assumption | apply okKeeps_ok | exact okKeeps_error | refine of_snd (by assumption) ?_
    | apply vOp_keeps | apply putV_keeps | apply foldl_keeps | intro _ _ _ _ _

theorem execVperm_keeps : ∀ a0 a1 a2 s, Keeps s₀ s → OutKeeps s₀ (execVperm a0 a1 a2 s) := by
  intro a0 a1 a2 s h; unfold execVperm
  repeat' with_reducible first | apply outKeeps_next | assumption | refine of_snd (by assumption) ?_ | apply vLanes_keeps

theorem execVbcast_keeps : ∀ a0 a1 a2 s, Keeps s₀ s → OutKeeps s₀ (execVbcast a0 a1 a2 s) := by
  intro a0 a1 a2 s h; unfold execVbcast
  repeat' with_reducible first
    | apply outKeeps_next | assumption | apply okKeeps_ok | exact okKeeps_error | refine of_snd (by assumption) ?_
    | apply vOp_keeps | apply putV_keeps | apply foldl_keeps | intro _ _ _ _ _

theorem putAcc_keeps : ∀ a0 a1 a2 a3 s, Keeps s₀ s → Keeps s₀ (putAcc a0 a1 a2 a3 s) := by
  intro a0 a1 a2 a3 s h; unfold putAcc
  repeat' with_reducible first | assumption | refine of_snd (by assumption) ?_ | apply setAccOvf_keeps | apply pushChain_keeps

theorem vMacOp_keeps : ∀ a0 a1 a2 a3 s, Keeps s₀ s → Keeps s₀ (vMacOp a0 a1 a2 a3 s) := by
  intro a0 a1 a2 a3 s h; unfold vMacOp
  repeat' with_reducible first
    | assumption | apply okKeeps_ok | exact okKeeps_error | refine of_snd (by assumption) ?_ | apply vOp_keeps
    | apply putAcc_keeps | apply foldl_keeps | intro _ _ _ _ _

theorem execVmac_keeps : ∀ a0 a1 a2 s, Keeps s₀ s → OutKeeps s₀ (execVmac a0 a1 a2 s) := by
  intro a0 a1 a2 s h; unfold execVmac
  repeat' with_reducible first | apply outKeeps_next | assumption | refine of_snd (by assumption) ?_ | apply vMacOp_keeps

theorem execVmsu_keeps : ∀ a0 a1 a2 s, Keeps s₀ s → OutKeeps s₀ (execVmsu a0 a1 a2 s) := by
  intro a0 a1 a2 s h; unfold execVmsu
  repeat' with_reducible first | apply outKeeps_next | assumption | refine of_snd (by assumption) ?_ | apply vMacOp_keeps

theorem execVacclr_keeps : ∀ a0 a1 a2 s, Keeps s₀ s → OutKeeps s₀ (execVacclr a0 a1 a2 s) := by
  intro a0 a1 a2 s h; unfold execVacclr
  repeat' with_reducible first
    | apply outKeeps_next | assumption | apply okKeeps_ok | exact okKeeps_error | refine of_snd (by assumption) ?_
    | apply vOp_keeps | apply putAcc_keeps | apply foldl_keeps | intro _ _ _ _ _

theorem putNarrow_keeps : ∀ a0 a1 a2 a3 a4 a5 a6 a7 s, Keeps s₀ s → Keeps s₀ (putNarrow a0 a1 a2 a3 a4 a5 a6 a7 s) := by
  intro a0 a1 a2 a3 a4 a5 a6 a7 s h; unfold putNarrow
  repeat' with_reducible first | assumption | refine of_snd (by assumption) ?_ | apply setMovSat_keeps | apply putV_keeps

theorem execVmova_keeps : ∀ a0 a1 a2 s, Keeps s₀ s → OutKeeps s₀ (execVmova a0 a1 a2 s) := by
  intro a0 a1 a2 s h; unfold execVmova
  repeat' with_reducible first
    | apply outKeeps_next | assumption | apply okKeeps_ok | exact okKeeps_error | refine of_snd (by assumption) ?_
    | apply vOp_keeps | apply putNarrow_keeps | apply foldl_keeps | intro _ _ _ _ _

theorem execVnarrow_keeps : ∀ a0 a1 a2 s, Keeps s₀ s → OutKeeps s₀ (execVnarrow a0 a1 a2 s) := by
  intro a0 a1 a2 s h; unfold execVnarrow
  repeat' with_reducible first
    | apply outKeeps_next | assumption | apply okKeeps_ok | exact okKeeps_error | refine of_snd (by assumption) ?_
    | apply vOp_keeps | apply putNarrow_keeps | apply foldl_keeps | intro _ _ _ _ _

theorem execVwiden_keeps : ∀ a0 a1 a2 s, Keeps s₀ s → OutKeeps s₀ (execVwiden a0 a1 a2 s) := by
  intro a0 a1 a2 s h; unfold execVwiden
  repeat' with_reducible first
    | apply outKeeps_next | assumption | apply okKeeps_ok | exact okKeeps_error | refine of_snd (by assumption) ?_
    | apply vOp_keeps | apply putV_keeps | apply foldl_keeps | intro _ _ _ _ _

theorem execVfadd_keeps : ∀ a0 a1 a2 s, Keeps s₀ s → OutKeeps s₀ (execVfadd a0 a1 a2 s) := by
  intro a0 a1 a2 s h; unfold execVfadd
  repeat' with_reducible first | apply outKeeps_next | assumption | refine of_snd (by assumption) ?_ | apply vLanes_keeps

theorem execVfmul_keeps : ∀ a0 a1 a2 s, Keeps s₀ s → OutKeeps s₀ (execVfmul a0 a1 a2 s) := by
  intro a0 a1 a2 s h; unfold execVfmul
  repeat' with_reducible first | apply outKeeps_next | assumption | refine of_snd (by assumption) ?_ | apply vLanes_keeps

theorem execVfma_keeps : ∀ a0 a1 a2 s, Keeps s₀ s → OutKeeps s₀ (execVfma a0 a1 a2 s) := by
  intro a0 a1 a2 s h; unfold execVfma
  repeat' with_reducible first | apply outKeeps_next | assumption | refine of_snd (by assumption) ?_ | apply vLanes_keeps

theorem execVcvt_keeps : ∀ a0 a1 a2 s, Keeps s₀ s → OutKeeps s₀ (execVcvt a0 a1 a2 s) := by
  intro a0 a1 a2 s h; unfold execVcvt
  repeat' with_reducible first
    | apply outKeeps_next | assumption | apply okKeeps_ok | exact okKeeps_error | refine of_snd (by assumption) ?_
    | apply vOp_keeps | apply setMovSat_keeps | apply putV_keeps | apply foldl_keeps | intro _ _ _ _ _

theorem execVred_keeps : ∀ a0 a1 a2 s, Keeps s₀ s → OutKeeps s₀ (execVred a0 a1 a2 s) := by
  intro a0 a1 a2 s h; unfold execVred
  repeat' with_reducible first
    | apply outKeeps_next | assumption | apply okKeeps_ok | exact okKeeps_error | refine of_snd (by assumption) ?_
    | apply vOp_keeps | apply pushRes_keeps | apply foldl_keeps | intro _ _ _ _ _

theorem pushChainV_keeps : ∀ a0 a1 a2 a3 a4 a5 a6 s, Keeps s₀ s → Keeps s₀ (pushChainV a0 a1 a2 a3 a4 a5 a6 s) := by
  intro a0 a1 a2 a3 a4 a5 a6 s h; unfold pushChainV
  repeat' with_reducible first | assumption | refine of_snd (by assumption) ?_ | apply pushChain_keeps

theorem execVrange_keeps : ∀ a0 a1 a2 s, Keeps s₀ s → OutKeeps s₀ (execVrange a0 a1 a2 s) := by
  intro a0 a1 a2 s h; unfold execVrange
  repeat' with_reducible first
    | apply outKeeps_next | assumption | apply okKeeps_ok | exact okKeeps_error | refine of_snd (by assumption) ?_
    | apply vOp_keeps | apply pushChainV_keeps | apply foldl_keeps | intro _ _ _ _ _ | intro _ _ _ | intro _ _ | split
    | apply ite_keeps | dsimp only

theorem execVscale_keeps : ∀ a0 a1 a2 s, Keeps s₀ s → OutKeeps s₀ (execVscale a0 a1 a2 s) := by
  intro a0 a1 a2 s h; unfold execVscale
  repeat' with_reducible first
    | apply outKeeps_next | assumption | apply okKeeps_ok | exact okKeeps_error | refine of_snd (by assumption) ?_
    | apply vOp_keeps | apply putV_keeps | apply foldl_keeps | intro _ _ _ _ _

theorem execVquant_keeps : ∀ a0 a1 a2 s, Keeps s₀ s → OutKeeps s₀ (execVquant a0 a1 a2 s) := by
  intro a0 a1 a2 s h; unfold execVquant
  repeat' with_reducible first
    | apply outKeeps_next | assumption | apply okKeeps_ok | exact okKeeps_error | refine of_snd (by assumption) ?_
    | apply vOp_keeps | apply putV_keeps | apply pushChainV_keeps | apply countSatEvents_keeps | apply foldl_keeps
    | intro _ _ _ _ _ | intro _ _ _ | intro _ _ | split | apply ite_keeps | dsimp only

theorem execVdeq_keeps : ∀ a0 a1 a2 s, Keeps s₀ s → OutKeeps s₀ (execVdeq a0 a1 a2 s) := by
  intro a0 a1 a2 s h; unfold execVdeq
  repeat' with_reducible first
    | apply outKeeps_next | assumption | apply okKeeps_ok | exact okKeeps_error | refine of_snd (by assumption) ?_
    | apply vOp_keeps | apply putV_keeps | apply countSatEvents_keeps | apply foldl_keeps | intro _ _ _ _ _ | intro _ _ _
    | intro _ _ | split | apply ite_keeps | dsimp only

theorem trainOp_keeps : ∀ a0 a1 a2 a3 a4 a5 s, (∀ x0 x1 x2 s, Keeps s₀ s → OkKeeps s₀ (a5 x0 x1 x2 s)) → Keeps s₀ s → Keeps s₀ (trainOp a0 a1 a2 a3 a4 a5 s) := by
  intro a0 a1 a2 a3 a4 a5 s ha5 h; unfold trainOp
  repeat' with_reducible first
    | assumption | apply okKeeps_ok | exact okKeeps_error | apply ha5 | refine of_snd (by assumption) ?_ | apply vOp_keeps
    | apply foldl_keeps | intro _ _ _ _ _ | intro _ _ _ | intro _ _ | split

theorem execVgquant_keeps : ∀ a0 a1 a2 s, Keeps s₀ s → OutKeeps s₀ (execVgquant a0 a1 a2 s) := by
  intro a0 a1 a2 s h; unfold execVgquant
  repeat' with_reducible first
    | apply outKeeps_next | assumption | apply okKeeps_ok | exact okKeeps_error | refine of_snd (by assumption) ?_
    | apply trainOp_keeps | apply putV_keeps | apply countSatEvents_keeps | apply foldl_keeps | intro _ _ _ _ _ | intro _ _ _
    | intro _ _ | split | apply ite_keeps | dsimp only

theorem execVmoment_keeps : ∀ a0 a1 a2 s, Keeps s₀ s → OutKeeps s₀ (execVmoment a0 a1 a2 s) := by
  intro a0 a1 a2 s h; unfold execVmoment
  repeat' with_reducible first
    | apply outKeeps_next | assumption | apply okKeeps_ok | exact okKeeps_error | refine of_snd (by assumption) ?_
    | apply trainOp_keeps | apply putV_keeps | apply countSatEvents_keeps | apply foldl_keeps | intro _ _ _ _ _ | intro _ _ _
    | intro _ _ | split | apply ite_keeps | dsimp only

theorem execVcbfit_keeps : ∀ a0 a1 a2 s, Keeps s₀ s → OutKeeps s₀ (execVcbfit a0 a1 a2 s) := by
  intro a0 a1 a2 s h; unfold execVcbfit
  repeat' with_reducible first
    | apply outKeeps_next | assumption | apply okKeeps_ok | exact okKeeps_error | refine of_snd (by assumption) ?_
    | apply trainOp_keeps | apply setAccOvf_keeps | apply pushChain_keeps | apply foldl_keeps | intro _ _ _ _ _ | intro _ _ _
    | intro _ _ | split

theorem execVmwupd_keeps : ∀ a0 a1 a2 s, Keeps s₀ s → OutKeeps s₀ (execVmwupd a0 a1 a2 s) := by
  intro a0 a1 a2 s h; unfold execVmwupd
  repeat' with_reducible first
    | apply outKeeps_next | assumption | apply okKeeps_ok | exact okKeeps_error | refine of_snd (by assumption) ?_
    | apply trainOp_keeps | apply putV_keeps | apply countSatEvents_keeps | apply foldl_keeps | intro _ _ _ _ _

theorem execNaq_keeps : ∀ a0 a1 a2 s, Keeps s₀ s → OutKeeps s₀ (execNaq a0 a1 a2 s) := by
  intro a0 a1 a2 s h; unfold execNaq
  repeat' with_reducible first
    | apply outKeeps_next | assumption | apply okKeeps_ok | exact okKeeps_error | refine of_snd (by assumption) ?_
    | apply issue_keeps | apply touchV_keeps | apply addWait_keeps | apply foldl_keeps | intro _ _ _ _ _ | intro _ _ _
    | intro _ _ | split | apply ite_keeps | dsimp only

theorem execNawait_keeps : ∀ a0 a1 s, Keeps s₀ s → OutKeeps s₀ (execNawait a0 a1 s) := by
  intro a0 a1 s h; unfold execNawait
  repeat' with_reducible first
    | apply outKeeps_next | assumption | apply okKeeps_ok | exact okKeeps_error | refine of_snd (by assumption) ?_
    | apply issue_keeps | apply addWait_keeps | apply foldl_keeps | intro _ _ _ _ _ | intro _ _ _ | intro _ _

theorem execDmakick_keeps : ∀ a0 a1 s, Keeps s₀ s → OutKeeps s₀ (execDmakick a0 a1 s) := by
  intro a0 a1 s h; unfold execDmakick
  repeat' with_reducible first
    | assumption | apply outKeeps_next | apply okKeeps_ok | exact okKeeps_error | refine of_snd (by assumption) ?_
    | apply issue_keeps | apply addWait_keeps | apply kick_keeps | apply coreKick_keeps | apply foldl_keeps
    | apply foldl_snd_keeps | intro _ _ _ _ _ | intro _ _ _ | intro _ _ | split | apply ite_keeps | dsimp only

theorem execDmawait_keeps : ∀ a0 a1 s, Keeps s₀ s → OutKeeps s₀ (execDmawait a0 a1 s) := by
  intro a0 a1 s h; unfold execDmawait
  repeat' with_reducible first
    | apply outKeeps_next | assumption | apply okKeeps_ok | exact okKeeps_error | refine of_snd (by assumption) ?_
    | apply issue_keeps | apply addWait_keeps | apply foldl_keeps | intro _ _ _ _ _ | intro _ _ _ | intro _ _ | split
    | apply ite_keeps | dsimp only

theorem markStarted_keeps : ∀ a0 a1 a2 s, Keeps s₀ s → Keeps s₀ (markStarted a0 a1 a2 s) := by
  intro a0 a1 a2 s h; unfold markStarted
  repeat' with_reducible first | assumption | refine of_snd (by assumption) ?_ | apply modArray_keeps

theorem naFlags_keeps : ∀ a0 a1 s, Keeps s₀ s → Keeps s₀ (naFlags a0 a1 s) := by
  intro a0 a1 s h; unfold naFlags
  repeat' with_reducible first
    | assumption | refine of_snd (by assumption) ?_ | apply modArray_keeps | apply raise_keeps | apply foldl_keeps
    | intro _ _ _ _ _ | intro _ _ _ | intro _ _ | split | apply ite_keeps

theorem arrayComplete_keeps : ∀ a0 a1 s, Keeps s₀ s → Keeps s₀ (arrayComplete a0 a1 s) := by
  intro a0 a1 s h; unfold arrayComplete
  repeat' with_reducible first
    | assumption | refine of_snd (by assumption) ?_ | apply modArray_keeps | apply naFlags_keeps | apply modProc_keeps
    | apply foldl_keeps | intro _ _ _ _ _ | intro _ _ _ | intro _ _ | split

theorem modCmd_keeps : ∀ a0 a1 a2 s, Keeps s₀ s → Keeps s₀ (modCmd a0 a1 a2 s) := by
  intro a0 a1 a2 s h; unfold modCmd
  repeat' with_reducible first | assumption | refine of_snd (by assumption) ?_ | apply modArray_keeps

theorem guarded_keeps : ∀ a0 a1 a2 a3 a4 s, (∀ s, Keeps s₀ s → Keeps s₀ (a4 s)) → Keeps s₀ s → Keeps s₀ (guarded a0 a1 a2 a3 a4 s) := by
  intro a0 a1 a2 a3 a4 s ha4 h; unfold guarded
  repeat' with_reducible first
    | assumption | apply ha4 | refine of_snd (by assumption) ?_ | apply coreFaultEnds_keeps | apply countRefusal_keeps
    | apply ownDetection_keeps | apply foldl_keeps | intro _ _ _ _ _ | intro _ _ _ | intro _ _ | split

theorem wbufPut_keeps : ∀ a0 a1 a2 s, Keeps s₀ s → Keeps s₀ (wbufPut a0 a1 a2 s) := by
  intro a0 a1 a2 s h; unfold wbufPut
  repeat' with_reducible first | assumption | refine of_snd (by assumption) ?_ | apply memPut_keeps

theorem loadSet_keeps : ∀ a0 a1 a2 a3 s, Keeps s₀ s → Keeps s₀ (loadSet a0 a1 a2 a3 s) := by
  intro a0 a1 a2 a3 s h; unfold loadSet
  repeat' with_reducible first
    | assumption | refine of_snd (by assumption) ?_ | apply modCmd_keeps | apply modArray_keeps | apply wbufPut_keeps
    | apply foldl_keeps | intro _ _ _ _ _ | intro _ _ _ | intro _ _ | split

theorem loadw_keeps : ∀ a0 s, Keeps s₀ s → Keeps s₀ (loadw a0 s) := by
  intro a0 s h; unfold loadw
  repeat' with_reducible first
    | assumption | refine of_snd (by assumption) ?_ | apply guarded_keeps | apply memPut_keeps | apply markStarted_keeps
    | apply wbufPut_keeps | apply foldl_keeps | intro _ _ _ _ _ | intro _ _ _ | intro _ _ | split | apply ite_keeps

theorem execLoadw_keeps : ∀ a0 s, Keeps s₀ s → OutKeeps s₀ (execLoadw a0 s) := by
  intro a0 s h; unfold execLoadw
  repeat' with_reducible first | apply outKeeps_next | assumption | refine of_snd (by assumption) ?_ | apply loadw_keeps

theorem accWrite_keeps : ∀ a0 a1 a2 a3 a4 s, Keeps s₀ s → Keeps s₀ (accWrite a0 a1 a2 a3 a4 s) := by
  intro a0 a1 a2 a3 a4 s h; unfold accWrite
  repeat' with_reducible first
    | assumption | refine of_snd (by assumption) ?_ | apply memPut_keeps | apply modArray_keeps | apply naFlags_keeps

theorem waveEntry_keeps : ∀ a0 a1 a2 a3 a4 s, Keeps s₀ s → Keeps s₀ (waveEntry a0 a1 a2 a3 a4 s) := by
  intro a0 a1 a2 a3 a4 s h; unfold waveEntry
  repeat' with_reducible first | assumption | refine of_snd (by assumption) ?_ | apply accWrite_keeps

theorem countWaves_keeps : ∀ a0 a1 s, Keeps s₀ s → Keeps s₀ (countWaves a0 a1 s) := by
  intro a0 a1 s h; unfold countWaves
  repeat' with_reducible first | assumption | refine of_snd (by assumption) ?_ | apply modArray_keeps

theorem convRun_keeps : ∀ a0 a1 a2 s, Keeps s₀ s → Keeps s₀ (convRun a0 a1 a2 s) := by
  intro a0 a1 a2 s h; unfold convRun
  repeat' with_reducible first
    | assumption | refine of_snd (by assumption) ?_ | apply waveEntry_keeps | apply countWaves_keeps | apply foldl_keeps
    | intro _ _ _ _ _ | intro _ _ _

theorem winoRun_keeps : ∀ a0 a1 s, Keeps s₀ s → Keeps s₀ (winoRun a0 a1 s) := by
  intro a0 a1 s h; unfold winoRun
  repeat' with_reducible first
    | assumption | refine of_snd (by assumption) ?_ | apply accWrite_keeps | apply countWaves_keeps | apply foldl_keeps
    | intro _ _ _ _ _ | intro _ _ _

theorem matmulRun_keeps : ∀ a0 a1 s, Keeps s₀ s → Keeps s₀ (matmulRun a0 a1 s) := by
  intro a0 a1 s h; unfold matmulRun
  repeat' with_reducible first
    | assumption | refine of_snd (by assumption) ?_ | apply waveEntry_keeps | apply countWaves_keeps | apply foldl_keeps
    | intro _ _ _ _ _ | intro _ _ _

theorem arrayRun_keeps : ∀ a0 a1 a2 s, Keeps s₀ s → Keeps s₀ (arrayRun a0 a1 a2 s) := by
  intro a0 a1 a2 s h; unfold arrayRun
  repeat' with_reducible first
    | assumption | refine of_snd (by assumption) ?_ | apply convRun_keeps | apply winoRun_keeps | apply matmulRun_keeps
    | apply foldl_keeps | intro _ _ _ _ _ | intro _ _ _ | intro _ _ | split

theorem setLoad_keeps : ∀ a0 a1 a2 a3 s, Keeps s₀ s → Keeps s₀ (setLoad a0 a1 a2 a3 s) := by
  intro a0 a1 a2 a3 s h; unfold setLoad
  repeat' with_reducible first
    | assumption | refine of_snd (by assumption) ?_ | apply guarded_keeps | apply loadSet_keeps | apply foldl_keeps
    | apply foldl_snd_keeps | intro _ _ _ _ _ | intro _ _ _ | intro _ _ | split | apply ite_keeps | dsimp only

theorem arrayAdvance_keeps : ∀ a0 a1 a2 s, Keeps s₀ s → Keeps s₀ (arrayAdvance a0 a1 a2 s) := by
  intro a0 a1 a2 s h; unfold arrayAdvance
  repeat' with_reducible first
    | assumption | refine of_snd (by assumption) ?_ | apply guarded_keeps | apply modCmd_keeps | apply arrayRun_keeps
    | apply setLoad_keeps | apply foldl_keeps | intro _ _ _ _ _ | intro _ _ _ | intro _ _ | split

theorem arrayStage_keeps : ∀ a0 a1 s, Keeps s₀ s → Keeps s₀ (arrayStage a0 a1 s) := by
  intro a0 a1 s h; unfold arrayStage
  repeat' with_reducible first
    | assumption | refine of_snd (by assumption) ?_ | apply setLoad_keeps | apply markStarted_keeps | apply arrayAdvance_keeps
    | apply foldl_keeps | intro _ _ _ _ _ | intro _ _ _ | intro _ _ | split

theorem execConvPass_keeps : ∀ a0 s, Keeps s₀ s → OutKeeps s₀ (execConvPass a0 s) := by
  intro a0 s h; unfold execConvPass
  repeat' with_reducible first | apply outKeeps_next | assumption | refine of_snd (by assumption) ?_ | apply arrayStage_keeps

theorem execWino_keeps : ∀ a0 s, Keeps s₀ s → OutKeeps s₀ (execWino a0 s) := by
  intro a0 s h; unfold execWino
  repeat' with_reducible first | apply outKeeps_next | assumption | refine of_snd (by assumption) ?_ | apply arrayStage_keeps

theorem execMatmul_keeps : ∀ a0 s, Keeps s₀ s → OutKeeps s₀ (execMatmul a0 s) := by
  intro a0 s h; unfold execMatmul
  repeat' with_reducible first | apply outKeeps_next | assumption | refine of_snd (by assumption) ?_ | apply arrayStage_keeps

theorem stripPut_keeps : ∀ a0 a1 s, Keeps s₀ s → Keeps s₀ (stripPut a0 a1 s) := by
  intro a0 a1 s h; unfold stripPut
  repeat' with_reducible first
    | assumption | refine of_snd (by assumption) ?_ | apply viewPut_keeps | apply foldl_keeps | intro _ _ _ _ _ | intro _ _ _

theorem landOne_keeps : ∀ a0 a1 s, Keeps s₀ s → Keeps s₀ (landOne a0 a1 s) := by
  intro a0 a1 s h; unfold landOne
  repeat' with_reducible first
    | assumption | refine of_snd (by assumption) ?_ | apply modCmd_keeps | apply stripPut_keeps | apply foldl_keeps
    | intro _ _ _ _ _ | intro _ _ _ | intro _ _ | split

theorem epilogRun_keeps : ∀ a0 a1 s, Keeps s₀ s → Keeps s₀ (epilogRun a0 a1 s) := by
  intro a0 a1 s h; unfold epilogRun
  repeat' with_reducible first
    | assumption | refine of_snd (by assumption) ?_ | apply modArray_keeps | apply countSatEvents_keeps | apply naFlags_keeps
    | apply foldl_keeps | intro _ _ _ _ _ | intro _ _ _ | intro _ _ | split

theorem epilog_keeps : ∀ a0 s, Keeps s₀ s → Keeps s₀ (epilog a0 s) := by
  intro a0 s h; unfold epilog
  repeat' with_reducible first
    | assumption | refine of_snd (by assumption) ?_ | apply markStarted_keeps | apply modCmd_keeps | apply epilogRun_keeps
    | apply landOne_keeps | apply foldl_keeps | intro _ _ _ _ _ | intro _ _ _ | intro _ _ | split

theorem execEpilog_keeps : ∀ a0 s, Keeps s₀ s → OutKeeps s₀ (execEpilog a0 s) := by
  intro a0 s h; unfold execEpilog
  repeat' with_reducible first | apply outKeeps_next | assumption | refine of_snd (by assumption) ?_ | apply epilog_keeps

theorem argmaxRun_keeps : ∀ a0 a1 s, Keeps s₀ s → Keeps s₀ (argmaxRun a0 a1 s) := by
  intro a0 a1 s h; unfold argmaxRun
  repeat' with_reducible first | assumption | refine of_snd (by assumption) ?_ | apply modArray_keeps

theorem argmax_keeps : ∀ a0 s, Keeps s₀ s → Keeps s₀ (argmax a0 s) := by
  intro a0 s h; unfold argmax
  repeat' with_reducible first
    | assumption | refine of_snd (by assumption) ?_ | apply markStarted_keeps | apply modCmd_keeps | apply argmaxRun_keeps
    | apply landOne_keeps | apply foldl_keeps | intro _ _ _ _ _ | intro _ _ _ | intro _ _ | split

theorem execArgmax_keeps : ∀ a0 s, Keeps s₀ s → OutKeeps s₀ (execArgmax a0 s) := by
  intro a0 s h; unfold execArgmax
  repeat' with_reducible first | apply outKeeps_next | assumption | refine of_snd (by assumption) ?_ | apply argmax_keeps

theorem syncCmd_keeps : ∀ a0 s, Keeps s₀ s → Keeps s₀ (syncCmd a0 s) := by
  intro a0 s h; unfold syncCmd
  repeat' with_reducible first
    | assumption | refine of_snd (by assumption) ?_ | apply arrayComplete_keeps | apply foldl_keeps | intro _ _ _ _ _
    | intro _ _ _ | intro _ _ | split

theorem execSync_keeps : ∀ a0 s, Keeps s₀ s → OutKeeps s₀ (execSync a0 s) := by
  intro a0 s h; unfold execSync
  repeat' with_reducible first | apply outKeeps_next | assumption | refine of_snd (by assumption) ?_ | apply syncCmd_keeps

theorem trainCmd_keeps : ∀ a0 s, Keeps s₀ s → Keeps s₀ (trainCmd a0 s) := by
  intro a0 s h; unfold trainCmd
  repeat' with_reducible first
    | assumption | refine of_snd (by assumption) ?_ | apply arrayComplete_keeps | apply modArray_keeps | apply foldl_keeps
    | intro _ _ _ _ _ | intro _ _ _ | intro _ _ | split

theorem execTrainmode_keeps : ∀ a0 s, Keeps s₀ s → OutKeeps s₀ (execTrainmode a0 s) := by
  intro a0 s h; unfold execTrainmode
  repeat' with_reducible first | apply outKeeps_next | assumption | refine of_snd (by assumption) ?_ | apply trainCmd_keeps

theorem arrayFinish_keeps : ∀ a0 a1 a2 s, Keeps s₀ s → Keeps s₀ (arrayFinish a0 a1 a2 s) := by
  intro a0 a1 a2 s h; unfold arrayFinish
  repeat' with_reducible first
    | assumption | refine of_snd (by assumption) ?_ | apply arrayAdvance_keeps | apply stripPut_keeps | apply foldl_keeps
    | intro _ _ _ _ _ | intro _ _ _ | intro _ _ | split

theorem arrayDone_keeps : ∀ a0 a1 s, Keeps s₀ s → Keeps s₀ (arrayDone a0 a1 s) := by
  intro a0 a1 s h; unfold arrayDone
  repeat' with_reducible first
    | assumption | refine of_snd (by assumption) ?_ | apply arrayComplete_keeps | apply arrayFinish_keeps | apply foldl_keeps
    | intro _ _ _ _ _ | intro _ _ _ | intro _ _ | split | apply ite_keeps | dsimp only

theorem execArrayCommandComplete_keeps : ∀ a0 a1 s, Keeps s₀ s → OutKeeps s₀ (execArrayCommandComplete a0 a1 s) := by
  intro a0 a1 s h; unfold execArrayCommandComplete
  repeat' with_reducible first | apply outKeeps_next | assumption | refine of_snd (by assumption) ?_ | apply arrayDone_keeps

theorem bar2Refuse_keeps : ∀ a0 a1 a2 a3 a4 a5 s, Keeps s₀ s → Keeps s₀ (bar2Refuse a0 a1 a2 a3 a4 a5 s) := by
  intro a0 a1 a2 a3 a4 a5 s h; unfold bar2Refuse
  repeat' with_reducible first
    | assumption | refine of_snd (by assumption) ?_ | apply recordErr_keeps | apply raise_keeps | apply countWrap_keeps
    | apply send_keeps | apply foldl_keeps | intro _ _ _ _ _ | intro _ _ _ | intro _ _ | split

theorem mailboxWrite_keeps : ∀ s a0 a1 a2 a3, Keeps s₀ s → SomeKeeps s₀ (mailboxWrite s a0 a1 a2 a3) := by
  intro s a0 a1 a2 a3 h; unfold mailboxWrite
  repeat' with_reducible first
    | assumption | apply someKeeps_some | apply someKeeps_none | refine of_snd (by assumption) ?_ | apply recordArrive_keeps
    | apply modPeer_keeps | apply messageArrive_keeps | apply foldl_keeps | apply foldl_snd_keeps | intro _ _ _ _ _
    | intro _ _ _ | intro _ _ | split | apply ite_keeps | dsimp only

theorem strangerRecord_keeps : ∀ s a0 a1 a2, Keeps s₀ s → SomeKeeps s₀ (strangerRecord s a0 a1 a2) := by
  intro s a0 a1 a2 h; unfold strangerRecord
  repeat' with_reducible first
    | assumption | apply someKeeps_some | apply someKeeps_none | refine of_snd (by assumption) ?_ | apply recordArrive_keeps
    | apply foldl_keeps | apply foldl_snd_keeps | intro _ _ _ _ _ | intro _ _ _ | intro _ _ | split | apply ite_keeps
    | dsimp only

theorem bar2Serve_keeps : ∀ a0 a1 a2 a3 a4 s, Keeps s₀ s → Keeps s₀ (bar2Serve a0 a1 a2 a3 a4 s) := by
  intro a0 a1 a2 a3 a4 s h; unfold bar2Serve
  repeat' with_reducible first
    | assumption | refine of_snd (by assumption) ?_ | apply lfiPass_keeps | apply packetEnd_keeps | apply bar2Refuse_keeps
    | apply lfiItem_keeps | apply readerDetection_keeps | apply send_keeps | apply foldl_keeps | apply foldl_snd_keeps
    | intro _ _ _ _ _ | intro _ _ _ | intro _ _ | split | apply ite_keeps | dsimp only

theorem bar2Answer_keeps : ∀ a0 a1 a2 a3 a4 a5 s, Keeps s₀ s → Keeps s₀ (bar2Answer a0 a1 a2 a3 a4 a5 s) := by
  intro a0 a1 a2 a3 a4 a5 s h; unfold bar2Answer
  repeat' with_reducible first
    | assumption | refine of_snd (by assumption) ?_ | apply bar2Refuse_keeps | apply countWrap_keeps | apply send_keeps
    | apply dramError_keeps | apply bar2Serve_keeps | apply dramCorrects_keeps | apply foldl_keeps | apply foldl_snd_keeps
    | intro _ _ _ _ _ | intro _ _ _ | intro _ _ | split | apply ite_keeps | dsimp only

theorem bar2Access_keeps : ∀ src off write len x s, Keeps s₀ s → Keeps s₀ (bar2Access src off write len x s) := by
  intro src off write len x s h
  have hb : ∀ rid p a t, write.bind (mailboxWrite s rid p a) = some t → Keeps s₀ t := by
    intro rid p a t e
    cases write with
    | none => cases e
    | some bs => exact (mailboxWrite_keeps s rid p a bs h).keeps t e
  have hr : ∀ a t, strangerRecord s src a write = some t → Keeps s₀ t := fun a t e => (strangerRecord_keeps s src a write h).keeps t e
  generalize hw : write = w at hb hr ⊢
  unfold bar2Access
  dsimp only
  repeat' with_reducible first
    | refine hb _ _ _ _ (by assumption) | refine hr _ _ (by assumption) | assumption | apply bar2Refuse_keeps
    | apply countRefusal_keeps | apply bar2Answer_keeps | split

theorem slotRequest_keeps : ∀ a0 a1 a2 a3 s, (∀ s, Keeps s₀ s → Keeps s₀ (a3 s)) → Keeps s₀ s → Keeps s₀ (slotRequest a0 a1 a2 a3 s) := by
  intro a0 a1 a2 a3 s ha3 h; unfold slotRequest
  repeat' with_reducible first
    | assumption | apply ha3 | refine of_snd (by assumption) ?_ | apply bar2Access_keeps | apply foldl_keeps
    | apply foldl_snd_keeps | intro _ _ _ _ _ | intro _ _ _ | intro _ _ | split | apply ite_keeps | dsimp only

theorem haltChecks_keeps : ∀ a0 s, Keeps s₀ s → Keeps s₀ (haltChecks a0 s) := by
  intro a0 s h; unfold haltChecks
  repeat' with_reducible first
    | assumption | refine of_snd (by assumption) ?_ | apply haltCheck_keeps | apply foldl_keeps | intro _ _ _ _ _ | intro _ _ _

theorem execRegisterWrite_keeps : ∀ a0 a1 a2 a3 s, Keeps s₀ s → OutKeeps s₀ (execRegisterWrite a0 a1 a2 a3 s) := by
  intro a0 a1 a2 a3 s h; unfold execRegisterWrite
  repeat' with_reducible first
    | apply outKeeps_next | assumption | refine of_snd (by assumption) ?_ | apply haltChecks_keeps | apply regWrite_keeps

theorem execRegisterRead_keeps : ∀ a0 a1 a2 s, Keeps s₀ s → OutKeeps s₀ (execRegisterRead a0 a1 a2 s) := by
  intro a0 a1 a2 s h; unfold execRegisterRead
  repeat' with_reducible first | apply outKeeps_next | assumption | refine of_snd (by assumption) ?_ | apply regRead_keeps

theorem execPairLoRead_keeps : ∀ a0 a1 s, Keeps s₀ s → OutKeeps s₀ (execPairLoRead a0 a1 s) := by
  intro a0 a1 s h; unfold execPairLoRead
  repeat' with_reducible first | apply outKeeps_next | assumption | refine of_snd (by assumption) ?_ | apply regRead_keeps

theorem execPairLoWrite_keeps : ∀ a0 a1 a2 s, Keeps s₀ s → OutKeeps s₀ (execPairLoWrite a0 a1 a2 s) := by
  intro a0 a1 a2 s h; unfold execPairLoWrite
  repeat' with_reducible first | apply outKeeps_next | assumption | refine of_snd (by assumption) ?_ | apply regWrite_keeps

theorem execEnable_keeps : ∀ a0 a1 a2 s, Keeps s₀ s → OutKeeps s₀ (execEnable a0 a1 a2 s) := by
  intro a0 a1 a2 s h; unfold execEnable
  repeat' with_reducible first | apply outKeeps_next | assumption | refine of_snd (by assumption) ?_ | apply pageReg_keeps

theorem execCommit_keeps : ∀ a0 a1 s, Keeps s₀ s → OutKeeps s₀ (execCommit a0 a1 s) := by
  intro a0 a1 s h; unfold execCommit
  repeat' with_reducible first | apply outKeeps_next | assumption | refine of_snd (by assumption) ?_ | apply pageReg_keeps

theorem execFuncReset_keeps : ∀ a0 a1 s, Keeps s₀ s → OutKeeps s₀ (execFuncReset a0 a1 s) := by
  intro a0 a1 s h; unfold execFuncReset
  repeat' with_reducible first | apply outKeeps_next | assumption | refine of_snd (by assumption) ?_ | apply pageReg_keeps

theorem execStagedCommitApply_keeps : ∀ a0 s, Keeps s₀ s → OutKeeps s₀ (execStagedCommitApply a0 s) := by
  intro a0 s h; unfold execStagedCommitApply
  repeat' with_reducible first
    | apply outKeeps_next | assumption | refine of_snd (by assumption) ?_ | apply commitPoint_keeps | apply foldl_keeps
    | intro _ _ _ _ _ | intro _ _ _ | intro _ _ | split

theorem execBlockDrained_keeps : ∀ a0 s, Keeps s₀ s → OutKeeps s₀ (execBlockDrained a0 s) := by
  intro a0 s h; unfold execBlockDrained
  repeat' with_reducible first | apply outKeeps_next | assumption | refine of_snd (by assumption) ?_ | apply blockDrained_keeps

theorem irqStatWrite_keeps : ∀ a0 a1 a2 a3 s, Keeps s₀ s → Keeps s₀ (irqStatWrite a0 a1 a2 a3 s) := by
  intro a0 a1 a2 a3 s h; unfold irqStatWrite
  repeat' with_reducible first
    | assumption | refine of_snd (by assumption) ?_ | apply raiseBits_keeps | apply pageReg_keeps | apply regRefused_keeps
    | apply recordErr_keeps | apply irqClear_keeps | apply foldl_keeps | apply foldl_snd_keeps | intro _ _ _ _ _
    | intro _ _ _ | intro _ _ | split | apply ite_keeps | dsimp only

theorem execIrqStatClear_keeps : ∀ a0 a1 a2 a3 s, Keeps s₀ s → OutKeeps s₀ (execIrqStatClear a0 a1 a2 a3 s) := by
  intro a0 a1 a2 a3 s h; unfold execIrqStatClear
  repeat' with_reducible first | apply outKeeps_next | assumption | refine of_snd (by assumption) ?_ | apply irqStatWrite_keeps

theorem execIrqSet_keeps : ∀ a0 a1 a2 s, Keeps s₀ s → OutKeeps s₀ (execIrqSet a0 a1 a2 s) := by
  intro a0 a1 a2 s h; unfold execIrqSet
  repeat' with_reducible first | apply outKeeps_next | assumption | refine of_snd (by assumption) ?_ | apply pageReg_keeps

theorem execChSelWrite_keeps : ∀ a0 a1 a2 s, Keeps s₀ s → OutKeeps s₀ (execChSelWrite a0 a1 a2 s) := by
  intro a0 a1 a2 s h; unfold execChSelWrite
  repeat' with_reducible first | apply outKeeps_next | assumption | refine of_snd (by assumption) ?_ | apply pageReg_keeps

theorem execErrInfoClear_keeps : ∀ a0 a1 a2 s, Keeps s₀ s → OutKeeps s₀ (execErrInfoClear a0 a1 a2 s) := by
  intro a0 a1 a2 s h; unfold execErrInfoClear
  repeat' with_reducible first | apply outKeeps_next | assumption | refine of_snd (by assumption) ?_ | apply pageReg_keeps

theorem execDetLogRead_keeps : ∀ a0 s, Keeps s₀ s → OutKeeps s₀ (execDetLogRead a0 s) := by
  intro a0 s h; unfold execDetLogRead
  repeat' with_reducible first | apply outKeeps_next | assumption | refine of_snd (by assumption) ?_ | apply pageGet_keeps

theorem execSatCntRead_keeps : ∀ a0 a1 s, Keeps s₀ s → OutKeeps s₀ (execSatCntRead a0 a1 s) := by
  intro a0 a1 s h; unfold execSatCntRead
  repeat' with_reducible first | apply outKeeps_next | assumption | refine of_snd (by assumption) ?_ | apply pageGet_keeps

theorem execCsiErrRead_keeps : ∀ a0 s, Keeps s₀ s → OutKeeps s₀ (execCsiErrRead a0 s) := by
  intro a0 s h; unfold execCsiErrRead
  repeat' with_reducible first | apply outKeeps_next | assumption | refine of_snd (by assumption) ?_ | apply pageGet_keeps

theorem execPeerErrRead_keeps : ∀ a0 s, Keeps s₀ s → OutKeeps s₀ (execPeerErrRead a0 s) := by
  intro a0 s h; unfold execPeerErrRead
  repeat' with_reducible first | apply outKeeps_next | assumption | refine of_snd (by assumption) ?_ | apply pageGet_keeps

theorem execErasedRead_keeps : ∀ a0 s, Keeps s₀ s → OutKeeps s₀ (execErasedRead a0 s) := by
  intro a0 s h; unfold execErasedRead
  repeat' with_reducible first | apply outKeeps_next | assumption | refine of_snd (by assumption) ?_ | apply pageGet_keeps

theorem ringDoorbell_keeps : ∀ a0 a1 a2 a3 s, Keeps s₀ s → Keeps s₀ (ringDoorbell a0 a1 a2 a3 s) := by
  intro a0 a1 a2 a3 s h; unfold ringDoorbell
  repeat' with_reducible first
    | assumption | refine of_snd (by assumption) ?_ | apply regWrite_keeps | apply cqDoorbell_keeps | apply sqDoorbell_keeps
    | apply lfiItem_keeps | apply regErr_keeps | apply foldl_keeps | apply foldl_snd_keeps | intro _ _ _ _ _ | intro _ _ _
    | intro _ _ | split | apply ite_keeps | dsimp only

theorem execSqDoorbell_keeps : ∀ a0 a1 a2 s, Keeps s₀ s → OutKeeps s₀ (execSqDoorbell a0 a1 a2 s) := by
  intro a0 a1 a2 s h; unfold execSqDoorbell
  repeat' with_reducible first | apply outKeeps_next | assumption | refine of_snd (by assumption) ?_ | apply ringDoorbell_keeps

theorem execCqDoorbell_keeps : ∀ a0 a1 a2 s, Keeps s₀ s → OutKeeps s₀ (execCqDoorbell a0 a1 a2 s) := by
  intro a0 a1 a2 s h; unfold execCqDoorbell
  repeat' with_reducible first | apply outKeeps_next | assumption | refine of_snd (by assumption) ?_ | apply ringDoorbell_keeps

theorem execQueueEnable_keeps : ∀ a0 a1 s, Keeps s₀ s → OutKeeps s₀ (execQueueEnable a0 a1 s) := by
  intro a0 a1 s h; unfold execQueueEnable
  repeat' with_reducible first | apply outKeeps_next | assumption | refine of_snd (by assumption) ?_ | apply pageReg_keeps

theorem execSqEntryFetch_keeps : ∀ a0 a1 s, Keeps s₀ s → OutKeeps s₀ (execSqEntryFetch a0 a1 s) := by
  intro a0 a1 s h; unfold execSqEntryFetch
  repeat' with_reducible first
    | assumption | apply outKeeps_next | refine of_snd (by assumption) ?_ | apply sqFetch_keeps | apply foldl_keeps
    | apply foldl_snd_keeps | intro _ _ _ _ _ | intro _ _ _ | intro _ _ | split | apply ite_keeps | dsimp only

theorem execJobEntry_keeps : ∀ a0 s, Keeps s₀ s → OutKeeps s₀ (execJobEntry a0 s) := by
  intro a0 s h; unfold execJobEntry
  repeat' with_reducible first
    | assumption | apply outKeeps_next | refine of_snd (by assumption) ?_ | apply jobEntry_keeps | apply foldl_keeps
    | apply foldl_snd_keeps | intro _ _ _ _ _ | intro _ _ _ | intro _ _ | split | apply ite_keeps | dsimp only

theorem execAbortEntry_keeps : ∀ s, Keeps s₀ s → OutKeeps s₀ (execAbortEntry s) := by
  intro s h; unfold execAbortEntry
  repeat' with_reducible first | apply outKeeps_next | assumption | refine of_snd (by assumption) ?_ | apply abortEntry_keeps

theorem execIrqAggTimeout_keeps : ∀ a0 s, Keeps s₀ s → OutKeeps s₀ (execIrqAggTimeout a0 s) := by
  intro a0 s h; unfold execIrqAggTimeout
  repeat' with_reducible first | apply outKeeps_next | assumption | refine of_snd (by assumption) ?_ | apply irqAggTimeout_keeps

theorem execFlr_keeps : ∀ a0 s, Keeps s₀ s → OutKeeps s₀ (execFlr a0 s) := by
  intro a0 s h; unfold execFlr
  repeat' with_reducible first | apply outKeeps_next | assumption | refine of_snd (by assumption) ?_ | apply flrAssert_keeps

theorem execFnReset_keeps : ∀ a0 a1 s, Keeps s₀ s → OutKeeps s₀ (execFnReset a0 a1 s) := by
  intro a0 a1 s h; unfold execFnReset
  repeat' with_reducible first | apply outKeeps_next | assumption | refine of_snd (by assumption) ?_ | apply pageReg_keeps

theorem linkLost_keeps : ∀ a0 s, Keeps s₀ s → Keeps s₀ (linkLost a0 s) := by
  intro a0 s h; unfold linkLost
  repeat' with_reducible first
    | assumption | refine of_snd (by assumption) ?_ | apply linkLoss_keeps | apply modPcie_keeps | apply foldl_keeps
    | intro _ _ _ _ _ | intro _ _ _ | intro _ _ | split

theorem execLinkLoss_keeps : ∀ a0 s, Keeps s₀ s → OutKeeps s₀ (execLinkLoss a0 s) := by
  intro a0 s h; unfold execLinkLoss
  repeat' with_reducible first | apply outKeeps_next | assumption | refine of_snd (by assumption) ?_ | apply linkLost_keeps

theorem execLinkTrainingStart_keeps : ∀ s, Keeps s₀ s → OutKeeps s₀ (execLinkTrainingStart s) := by
  intro s h; unfold execLinkTrainingStart
  repeat' with_reducible first | apply outKeeps_next | assumption | refine of_snd (by assumption) ?_ | apply linkTrain_keeps

theorem execPcieLinkUp_keeps : ∀ a0 a1 s, Keeps s₀ s → OutKeeps s₀ (execPcieLinkUp a0 a1 s) := by
  intro a0 a1 s h; unfold execPcieLinkUp
  repeat' with_reducible first | apply outKeeps_next | assumption | refine of_snd (by assumption) ?_ | apply linkUp_keeps

theorem execConfigurationRequest_keeps : ∀ a0 s, Keeps s₀ s → OutKeeps s₀ (execConfigurationRequest a0 s) := by
  intro a0 s h; unfold execConfigurationRequest
  repeat' with_reducible first | apply outKeeps_next | assumption | refine of_snd (by assumption) ?_ | apply configRequest_keeps

theorem execBar2Access_keeps : ∀ a0 a1 a2 a3 a4 s, Keeps s₀ s → OutKeeps s₀ (execBar2Access a0 a1 a2 a3 a4 s) := by
  intro a0 a1 a2 a3 a4 s h; unfold execBar2Access
  repeat' with_reducible first | apply outKeeps_next | assumption | refine of_snd (by assumption) ?_ | apply bar2Access_keeps

theorem execPtmDialogue_keeps : ∀ a0 a1 a2 s, Keeps s₀ s → OutKeeps s₀ (execPtmDialogue a0 a1 a2 s) := by
  intro a0 a1 a2 s h; unfold execPtmDialogue
  repeat' with_reducible first | apply outKeeps_next | assumption | refine of_snd (by assumption) ?_ | apply ptmDialogue_keeps

theorem execClassGive_keeps : ∀ a0 a1 a2 s, Keeps s₀ s → OutKeeps s₀ (execClassGive a0 a1 a2 s) := by
  intro a0 a1 a2 s h; unfold execClassGive
  repeat' with_reducible first | apply outKeeps_next | assumption | refine of_snd (by assumption) ?_ | apply pageReg_keeps

theorem statusRecords_keeps : ∀ a0 s, Keeps s₀ s → Keeps s₀ (statusRecords a0 s) := by
  intro a0 s h; unfold statusRecords
  repeat' with_reducible first
    | assumption | refine of_snd (by assumption) ?_ | apply refusalRead_keeps | apply recordsSend_keeps | apply modHerd_keeps
    | apply beRefused_keeps | apply commitPoint_keeps | apply foldl_keeps | intro _ _ _ _ _ | intro _ _ _ | intro _ _ | split

theorem execStatusRecordSend_keeps : ∀ a0 s, Keeps s₀ s → OutKeeps s₀ (execStatusRecordSend a0 s) := by
  intro a0 s h; unfold execStatusRecordSend
  repeat' with_reducible first | apply outKeeps_next | assumption | refine of_snd (by assumption) ?_ | apply statusRecords_keeps

theorem execStatusRecordRx_keeps : ∀ a0 a1 s, Keeps s₀ s → OutKeeps s₀ (execStatusRecordRx a0 a1 s) := by
  intro a0 a1 s h; unfold execStatusRecordRx
  repeat' with_reducible first
    | assumption | apply outKeeps_next | refine of_snd (by assumption) ?_ | apply slotRequest_keeps
    | apply recordArrive_keeps | apply foldl_keeps | apply foldl_snd_keeps | intro _ _ _ _ _ | intro _ _ _ | intro _ _
    | split | apply ite_keeps | dsimp only

theorem execPeerMiss_keeps : ∀ a0 s, Keeps s₀ s → OutKeeps s₀ (execPeerMiss a0 s) := by
  intro a0 s h; unfold execPeerMiss
  repeat' with_reducible first | apply outKeeps_next | assumption | refine of_snd (by assumption) ?_ | apply peerMiss_keeps

theorem execMbxSend_keeps : ∀ a0 a1 s, Keeps s₀ s → OutKeeps s₀ (execMbxSend a0 a1 s) := by
  intro a0 a1 s h; unfold execMbxSend
  repeat' with_reducible first | apply outKeeps_next | assumption | refine of_snd (by assumption) ?_ | apply pageReg_keeps

theorem execMessageRx_keeps : ∀ a0 a1 a2 a3 a4 s, Keeps s₀ s → OutKeeps s₀ (execMessageRx a0 a1 a2 a3 a4 s) := by
  intro a0 a1 a2 a3 a4 s h; unfold execMessageRx
  repeat' with_reducible first
    | assumption | apply outKeeps_next | refine of_snd (by assumption) ?_ | apply slotRequest_keeps
    | apply messageArrive_keeps | apply foldl_keeps | apply foldl_snd_keeps | intro _ _ _ _ _ | intro _ _ _ | intro _ _
    | split | apply ite_keeps | dsimp only

theorem execGapTimeout_keeps : ∀ a0 s, Keeps s₀ s → OutKeeps s₀ (execGapTimeout a0 s) := by
  intro a0 s h; unfold execGapTimeout
  repeat' with_reducible first | apply outKeeps_next | assumption | refine of_snd (by assumption) ?_ | apply gapTimeout_keeps

theorem execRxDone_keeps : ∀ a0 a1 s, Keeps s₀ s → OutKeeps s₀ (execRxDone a0 a1 s) := by
  intro a0 a1 s h; unfold execRxDone
  repeat' with_reducible first | apply outKeeps_next | assumption | refine of_snd (by assumption) ?_ | apply pageReg_keeps

theorem execLfiEnable_keeps : ∀ a0 a1 s, Keeps s₀ s → OutKeeps s₀ (execLfiEnable a0 a1 s) := by
  intro a0 a1 s h; unfold execLfiEnable
  repeat' with_reducible first | apply outKeeps_next | assumption | refine of_snd (by assumption) ?_ | apply pageReg_keeps

theorem execLfiReorderTimeout_keeps : ∀ a0 s, Keeps s₀ s → OutKeeps s₀ (execLfiReorderTimeout a0 s) := by
  intro a0 s h; unfold execLfiReorderTimeout
  repeat' with_reducible first
    | assumption | apply outKeeps_next | refine of_snd (by assumption) ?_ | apply lfiTimeout_keeps | apply packetEnd_keeps
    | apply foldl_keeps | apply foldl_snd_keeps | intro _ _ _ _ _ | intro _ _ _ | intro _ _ | split | apply ite_keeps
    | dsimp only

theorem execEthFrameRx_keeps : ∀ a0 a1 s, Keeps s₀ s → OutKeeps s₀ (execEthFrameRx a0 a1 s) := by
  intro a0 a1 s h; unfold execEthFrameRx
  repeat' with_reducible first | apply outKeeps_next | assumption | refine of_snd (by assumption) ?_ | apply ethArrive_keeps

theorem execEthTx_keeps : ∀ a0 a1 s, Keeps s₀ s → OutKeeps s₀ (execEthTx a0 a1 s) := by
  intro a0 a1 s h; unfold execEthTx
  repeat' with_reducible first
    | assumption | apply outKeeps_next | refine of_snd (by assumption) ?_ | apply ethTransmit_keeps | apply foldl_keeps
    | apply foldl_snd_keeps | intro _ _ _ _ _ | intro _ _ _ | intro _ _ | split | apply ite_keeps | dsimp only

theorem execEthLinkChange_keeps : ∀ a0 a1 s, Keeps s₀ s → OutKeeps s₀ (execEthLinkChange a0 a1 s) := by
  intro a0 a1 s h; unfold execEthLinkChange
  repeat' with_reducible first | apply outKeeps_next | assumption | refine of_snd (by assumption) ?_ | apply ethLink_keeps

theorem execReorderTimeout_keeps : ∀ a0 s, Keeps s₀ s → OutKeeps s₀ (execReorderTimeout a0 s) := by
  intro a0 s h; unfold execReorderTimeout
  repeat' with_reducible first
    | apply outKeeps_next | assumption | refine of_snd (by assumption) ?_ | apply reorderTimeout_keeps

theorem execFrameTimeout_keeps : ∀ a0 s, Keeps s₀ s → OutKeeps s₀ (execFrameTimeout a0 s) := by
  intro a0 s h; unfold execFrameTimeout
  repeat' with_reducible first | apply outKeeps_next | assumption | refine of_snd (by assumption) ?_ | apply frameTimeout_keeps

theorem execStreamEntryWrite_keeps : ∀ a0 a1 a2 s, Keeps s₀ s → OutKeeps s₀ (execStreamEntryWrite a0 a1 a2 s) := by
  intro a0 a1 a2 s h; unfold execStreamEntryWrite
  repeat' with_reducible first | apply outKeeps_next | assumption | refine of_snd (by assumption) ?_ | apply pageReg_keeps

theorem execQcmdDiscard_keeps : ∀ a0 s, Keeps s₀ s → OutKeeps s₀ (execQcmdDiscard a0 s) := by
  intro a0 s h; unfold execQcmdDiscard
  repeat' with_reducible first | apply outKeeps_next | assumption | refine of_snd (by assumption) ?_ | apply pageReg_keeps

theorem execQcmdNext_keeps : ∀ a0 s, Keeps s₀ s → OutKeeps s₀ (execQcmdNext a0 s) := by
  intro a0 s h; unfold execQcmdNext
  repeat' with_reducible first | apply outKeeps_next | assumption | refine of_snd (by assumption) ?_ | apply pageReg_keeps

theorem execOutRelease_keeps : ∀ a0 a1 a2 s, Keeps s₀ s → OutKeeps s₀ (execOutRelease a0 a1 a2 s) := by
  intro a0 a1 a2 s h; unfold execOutRelease
  repeat' with_reducible first | apply outKeeps_next | assumption | refine of_snd (by assumption) ?_ | apply pageReg_keeps

theorem execDecodeStart_keeps : ∀ a0 s, Keeps s₀ s → OutKeeps s₀ (execDecodeStart a0 s) := by
  intro a0 s h; unfold execDecodeStart
  repeat' with_reducible first
    | assumption | apply outKeeps_next | refine of_snd (by assumption) ?_ | apply decodeStart_keeps | apply foldl_keeps
    | apply foldl_snd_keeps | intro _ _ _ _ _ | intro _ _ _ | intro _ _ | split | apply ite_keeps | dsimp only

theorem execDecodeDone_keeps : ∀ a0 s, Keeps s₀ s → OutKeeps s₀ (execDecodeDone a0 s) := by
  intro a0 s h; unfold execDecodeDone
  repeat' with_reducible first
    | assumption | apply outKeeps_next | refine of_snd (by assumption) ?_ | apply pacerSettle_keeps | apply framesReady_keeps
    | apply decodeDone_keeps | apply foldl_keeps | apply foldl_snd_keeps | intro _ _ _ _ _ | intro _ _ _ | intro _ _ | split
    | apply ite_keeps | dsimp only

theorem execOutputBufferTimeout_keeps : ∀ s, Keeps s₀ s → OutKeeps s₀ (execOutputBufferTimeout s) := by
  intro s h; unfold execOutputBufferTimeout
  repeat' with_reducible first
    | assumption | apply outKeeps_next | refine of_snd (by assumption) ?_ | apply pacerSettle_keeps
    | apply outputTimeout_keeps | apply foldl_keeps | apply foldl_snd_keeps | intro _ _ _ _ _ | intro _ _ _ | intro _ _
    | split | apply ite_keeps | dsimp only

theorem execEncodeStart_keeps : ∀ a0 s, Keeps s₀ s → OutKeeps s₀ (execEncodeStart a0 s) := by
  intro a0 s h; unfold execEncodeStart
  repeat' with_reducible first
    | assumption | apply outKeeps_next | refine of_snd (by assumption) ?_ | apply encodeStart_keeps | apply foldl_keeps
    | apply foldl_snd_keeps | intro _ _ _ _ _ | intro _ _ _ | intro _ _ | split | apply ite_keeps | dsimp only

theorem execEncodeDone_keeps : ∀ a0 a1 s, Keeps s₀ s → OutKeeps s₀ (execEncodeDone a0 a1 s) := by
  intro a0 a1 s h; unfold execEncodeDone
  repeat' with_reducible first | apply outKeeps_next | assumption | refine of_snd (by assumption) ?_ | apply encodeDone_keeps

theorem execDoutRelease_keeps : ∀ a0 a1 s, Keeps s₀ s → OutKeeps s₀ (execDoutRelease a0 a1 s) := by
  intro a0 a1 s h; unfold execDoutRelease
  repeat' with_reducible first | apply outKeeps_next | assumption | refine of_snd (by assumption) ?_ | apply pageReg_keeps

theorem execCsiPacket_keeps : ∀ a0 a1 s, Keeps s₀ s → OutKeeps s₀ (execCsiPacket a0 a1 s) := by
  intro a0 a1 s h; unfold execCsiPacket
  repeat' with_reducible first | apply outKeeps_next | assumption | refine of_snd (by assumption) ?_ | apply csiPacket_keeps

theorem execCsiFrameEnd_keeps : ∀ a0 s, Keeps s₀ s → OutKeeps s₀ (execCsiFrameEnd a0 s) := by
  intro a0 s h; unfold execCsiFrameEnd
  repeat' with_reducible first | apply outKeeps_next | assumption | refine of_snd (by assumption) ?_ | apply csiFrameEnd_keeps

theorem execPfeFrameWritten_keeps : ∀ a0 a1 s, Keeps s₀ s → OutKeeps s₀ (execPfeFrameWritten a0 a1 s) := by
  intro a0 a1 s h; unfold execPfeFrameWritten
  repeat' with_reducible first | apply outKeeps_next | assumption | refine of_snd (by assumption) ?_ | apply frameWritten_keeps

theorem execBufRelease_keeps : ∀ a0 a1 a2 s, Keeps s₀ s → OutKeeps s₀ (execBufRelease a0 a1 a2 s) := by
  intro a0 a1 a2 s h; unfold execBufRelease
  repeat' with_reducible first | apply outKeeps_next | assumption | refine of_snd (by assumption) ?_ | apply pageReg_keeps

theorem csiSync_keeps : ∀ a0 a1 s, Keeps s₀ s → Keeps s₀ (csiSync a0 a1 s) := by
  intro a0 a1 s h; unfold csiSync
  repeat' with_reducible first | assumption | refine of_snd (by assumption) ?_ | apply modCsi_keeps

theorem execCsiSyncChange_keeps : ∀ a0 a1 s, Keeps s₀ s → OutKeeps s₀ (execCsiSyncChange a0 a1 s) := by
  intro a0 a1 s h; unfold execCsiSyncChange
  repeat' with_reducible first | apply outKeeps_next | assumption | refine of_snd (by assumption) ?_ | apply csiSync_keeps

theorem execInputPinChange_keeps : ∀ a0 a1 s, Keeps s₀ s → OutKeeps s₀ (execInputPinChange a0 a1 s) := by
  intro a0 a1 s h; unfold execInputPinChange
  repeat' with_reducible first | apply outKeeps_next | assumption | refine of_snd (by assumption) ?_ | apply inputPin_keeps

theorem execDebounceExpiry_keeps : ∀ a0 s, Keeps s₀ s → OutKeeps s₀ (execDebounceExpiry a0 s) := by
  intro a0 s h; unfold execDebounceExpiry
  repeat' with_reducible first | apply outKeeps_next | assumption | refine of_snd (by assumption) ?_ | apply debounced_keeps

theorem execOutSet_keeps : ∀ a0 a1 s, Keeps s₀ s → OutKeeps s₀ (execOutSet a0 a1 s) := by
  intro a0 a1 s h; unfold execOutSet
  repeat' with_reducible first | apply outKeeps_next | assumption | refine of_snd (by assumption) ?_ | apply pageReg_keeps

theorem execOutClr_keeps : ∀ a0 a1 s, Keeps s₀ s → OutKeeps s₀ (execOutClr a0 a1 s) := by
  intro a0 a1 s h; unfold execOutClr
  repeat' with_reducible first | apply outKeeps_next | assumption | refine of_snd (by assumption) ?_ | apply pageReg_keeps

theorem execPwmPeriodBoundary_keeps : ∀ a0 s, Keeps s₀ s → OutKeeps s₀ (execPwmPeriodBoundary a0 s) := by
  intro a0 s h; unfold execPwmPeriodBoundary
  repeat' with_reducible first | apply outKeeps_next | assumption | refine of_snd (by assumption) ?_ | apply pwmBoundary_keeps

theorem execUartDataWrite_keeps : ∀ a0 a1 a2 s, Keeps s₀ s → OutKeeps s₀ (execUartDataWrite a0 a1 a2 s) := by
  intro a0 a1 a2 s h; unfold execUartDataWrite
  repeat' with_reducible first | apply outKeeps_next | assumption | refine of_snd (by assumption) ?_ | apply pageReg_keeps

theorem execUartDataRead_keeps : ∀ a0 a1 s, Keeps s₀ s → OutKeeps s₀ (execUartDataRead a0 a1 s) := by
  intro a0 a1 s h; unfold execUartDataRead
  repeat' with_reducible first | apply outKeeps_next | assumption | refine of_snd (by assumption) ?_ | apply pageGet_keeps

theorem execUartRxByte_keeps : ∀ a0 a1 a2 a3 s, Keeps s₀ s → OutKeeps s₀ (execUartRxByte a0 a1 a2 a3 s) := by
  intro a0 a1 a2 a3 s h; unfold execUartRxByte
  repeat' with_reducible first | apply outKeeps_next | assumption | refine of_snd (by assumption) ?_ | apply uartReceive_keeps

theorem execUartTxByte_keeps : ∀ a0 s, Keeps s₀ s → OutKeeps s₀ (execUartTxByte a0 s) := by
  intro a0 s h; unfold execUartTxByte
  repeat' with_reducible first | apply outKeeps_next | assumption | refine of_snd (by assumption) ?_ | apply uartSend_keeps

theorem execEvPost_keeps : ∀ a0 a1 s, Keeps s₀ s → OutKeeps s₀ (execEvPost a0 a1 s) := by
  intro a0 a1 s h; unfold execEvPost
  repeat' with_reducible first | apply outKeeps_next | assumption | refine of_snd (by assumption) ?_ | apply pageReg_keeps

theorem execRulePass_keeps : ∀ s, Keeps s₀ s → OutKeeps s₀ (execRulePass s) := by
  intro s h; unfold execRulePass
  repeat' with_reducible first | apply outKeeps_next | assumption | refine of_snd (by assumption) ?_ | apply rulePass_keeps

theorem execRuleTimerExpiry_keeps : ∀ a0 s, Keeps s₀ s → OutKeeps s₀ (execRuleTimerExpiry a0 s) := by
  intro a0 s h; unfold execRuleTimerExpiry
  repeat' with_reducible first | apply outKeeps_next | assumption | refine of_snd (by assumption) ?_ | apply timerExpire_keeps

theorem execPulseEnd_keeps : ∀ a0 s, Keeps s₀ s → OutKeeps s₀ (execPulseEnd a0 s) := by
  intro a0 s h; unfold execPulseEnd
  repeat' with_reducible first | apply outKeeps_next | assumption | refine of_snd (by assumption) ?_ | apply pulseEnd_keeps

theorem execWindowExpiry_keeps : ∀ a0 a1 s, Keeps s₀ s → OutKeeps s₀ (execWindowExpiry a0 a1 s) := by
  intro a0 a1 s h; unfold execWindowExpiry
  repeat' with_reducible first | apply outKeeps_next | assumption | refine of_snd (by assumption) ?_ | apply windowEnd_keeps

theorem execTemplateTx_keeps : ∀ a0 s, Keeps s₀ s → OutKeeps s₀ (execTemplateTx a0 s) := by
  intro a0 s h; unfold execTemplateTx
  repeat' with_reducible first | apply outKeeps_next | assumption | refine of_snd (by assumption) ?_ | apply templateTx_keeps

theorem execGpioPinChange_keeps : ∀ a0 a1 s, Keeps s₀ s → OutKeeps s₀ (execGpioPinChange a0 a1 s) := by
  intro a0 a1 s h; unfold execGpioPinChange
  repeat' with_reducible first | apply outKeeps_next | assumption | refine of_snd (by assumption) ?_ | apply gpioPin_keeps

theorem execGoldenRestoreComplete_keeps : ∀ a0 a1 s, Keeps s₀ s → OutKeeps s₀ (execGoldenRestoreComplete a0 a1 s) := by
  intro a0 a1 s h; unfold execGoldenRestoreComplete
  repeat' with_reducible first | apply outKeeps_next | assumption | refine of_snd (by assumption) ?_ | apply restoreDone_keeps

theorem execRestoreWaitEnd_keeps : ∀ a0 s, Keeps s₀ s → OutKeeps s₀ (execRestoreWaitEnd a0 s) := by
  intro a0 s h; unfold execRestoreWaitEnd
  repeat' with_reducible first | apply outKeeps_next | assumption | refine of_snd (by assumption) ?_ | apply lineArrived_keeps

theorem execSliceDrained_keeps : ∀ a0 s, Keeps s₀ s → OutKeeps s₀ (execSliceDrained a0 s) := by
  intro a0 s h; unfold execSliceDrained
  repeat' with_reducible first | apply outKeeps_next | assumption | refine of_snd (by assumption) ?_ | apply sliceDrained_keeps

theorem execSlicePowerTimeout_keeps : ∀ a0 s, Keeps s₀ s → OutKeeps s₀ (execSlicePowerTimeout a0 s) := by
  intro a0 s h; unfold execSlicePowerTimeout
  repeat' with_reducible first | apply outKeeps_next | assumption | refine of_snd (by assumption) ?_ | apply sliceTimeout_keeps

theorem execSemPost_keeps : ∀ a0 a1 a2 s, Keeps s₀ s → OutKeeps s₀ (execSemPost a0 a1 a2 s) := by
  intro a0 a1 a2 s h; unfold execSemPost
  repeat' with_reducible first | apply outKeeps_next | assumption | refine of_snd (by assumption) ?_ | apply pageReg_keeps

theorem execSemWaitThreshold_keeps : ∀ a0 a1 a2 s, Keeps s₀ s → OutKeeps s₀ (execSemWaitThreshold a0 a1 a2 s) := by
  intro a0 a1 a2 s h; unfold execSemWaitThreshold
  repeat' with_reducible first | apply outKeeps_next | assumption | refine of_snd (by assumption) ?_ | apply pageReg_keeps

theorem execSemWait_keeps : ∀ a0 a1 s, Keeps s₀ s → OutKeeps s₀ (execSemWait a0 a1 s) := by
  intro a0 a1 s h; unfold execSemWait
  repeat' with_reducible first | apply outKeeps_next | assumption | refine of_snd (by assumption) ?_ | apply pageGet_keeps

theorem execSemWaitTimeout_keeps : ∀ a0 s, Keeps s₀ s → OutKeeps s₀ (execSemWaitTimeout a0 s) := by
  intro a0 s h; unfold execSemWaitTimeout
  repeat' with_reducible first | apply outKeeps_next | assumption | refine of_snd (by assumption) ?_ | apply semTimeout_keeps

theorem execSemTake_keeps : ∀ a0 a1 s, Keeps s₀ s → OutKeeps s₀ (execSemTake a0 a1 s) := by
  intro a0 a1 s h; unfold execSemTake
  repeat' with_reducible first | apply outKeeps_next | assumption | refine of_snd (by assumption) ?_ | apply pageGet_keeps

theorem execSemSet_keeps : ∀ a0 a1 a2 s, Keeps s₀ s → OutKeeps s₀ (execSemSet a0 a1 a2 s) := by
  intro a0 a1 a2 s h; unfold execSemSet
  repeat' with_reducible first | apply outKeeps_next | assumption | refine of_snd (by assumption) ?_ | apply pageReg_keeps

theorem execScrubStart_keeps : ∀ a0 a1 s, Keeps s₀ s → OutKeeps s₀ (execScrubStart a0 a1 s) := by
  intro a0 a1 s h; unfold execScrubStart
  repeat' with_reducible first | apply outKeeps_next | assumption | refine of_snd (by assumption) ?_ | apply pageReg_keeps

theorem execScrubDone_keeps : ∀ s, Keeps s₀ s → OutKeeps s₀ (execScrubDone s) := by
  intro s h; unfold execScrubDone
  repeat' with_reducible first | apply outKeeps_next | assumption | refine of_snd (by assumption) ?_ | apply scrubEnd_keeps

theorem execPatrolPass_keeps : ∀ a0 s, Keeps s₀ s → OutKeeps s₀ (execPatrolPass a0 s) := by
  intro a0 s h; unfold execPatrolPass
  repeat' with_reducible first | apply outKeeps_next | assumption | refine of_snd (by assumption) ?_ | apply patrolPass_keeps

theorem execKick_keeps : ∀ a0 s, Keeps s₀ s → OutKeeps s₀ (execKick a0 s) := by
  intro a0 s h; unfold execKick
  repeat' with_reducible first
    | apply outKeeps_next | assumption | refine of_snd (by assumption) ?_ | apply haltChecks_keeps | apply pageReg_keeps

theorem disarmWrite_keeps : ∀ a0 a1 s, Keeps s₀ s → Keeps s₀ (disarmWrite a0 a1 s) := by
  intro a0 a1 s h; unfold disarmWrite
  repeat' with_reducible first
    | assumption | refine of_snd (by assumption) ?_ | apply haltChecks_keeps | apply pageReg_keeps | apply regRefused_keeps
    | apply recordErr_keeps | apply haltCheck_keeps | apply chCmdWrite_keeps | apply foldl_keeps | apply foldl_snd_keeps
    | intro _ _ _ _ _ | intro _ _ _ | intro _ _ | split | apply ite_keeps | dsimp only

theorem execDisarm_keeps : ∀ a0 a1 s, Keeps s₀ s → OutKeeps s₀ (execDisarm a0 a1 s) := by
  intro a0 a1 s h; unfold execDisarm
  repeat' with_reducible first | apply outKeeps_next | assumption | refine of_snd (by assumption) ?_ | apply disarmWrite_keeps

theorem execClear_keeps : ∀ a0 s, Keeps s₀ s → OutKeeps s₀ (execClear a0 s) := by
  intro a0 s h; unfold execClear
  repeat' with_reducible first | apply outKeeps_next | assumption | refine of_snd (by assumption) ?_ | apply pageReg_keeps

theorem execShadowArm_keeps : ∀ a0 s, Keeps s₀ s → OutKeeps s₀ (execShadowArm a0 s) := by
  intro a0 s h; unfold execShadowArm
  repeat' with_reducible first | apply outKeeps_next | assumption | refine of_snd (by assumption) ?_ | apply pageReg_keeps

theorem chEnWrite_keeps : ∀ a0 a1 s, Keeps s₀ s → Keeps s₀ (chEnWrite a0 a1 s) := by
  intro a0 a1 s h; unfold chEnWrite
  repeat' with_reducible first | assumption | refine of_snd (by assumption) ?_ | apply pageReg_keeps

theorem execChannelDisable_keeps : ∀ a0 s, Keeps s₀ s → OutKeeps s₀ (execChannelDisable a0 s) := by
  intro a0 s h; unfold execChannelDisable
  repeat' with_reducible first | apply outKeeps_next | assumption | refine of_snd (by assumption) ?_ | apply chEnWrite_keeps

theorem execChannelEnable_keeps : ∀ a0 s, Keeps s₀ s → OutKeeps s₀ (execChannelEnable a0 s) := by
  intro a0 s h; unfold execChannelEnable
  repeat' with_reducible first | apply outKeeps_next | assumption | refine of_snd (by assumption) ?_ | apply chEnWrite_keeps

theorem execDescriptorFetch_keeps : ∀ a0 a1 s, Keeps s₀ s → OutKeeps s₀ (execDescriptorFetch a0 a1 s) := by
  intro a0 a1 s h; unfold execDescriptorFetch
  repeat' with_reducible first
    | assumption | apply outKeeps_next | refine of_snd (by assumption) ?_ | apply haltCheck_keeps | apply descFetched_keeps
    | apply foldl_keeps | apply foldl_snd_keeps | intro _ _ _ _ _ | intro _ _ _ | intro _ _ | split | apply ite_keeps
    | dsimp only

theorem execMoverGrant_keeps : ∀ a0 a1 a2 a3 s, Keeps s₀ s → OutKeeps s₀ (execMoverGrant a0 a1 a2 a3 s) := by
  intro a0 a1 a2 a3 s h; unfold execMoverGrant
  repeat' with_reducible first
    | assumption | apply outKeeps_next | refine of_snd (by assumption) ?_ | apply moverGrant_keeps | apply foldl_keeps
    | apply foldl_snd_keeps | intro _ _ _ _ _ | intro _ _ _ | intro _ _ | split | apply ite_keeps | dsimp only

theorem execTransferEnd_keeps : ∀ a0 s, Keeps s₀ s → OutKeeps s₀ (execTransferEnd a0 s) := by
  intro a0 s h; unfold execTransferEnd
  repeat' with_reducible first
    | apply outKeeps_next | assumption | refine of_snd (by assumption) ?_ | apply haltCheck_keeps | apply transferEnd_keeps

theorem execWritebackComplete_keeps : ∀ a0 s, Keeps s₀ s → OutKeeps s₀ (execWritebackComplete a0 s) := by
  intro a0 s h; unfold execWritebackComplete
  repeat' with_reducible first
    | assumption | apply outKeeps_next | refine of_snd (by assumption) ?_ | apply haltCheck_keeps | apply writebackDone_keeps
    | apply foldl_keeps | apply foldl_snd_keeps | intro _ _ _ _ _ | intro _ _ _ | intro _ _ | split | apply ite_keeps
    | dsimp only

theorem execTransferHalt_keeps : ∀ a0 a1 a2 s, Keeps s₀ s → OutKeeps s₀ (execTransferHalt a0 a1 a2 s) := by
  intro a0 a1 a2 s h; unfold execTransferHalt
  repeat' with_reducible first | apply outKeeps_next | assumption | refine of_snd (by assumption) ?_ | apply transferHalt_keeps

theorem pacerOp_keeps : ∀ a0 a1 a2 s, Keeps s₀ s → Keeps s₀ (pacerOp a0 a1 a2 s) := by
  intro a0 a1 a2 s h; unfold pacerOp
  repeat' with_reducible first | assumption | refine of_snd (by assumption) ?_ | apply pageReg_keeps

theorem execClassEntryWrite_keeps : ∀ a0 a1 a2 s, Keeps s₀ s → OutKeeps s₀ (execClassEntryWrite a0 a1 a2 s) := by
  intro a0 a1 a2 s h; unfold execClassEntryWrite
  repeat' with_reducible first | apply outKeeps_next | assumption | refine of_snd (by assumption) ?_ | apply pageReg_keeps

theorem execAdmitCmd_keeps : ∀ a0 s, Keeps s₀ s → OutKeeps s₀ (execAdmitCmd a0 s) := by
  intro a0 s h; unfold execAdmitCmd
  repeat' with_reducible first | apply outKeeps_next | assumption | refine of_snd (by assumption) ?_ | apply pacerOp_keeps

theorem execRevoke_keeps : ∀ a0 a1 s, Keeps s₀ s → OutKeeps s₀ (execRevoke a0 a1 s) := by
  intro a0 a1 s h; unfold execRevoke
  repeat' with_reducible first | apply outKeeps_next | assumption | refine of_snd (by assumption) ?_ | apply pacerOp_keeps

theorem execShrink_keeps : ∀ a0 a1 s, Keeps s₀ s → OutKeeps s₀ (execShrink a0 a1 s) := by
  intro a0 a1 s h; unfold execShrink
  repeat' with_reducible first | apply outKeeps_next | assumption | refine of_snd (by assumption) ?_ | apply pacerOp_keeps

theorem execRelease_keeps : ∀ a0 a1 s, Keeps s₀ s → OutKeeps s₀ (execRelease a0 a1 s) := by
  intro a0 a1 s h; unfold execRelease
  repeat' with_reducible first | apply outKeeps_next | assumption | refine of_snd (by assumption) ?_ | apply pacerOp_keeps

theorem execFence_keeps : ∀ a0 a1 s, Keeps s₀ s → OutKeeps s₀ (execFence a0 a1 s) := by
  intro a0 a1 s h; unfold execFence
  repeat' with_reducible first | apply outKeeps_next | assumption | refine of_snd (by assumption) ?_ | apply pacerOp_keeps

theorem execUnfence_keeps : ∀ a0 a1 s, Keeps s₀ s → OutKeeps s₀ (execUnfence a0 a1 s) := by
  intro a0 a1 s h; unfold execUnfence
  repeat' with_reducible first | apply outKeeps_next | assumption | refine of_snd (by assumption) ?_ | apply pacerOp_keeps

theorem execReadmit_keeps : ∀ a0 a1 s, Keeps s₀ s → OutKeeps s₀ (execReadmit a0 a1 s) := by
  intro a0 a1 s h; unfold execReadmit
  repeat' with_reducible first | apply outKeeps_next | assumption | refine of_snd (by assumption) ?_ | apply pacerOp_keeps

theorem execNextCommandStart_keeps : ∀ s, Keeps s₀ s → OutKeeps s₀ (execNextCommandStart s) := by
  intro s h; unfold execNextCommandStart
  repeat' with_reducible first | apply outKeeps_next | assumption | refine of_snd (by assumption) ?_ | apply nextCommand_keeps

theorem execRailTimeout_keeps : ∀ s, Keeps s₀ s → OutKeeps s₀ (execRailTimeout s) := by
  intro s h; unfold execRailTimeout
  repeat' with_reducible first | apply outKeeps_next | assumption | refine of_snd (by assumption) ?_ | apply railTimeout_keeps

theorem execJobRelease_keeps : ∀ a0 s, Keeps s₀ s → OutKeeps s₀ (execJobRelease a0 s) := by
  intro a0 s h; unfold execJobRelease
  repeat' with_reducible first | apply outKeeps_next | assumption | refine of_snd (by assumption) ?_ | apply jobRelease_keeps

theorem execJobReady_keeps : ∀ a0 s, Keeps s₀ s → OutKeeps s₀ (execJobReady a0 s) := by
  intro a0 s h; unfold execJobReady
  repeat' with_reducible first | apply outKeeps_next | assumption | refine of_snd (by assumption) ?_ | apply jobReady_keeps

theorem execStepStart_keeps : ∀ a0 a1 s, Keeps s₀ s → OutKeeps s₀ (execStepStart a0 a1 s) := by
  intro a0 a1 s h; unfold execStepStart
  repeat' with_reducible first
    | assumption | apply outKeeps_next | refine of_snd (by assumption) ?_ | apply stepBegin_keeps | apply foldl_keeps
    | apply foldl_snd_keeps | intro _ _ _ _ _ | intro _ _ _ | intro _ _ | split | apply ite_keeps | dsimp only

theorem execStepCommit_keeps : ∀ a0 s, Keeps s₀ s → OutKeeps s₀ (execStepCommit a0 s) := by
  intro a0 s h; unfold execStepCommit
  repeat' with_reducible first | apply outKeeps_next | assumption | refine of_snd (by assumption) ?_ | apply stepCommit_keeps

theorem execCompletionHandoff_keeps : ∀ a0 s, Keeps s₀ s → OutKeeps s₀ (execCompletionHandoff a0 s) := by
  intro a0 s h; unfold execCompletionHandoff
  repeat' with_reducible first
    | apply outKeeps_next | assumption | refine of_snd (by assumption) ?_ | apply completionHandoff_keeps

theorem execDeadlinePass_keeps : ∀ a0 s, Keeps s₀ s → OutKeeps s₀ (execDeadlinePass a0 s) := by
  intro a0 s h; unfold execDeadlinePass
  repeat' with_reducible first | apply outKeeps_next | assumption | refine of_snd (by assumption) ?_ | apply deadlinePass_keeps

theorem execOverrun_keeps : ∀ a0 s, Keeps s₀ s → OutKeeps s₀ (execOverrun a0 s) := by
  intro a0 s h; unfold execOverrun
  repeat' with_reducible first | apply outKeeps_next | assumption | refine of_snd (by assumption) ?_ | apply overrun_keeps

theorem execParityDetection_keeps : ∀ a0 s, Keeps s₀ s → OutKeeps s₀ (execParityDetection a0 s) := by
  intro a0 s h; unfold execParityDetection
  repeat' with_reducible first | apply outKeeps_next | assumption | refine of_snd (by assumption) ?_ | apply parityAt_keeps

theorem execCarryCopyComplete_keeps : ∀ a0 a1 s, Keeps s₀ s → OutKeeps s₀ (execCarryCopyComplete a0 a1 s) := by
  intro a0 a1 s h; unfold execCarryCopyComplete
  repeat' with_reducible first | apply outKeeps_next | assumption | refine of_snd (by assumption) ?_ | apply carryDone_keeps

theorem execFenceHoldEnd_keeps : ∀ a0 s, Keeps s₀ s → OutKeeps s₀ (execFenceHoldEnd a0 s) := by
  intro a0 s h; unfold execFenceHoldEnd
  repeat' with_reducible first | apply outKeeps_next | assumption | refine of_snd (by assumption) ?_ | apply fenceHoldEnd_keeps

theorem execPaceWindow_keeps : ∀ a0 a1 a2 s, Keeps s₀ s → OutKeeps s₀ (execPaceWindow a0 a1 a2 s) := by
  intro a0 a1 a2 s h; unfold execPaceWindow
  repeat' with_reducible first | apply outKeeps_next | assumption | refine of_snd (by assumption) ?_ | apply paceWindow_keeps

theorem execSensorReading_keeps : ∀ a0 s, Keeps s₀ s → OutKeeps s₀ (execSensorReading a0 s) := by
  intro a0 s h; unfold execSensorReading
  repeat' with_reducible first | apply outKeeps_next | assumption | refine of_snd (by assumption) ?_ | apply sensorReading_keeps

theorem execThermalDrained_keeps : ∀ s, Keeps s₀ s → OutKeeps s₀ (execThermalDrained s) := by
  intro s h; unfold execThermalDrained
  repeat' with_reducible first | apply outKeeps_next | assumption | refine of_snd (by assumption) ?_ | apply thermalLower_keeps

theorem execThermalRetry_keeps : ∀ s, Keeps s₀ s → OutKeeps s₀ (execThermalRetry s) := by
  intro s h; unfold execThermalRetry
  repeat' with_reducible first | apply outKeeps_next | assumption | refine of_snd (by assumption) ?_ | apply thermalRetry_keeps

theorem execCoreWatchdogExpiry_keeps : ∀ a0 s, Keeps s₀ s → OutKeeps s₀ (execCoreWatchdogExpiry a0 s) := by
  intro a0 s h; unfold execCoreWatchdogExpiry
  repeat' with_reducible first | apply outKeeps_next | assumption | refine of_snd (by assumption) ?_ | apply coreWatchdog_keeps

theorem execWdtKick_keeps : ∀ a0 a1 s, Keeps s₀ s → OutKeeps s₀ (execWdtKick a0 a1 s) := by
  intro a0 a1 s h; unfold execWdtKick
  repeat' with_reducible first | apply outKeeps_next | assumption | refine of_snd (by assumption) ?_ | apply pageReg_keeps

theorem execMgmtWatchdogExpiry_keeps : ∀ s, Keeps s₀ s → OutKeeps s₀ (execMgmtWatchdogExpiry s) := by
  intro s h; unfold execMgmtWatchdogExpiry
  repeat' with_reducible first | apply outKeeps_next | assumption | refine of_snd (by assumption) ?_ | apply mgmtWatchdog_keeps

theorem execPowerDomainRequest_keeps : ∀ a0 a1 a2 s, Keeps s₀ s → OutKeeps s₀ (execPowerDomainRequest a0 a1 a2 s) := by
  intro a0 a1 a2 s h; unfold execPowerDomainRequest
  repeat' with_reducible first | apply outKeeps_next | assumption | refine of_snd (by assumption) ?_ | apply pageReg_keeps

theorem execDomainStateReached_keeps : ∀ a0 s, Keeps s₀ s → OutKeeps s₀ (execDomainStateReached a0 s) := by
  intro a0 s h; unfold execDomainStateReached
  repeat' with_reducible first | apply outKeeps_next | assumption | refine of_snd (by assumption) ?_ | apply domReached_keeps

theorem execDramTrained_keeps : ∀ a0 a1 s, Keeps s₀ s → OutKeeps s₀ (execDramTrained a0 a1 s) := by
  intro a0 a1 s h; unfold execDramTrained
  repeat' with_reducible first | apply outKeeps_next | assumption | refine of_snd (by assumption) ?_ | apply dramTrain_keeps

theorem execRailPoll_keeps : ∀ a0 s, Keeps s₀ s → OutKeeps s₀ (execRailPoll a0 s) := by
  intro a0 s h; unfold execRailPoll
  repeat' with_reducible first | apply outKeeps_next | assumption | refine of_snd (by assumption) ?_ | apply railPoll_keeps

theorem execDripModeWrite_keeps : ∀ a0 a1 s, Keeps s₀ s → OutKeeps s₀ (execDripModeWrite a0 a1 s) := by
  intro a0 a1 s h; unfold execDripModeWrite
  repeat' with_reducible first | apply outKeeps_next | assumption | refine of_snd (by assumption) ?_ | apply pageReg_keeps

theorem execI2cGo_keeps : ∀ a0 a1 a2 s, Keeps s₀ s → OutKeeps s₀ (execI2cGo a0 a1 a2 s) := by
  intro a0 a1 a2 s h; unfold execI2cGo
  repeat' with_reducible first | apply outKeeps_next | assumption | refine of_snd (by assumption) ?_ | apply pageReg_keeps

theorem execI2cDone_keeps : ∀ a0 a1 a2 s, Keeps s₀ s → OutKeeps s₀ (execI2cDone a0 a1 a2 s) := by
  intro a0 a1 a2 s h; unfold execI2cDone
  repeat' with_reducible first | apply outKeeps_next | assumption | refine of_snd (by assumption) ?_ | apply i2cDone_keeps

theorem execResetSourceAssert_keeps : ∀ a0 s, Keeps s₀ s → OutKeeps s₀ (execResetSourceAssert a0 s) := by
  intro a0 s h; unfold execResetSourceAssert
  repeat' with_reducible first | apply outKeeps_next | assumption | refine of_snd (by assumption) ?_ | apply sourceAssert_keeps

theorem execResetSourceRelease_keeps : ∀ a0 s, Keeps s₀ s → OutKeeps s₀ (execResetSourceRelease a0 s) := by
  intro a0 s h; unfold execResetSourceRelease
  repeat' with_reducible first | apply outKeeps_next | assumption | refine of_snd (by assumption) ?_ | apply sourceRelease_keeps

theorem execResetStretchEnd_keeps : ∀ a0 s, Keeps s₀ s → OutKeeps s₀ (execResetStretchEnd a0 s) := by
  intro a0 s h; unfold execResetStretchEnd
  repeat' with_reducible first | apply outKeeps_next | assumption | refine of_snd (by assumption) ?_ | apply stretchEnd_keeps

theorem execDeferralEnd_keeps : ∀ s, Keeps s₀ s → OutKeeps s₀ (execDeferralEnd s) := by
  intro s h; unfold execDeferralEnd
  repeat' with_reducible first | apply outKeeps_next | assumption | refine of_snd (by assumption) ?_ | apply deferralEnd_keeps

theorem execSwrst_keeps : ∀ a0 a1 s, Keeps s₀ s → OutKeeps s₀ (execSwrst a0 a1 s) := by
  intro a0 a1 s h; unfold execSwrst
  repeat' with_reducible first | apply outKeeps_next | assumption | refine of_snd (by assumption) ?_ | apply pageReg_keeps

theorem execRecover_keeps : ∀ a0 a1 s, Keeps s₀ s → OutKeeps s₀ (execRecover a0 a1 s) := by
  intro a0 a1 s h; unfold execRecover
  repeat' with_reducible first | apply outKeeps_next | assumption | refine of_snd (by assumption) ?_ | apply pageReg_keeps

theorem execServiceDeclare_keeps : ∀ a0 a1 s, Keeps s₀ s → OutKeeps s₀ (execServiceDeclare a0 a1 s) := by
  intro a0 a1 s h; unfold execServiceDeclare
  repeat' with_reducible first | apply outKeeps_next | assumption | refine of_snd (by assumption) ?_ | apply pageReg_keeps

theorem execFuseReadComplete_keeps : ∀ s, Keeps s₀ s → OutKeeps s₀ (execFuseReadComplete s) := by
  intro s h; unfold execFuseReadComplete
  repeat' with_reducible first | apply outKeeps_next | assumption | refine of_snd (by assumption) ?_ | apply fuseRead_keeps

theorem execBlockReportsReady_keeps : ∀ a0 s, Keeps s₀ s → OutKeeps s₀ (execBlockReportsReady a0 s) := by
  intro a0 s h; unfold execBlockReportsReady
  repeat' with_reducible first | apply outKeeps_next | assumption | refine of_snd (by assumption) ?_ | apply reportsReady_keeps

theorem execCrystalStart_keeps : ∀ s, Keeps s₀ s → OutKeeps s₀ (execCrystalStart s) := by
  intro s h; unfold execCrystalStart
  repeat' with_reducible first | apply outKeeps_next | assumption | refine of_snd (by assumption) ?_ | apply crystalStart_keeps

theorem execTimeSet_keeps : ∀ a0 a1 s, Keeps s₀ s → OutKeeps s₀ (execTimeSet a0 a1 s) := by
  intro a0 a1 s h; unfold execTimeSet
  repeat' with_reducible first | apply outKeeps_next | assumption | refine of_snd (by assumption) ?_ | apply pageReg_keeps

theorem ppsStart_keeps : ∀ s, Keeps s₀ s → Keeps s₀ (ppsStart s) := by
  intro s h; unfold ppsStart
  repeat' with_reducible first
    | assumption | refine of_snd (by assumption) ?_ | apply levelPin_keeps | apply modTime_keeps | apply foldl_keeps
    | intro _ _ _ _ _ | intro _ _ _ | intro _ _ | split

theorem execPpsPulse_keeps : ∀ s, Keeps s₀ s → OutKeeps s₀ (execPpsPulse s) := by
  intro s h; unfold execPpsPulse
  repeat' with_reducible first | apply outKeeps_next | assumption | refine of_snd (by assumption) ?_ | apply ppsStart_keeps

theorem ppsStop_keeps : ∀ s, Keeps s₀ s → Keeps s₀ (ppsStop s) := by
  intro s h; unfold ppsStop
  repeat' with_reducible first
    | assumption | refine of_snd (by assumption) ?_ | apply levelPin_keeps | apply modTime_keeps | apply foldl_keeps
    | intro _ _ _ _ _ | intro _ _ _ | intro _ _ | split

theorem execPpsWidthEnd_keeps : ∀ s, Keeps s₀ s → OutKeeps s₀ (execPpsWidthEnd s) := by
  intro s h; unfold execPpsWidthEnd
  repeat' with_reducible first | apply outKeeps_next | assumption | refine of_snd (by assumption) ?_ | apply ppsStop_keeps

theorem lcWrite_keeps : ∀ a0 a1 a2 a3 s, Keeps s₀ s → Keeps s₀ (lcWrite a0 a1 a2 a3 s) := by
  intro a0 a1 a2 a3 s h; unfold lcWrite
  repeat' with_reducible first | assumption | refine of_snd (by assumption) ?_ | apply pageReg_keeps

theorem execProvision_keeps : ∀ a0 a1 a2 s, Keeps s₀ s → OutKeeps s₀ (execProvision a0 a1 a2 s) := by
  intro a0 a1 a2 s h; unfold execProvision
  repeat' with_reducible first | apply outKeeps_next | assumption | refine of_snd (by assumption) ?_ | apply lcWrite_keeps

theorem execDeploy_keeps : ∀ a0 a1 s, Keeps s₀ s → OutKeeps s₀ (execDeploy a0 a1 s) := by
  intro a0 a1 s h; unfold execDeploy
  repeat' with_reducible first | apply outKeeps_next | assumption | refine of_snd (by assumption) ?_ | apply lcWrite_keeps

theorem execReturnLc_keeps : ∀ a0 a1 s, Keeps s₀ s → OutKeeps s₀ (execReturnLc a0 a1 s) := by
  intro a0 a1 s h; unfold execReturnLc
  repeat' with_reducible first | apply outKeeps_next | assumption | refine of_snd (by assumption) ?_ | apply lcWrite_keeps

theorem execRevokeOwnerHash_keeps : ∀ a0 a1 a2 s, Keeps s₀ s → OutKeeps s₀ (execRevokeOwnerHash a0 a1 a2 s) := by
  intro a0 a1 a2 s h; unfold execRevokeOwnerHash
  repeat' with_reducible first | apply outKeeps_next | assumption | refine of_snd (by assumption) ?_ | apply lcWrite_keeps

theorem execTamper_keeps : ∀ s, Keeps s₀ s → OutKeeps s₀ (execTamper s) := by
  intro s h; unfold execTamper
  repeat' with_reducible first
    | apply outKeeps_next | assumption | refine of_snd (by assumption) ?_ | apply tamperDetected_keeps

theorem execSecureBoot_keeps : ∀ s, Keeps s₀ s → OutKeeps s₀ (execSecureBoot s) := by
  intro s h; unfold execSecureBoot
  repeat' with_reducible first | apply outKeeps_next | assumption | refine of_snd (by assumption) ?_ | apply secureBoot_keeps

theorem execDebugRequest_keeps : ∀ a0 a1 s, Keeps s₀ s → OutKeeps s₀ (execDebugRequest a0 a1 s) := by
  intro a0 a1 s h; unfold execDebugRequest
  repeat' with_reducible first | apply outKeeps_next | assumption | refine of_snd (by assumption) ?_ | apply pageReg_keeps

theorem execDbgSubmit_keeps : ∀ a0 s, Keeps s₀ s → OutKeeps s₀ (execDbgSubmit a0 s) := by
  intro a0 s h; unfold execDbgSubmit
  repeat' with_reducible first | apply outKeeps_next | assumption | refine of_snd (by assumption) ?_ | apply pageReg_keeps

theorem execChallengeExpiry_keeps : ∀ s, Keeps s₀ s → OutKeeps s₀ (execChallengeExpiry s) := by
  intro s h; unfold execChallengeExpiry
  repeat' with_reducible first
    | apply outKeeps_next | assumption | refine of_snd (by assumption) ?_ | apply challengeExpire_keeps

theorem updWrite_keeps : ∀ a0 a1 s, Keeps s₀ s → Keeps s₀ (updWrite a0 a1 s) := by
  intro a0 a1 s h; unfold updWrite
  repeat' with_reducible first | assumption | refine of_snd (by assumption) ?_ | apply pageReg_keeps

theorem execLoad_keeps : ∀ a0 s, Keeps s₀ s → OutKeeps s₀ (execLoad a0 s) := by
  intro a0 s h; unfold execLoad
  repeat' with_reducible first | apply outKeeps_next | assumption | refine of_snd (by assumption) ?_ | apply updWrite_keeps

theorem execLoadDone_keeps : ∀ a0 s, Keeps s₀ s → OutKeeps s₀ (execLoadDone a0 s) := by
  intro a0 s h; unfold execLoadDone
  repeat' with_reducible first
    | assumption | apply outKeeps_next | refine of_snd (by assumption) ?_ | apply loadDone_keeps | apply foldl_keeps
    | apply foldl_snd_keeps | intro _ _ _ _ _ | intro _ _ _ | intro _ _ | split | apply ite_keeps | dsimp only

theorem execArm_keeps : ∀ a0 s, Keeps s₀ s → OutKeeps s₀ (execArm a0 s) := by
  intro a0 s h; unfold execArm
  repeat' with_reducible first | apply outKeeps_next | assumption | refine of_snd (by assumption) ?_ | apply updWrite_keeps

theorem execUpdateDisarm_keeps : ∀ a0 s, Keeps s₀ s → OutKeeps s₀ (execUpdateDisarm a0 s) := by
  intro a0 s h; unfold execUpdateDisarm
  repeat' with_reducible first | apply outKeeps_next | assumption | refine of_snd (by assumption) ?_ | apply updWrite_keeps

theorem execConfirm_keeps : ∀ a0 s, Keeps s₀ s → OutKeeps s₀ (execConfirm a0 s) := by
  intro a0 s h; unfold execConfirm
  repeat' with_reducible first | apply outKeeps_next | assumption | refine of_snd (by assumption) ?_ | apply updWrite_keeps

theorem execAbandon_keeps : ∀ a0 s, Keeps s₀ s → OutKeeps s₀ (execAbandon a0 s) := by
  intro a0 s h; unfold execAbandon
  repeat' with_reducible first | apply outKeeps_next | assumption | refine of_snd (by assumption) ?_ | apply updWrite_keeps

theorem execActivationStop_keeps : ∀ s, Keeps s₀ s → OutKeeps s₀ (execActivationStop s) := by
  intro s h; unfold execActivationStop
  repeat' with_reducible first
    | apply outKeeps_next | assumption | refine of_snd (by assumption) ?_ | apply activationStop_keeps

theorem execActivationTime_keeps : ∀ s, Keeps s₀ s → OutKeeps s₀ (execActivationTime s) := by
  intro s h; unfold execActivationTime
  repeat' with_reducible first
    | apply outKeeps_next | assumption | refine of_snd (by assumption) ?_ | apply activationTime_keeps

theorem execActivationReset_keeps : ∀ s, Keeps s₀ s → OutKeeps s₀ (execActivationReset s) := by
  intro s h; unfold execActivationReset
  repeat' with_reducible first
    | apply outKeeps_next | assumption | refine of_snd (by assumption) ?_ | apply activationReset_keeps

theorem execSstoreWrite_keeps : ∀ a0 a1 s, Keeps s₀ s → OutKeeps s₀ (execSstoreWrite a0 a1 s) := by
  intro a0 a1 s h; unfold execSstoreWrite
  repeat' with_reducible first | apply outKeeps_next | assumption | refine of_snd (by assumption) ?_ | apply pageReg_keeps

theorem execSstoreWriteDone_keeps : ∀ s, Keeps s₀ s → OutKeeps s₀ (execSstoreWriteDone s) := by
  intro s h; unfold execSstoreWriteDone
  repeat' with_reducible first | apply outKeeps_next | assumption | refine of_snd (by assumption) ?_ | apply sstoreDone_keeps

theorem tapUpdate_keeps : ∀ a0 s, Keeps s₀ s → Keeps s₀ (tapUpdate a0 s) := by
  intro a0 s h; unfold tapUpdate
  repeat' with_reducible first
    | assumption | refine of_snd (by assumption) ?_ | apply draw_keeps | apply modTrust_keeps | apply foldl_keeps
    | apply foldl_snd_keeps | intro _ _ _ _ _ | intro _ _ _ | intro _ _ | split | apply ite_keeps | dsimp only

theorem execTapInstruction_keeps : ∀ a0 s, Keeps s₀ s → OutKeeps s₀ (execTapInstruction a0 s) := by
  intro a0 s h; unfold execTapInstruction
  repeat' with_reducible first | apply outKeeps_next | assumption | refine of_snd (by assumption) ?_ | apply tapUpdate_keeps

theorem execTapReset_keeps : ∀ s, Keeps s₀ s → OutKeeps s₀ (execTapReset s) := by
  intro s h; unfold execTapReset
  repeat' with_reducible first | apply outKeeps_next | assumption | refine of_snd (by assumption) ?_ | apply modTrust_keeps

theorem tick_keeps : ∀ s, Keeps s₀ s → Keeps s₀ (tick s) := by
  intro s h; unfold tick
  repeat' with_reducible first
    | assumption | refine of_snd (by assumption) ?_ | apply modTime_keeps | apply loadStep_keeps | apply fuseSettle_keeps
    | apply uartTrail_keeps | apply scrubAdvance_keeps | apply pacerSettle_keeps | apply foldl_keeps | apply foldl_snd_keeps
    | intro _ _ _ _ _ | intro _ _ _ | intro _ _ | split | apply ite_keeps | dsimp only

theorem exec_keeps {s₀ : State} (i : Instr) (s : State) (h : Keeps s₀ s) : OutKeeps s₀ (exec i s) :=
  match i with
  | .registerWrite req off size value => execRegisterWrite_keeps req off size value s h
  | .enable req page on => execEnable_keeps req page on s h
  | .commit req page => execCommit_keeps req page s h
  | .funcReset req page => execFuncReset_keeps req page s h
  | .stagedCommitApply page => execStagedCommitApply_keeps page s h
  | .blockDrained page => execBlockDrained_keeps page s h
  | .irqStatClear req page value coincident => execIrqStatClear_keeps req page value coincident s h
  | .irqSet req page value => execIrqSet_keeps req page value s h
  | .chSelWrite req page value => execChSelWrite_keeps req page value s h
  | .errInfoClear req page value => execErrInfoClear_keeps req page value s h
  | .pairLoRead req off => execPairLoRead_keeps req off s h
  | .pairLoWrite req off value => execPairLoWrite_keeps req off value s h
  | .detLogRead req => execDetLogRead_keeps req s h
  | .satCntRead req core => execSatCntRead_keeps req core s h
  | .csiErrRead req => execCsiErrRead_keeps req s h
  | .peerErrRead req => execPeerErrRead_keeps req s h
  | .erasedRead req => execErasedRead_keeps req s h
  | .classEntryWrite req off value => execClassEntryWrite_keeps req off value s h
  | .admitCmd req => execAdmitCmd_keeps req s h
  | .revoke req cls => execRevoke_keeps req cls s h
  | .shrink req cls => execShrink_keeps req cls s h
  | .release req cls => execRelease_keeps req cls s h
  | .fence req arg => execFence_keeps req arg s h
  | .unfence req arg => execUnfence_keeps req arg s h
  | .readmit req cls => execReadmit_keeps req cls s h
  | .nextCommandStart => execNextCommandStart_keeps s h
  | .railTimeout => execRailTimeout_keeps s h
  | .jobRelease job => execJobRelease_keeps job s h
  | .jobReady job => execJobReady_keeps job s h
  | .stepStart core answered => execStepStart_keeps core answered s h
  | .stepCommit core => execStepCommit_keeps core s h
  | .completionHandoff job => execCompletionHandoff_keeps job s h
  | .deadlinePass job => execDeadlinePass_keeps job s h
  | .overrun core => execOverrun_keeps core s h
  | .parityDetection place => execParityDetection_keeps place s h
  | .carryCopyComplete job share => execCarryCopyComplete_keeps job share s h
  | .fenceHoldEnd core => execFenceHoldEnd_keeps core s h
  | .paceWindow core busy steps => execPaceWindow_keeps core busy steps s h
  | .sensorReading readings => execSensorReading_keeps readings s h
  | .thermalDrained => execThermalDrained_keeps s h
  | .thermalRetry => execThermalRetry_keeps s h
  | .coreWatchdogExpiry core => execCoreWatchdogExpiry_keeps core s h
  | .nop at_ slot => execNop_keeps at_ slot s h
  | .add at_ d a b => execAdd_keeps at_ d a b s h
  | .addi at_ d a imm ext => execAddi_keeps at_ d a imm ext s h
  | .sub at_ d a b => execSub_keeps at_ d a b s h
  | .and at_ d a b => execAnd_keeps at_ d a b s h
  | .or at_ d a b => execOr_keeps at_ d a b s h
  | .xor at_ d a b => execXor_keeps at_ d a b s h
  | .shl at_ d a b sub => execShl_keeps at_ d a b sub s h
  | .shr at_ d a b sub => execShr_keeps at_ d a b sub s h
  | .sra at_ d a b sub => execSra_keeps at_ d a b sub s h
  | .slt at_ d a b => execSlt_keeps at_ d a b s h
  | .sltu at_ d a b => execSltu_keeps at_ d a b s h
  | .mul at_ d a b => execMul_keeps at_ d a b s h
  | .mulh at_ d a b => execMulh_keeps at_ d a b s h
  | .movi at_ d imm ext => execMovi_keeps at_ d imm ext s h
  | .bnz at_ a off => execBnz_keeps at_ a off s h
  | .bz at_ a off => execBz_keeps at_ a off s h
  | .jmp at_ off => execJmp_keeps at_ off s h
  | .call at_ off => execCall_keeps at_ off s h
  | .jr at_ a => execJr_keeps at_ a s h
  | .reti at_ => execReti_keeps at_ s h
  | .resume at_ => execResume_keeps at_ s h
  | .repeatOp at_ len cnt rot reg g => execRepeatOp_keeps at_ len cnt rot reg g s h
  | .getcr at_ d sub => execGetcr_keeps at_ d sub s h
  | .setcr at_ a sub => execSetcr_keeps at_ a sub s h
  | .stepend at_ last => execStepend_keeps at_ last s h
  | .evpostOp at_ a => execEvpostOp_keeps at_ a s h
  | .mfence at_ => execMfence_keeps at_ s h
  | .trap at_ imm ext => execTrap_keeps at_ imm ext s h
  | .paddi at_ d a imm ext => execPaddi_keeps at_ d a imm ext s h
  | .paddo at_ d a b => execPaddo_keeps at_ d a b s h
  | .pli at_ d imm ext => execPli_keeps at_ d imm ext s h
  | .oli at_ d imm ext => execOli_keeps at_ d imm ext s h
  | .gtop at_ d a b => execGtop_keeps at_ d a b s h
  | .ptog at_ d a sub => execPtog_keeps at_ d a sub s h
  | .rrot at_ => execRrot_keeps at_ s h
  | .ldw at_ slot f => execLdw_keeps at_ slot f s h
  | .ldh at_ f => execLdh_keeps at_ f s h
  | .ldb at_ f => execLdb_keeps at_ f s h
  | .stw at_ slot f => execStw_keeps at_ slot f s h
  | .sth at_ f => execSth_keeps at_ f s h
  | .stb at_ f => execStb_keeps at_ f s h
  | .ldf at_ f => execLdf_keeps at_ f s h
  | .stf at_ f => execStf_keeps at_ f s h
  | .faddS at_ d a b => execFaddS_keeps at_ d a b s h
  | .fmulS at_ d a b => execFmulS_keeps at_ d a b s h
  | .fmaS at_ d a b => execFmaS_keeps at_ d a b s h
  | .faddD at_ d a b => execFaddD_keeps at_ d a b s h
  | .fmulD at_ d a b => execFmulD_keeps at_ d a b s h
  | .fdivS at_ d a b => execFdivS_keeps at_ d a b s h
  | .fcvt at_ d a sub => execFcvt_keeps at_ d a sub s h
  | .fcmp at_ d a b sub => execFcmp_keeps at_ d a b sub s h
  | .gtof at_ d a => execGtof_keeps at_ d a s h
  | .ftog at_ d a => execFtog_keeps at_ d a s h
  | .svadd at_ d a b sub => execSvadd_keeps at_ d a b sub s h
  | .svmul at_ d a b sub => execSvmul_keeps at_ d a b sub s h
  | .svfma at_ d a b sub => execSvfma_keeps at_ d a b sub s h
  | .vld at_ l1 f => execVld_keeps at_ l1 f s h
  | .vst at_ l1 f => execVst_keeps at_ l1 f s h
  | .vldb at_ l1 f => execVldb_keeps at_ l1 f s h
  | .gather at_ l1 f => execGather_keeps at_ l1 f s h
  | .scatter at_ l1 f => execScatter_keeps at_ l1 f s h
  | .vadd at_ v1 f => execVadd_keeps at_ v1 f s h
  | .vsub at_ v1 f => execVsub_keeps at_ v1 f s h
  | .vadds at_ v1 f => execVadds_keeps at_ v1 f s h
  | .vsubs at_ v1 f => execVsubs_keeps at_ v1 f s h
  | .vmul at_ v1 f => execVmul_keeps at_ v1 f s h
  | .vmulh at_ v1 f => execVmulh_keeps at_ v1 f s h
  | .vmin at_ v1 f => execVmin_keeps at_ v1 f s h
  | .vmax at_ v1 f => execVmax_keeps at_ v1 f s h
  | .vabsd at_ v1 f => execVabsd_keeps at_ v1 f s h
  | .vand at_ v1 f => execVand_keeps at_ v1 f s h
  | .vor at_ v1 f => execVor_keeps at_ v1 f s h
  | .vxor at_ v1 f => execVxor_keeps at_ v1 f s h
  | .vshl at_ v1 f => execVshl_keeps at_ v1 f s h
  | .vshr at_ v1 f => execVshr_keeps at_ v1 f s h
  | .vavg at_ v1 f => execVavg_keeps at_ v1 f s h
  | .vcmpeq at_ v1 f => execVcmpeq_keeps at_ v1 f s h
  | .vcmplt at_ v1 f => execVcmplt_keeps at_ v1 f s h
  | .vcmple at_ v1 f => execVcmple_keeps at_ v1 f s h
  | .vsel at_ v1 f => execVsel_keeps at_ v1 f s h
  | .vperm at_ v1 f => execVperm_keeps at_ v1 f s h
  | .vbcast at_ v1 f => execVbcast_keeps at_ v1 f s h
  | .vmac at_ v1 f => execVmac_keeps at_ v1 f s h
  | .vmsu at_ v1 f => execVmsu_keeps at_ v1 f s h
  | .vacclr at_ v1 f => execVacclr_keeps at_ v1 f s h
  | .vmova at_ v1 f => execVmova_keeps at_ v1 f s h
  | .vnarrow at_ v1 f => execVnarrow_keeps at_ v1 f s h
  | .vwiden at_ v1 f => execVwiden_keeps at_ v1 f s h
  | .vfadd at_ v1 f => execVfadd_keeps at_ v1 f s h
  | .vfmul at_ v1 f => execVfmul_keeps at_ v1 f s h
  | .vfma at_ v1 f => execVfma_keeps at_ v1 f s h
  | .vcvt at_ v1 f => execVcvt_keeps at_ v1 f s h
  | .vred at_ v1 f => execVred_keeps at_ v1 f s h
  | .vrange at_ v1 f => execVrange_keeps at_ v1 f s h
  | .vscale at_ v1 f => execVscale_keeps at_ v1 f s h
  | .vquant at_ v1 f => execVquant_keeps at_ v1 f s h
  | .vdeq at_ v1 f => execVdeq_keeps at_ v1 f s h
  | .vgquant at_ v1 f => execVgquant_keeps at_ v1 f s h
  | .vmoment at_ v1 f => execVmoment_keeps at_ v1 f s h
  | .vcbfit at_ v1 f => execVcbfit_keeps at_ v1 f s h
  | .vmwupd at_ v1 f => execVmwupd_keeps at_ v1 f s h
  | .naq at_ v q => execNaq_keeps at_ v q s h
  | .nawait at_ n => execNawait_keeps at_ n s h
  | .dmakick at_ g => execDmakick_keeps at_ g s h
  | .dmawait at_ g => execDmawait_keeps at_ g s h
  | .waitRelease p steps => execWaitRelease_keeps p steps s h
  | .remoteAccessComplete p answered => execRemoteAccessComplete_keeps p answered s h
  | .interruptEntry p => execInterruptEntry_keeps p s h
  | .wdtKick req value => execWdtKick_keeps req value s h
  | .mgmtWatchdogExpiry => execMgmtWatchdogExpiry_keeps s h
  | .loadw core => execLoadw_keeps core s h
  | .convPass core => execConvPass_keeps core s h
  | .wino core => execWino_keeps core s h
  | .matmul core => execMatmul_keeps core s h
  | .epilog core => execEpilog_keeps core s h
  | .argmax core => execArgmax_keeps core s h
  | .sync core => execSync_keeps core s h
  | .trainmode core => execTrainmode_keeps core s h
  | .arrayCommandComplete core index => execArrayCommandComplete_keeps core index s h
  | .goldenRestoreComplete line dramOk => execGoldenRestoreComplete_keeps line dramOk s h
  | .restoreWaitEnd line => execRestoreWaitEnd_keeps line s h
  | .sliceDrained n => execSliceDrained_keeps n s h
  | .slicePowerTimeout n => execSlicePowerTimeout_keeps n s h
  | .semPost req k value => execSemPost_keeps req k value s h
  | .semWaitThreshold req k value => execSemWaitThreshold_keeps req k value s h
  | .semWait req k => execSemWait_keeps req k s h
  | .semWaitTimeout req => execSemWaitTimeout_keeps req s h
  | .semTake req k => execSemTake_keeps req k s h
  | .semSet req k value => execSemSet_keeps req k value s h
  | .scrubStart req value => execScrubStart_keeps req value s h
  | .scrubDone => execScrubDone_keeps s h
  | .patrolPass corrected => execPatrolPass_keeps corrected s h
  | .nocTimeout p => execNocTimeout_keeps p s h
  | .kick req => execKick_keeps req s h
  | .disarm req handoverPending => execDisarm_keeps req handoverPending s h
  | .clear req => execClear_keeps req s h
  | .shadowArm req => execShadowArm_keeps req s h
  | .channelDisable req => execChannelDisable_keeps req s h
  | .channelEnable req => execChannelEnable_keeps req s h
  | .descriptorFetch ch answered => execDescriptorFetch_keeps ch answered s h
  | .moverGrant ch mover beats corrected => execMoverGrant_keeps ch mover beats corrected s h
  | .transferEnd ch => execTransferEnd_keeps ch s h
  | .writebackComplete ch => execWritebackComplete_keeps ch s h
  | .transferHalt ch code addr => execTransferHalt_keeps ch code addr s h
  | .ethFrameRx port frame => execEthFrameRx_keeps port frame s h
  | .ethTx port answered => execEthTx_keeps port answered s h
  | .ethLinkChange port up => execEthLinkChange_keeps port up s h
  | .reorderTimeout entry => execReorderTimeout_keeps entry s h
  | .frameTimeout entry => execFrameTimeout_keeps entry s h
  | .streamEntryWrite req k value => execStreamEntryWrite_keeps req k value s h
  | .qcmdDiscard req => execQcmdDiscard_keeps req s h
  | .qcmdNext req => execQcmdNext_keeps req s h
  | .outRelease req k value => execOutRelease_keeps req k value s h
  | .decodeStart answered => execDecodeStart_keeps answered s h
  | .decodeDone res => execDecodeDone_keeps res s h
  | .outputBufferTimeout => execOutputBufferTimeout_keeps s h
  | .encodeStart answered => execEncodeStart_keeps answered s h
  | .encodeDone key bits => execEncodeDone_keeps key bits s h
  | .doutRelease req value => execDoutRelease_keeps req value s h
  | .csiPacket input pkt => execCsiPacket_keeps input pkt s h
  | .csiFrameEnd input => execCsiFrameEnd_keeps input s h
  | .pfeFrameWritten input out => execPfeFrameWritten_keeps input out s h
  | .bufRelease req out value => execBufRelease_keeps req out value s h
  | .inputPinChange pin level => execInputPinChange_keeps pin level s h
  | .debounceExpiry pin => execDebounceExpiry_keeps pin s h
  | .outSet req value => execOutSet_keeps req value s h
  | .outClr req value => execOutClr_keeps req value s h
  | .pwmPeriodBoundary p => execPwmPeriodBoundary_keeps p s h
  | .uartDataWrite req u value => execUartDataWrite_keeps req u value s h
  | .uartDataRead req u => execUartDataRead_keeps req u s h
  | .uartRxByte u data perr ferr => execUartRxByte_keeps u data perr ferr s h
  | .uartTxByte u => execUartTxByte_keeps u s h
  | .evPost req value => execEvPost_keeps req value s h
  | .rulePass => execRulePass_keeps s h
  | .ruleTimerExpiry t => execRuleTimerExpiry_keeps t s h
  | .pulseEnd out => execPulseEnd_keeps out s h
  | .windowExpiry rule condB => execWindowExpiry_keeps rule condB s h
  | .templateTx port => execTemplateTx_keeps port s h
  | .sqDoorbell req q value => execSqDoorbell_keeps req q value s h
  | .cqDoorbell req q value => execCqDoorbell_keeps req q value s h
  | .queueEnable req value => execQueueEnable_keeps req value s h
  | .sqEntryFetch q answered => execSqEntryFetch_keeps q answered s h
  | .jobEntry answered => execJobEntry_keeps answered s h
  | .abortEntry => execAbortEntry_keeps s h
  | .irqAggTimeout q => execIrqAggTimeout_keeps q s h
  | .flr f => execFlr_keeps f s h
  | .fnReset req f => execFnReset_keeps req f s h
  | .linkLoss kind => execLinkLoss_keeps kind s h
  | .linkTrainingStart => execLinkTrainingStart_keeps s h
  | .bar2Access src off write len answered => execBar2Access_keeps src off write len answered s h
  | .ptmDialogue ok master delay => execPtmDialogue_keeps ok master delay s h
  | .classGive req cls owner => execClassGive_keeps req cls owner s h
  | .statusRecordSend refused => execStatusRecordSend_keeps refused s h
  | .statusRecordRx rid record => execStatusRecordRx_keeps rid record s h
  | .peerMiss peer => execPeerMiss_keeps peer s h
  | .mbxSend req value => execMbxSend_keeps req value s h
  | .messageRx rid sender slot aligned message => execMessageRx_keeps rid sender slot aligned message s h
  | .gapTimeout peer => execGapTimeout_keeps peer s h
  | .rxDone req value => execRxDone_keeps req value s h
  | .lfiEnable req value => execLfiEnable_keeps req value s h
  | .lfiReorderTimeout ch => execLfiReorderTimeout_keeps ch s h
  | .powerDomainRequest req n value => execPowerDomainRequest_keeps req n value s h
  | .domainStateReached n => execDomainStateReached_keeps n s h
  | .dramTrained gib channels => execDramTrained_keeps gib channels s h
  | .railPoll replies => execRailPoll_keeps replies s h
  | .resetSourceAssert src => execResetSourceAssert_keeps src s h
  | .resetSourceRelease src => execResetSourceRelease_keeps src s h
  | .resetStretchEnd src => execResetStretchEnd_keeps src s h
  | .deferralEnd => execDeferralEnd_keeps s h
  | .swrst req value => execSwrst_keeps req value s h
  | .recover req value => execRecover_keeps req value s h
  | .serviceDeclare req value => execServiceDeclare_keeps req value s h
  | .fuseReadComplete => execFuseReadComplete_keeps s h
  | .crystalStart => execCrystalStart_keeps s h
  | .timeSet req lo => execTimeSet_keeps req lo s h
  | .ppsPulse => execPpsPulse_keeps s h
  | .dripModeWrite req value => execDripModeWrite_keeps req value s h
  | .i2cGo req m value => execI2cGo_keeps req m value s h
  | .i2cDone m nack data => execI2cDone_keeps m nack data s h
  | .provision req arg key => execProvision_keeps req arg key s h
  | .deploy req key => execDeploy_keeps req key s h
  | .returnLc req key => execReturnLc_keeps req key s h
  | .revokeOwnerHash req arg key => execRevokeOwnerHash_keeps req arg key s h
  | .tamper => execTamper_keeps s h
  | .secureBoot => execSecureBoot_keeps s h
  | .debugRequest req value => execDebugRequest_keeps req value s h
  | .dbgSubmit req => execDbgSubmit_keeps req s h
  | .challengeExpiry => execChallengeExpiry_keeps s h
  | .load req => execLoad_keeps req s h
  | .loadDone answered => execLoadDone_keeps answered s h
  | .arm req => execArm_keeps req s h
  | .updateDisarm req => execUpdateDisarm_keeps req s h
  | .confirm req => execConfirm_keeps req s h
  | .abandon req => execAbandon_keeps req s h
  | .activationStop => execActivationStop_keeps s h
  | .activationTime => execActivationTime_keeps s h
  | .activationReset => execActivationReset_keeps s h
  | .sstoreWrite req value => execSstoreWrite_keeps req value s h
  | .sstoreWriteDone => execSstoreWriteDone_keeps s h
  | .registerRead req off size => execRegisterRead_keeps req off size s h
  | .gpioPinChange pin level => execGpioPinChange_keeps pin level s h
  | .pcieLinkUp speed width => execPcieLinkUp_keeps speed width s h
  | .configurationRequest r => execConfigurationRequest_keeps r s h
  | .csiSyncChange input sync => execCsiSyncChange_keeps input sync s h
  | .ppsWidthEnd => execPpsWidthEnd_keeps s h
  | .blockReportsReady target => execBlockReportsReady_keeps target s h
  | .tapInstruction code => execTapInstruction_keeps code s h
  | .tapReset => execTapReset_keeps s h

end Sys2Proof.Machine
end

