-- ==== Sys2Proof/WellFormed.lean ====
section
/-! DEFINITION. Which terms of `Instr` are commands that the device can be sent: the lengths, sizes and outcomes that the bus, the
link and the board can produce. Register numbers, channels, slots and other fields of a fixed width are bounded by their types, and a
command that the device itself refuses (an unaligned register access, an operation with a TYPE that it does not accept) is well formed:
the refusal is its effect. -/

namespace Sys2Proof

/-- The sizes, in bytes, in which the fabric carries a register access; R29 refuses all but 4. -/
def busSize (n : Nat) : Bool := n == 1 || n == 2 || n == 4 || n == 8

/-- The offset of a register, which is a 32-bit word (R29). -/
def wordOffset (off : Nat) : Bool := off % 4 == 0

/-- An offset in the class entry window of the PACER page, at 0x400 and above (R16). -/
def classWindow (off : Nat) : Bool := decide (0x400 ≤ off) && wordOffset off

/-- A picture of the sizes that the codec supports: even, from 64 × 64 to 7680 × 4320 (R306), with its rows whole. -/
def pictureFits (p : DecodeResult) : Bool :=
  decide (64 ≤ p.width ∧ p.width ≤ 7680 ∧ p.width % 2 = 0) && decide (64 ≤ p.height ∧ p.height ≤ 4320 ∧ p.height % 2 = 0)
    && decide (p.luma.length = p.height) && p.luma.all (fun r => r.length == p.width) && p.cbcr.all (fun r => r.length == p.width)
    && decide (p.cbcr.length = match p.chroma with
      | .c420 => p.height / 2
      | .c422 => p.height
      | .grey => 0)

/-- A header error is either corrected or not (R313). -/
def headerOutcome (p : CsiPacket) : Bool := !(p.eccFixed && p.eccBad)

/-- A BAR2 write of up to the Max Payload Size, 512 bytes, or a read of up to the Max Read Request, 4,096 bytes (R337). -/
def requestFits (write : Option (List Byte)) (len : Nat) : Bool :=
  match write with
  | some bs => bs.length == len && decide (1 ≤ len) && decide (len ≤ 512)
  | none => decide (1 ≤ len) && decide (len ≤ 4096)

/-- A link trains at one of the five PCIe speeds up to 32 GT/s, on 8, 4, 2 or 1 lanes (R337). -/
def linkTrains (speed : BitVec 3) (width : BitVec 4) : Bool :=
  decide (1 ≤ speed.toNat) && decide (speed.toNat ≤ 5) && (width == 1 || width == 2 || width == 4 || width == 8)

/-- A poll's frames: the first and up to 3 repeats, each of which is sent only after the one before it failed (R389). -/
def pollFits (replies : List (Option AvsReply)) : Bool :=
  decide (1 ≤ replies.length) && decide (replies.length ≤ 4) && replies.dropLast.all Option.isNone

/-- Well-formed commands. -/
def Instr.wf (i : Instr) : Bool :=
  match i with
  | .registerWrite _ _ size _ => busSize size
  | .enable _ _ _ => true
  | .commit _ _ => true
  | .funcReset _ _ => true
  | .stagedCommitApply _ => true
  | .blockDrained _ => true
  | .irqStatClear _ _ _ _ => true
  | .irqSet _ _ _ => true
  | .chSelWrite _ _ _ => true
  | .errInfoClear _ _ _ => true
  | .pairLoRead _ off => wordOffset off.toNat
  | .pairLoWrite _ off _ => wordOffset off.toNat
  | .detLogRead _ => true
  | .satCntRead _ _ => true
  | .csiErrRead _ => true
  | .peerErrRead _ => true
  | .erasedRead _ => true
  | .classEntryWrite _ off _ => classWindow off.toNat
  | .admitCmd _ => true
  | .revoke _ _ => true
  | .shrink _ _ => true
  | .release _ _ => true
  | .fence _ _ => true
  | .unfence _ _ => true
  | .readmit _ _ => true
  | .nextCommandStart => true
  | .railTimeout => true
  | .jobRelease _ => true
  | .jobReady _ => true
  | .stepStart _ _ => true
  | .stepCommit _ => true
  | .completionHandoff _ => true
  | .deadlinePass _ => true
  | .overrun _ => true
  | .parityDetection _ => true
  | .carryCopyComplete _ _ => true
  | .fenceHoldEnd _ => true
  | .paceWindow _ _ _ => true
  | .sensorReading _ => true
  | .thermalDrained => true
  | .thermalRetry => true
  | .coreWatchdogExpiry _ => true
  | .nop _ _ => true
  | .add _ _ _ _ => true
  | .addi _ _ _ _ _ => true
  | .sub _ _ _ _ => true
  | .and _ _ _ _ => true
  | .or _ _ _ _ => true
  | .xor _ _ _ _ => true
  | .shl _ _ _ _ _ => true
  | .shr _ _ _ _ _ => true
  | .sra _ _ _ _ _ => true
  | .slt _ _ _ _ => true
  | .sltu _ _ _ _ => true
  | .mul _ _ _ _ => true
  | .mulh _ _ _ _ => true
  | .movi _ _ _ _ => true
  | .bnz _ _ _ => true
  | .bz _ _ _ => true
  | .jmp _ _ => true
  | .call _ _ => true
  | .jr _ _ => true
  | .reti _ => true
  | .resume _ => true
  | .repeatOp _ _ _ _ _ _ => true
  | .getcr _ _ _ => true
  | .setcr _ _ _ => true
  | .stepend _ _ => true
  | .evpostOp _ _ => true
  | .mfence _ => true
  | .trap _ _ _ => true
  | .paddi _ _ _ _ _ => true
  | .paddo _ _ _ _ => true
  | .pli _ _ _ _ => true
  | .oli _ _ _ _ => true
  | .gtop _ _ _ _ => true
  | .ptog _ _ _ _ => true
  | .rrot _ => true
  | .ldw _ _ _ => true
  | .ldh _ _ => true
  | .ldb _ _ => true
  | .stw _ _ _ => true
  | .sth _ _ => true
  | .stb _ _ => true
  | .ldf _ _ => true
  | .stf _ _ => true
  | .faddS _ _ _ _ => true
  | .fmulS _ _ _ _ => true
  | .fmaS _ _ _ _ => true
  | .faddD _ _ _ _ => true
  | .fmulD _ _ _ _ => true
  | .fdivS _ _ _ _ => true
  | .fcvt _ _ _ _ => true
  | .fcmp _ _ _ _ _ => true
  | .gtof _ _ _ => true
  | .ftog _ _ _ => true
  | .svadd _ _ _ _ _ => true
  | .svmul _ _ _ _ _ => true
  | .svfma _ _ _ _ _ => true
  | .vld _ _ _ => true
  | .vst _ _ _ => true
  | .vldb _ _ _ => true
  | .gather _ _ _ => true
  | .scatter _ _ _ => true
  | .vadd _ _ _ => true
  | .vsub _ _ _ => true
  | .vadds _ _ _ => true
  | .vsubs _ _ _ => true
  | .vmul _ _ _ => true
  | .vmulh _ _ _ => true
  | .vmin _ _ _ => true
  | .vmax _ _ _ => true
  | .vabsd _ _ _ => true
  | .vand _ _ _ => true
  | .vor _ _ _ => true
  | .vxor _ _ _ => true
  | .vshl _ _ _ => true
  | .vshr _ _ _ => true
  | .vavg _ _ _ => true
  | .vcmpeq _ _ _ => true
  | .vcmplt _ _ _ => true
  | .vcmple _ _ _ => true
  | .vsel _ _ _ => true
  | .vperm _ _ _ => true
  | .vbcast _ _ _ => true
  | .vmac _ _ _ => true
  | .vmsu _ _ _ => true
  | .vacclr _ _ _ => true
  | .vmova _ _ _ => true
  | .vnarrow _ _ _ => true
  | .vwiden _ _ _ => true
  | .vfadd _ _ _ => true
  | .vfmul _ _ _ => true
  | .vfma _ _ _ => true
  | .vcvt _ _ _ => true
  | .vred _ _ _ => true
  | .vrange _ _ _ => true
  | .vscale _ _ _ => true
  | .vquant _ _ _ => true
  | .vdeq _ _ _ => true
  | .vgquant _ _ _ => true
  | .vmoment _ _ _ => true
  | .vcbfit _ _ _ => true
  | .vmwupd _ _ _ => true
  | .naq _ _ _ => true
  | .nawait _ _ => true
  | .dmakick _ _ => true
  | .dmawait _ _ => true
  | .waitRelease _ _ => true
  | .remoteAccessComplete _ _ => true
  | .interruptEntry _ => true
  | .wdtKick _ _ => true
  | .mgmtWatchdogExpiry => true
  | .loadw _ => true
  | .convPass _ => true
  | .wino _ => true
  | .matmul _ => true
  | .epilog _ => true
  | .argmax _ => true
  | .sync _ => true
  | .trainmode _ => true
  | .arrayCommandComplete _ _ => true
  | .goldenRestoreComplete _ _ => true
  | .restoreWaitEnd _ => true
  | .sliceDrained _ => true
  | .slicePowerTimeout _ => true
  | .semPost _ _ _ => true
  | .semWaitThreshold _ _ _ => true
  | .semWait _ _ => true
  | .semWaitTimeout _ => true
  | .semTake _ _ => true
  | .semSet _ _ _ => true
  | .scrubStart _ _ => true
  | .scrubDone => true
  | .patrolPass _ => true
  | .nocTimeout _ => true
  | .kick _ => true
  | .disarm _ _ => true
  | .clear _ => true
  | .shadowArm _ => true
  | .channelDisable _ => true
  | .channelEnable _ => true
  | .descriptorFetch _ _ => true
  | .moverGrant _ _ beats _ => decide (beats ≠ 0)
  | .transferEnd _ => true
  | .writebackComplete _ => true
  | .transferHalt _ code _ => [0x04, 0x06, 0x0A, 0x0B, 0x0C, 0x0F, 0x10].contains code
  | .ethFrameRx _ _ => true
  | .ethTx _ _ => true
  | .ethLinkChange _ _ => true
  | .reorderTimeout _ => true
  | .frameTimeout _ => true
  | .streamEntryWrite _ _ _ => true
  | .qcmdDiscard _ => true
  | .qcmdNext _ => true
  | .outRelease _ _ _ => true
  | .decodeStart _ => true
  | .decodeDone res => pictureFits res
  | .outputBufferTimeout => true
  | .encodeStart _ => true
  | .encodeDone _ _ => true
  | .doutRelease _ _ => true
  | .csiPacket _ pkt => headerOutcome pkt
  | .csiFrameEnd _ => true
  | .pfeFrameWritten _ _ => true
  | .bufRelease _ _ _ => true
  | .inputPinChange _ _ => true
  | .debounceExpiry _ => true
  | .outSet _ _ => true
  | .outClr _ _ => true
  | .pwmPeriodBoundary _ => true
  | .uartDataWrite _ _ _ => true
  | .uartDataRead _ _ => true
  | .uartRxByte _ _ _ _ => true
  | .uartTxByte _ => true
  | .evPost _ _ => true
  | .rulePass => true
  | .ruleTimerExpiry _ => true
  | .pulseEnd _ => true
  | .windowExpiry _ _ => true
  | .templateTx _ => true
  | .sqDoorbell _ _ _ => true
  | .cqDoorbell _ _ _ => true
  | .queueEnable _ _ => true
  | .sqEntryFetch _ _ => true
  | .jobEntry _ => true
  | .abortEntry => true
  | .irqAggTimeout _ => true
  | .flr _ => true
  | .fnReset _ _ => true
  | .linkLoss _ => true
  | .linkTrainingStart => true
  | .bar2Access _ _ write len _ => requestFits write len
  | .ptmDialogue _ _ _ => true
  | .classGive _ _ _ => true
  | .statusRecordSend refused => decide (refused ≠ some 0)
  | .statusRecordRx _ _ => true
  | .peerMiss _ => true
  | .mbxSend _ _ => true
  | .messageRx _ _ slot _ _ => decide (slot < 256)
  | .gapTimeout _ => true
  | .rxDone _ _ => true
  | .lfiEnable _ _ => true
  | .lfiReorderTimeout _ => true
  | .powerDomainRequest _ _ _ => true
  | .domainStateReached _ => true
  | .dramTrained gib _ => decide (gib.val ≠ 0)
  | .railPoll replies => pollFits replies
  | .resetSourceAssert _ => true
  | .resetSourceRelease _ => true
  | .resetStretchEnd _ => true
  | .deferralEnd => true
  | .swrst _ _ => true
  | .recover _ _ => true
  | .serviceDeclare _ _ => true
  | .fuseReadComplete => true
  | .crystalStart => true
  | .timeSet _ _ => true
  | .ppsPulse => true
  | .dripModeWrite _ _ => true
  | .i2cGo _ _ _ => true
  | .i2cDone _ _ _ => true
  | .provision _ _ _ => true
  | .deploy _ _ => true
  | .returnLc _ _ => true
  | .revokeOwnerHash _ _ _ => true
  | .tamper => true
  | .secureBoot => true
  | .debugRequest _ _ => true
  | .dbgSubmit _ => true
  | .challengeExpiry => true
  | .load _ => true
  | .loadDone _ => true
  | .arm _ => true
  | .updateDisarm _ => true
  | .confirm _ => true
  | .abandon _ => true
  | .activationStop => true
  | .activationTime => true
  | .activationReset => true
  | .sstoreWrite _ _ => true
  | .sstoreWriteDone => true
  | .registerRead _ _ size => busSize size
  | .gpioPinChange _ _ => true
  | .pcieLinkUp speed width => linkTrains speed width
  | .configurationRequest _ => true
  | .csiSyncChange _ _ => true
  | .ppsWidthEnd => true
  | .blockReportsReady _ => true
  | .tapInstruction _ => true
  | .tapReset => true

end Sys2Proof
end

