-- ==== Sys2Proof/Tests/Slice0.lean ====
section
/-! SUPPORT. Tests: well-formedness, words written out from the spec, and for each statement states and operands that meet the hypotheses
of its clauses. A theorem `<part>_met` names a part of a statement of Obligations.lean; one whose clauses share their hypotheses has one
witness for them. No witness exists for a byte access that is misaligned (R107), a clause of a form that every size shares. -/

open Sys2Proof Sys2Proof.Machine

namespace Sys2Proof.Tests

set_option Elab.async false

theorem get_of {α : Type} (d : Nat → α) (P : α → Prop) (hd : ∀ k, P (d k)) : ∀ (m : Store α), (∀ e ∈ m, P e.2) → ∀ k, P (storeGet d m k)
  | [], _, k => hd k
  | (k', v) :: m, h, k => by
    simp only [storeGet]
    split
    · exact h (k', v) (by simp)
    · exact get_of d P hd m (fun e he => h e (by simp [he])) k

theorem cores_of {s : State} {n : Fin 6}
    (h : (s.pacer.classes.all fun e => e.2.cores.all fun c => decide (c.2 ≠ some n)) = true) (k m : Nat) :
    storeGet (fun _ => none) (getClass s k).cores m ≠ some n := by
  refine get_of (fun _ => ({} : ClassEntry)) (fun c => storeGet (fun _ => none) c.cores m ≠ some n) (fun _ => by simp [storeGet]) _ ?_ k
  intro e he
  refine get_of (fun _ => none) (fun c => c ≠ some n) (fun _ => by simp) _ ?_ m
  intro c hc
  exact of_decide_eq_true (List.all_eq_true.1 (List.all_eq_true.1 h e he) c hc)

theorem aperture_of {s : State} {a : Nat} (h : (match bar2Offset a with | some o => inAperture s true o 64 | none => false) = true) :
    ∃ off, bar2Offset a = some off ∧ inAperture s true off 64 = true := by
  split at h
  · exact ⟨_, ‹_›, h⟩
  · cases h

theorem not_shm {a : Nat} (h : (match place a with | .shm _ => false | _ => true) = true) : ∀ i, place a ≠ .shm i := by
  cases e : place a <;> simp_all

theorem shm_of {a : Nat} (h : (match place a with | .shm _ => true | _ => false) = true) : ∃ i, place a = .shm i := by
  cases e : place a <;> simp_all

theorem cmem_of {a : Nat} (h : (match place a with | .cmem _ => true | _ => false) = true) : ∃ i, place a = .cmem i := by
  cases e : place a <;> simp_all

theorem not_peer {a : Nat} (h : (match place a with | .peer _ => false | _ => true) = true) : ∀ m, place a ≠ .peer m := by
  cases e : place a <;> simp_all

theorem aborts_ok {s : State} (h : (s.pacer.jobs.all fun j => !(j.open_ && j.abort) || (match getJob s j.id with
    | some x => (List.range x.nShares).any fun i => decide ((getShare x i).st = .running)
    | none => false)) = true) :
    ∀ j ∈ s.pacer.jobs, j.open_ = true → j.abort = true →
      ∃ x i, getJob s j.id = some x ∧ i < x.nShares ∧ (getShare x i).st = .running := by
  intro j hj ho ha
  have h := List.all_eq_true.1 h j hj
  simp only [ho, ha, Bool.and_self, Bool.not_true, Bool.false_or] at h
  cases e : getJob s j.id with
  | none => simp [e] at h
  | some x =>
    simp only [e, List.any_eq_true, List.mem_range, decide_eq_true_eq] at h
    obtain ⟨i, hi, hr⟩ := h
    exact ⟨x, i, rfl, hi, hr⟩

theorem viewBad_clean {s : State} (h : s.mem.damaged = []) (a : Nat) : viewBad s none a = false := by
  simp [viewBad, storeGet, h]

theorem viewBad_core {s : State} {c : Nat} (h : s.mem.damaged = []) (k : (getProc s c).stage = []) (a : Nat) :
    viewBad s (some c) a = false := by
  simp [viewBad, storeGet, h, k]

theorem some_of {α : Type} {x : Option α} (h : x.isSome = true) : ∃ a, x = some a := Option.isSome_iff_exists.1 h

theorem cons_of {α : Type} {l : List α} (h : l.isEmpty = false) : ∃ a r, l = a :: r := by
  cases l with
  | nil => cases h
  | cons a r => exact ⟨a, r, rfl⟩

theorem error_of {α : Type} {x : Except Byte α} (h : (match x with | .error _ => true | .ok _ => false) = true) :
    ∃ c, x = .error c := by
  cases x with
  | error c => exact ⟨c, rfl⟩
  | ok _ => cases h

theorem ok_of {α β : Type} {x : Except Byte (α × β)} (h : (match x with | .error _ => false | .ok _ => true) = true) :
    ∃ a b, x = .ok (a, b) := by
  cases x with
  | error _ => cases h
  | ok p => exact ⟨p.1, p.2, rfl⟩

/-- A device that is up. -/
def up : State :=
  { State.reset with
    time := { running := true, now := 1000000 }
    reset_ := { exit := none, romStarted := true, fusesRead := true }
    power := { doms := (List.range 20).map fun n => (n, { target := 2, state := 2, moving := false }) , railSettled := true}
    pcie := { linkUp := true, vfEnable := true, numVfs := 3, fns := [(0, { bme := true, msixEn := true }), (1, { bme := true })] }
    mem := { trained := true, dramGib := 64, chOk := 0xFFFF }
    trust := { booted := true } }

/-- Every page but the CORE and MGMT pages is enabled. -/
def enAll (s : State) : State := (List.range 32).foldl (fun s p => if pgCore0 ≤ p ∧ p ≤ pgMgmt then s else setHdr p
  { getHdr s p with enable := true } s) s

/-- A job with one share, not started. -/
def job0 : Job := { id := 7, cls := 2, owner := 0x10, queue := 0, epoch := 0, tag := 0x55, noIrq := false, prog := 0x100000000,
                    out := 0x100001000, outLen := 64, sqHead := 1, inputs := [], release := 500000, deadline := 2000000,
                    released := true, ready := some 600000, passed := false, held := false, shares := [(0, { core := 1, codeLen := 64, steps := 0 })],
                    nShares := 1, cost := 100, start := none, cores := 0, reruns := 0, detBy := [], lateThermal := false,
                    lateFence := false, lateInput := false, abort := false, frame := none, ended := none }

/-- The shares of a job. -/
def shr (x : ShareRun) : Store ShareRun := [(0, x)]

/-- Core 0 runs a step of the job. -/
def cor (f : ProcState → ProcState) (s : State) : State := modProc 0 (fun p => f { p with run := some (7, 0),
                                                                                          runState := .issue, pc := 16,
                                                                                          bundle := 5, g := [(1, 5), (2, 0xFFFFFFF0), (3, 0x80000000), (4, 12)] })
  s

/-! ## headerWrites, selectBeyondCount, selectCopies, refusedWrites -/

namespace W1

def s1 : State := setOwner 0 0 (enAll up)
def s3 : State := (List.range 32).foldl (fun s p => modBus (fun b =>
  { b with chSel := storeSet (fun _ => 0) b.chSel (p * 64) 0x800000FF }) s) s1

theorem headerWrites_met1 : ∃ (s : State) (r : Requester) (page : Fin 32), Taken s r (↑page) 24 := by
  refine ⟨State.reset, Requester.mgmt, 0, ?_⟩
  repeat' first | decide +kernel | constructor

theorem headerWrites_met2 : ∃ (s : State) (r : Requester) (page : Fin 32), Taken s r (↑page) 16 := by
  refine ⟨State.reset, Requester.mgmt, 0, ?_⟩
  repeat' first | decide +kernel | constructor

theorem headerWrites_met3 : ∃ (s : State) (r : Requester) (page : Fin 32), Taken s r (↑page) 32 := by
  refine ⟨State.reset, Requester.mgmt, 0, ?_⟩
  repeat' first | decide +kernel | constructor

theorem selectBeyondCount_met1 : ∃ (s : State) (r : Requester) (page : Fin 32) (c : ℕ), Taken s r (↑page) 28 ∧ selCopy r = some
  c := by
  refine ⟨up, Requester.mgmt, 0, 0, ?_⟩
  repeat' first | decide +kernel | constructor

theorem selectBeyondCount_met2 : ∃ (s : State) (r : Requester) (page : Fin 32) (off : BitVec 12), 1024 ≤ off.toNat ∧ off.toNat %
  4 = 0 ∧ windowed ↑page = true ∧ selChan s r ↑page = none ∧ Taken s r (↑page) off.toNat := by
  refine ⟨s3, Requester.mgmt, 1, 1024, ?_⟩
  repeat' first | decide +kernel | constructor

theorem selectBeyondCount_met3 : ∃ (s : State) (r : Requester) (page : Fin 32) (off : BitVec 12), 1024 ≤ off.toNat ∧ off.toNat %
  4 = 0 ∧ windowed ↑page = true ∧ selChan s r ↑page = none ∧ Readable s r (↑page) off.toNat := by
  refine ⟨s3, Requester.mgmt, 1, 1024, ?_⟩
  repeat' first | decide +kernel | constructor

theorem selectCopies_met : ∃ (s : State) (r : Requester) (page : Fin 32), Taken s r (↑page) 28 := by
  refine ⟨up, Requester.mgmt, 0, ?_⟩
  repeat' first | decide +kernel | constructor

theorem refusedWrites'_met : ∃ (s : State) (r : Requester) (page : Fin 32) (off : BitVec 12) (pg : ℕ) (code : Byte), off.toNat %
  4 = 0 ∧ TurnedAway s r (↑page) off.toNat pg code := by
  refine ⟨up, Requester.fn 1, 0, 1024, 0, 11, ?_⟩
  repeat' first | decide +kernel | constructor

end W1

/-! ## registerClasses, commitRules -/

namespace W2

def s1 : State := enAll up
def s2 : State := (List.range 32).foldl (fun s p => setHdr p { errValid := true, errReq := 3, commitPending := true } s) up
def s3 : State := (List.range 32).foldl (fun s p => setHdr p { busy := true } s) up

theorem registerClasses_met1 : ∃ (s : State) (r : Requester) (page : Fin 32) (off : ℕ) (v : Word), Option.any (fun (row :
  RegRow) => decide ((regRow (↑page) off = some row ∧ row.own = false ∧ row.pair = PairPart.single ∧ row.w1c = 0 ∧ 64 ≤ off ∧
  off < 1024 ∧ off % 4 = 0) ∧ (reqLive s r = true ∧ isParked s r = false ∧ lfiQuiet s lfiNoc (BitVec.toNat r.code) 0 = true ∧
  writeCheck s r (↑page) off = none ∧ ¬(↑page = pgCtlio ∧ s.trust.bootWait = true ∧ (off = 8 ∨ 64 ≤ off))) ∧ row.live ≠ 0 ∧
  row.staged = 0 ∧ row.frozen = 0 ∧ cellRefusal s r (↑page) 0 off v row = none)) (regRow (↑page) off) = true := by
  refine ⟨up, Requester.mgmt, 2, 84, 0, ?_⟩
  decide +kernel

theorem registerClasses_met2 : ∃ (s : State) (r : Requester) (page : Fin 32) (off : ℕ) (v : Word), Option.any (fun (row :
  RegRow) => decide ((regRow (↑page) off = some row ∧ row.own = false ∧ row.pair = PairPart.single ∧ row.w1c = 0 ∧ 64 ≤ off ∧
  off < 1024 ∧ off % 4 = 0) ∧ (reqLive s r = true ∧ isParked s r = false ∧ lfiQuiet s lfiNoc (BitVec.toNat r.code) 0 = true ∧
  writeCheck s r (↑page) off = none ∧ ¬(↑page = pgCtlio ∧ s.trust.bootWait = true ∧ (off = 8 ∨ 64 ≤ off))) ∧ row.live = 0 ∧
  row.staged ≠ 0 ∧ row.frozen = 0 ∧ cellRefusal s r (↑page) 0 off v row = none)) (regRow (↑page) off) = true := by
  refine ⟨up, Requester.mgmt, 1, 64, 0, ?_⟩
  decide +kernel

theorem registerClasses_met3 : ∃ (s : State) (r : Requester) (page : Fin 32) (off : ℕ) (v : Word), Option.any (fun (row :
  RegRow) => decide ((regRow (↑page) off = some row ∧ row.own = false ∧ row.pair = PairPart.single ∧ row.w1c = 0 ∧ 64 ≤ off ∧
  off < 1024 ∧ off % 4 = 0) ∧ (reqLive s r = true ∧ isParked s r = false ∧ lfiQuiet s lfiNoc (BitVec.toNat r.code) 0 = true ∧
  writeCheck s r (↑page) off = none ∧ ¬(↑page = pgCtlio ∧ s.trust.bootWait = true ∧ (off = 8 ∨ 64 ≤ off))) ∧ row.live = 0 ∧
  row.staged = 0 ∧ row.frozen ≠ 0 ∧ cellRefusal s r (↑page) 0 off v row = none)) (regRow (↑page) off) = true := by
  refine ⟨up, Requester.mgmt, 13, 64, 0, ?_⟩
  decide +kernel

theorem registerClasses_met4 : ∃ (s : State) (r : Requester) (page : Fin 32) (off : ℕ), Option.any (fun (row : RegRow) => decide
  ((regRow (↑page) off = some row ∧ row.own = false ∧ row.pair = PairPart.single ∧ row.w1c = 0 ∧ 64 ≤ off ∧ off < 1024 ∧ off % 4
  = 0) ∧ (reqLive s r = true ∧ isParked s r = false ∧ lfiQuiet s lfiNoc (BitVec.toNat r.code) 0 = true ∧ writeCheck s r (↑page)
  off = none ∧ ¬(↑page = pgCtlio ∧ s.trust.bootWait = true ∧ (off = 8 ∨ 64 ≤ off))) ∧ row.live = 0 ∧ row.staged = 0 ∧ row.frozen
  ≠ 0 ∧ (pageEnable s ↑page = true ∨ pageBusy s ↑page = true))) (regRow (↑page) off) = true := by
  refine ⟨s1, Requester.mgmt, 13, 64, ?_⟩
  decide +kernel

theorem commitRules_met1 : ∃ (s : State) (r : Requester) (page : Fin 32) (off : ℕ), Option.any (fun (row : RegRow) => decide
  ((regRow (↑page) off = some row ∧ row.own = false ∧ row.pair = PairPart.single ∧ row.w1c = 0 ∧ 64 ≤ off ∧ off < 1024 ∧ off % 4
  = 0) ∧ (reqLive s r = true ∧ isParked s r = false ∧ lfiQuiet s lfiNoc (BitVec.toNat r.code) 0 = true ∧ writeCheck s r (↑page)
  off = none ∧ ¬(↑page = pgCtlio ∧ s.trust.bootWait = true ∧ (off = 8 ∨ 64 ≤ off))) ∧ row.staged ≠ 0 ∧ row.frozen = 0 ∧ (getHdr
  s ↑page).commitPending = true)) (regRow (↑page) off) = true := by
  refine ⟨s2, Requester.mgmt, 1, 64, ?_⟩
  decide +kernel

theorem commitRules_met2 : ∃ (s : State) (r : Requester) (page : Fin 32), Taken s r (↑page) 8 ∧ (getHdr s ↑page).commitPending =
  true ∧ (↑page = pgHerd → s.herd.st ≠ HerdSt.refused) := by
  refine ⟨s2, Requester.mgmt, 1, ?_⟩
  repeat' first | decide +kernel | constructor

theorem commitRules_met3 : ∃ (s : State) (r : Requester) (page : Fin 32), Taken s r (↑page) 8 ∧ (getHdr s ↑page).commitPending =
  false ∧ (↑page = pgHerd → s.herd.st ≠ HerdSt.refused) ∧ commitNow s ↑page = true := by
  refine ⟨up, Requester.mgmt, 1, ?_⟩
  repeat' first | decide +kernel | constructor

theorem commitRules_met4 : ∃ (s : State) (r : Requester) (page : Fin 32), Taken s r (↑page) 8 ∧ (getHdr s ↑page).commitPending =
  false ∧ (↑page = pgHerd → s.herd.st ≠ HerdSt.refused) ∧ commitNow s ↑page = false := by
  refine ⟨s3, Requester.mgmt, 1, ?_⟩
  repeat' first | decide +kernel | constructor

end W2

/-! ## enableWrites, blockStops, registerReads, pairs -/

namespace W3

def s2 : State := (List.range 32).foldl (fun s p => setHdr p
  { errValid := true, errReq := 3, commitPending := true, enable := true } s) up
def s3 : State := (List.range 32).foldl (fun s p => setHdr p { busy := true, irqEn := 7 } s) up
def row (p o : Nat) : RegRow := (regRow p o).getD { name := "", off := 0 }

theorem enableWrites_met1 : ∃ (s : State) (r : Requester) (page : Fin 32), ¬(pgCore0 ≤ ↑page ∧ ↑page < pgMgmt) ∧ Taken s r
  (↑page) 8 ∧ ↑page ∉ [pgPacer, pgDdr, pgHerd] ∧ (getHdr s ↑page).commitPending = false := by
  refine ⟨up, Requester.mgmt, 0, ?_⟩
  repeat' first | decide +kernel | constructor

theorem enableWrites_met2 : ∃ (s : State) (r : Requester) (page : Fin 32), ↑page ∈ [pgPacer, pgDdr, pgHerd] ∧ Taken s r (↑page)
  8 := by
  refine ⟨up, Requester.mgmt, 1, ?_⟩
  repeat' first | decide +kernel | constructor

theorem enableWrites_met3 : ∃ (s : State) (r : Requester) (page : Fin 32), pgCore0 ≤ ↑page ∧ ↑page < pgMgmt ∧ Taken s r (↑page)
  8 ∧ r ≠ Requester.pacer := by
  refine ⟨up, Requester.mgmt, 24, ?_⟩
  repeat' first | decide +kernel | constructor

theorem enableWrites_met4 : ∃ (s : State) (page : Fin 32), pgCore0 ≤ ↑page ∧ ↑page < pgMgmt ∧ Taken s Requester.pacer (↑page) 8
  ∧ (getHdr s ↑page).commitPending = false := by
  refine ⟨up, 24, ?_⟩
  repeat' first | decide +kernel | constructor

theorem blockStops_met1 : ∃ (s : State) (r : Requester) (page : Fin 32), ¬(pgCore0 ≤ ↑page ∧ ↑page ≤ pgMgmt) ∧ Taken s r (↑page)
  8 ∧ pageKept ↑page = false ∧ ↑page ≠ pgPacer ∧ (↑page = pgPcie → r = Requester.mgmt) := by
  refine ⟨up, Requester.mgmt, 8, ?_⟩
  repeat' first | decide +kernel | constructor

theorem blockStops_met2 : ∃ (s : State) (page : Fin 32), pageEnable s ↑page = false ∧ (getHdr s ↑page).busy = true ∧ drains s
  ↑page = true ∧ (getHdr s ↑page).commitPending = false := by
  refine ⟨s3, 0, ?_⟩
  decide +kernel

theorem blockStops_met3 : ∃ (s : State) (page : Fin 32), (getHdr s ↑page).commitPending = true ∧ pageUp s ↑page = true ∧ ¬(↑page
  = pgHerd ∧ pageEnable s ↑page = true) := by
  refine ⟨s2, 0, ?_⟩
  decide +kernel

theorem registerReads_met1 : ∃ (s : State) (r : Requester) (page : Fin 32), reqLive s r = true ∧ isParked s r = false ∧ lfiQuiet
  s lfiNoc (BitVec.toNat r.code) 1 = true ∧ pageUp s ↑page = true ∧ ∀ (off : ℕ), pageRefused s r (↑page) off false = false := by
  refine ⟨up, Requester.mgmt, 0, ?_⟩
  repeat' first | decide +kernel | constructor | exact fun _ => rfl

theorem registerReads_met2 : ∃ (s : State) (r : Requester) (page : Fin 32) (off : ℕ), reqLive s r = true ∧ isParked s r = false
  ∧ lfiQuiet s lfiNoc (BitVec.toNat r.code) 1 = true ∧ pageUp s ↑page = true ∧ (∀ (off : ℕ), pageRefused s r (↑page) off false =
  false) ∧ Option.any (fun (row : RegRow) => decide ((regRow (↑page) off = some row ∧ row.own = false ∧ row.pair =
  PairPart.single ∧ row.w1c = 0 ∧ 64 ≤ off ∧ off < 1024 ∧ off % 4 = 0) ∧ ¬(↑page = pgShm ∧ off = 88) ∧ ¬(↑page = pgCarafe ∧ off
  = 76) ∧ ¬(↑page = pgCtlio ∧ (off = 196 ∨ off = 212)) ∧ ¬(pgCore0 ≤ ↑page ∧ ↑page < pgMgmt))) (regRow (↑page) off) = true := by
  refine ⟨up, Requester.mgmt, 0, 92, ?_⟩
  repeat' first | decide +kernel | constructor | exact fun _ => rfl

theorem pairs_met1 : ∃ (s : State) (r : Requester) (page : Fin 32) (off : ℕ) (lo : RegRow) (hi : RegRow), 64 ≤ off ∧ off < 1020
  ∧ off % 4 = 0 ∧ regRow (↑page) off = some lo ∧ regRow (↑page) (off + 4) = some hi ∧ lo.pair = PairPart.lo ∧ hi.pair =
  PairPart.hi ∧ lo.own = false ∧ hi.own = false ∧ ↑page ∉ [pgStrx] ∧ reqLive s r = true ∧ isParked s r = false ∧ lfiQuiet s
  lfiNoc (BitVec.toNat r.code) 1 = true ∧ pageUp s ↑page = true ∧ ∀ (o : ℕ), pageRefused s r (↑page) o false = false := by
  refine ⟨up, Requester.mgmt, 2, 232, row 2 232, row 2 236, ?_⟩
  repeat' first | decide +kernel | constructor | exact fun _ => rfl

theorem pairs_met2 : ∃ (s : State) (r : Requester) (page : Fin 32) (off : ℕ) (v : Word) (lo : RegRow) (hi : RegRow), 64 ≤ off ∧
  off < 1020 ∧ off % 4 = 0 ∧ regRow (↑page) off = some lo ∧ regRow (↑page) (off + 4) = some hi ∧ lo.pair = PairPart.lo ∧ hi.pair
  = PairPart.hi ∧ lo.own = false ∧ hi.own = false ∧ ↑page ∉ [pgStrx] ∧ Taken s r (↑page) off ∧ cellRefusal s r (↑page) 0 off v
  lo = none ∧ lo.live = 4294967295 ∧ lo.w1c = 0 ∧ lo.frozen = 0 ∧ lo.staged = 0 ∧ hi.w1c = 0 ∧ hi.frozen = 0 ∧ hi.staged = 0 ∧
  hi.live ≠ 0 ∧ ¬(↑page = pgTime ∧ off = 80) := by
  refine ⟨up, Requester.mgmt, 2, 232, 0, row 2 232, row 2 236, ?_⟩
  repeat' first | decide +kernel | constructor

end W3

/-! ## semaphoreCounts, semaphoreWaits -/

namespace W4

def s1 : State := enAll up
def s2 : State := modMem (fun m => { m with sems := [(0, 5), (1, 7), (5, 0xFFFFFF)], thresholds := [(0, 3), (1,100), (0x1000, 6), (0x2000, 6)],
                                            parked := [{ req := .core 1, sem := 0, threshold := 6, since := 5 }, { req := .core 2, sem := 1, threshold := 100, since := 5 }] })
  s1
def s3 : State := modProc 0 (fun p => { p with run := some (1, 0) }) s2

theorem semaphoreCounts_met1 : ∃ (s : State) (r : Requester) (k : Fin 4) (n : ℕ), Taken s r pgShm (1028 + 32 * ↑k) ∧ semNamed s
  r k n ∧ coreStages s r = false := by
  refine ⟨up, Requester.mgmt, 0, 0, ?_⟩
  dsimp only [semNamed]; repeat' first | decide +kernel | constructor

theorem semaphoreCounts_met2 : ∃ (s : State) (c : Fin 6) (k : Fin 4) (n : ℕ), Taken s (Requester.core c) pgShm (1028 + 32 * ↑k)
  ∧ semNamed s (Requester.core c) k n ∧ coreStages s (Requester.core c) = true := by
  refine ⟨s3, 0, 0, 0, ?_⟩
  dsimp only [semNamed]; repeat' first | decide +kernel | constructor

theorem semaphoreCounts_met3 : ∃ (s : State) (r : Requester) (k : Fin 4) (n : ℕ), Taken s r pgShm (1040 + 32 * ↑k) ∧ semNamed s
  r k n ∧ r.isOwner = true := by
  refine ⟨up, Requester.mgmt, 0, 0, ?_⟩
  dsimp only [semNamed]; repeat' first | decide +kernel | constructor

theorem semaphoreCounts_met4 : ∃ (s : State) (c : Fin 6), reqLive s (Requester.core c) = true ∧ isParked s (Requester.core c) =
  false ∧ lfiQuiet s lfiNoc (32 + ↑c) 0 = true := by
  refine ⟨up, 0, ?_⟩
  decide +kernel

theorem semaphoreWaits_met1 : ∃ (s : State) (r : Requester) (k : Fin 4) (n : ℕ), Taken s r pgShm (1032 + 32 * ↑k) ∧ semNamed s r
  k n ∧ n < 256 := by
  refine ⟨up, Requester.mgmt, 0, 0, ?_⟩
  dsimp only [semNamed]; repeat' first | decide +kernel | constructor

theorem semaphoreWaits_met2 : ∃ (s : State) (r : Requester) (k : Fin 4) (n : ℕ), Readable s r pgShm (1032 + 32 * ↑k) ∧ semNamed
  s r k n ∧ semMet (semCount s n) (storeGet (fun (x : ℕ) => 0) s.mem.thresholds (BitVec.toNat r.code * 256 + n)) = true := by
  refine ⟨up, Requester.mgmt, 0, 0, ?_⟩
  dsimp only [semNamed]; repeat' first | decide +kernel | constructor

theorem semaphoreWaits_met3 : ∃ (s : State) (r : Requester) (k : Fin 4) (n : ℕ), Readable s r pgShm (1032 + 32 * ↑k) ∧ semNamed
  s r k n ∧ semMet (semCount s n) (storeGet (fun (x : ℕ) => 0) s.mem.thresholds (BitVec.toNat r.code * 256 + n)) = false := by
  refine ⟨s2, Requester.mgmt, 1, 1, ?_⟩
  dsimp only [semNamed]; repeat' first | decide +kernel | constructor

theorem semaphoreWaits_met4 : ∃ (s : State) (r : Requester), Option.any (fun (p : Parked) => decide (p.since + max 1
  (BitVec.toNat (getReg s pgShm 0 112) % 65536) * 1000 ≤ now s)) (List.find? (fun (x : Parked) => x.req.code == r.code)
  s.mem.parked) = true := by
  refine ⟨s2, Requester.core 1, ?_⟩
  decide +kernel

theorem semaphoreWaits_met5 : ∃ (s : State) (r : Requester) (k : Fin 4) (n : ℕ), Readable s r pgShm (1036 + 32 * ↑k) ∧ semNamed
  s r k n ∧ semCount s n = 0 := by
  refine ⟨up, Requester.mgmt, 0, 0, ?_⟩
  dsimp only [semNamed]; repeat' first | decide +kernel | constructor

theorem semaphoreWaits_met6 : ∃ (s : State) (r : Requester) (k : Fin 4) (n : ℕ), Readable s r pgShm (1036 + 32 * ↑k) ∧ semNamed
  s r k n ∧ semCount s n ≠ 0 := by
  refine ⟨s2, Requester.mgmt, 0, 0, ?_⟩
  dsimp only [semNamed]; repeat' first | decide +kernel | constructor

end W4

/-! ## readsThatClear, goldenRestores, slices, scrubAndPatrol -/

namespace W5

def s1 : State := modHerd (fun h => { h with peers := [(3, { gapCnt := 2, badCnt := 7 })] }) (modTrust (fun t =>
  { t with erased := true, erasedCause := 2 }) (setReg pgCsi 0 0x40C 0x55 (modProc 1 (fun p => { p with satCnt := 9 }) (enAll up))))
def chs (p c : Nat) (v : Word) (s : State) := modBus (fun b => { b with chSel := storeSet (fun _ => 0) b.chSel (p * 64 + c) v }) s
def s2 : State := modMem (fun m => { m with detLost := true, detLog := [{ restored := true, fail := false, region := 3, line := 0x123 }, { restored := false, fail := true, region := 0, line := 1 }] })
  (chs pgHerd 0 3 (chs pgCsi 0 1 s1))
def g1 : State := setPair pgShm 0 0x108 0x100005000 (setReg pgShm 0 0x100 0x80001000 (memPut 0x100005100 ((List.range 256).map
  (BitVec.ofNat 8 ·)) s2))
def g2 : State := modMem (fun m => { m with restores := [{ line := 0x11, region := 0, job := none }], detLog := [{ restored := false, fail := false, region := 0, line := 0x11 }] })
  (markBad none ((List.range 256).map (0x10001100 + ·)) g1)
def g3 : State := modPacer (fun p =>
  { p with jobs := [{ job0 with shares := shr { core := 1, line := some 0x11, st := .restoring } }] }) g1
def wc5x1 : State := modMem (fun m => { m with eccOn := true }) g2
def d1 (t : BitVec 2) : State := modDom 10 (fun d => { d with target := t, moving := true }) (modMem (fun m =>
  { m with slices := [(1, { refusing := true, target := t })] }) (memPut 0x11000010 [1,2,3] g2))
def dp (s : State) : State := { s with lfi := [(0, { held := some (.write none 0x30 0 [{ addr := 0x11000020, byte := 5 }]), heldAt := 999000 })] }
def e1 : State := setReg pgDdr 0 0x040 3 (modMem (fun m => { m with eccOn := true, scrubBusy := true }) g2)
def op0 : MemOp := .load 2 (.g 1) 2 true 0x100000040
def e2 : State := modProc 0 (fun p => { p with buf := { p.buf with waits := [.remote op0] } }) (setReg pgDdr 0 0x04C 0xFFFFFFFD e1)
def e3 : State := setReg pgShm 0 0x068 0 e1

theorem readsThatClear_met1 : ∃ (s : State) (r : Requester), Readable s r pgShm 88 := by
  refine ⟨up, Requester.mgmt, ?_⟩
  repeat' first | decide +kernel | constructor

theorem readsThatClear_met2 : ∃ (s : State) (r : Requester) (n : Fin 6), Readable s r (pgCore ↑n) 92 := by
  refine ⟨up, Requester.mgmt, 0, ?_⟩
  repeat' first | decide +kernel | constructor

theorem readsThatClear_met3 : ∃ (s : State) (r : Requester) (c : ℕ), Readable s r pgCsi 1036 ∧ selChan s r pgCsi = some c := by
  refine ⟨up, Requester.mgmt, 0, ?_⟩
  repeat' first | decide +kernel | constructor

theorem readsThatClear_met4 : ∃ (s : State) (r : Requester) (c : ℕ), Readable s r pgHerd 1056 ∧ selChan s r pgHerd = some c ∧ c
  ≠ herdId s := by
  refine ⟨s2, Requester.mgmt, 3, ?_⟩
  repeat' first | decide +kernel | constructor

theorem readsThatClear_met5 : ∃ (s : State) (r : Requester), Readable s r pgCarafe 76 := by
  refine ⟨up, Requester.mgmt, ?_⟩
  repeat' first | decide +kernel | constructor

theorem goldenRestores_met1 : ∃ (s : State) (line : BitVec 18), Option.any (fun (x : Restore) => decide (x.job = none ∧
  restorePossible s line = true)) (List.find? (fun (x : Restore) => x.line == line) s.mem.restores) = true := by
  refine ⟨g2, 17, ?_⟩
  decide +kernel

theorem goldenRestores_met2 : ∃ (s : State) (line : BitVec 18), Option.any (fun (x : Restore) => decide (x.job = none ∧
  restorePossible s line = true ∧ s.mem.eccOn = false)) (List.find? (fun (x : Restore) => x.line == line) s.mem.restores) = true
  := by
  refine ⟨g2, 17, ?_⟩
  decide +kernel

theorem goldenRestores_met3 : ∃ (s : State) (line : BitVec 18), Option.any (fun (x : Restore) => decide (x.job = none ∧
  restorePossible s line = true ∧ s.mem.eccOn = true)) (List.find? (fun (x : Restore) => x.line == line) s.mem.restores) = true
  := by
  refine ⟨wc5x1, 17, ?_⟩
  decide +kernel

theorem goldenRestores_met4 : ∃ (s : State) (line : BitVec 18) (j : Job) (i : ℕ), lineWritten s line = true ∧ s.pacer.jobs = [j]
  ∧ j.open_ = true ∧ j.nShares = 1 ∧ i = 0 ∧ (getShare j i).line = some line := by
  refine ⟨g3, 17, { job0 with shares := shr { st := ShareSt.restoring, core := 1, line := some 17 } }, 0, ?_⟩
  decide +kernel

theorem goldenRestores_met5 : ∃ (s : State) (line : BitVec 18), lineWritten s line = false := by
  refine ⟨g2, 17, ?_⟩
  decide +kernel

theorem slices_met1 : ∃ (s : State) (n : Fin 4), (getSlice s ↑n).refusing = true ∧ (dom s (9 + ↑n)).moving = true ∧ (dom s (9 +
  ↑n)).target = 1 ∧ (dom s (9 + ↑n)).state = 2 ∧ slicePend s ↑n = 0 := by
  refine ⟨d1 1, 1, ?_⟩
  decide +kernel

theorem slices_met2 : ∃ (s : State) (n : Fin 4), (getSlice s ↑n).refusing = true ∧ (dom s (9 + ↑n)).moving = true ∧ (dom s (9 +
  ↑n)).target = 0 ∧ slicePend s ↑n = 0 := by
  refine ⟨d1 0, 1, ?_⟩
  decide +kernel

theorem slices_met3 : ∃ (s : State) (n : Fin 4), (getSlice s ↑n).refusing = true ∧ slicePend s ↑n ≠ 0 ∧ (getSlice s ↑n).since +
  5000 ≤ now s := by
  refine ⟨dp (d1 0), 1, ?_⟩
  decide +kernel

theorem scrubAndPatrol_met1 : ∃ (s : State) (r : Requester) (v : Word), Taken s r pgShm 96 ∧ BitVec.getLsbD v 0 = true ∧
  s.mem.scrubBusy = false := by
  refine ⟨up, Requester.mgmt, 1, ?_⟩
  repeat' first | decide +kernel | constructor

theorem scrubAndPatrol_met2 : ∃ (s : State), (scrubAdvance s).mem.scrubPos.toNat < BitVec.toNat (getReg (scrubAdvance s) pgShm 0
  104) := by
  refine ⟨up, ?_⟩
  decide +kernel

theorem scrubAndPatrol_met3 : ∃ (s : State), s.mem.scrubBusy = true ∧ BitVec.toNat (getReg s pgShm 0 104) ≤ s.mem.scrubPos.toNat
  := by
  refine ⟨e3, ?_⟩
  decide +kernel

theorem scrubAndPatrol_met4 : ∃ (s : State) (n : ℕ), s.mem.eccOn = true ∧ BitVec.getLsbD (getReg s pgDdr 0 64) 1 = true ∧
  dramReady s = true ∧ n ≠ 0 := by
  refine ⟨e1, 1, ?_⟩
  decide +kernel

theorem scrubAndPatrol_met5 : ∃ (s : State) (p : Proc) (op : MemOp) (ws : List WaitFor), (getProc s p.num).buf.waits =
  WaitFor.remote op :: ws ∧ (getProc s p.num).waitFrom + nocLimit s ≤ now s := by
  refine ⟨e2, Proc.core 0, op0, [], ?_⟩
  decide +kernel

end W5

/-! ## classEntries, classCommands, fenceCommands, admissions, admissionTests -/

namespace W6

def cv : ClassVals := { cost := 100, stepMax := 10, period := 1000, deadline := 1000, dram := 1000, spread := 1 }
def cls (st : ClassSt) (o : Byte) (x : ClassEntry := {}) : ClassEntry := { x with st := st, owner := o, vals := cv, notice := 50 }
def s1 : State := modPacer (fun p => { p with classes := [(0, cls .defined 0x10), (1, cls .accepted 0x10 { pend := some { cv with cost := 50 }, cores := [(0, some 0)] }), (2, cls .shed 0x10), (3, cls .defined 0), (5, cls .accepted 0 { cores := [(0, some 1)] })] })
  (enAll up)
def chs (p c : Nat) (v : Word) (s : State) := modBus (fun b => { b with chSel := storeSet (fun _ => 0) b.chSel (p * 64 + c) v }) s
def s2 : State := chs pgPacer 0 3 (chs pgPacer 1 1 s1)
def s4 : State := chs pgPacer 0 9 (chs pgPacer 1 9 s1)
def wc6x2 : ClassVals := { cv with cost := 50 }
def sF : State := modPacer (fun p => { p with classes := [(0, cls .defined 0x10), (3, cls .defined 0), (2, cls .shed 0x10)].map fun e => (e.1, { e.2 with vals := { cv with cost := 50000000 } }) })
  s1
def wc6x3 : State := modPacer (fun p => { p with queue := [{ req := 0x10, op := 3, arg := 1 }], running := none }) s1
def wc6x4 : State := modPacer (fun p => { p with health := [(2, { fenced := true, fenceCause := 4 })] }) s1
def wc6x5 : PacerCmd := { req := 0x10, op := 3, arg := 1 }

theorem classEntries_met1 : ∃ (s : State) (r : Requester) (off : BitVec 12) (k : ℕ), off.toNat ∈ [1024, 1028, 1032, 1036, 1040,
  1044, 1048, 1052] ∧ Taken s r pgPacer off.toNat ∧ selChan s r pgPacer = some k ∧ (getClass s k).st = ClassSt.free := by
  refine ⟨s4, Requester.mgmt, 1024, 9, ?_⟩
  repeat' first | decide +kernel | constructor

theorem classEntries_met2 : ∃ (s : State) (r : Requester) (off : BitVec 12) (k : ℕ), off.toNat ∈ [1024, 1028, 1032, 1036, 1040,
  1044, 1048, 1052] ∧ Taken s r pgPacer off.toNat ∧ selChan s r pgPacer = some k ∧ (getClass s k).st = ClassSt.defined ∧
  (getClass s k).owner = r.code := by
  refine ⟨s1, Requester.fn 0, 1024, 0, ?_⟩
  repeat' first | decide +kernel | constructor

theorem classEntries_met3 : ∃ (s : State) (r : Requester) (off : BitVec 12) (k : ℕ), off.toNat ∈ [1024, 1028, 1032, 1036, 1040,
  1044, 1048, 1052] ∧ Taken s r pgPacer off.toNat ∧ selChan s r pgPacer = some k ∧ (getClass s k).st = ClassSt.accepted ∧
  (getClass s k).owner = r.code := by
  refine ⟨s2, Requester.fn 0, 1024, 1, ?_⟩
  repeat' first | decide +kernel | constructor

theorem classEntries_met4 : ∃ (s : State) (r : Requester) (off : BitVec 12) (k : ℕ), off.toNat ∈ [1024, 1028, 1032, 1036, 1040,
  1044, 1048, 1052] ∧ Taken s r pgPacer off.toNat ∧ selChan s r pgPacer = some k ∧ (getClass s k).st ≠ ClassSt.free ∧ (getClass
  s k).owner ≠ r.code := by
  refine ⟨s1, Requester.mgmt, 1024, 0, ?_⟩
  repeat' first | decide +kernel | constructor

theorem classCommands_met1 : ∃ (s : State) (r : Requester) (k : Fin 64), PacerIdle s ∧ Taken s r pgPacer 84 ∧ (getClass s ↑k).st
  = ClassSt.defined ∧ (getClass s ↑k).owner = r.code := by
  refine ⟨s1, Requester.mgmt, 3, ?_⟩
  repeat' first | decide +kernel | refine aborts_ok ?_ | constructor

theorem classCommands_met2 : ∃ (s : State) (r : Requester) (k : Fin 64), PacerIdle s ∧ Taken s r pgPacer 84 ∧ (getClass s ↑k).st
  = ClassSt.accepted ∧ (getClass s ↑k).notice ≠ 0 ∧ ((getClass s ↑k).owner = r.code ∨ r.isOwner = true) := by
  refine ⟨s1, Requester.mgmt, 1, ?_⟩
  repeat' first | decide +kernel | refine aborts_ok ?_ | constructor

theorem classCommands_met3 : ∃ (s : State) (r : Requester) (k : Fin 64) (v : ClassVals), PacerIdle s ∧ Taken s r pgPacer 84 ∧
  (getClass s ↑k).st = ClassSt.accepted ∧ (getClass s ↑k).owner = r.code ∧ (getClass s ↑k).pend = some v ∧ v ≠ (getClass s
  ↑k).vals ∧ shrinkOk (getClass s ↑k).vals v = true ∧ (getClass s ↑k).notice ≠ 0 := by
  refine ⟨s1, Requester.fn 0, 1, wc6x2, ?_⟩
  repeat' first | decide +kernel | refine aborts_ok ?_ | constructor

theorem fenceCommands_met1 : ∃ (s : State) (r : Requester) (n : Fin 64), PacerIdle s ∧ Taken s r pgPacer 84 ∧ r.isOwner = true ∧
  corePresent s ↑n = true := by
  refine ⟨s1, Requester.mgmt, 0, ?_⟩
  repeat' first | decide +kernel | refine aborts_ok ?_ | constructor

theorem fenceCommands_met2 : ∃ (s : State) (r : Requester) (n : Fin 64), PacerIdle s ∧ Taken s r pgPacer 84 ∧ r.isOwner = true ∧
  corePresent s ↑n = true ∧ fenced s ↑n = true := by
  refine ⟨wc6x4, Requester.mgmt, 2, ?_⟩
  repeat' first | decide +kernel | refine aborts_ok ?_ | constructor

theorem fenceCommands_met3 : ∃ (s : State) (c : PacerCmd) (cs : List PacerCmd), (getHdr s pgPacer).enable = true ∧
  s.pacer.running = none ∧ s.pacer.resetWait = false ∧ s.pacer.queue = c :: cs := by
  refine ⟨wc6x3, wc6x5, [], ?_⟩
  decide +kernel

theorem ok_pass {x : Nat × PassResult} (h : (match x.2 with | .ok _ _ => true | .fail _ _ => false) = true) :
    ∃ v ps rv, x = (v, .ok ps rv) := by
  match x, h with
  | (v, .ok ps rv), _ => exact ⟨v, ps, rv, rfl⟩

theorem fail_pass {x : Nat × PassResult} (h : (match x.2 with | .ok _ _ => false | .fail _ _ => true) = true) :
    ∃ v code f, x = (v, .fail code f) := by
  match x, h with
  | (v, .fail code f), _ => exact ⟨v, code, f, rfl⟩

theorem admissions_met1 : ∃ (s : State) (r : Requester), PacerIdle s ∧ s.pacer.thermal = .none ∧ Taken s r pgPacer 0x054
    ∧ activating s (admitSet s r.code) = false ∧ admitSet s r.code ≠ []
    ∧ ((admitSet s r.code).find? fun c => classBad s c.2) = none
    ∧ ∃ v ps rv, admitPass (started r.code 1 0 s) (admitSet s r.code) = (v, .ok ps rv) := by
  refine ⟨s1, .fn 0, ?_, by decide +kernel, ?_, by decide +kernel, by decide +kernel, by decide +kernel, ok_pass (by decide +kernel)⟩
  all_goals repeat' first | decide +kernel | refine aborts_ok ?_ | constructor

theorem admissions_met2 : ∃ (s : State) (r : Requester), PacerIdle s ∧ s.pacer.thermal = .none ∧ Taken s r pgPacer 0x054
    ∧ activating s (admitSet s r.code) = false ∧ admitSet s r.code ≠ []
    ∧ ((admitSet s r.code).find? fun c => classBad s c.2) = none
    ∧ ∃ v code f, admitPass (started r.code 1 0 s) (admitSet s r.code) = (v, .fail code f) := by
  refine ⟨sF, .fn 0, ?_, by decide +kernel, ?_, by decide +kernel, by decide +kernel, by decide +kernel, fail_pass (by decide +kernel)⟩
  all_goals repeat' first | decide +kernel | refine aborts_ok ?_ | constructor

theorem admissions_met3 : ∃ (s : State) (r : Requester) (k : Fin 64), PacerIdle s ∧ s.pacer.thermal = .none ∧ Taken s r pgPacer 0x054
    ∧ (getClass s k).st = .shed ∧ (getClass s k).owner = r.code ∧ activating s [(k.val, (getClass s k).vals)] = false
    ∧ (([(k.val, (getClass s k).vals)] : List (Nat × ClassVals)).find? fun c => classBad s c.2) = none
    ∧ ∃ v ps rv, admitPass (started r.code 7 (BitVec.ofNat 6 k.val) s) [(k.val, (getClass s k).vals)] = (v, .ok ps rv) := by
  refine ⟨s1, .fn 0, 2, ?_, by decide +kernel, ?_, by decide +kernel, by decide +kernel, by decide +kernel, by decide +kernel,
    ok_pass (by decide +kernel)⟩
  all_goals repeat' first | decide +kernel | refine aborts_ok ?_ | constructor

theorem admissions_met4 : ∃ (s : State) (r : Requester) (k : Fin 64), PacerIdle s ∧ s.pacer.thermal = .none ∧ Taken s r pgPacer 0x054
    ∧ (getClass s k).st = .shed ∧ (getClass s k).owner = r.code ∧ activating s [(k.val, (getClass s k).vals)] = false
    ∧ (([(k.val, (getClass s k).vals)] : List (Nat × ClassVals)).find? fun c => classBad s c.2) = none
    ∧ ∃ v code f, admitPass (started r.code 7 (BitVec.ofNat 6 k.val) s) [(k.val, (getClass s k).vals)] = (v, .fail code f) := by
  refine ⟨sF, .fn 0, 2, ?_, by decide +kernel, ?_, by decide +kernel, by decide +kernel, by decide +kernel, by decide +kernel,
    fail_pass (by decide +kernel)⟩
  all_goals repeat' first | decide +kernel | refine aborts_ok ?_ | constructor

theorem admissionTests_met_pass : ∃ (s : State) (set : List (Nat × ClassVals)) (v : Nat) (ps : List Placed) (r : Option Nat),
    admitPass s set = (v, .ok ps r) := by
  obtain ⟨v, ps, r, h⟩ := ok_pass (x := admitPass s1 [(0, cv)]) (by decide +kernel)
  exact ⟨s1, [(0, cv)], v, ps, r, h⟩

theorem admissionTests_met_fail : ∃ (s : State) (set : List (Nat × ClassVals)) (v k : Nat) (code : Byte),
    admitPass s set = (v, .fail code k) ∧ 500 ≤ s.pacer.floor ∧ s.pacer.floor ≤ 850 := by
  obtain ⟨v, code, f, h⟩ := fail_pass (x := admitPass s1 [(0, { cv with cost := 50000000 })]) (by decide +kernel)
  exact ⟨s1, _, v, f, code, h, by decide +kernel, by decide +kernel⟩

theorem fails_with {x : PassResult} {code : Byte} (h : (match x with | .ok _ _ => false | .fail c _ => c == code) = true) :
    ∃ k, x = .fail code k := by
  match x, h with
  | .fail c k, h => exact ⟨k, by rw [beq_iff_eq.1 h]⟩

/-- No reserve is kept. -/
def open1 : State := setReg pgPacer 0 0x040 0 s1

theorem admissionTests_met_codes : ∀ x, x ∈ [(rOverCore, { cv with cost := 50000000 }), (rOverStep, { cv with stepMax := 131071, cost := 1 }),
    (rOverDram, { cv with dram := 0xFFFFFFFF }), (rOverCodec, { cv with decPix := 0xFFFFFFFF, decUs := 1, link := true })] →
    reserveOn open1 = false ∧ ∃ k, passFloor open1 [(0, x.2)] 850 = .fail x.1 k := by
  intro x h
  have h : reserveOn open1 = false ∧ (match passFloor open1 [(0, x.2)] 850 with | .ok _ _ => false | .fail c _ => c == x.1) = true := by
    revert x; decide +kernel
  exact ⟨h.1, fails_with h.2⟩

end W6

/-! ## jobEvents, stepStarts, stepCommits, completions, carryCopies, railTimeout, railAndHeat, watchdogs, parityReports -/

namespace W7

def jobA : Job := { job0 with ready := none, released := false, inputs := [.gate 3 2 0 0] }
def jobB : Job := { job0 with id := 8, ended := some { status := .ok, cause := 0, detail := 0, time := 5 } }
def jobC : Job := { jobB with id := 9, ended := some { status := .late, cause := 0, detail := 0, time := 5 } }
def b0 : State := memPut 0x100005000 ((List.range 256).map (BitVec.ofNat 8 ·)) (enAll up)
def s1 : State := modPacer (fun p => { p with jobs := [jobA] }) (modMem (fun m => { m with sems := [(3, 5)] }) b0)
def s2 : State := modTime (fun t => { t with now := 3000000 }) s1
def s3 : State := modProc 1 (fun p => { p with run := some (7, 0) }) (modPacer (fun p =>
  { p with jobs := [{ jobA with cost := 5, shares := shr { core := 1, steps := 6, st := .running } }] }) s1)
def wc7x1 : Job := { jobA with cost := 5, shares := shr { core := 1, steps := 6, st := .running } }
def jobS : Job := { job0 with shares := shr { core := 1, codeAddr := 0x100005000, codeLen := 128, stepPc := 8, prevPc := 4 } }
def t1 : State := modPacer (fun p => { p with jobs := [jobS] }) (modProc 1 (fun p =>
  { p with g := [(1, 5)], pc := 77, lastPc := 3 }) b0)
def jobS3 : Job := { job0 with shares := shr { core := 1, codeAddr := 0x3000000, codeLen := 128, stepPc := 8 } }
def t3 : State := modPacer (fun p => { p with jobs := [jobS3] }) t1
def t5 : State := modMem (fun m => { m with eccOn := true }) t1
def jobR : Job := { job0 with shares := shr { core := 1, st := .running, stepPc := 8, prevPc := 4, committed := 2 },
                              inputs := [], ready := some 5 }
def un (j : Job) (last : Bool) : State := modPacer (fun p => { p with jobs := [j] }) (modProc 1 (fun p => { p with run := some (7, 0),
                                                                                                                   commitAsked := some last,
                                                                                                                   pc := 64,
                                                                                                                   stage := [(0x10000005, some 9)],
                                                                                                                   stagedPosts := [(3, 5)],
                                                                                                                   stagedEvents := [0x21],
                                                                                                                   runState := .drain })
  b0)
def jobQ : Job := { jobB with id := 3, queue := 64, ended := some { status := .rejected, cause := 0x10, detail := 2, time := 5 } }
def jobN : Job := { jobB with id := 1, queue := 20 }
def fwq (b : Nat) (s : State) : State := setReg pgHostq 64 0x400 0x000F0001 (setReg pgHostq 64 0x40C (BitVec.ofNat 32 b) s)
def v0 : State := modPacer (fun p => { p with jobs := [jobB, jobC, jobQ, jobN] }) (fwq 0x1002000 b0)
def wc7x2 : JobEnd := { status := .ok, cause := 0, detail := 0, time := 5 }
def wc7x4 : JobEnd := { status := .rejected, cause := 0x10, detail := 2, time := 5 }
def jobK : Job := { job0 with shares := shr { core := 2, st := .carrying, carryBase := 3, carryRows := 2 } }
def w1 : State := modDom 4 (fun d => { d with state := 2 }) (memPut (winBase 1 + 384) [1,2,3] (modPacer (fun p => { p with jobs := [jobK],
                                                                                                                           carries := [{ job := 7, share := 0, src := 1, dst := 2 }],
                                                                                                                           health := [(1, { fenced := true, hold := true }), (3, { fenced := true, hold := true })] })
  b0))
def pc1 : PacerCmd := { req := 0x10, op := 1, arg := 0 }
def r1 : State := modPacer (fun p => { p with settled := false, railUse := .admitPlan, running := some pc1, railFrom := 100 }) b0
def r2 : State := modPacer (fun p => { p with thermal := .drain, jobs := [], health := [(1, { paceLow := 3 })], settled := true }) b0
def r3 : State := modPower (fun p => { p with temps := [(0, 100)] }) (modTime (fun t => { t with now := 9000000 }) (modPacer (fun p
  => { p with thermal := .retry, settled := true }) b0))
def r5 : State := modPacer (fun p => { p with health := [(1, { paceLow := 9 })] }) b0
def r6 : State := modPacer (fun p => { p with health := [(1, { fenced := true })] }) b0
def w3 : State := modTime (fun t => { t with wdtOn := true, wdtTicks := 99999999 }) (modProc 1 (fun p =>
  { p with runState := .issue, wdtFrom := 5 }) b0)
def p3 : State := modProc 2 (fun p => { p with run := some (3, 0) }) (modTrust (fun t =>
  { t with detValid := true, detOffset := 3 }) (setReg pgCarafe 0 0x044 0xFFFFFFFF b0))

theorem jobEvents_met1 : ∃ (s : State) (id : ℕ), Option.any (fun (j : Job) => decide (j.open_ = true ∧ j.released = false ∧ (∀
  (e : Fin 512), j.frame ≠ some (e, none)) ∧ j.release ≤ now s)) (getJob s id) = true := by
  refine ⟨s1, 7, ?_⟩
  decide +kernel

theorem jobEvents_met2 : ∃ (s : State) (id : ℕ), Option.any (fun (j : Job) => decide (j.open_ = true ∧ j.ready = none ∧ ∀ x ∈
  j.inputs, inputPresent s j x = true)) (getJob s id) = true := by
  refine ⟨s1, 7, ?_⟩
  decide +kernel

theorem jobEvents_met3 : ∃ (s : State) (id : ℕ) (j : Job), PacerAtRest s ∧ getJob s id = some j ∧ j.open_ = true ∧ j.unbound =
  false ∧ j.deadline < now s := by
  refine ⟨s2, 7, jobA, ?_⟩
  repeat' first | decide +kernel | refine aborts_ok ?_ | constructor

theorem jobEvents_met4 : ∃ (s : State) (n : Fin 6) (j : ℕ) (i : ℕ) (job : Job), (getProc s ↑n).run = some (j, i) ∧ getJob s j =
  some job ∧ job.cost < (getShare job i).steps := by
  refine ⟨s3, 1, 7, 0, wc7x1, ?_⟩
  decide +kernel

theorem stepStarts_met1 : ∃ (s : State) (n : Fin 6) (x : Answered) (b : Bool) (d : ℕ) (j : ℕ) (i : ℕ) (job : Job), coreReady s
  ↑n = true ∧ startFirst (startable s ↑n) = some (b, d, j, i) ∧ getJob s j = some job ∧ let r := (getShare job i); (r.codeLen =
  0 ∨ x ≠ Answered.never ∧ codeRefusal s job r = none ∧ dramFails s (BitVec.toNat r.codeAddr) x = false ∧ ∀ c < 4, lfiOn s c
  lfiNoc (32 + ↑n) 1 = false) ∧ BitVec.toNat r.codeLen ≤ 32768 ∧ firstDamaged s (codeSpan s j i).1 (codeSpan s j i).2 = none :=
  by
  refine ⟨t1, 1, Answered.good, false, 2000000, 7, 0, jobS, ?_⟩
  decide +kernel

theorem stepStarts_met2 : ∃ (s : State) (n : Fin 6) (b : Bool) (d : ℕ) (j : ℕ) (i : ℕ) (job : Job), coreReady s ↑n = true ∧
  startFirst (startable s ↑n) = some (b, d, j, i) ∧ getJob s j = some job ∧ let r := (getShare job i); r.codeLen ≠ 0 := by
  refine ⟨t1, 1, false, 2000000, 7, 0, jobS, ?_⟩
  decide +kernel

theorem stepStarts_met3 : ∃ (s : State) (n : Fin 6) (x : Answered) (b : Bool) (d : ℕ) (j : ℕ) (i : ℕ) (job : Job) (e : Byte),
  coreReady s ↑n = true ∧ startFirst (startable s ↑n) = some (b, d, j, i) ∧ getJob s j = some job ∧ let r := (getShare job i);
  r.codeLen ≠ 0 ∧ x ≠ Answered.never ∧ codeRefusal s job r = some e := by
  refine ⟨t3, 1, Answered.good, false, 2000000, 7, 0, jobS3, 5, ?_⟩
  decide +kernel

theorem stepStarts_met4 : ∃ (s : State) (n : Fin 6) (x : Answered) (b : Bool) (d : ℕ) (j : ℕ) (i : ℕ) (job : Job), coreReady s
  ↑n = true ∧ startFirst (startable s ↑n) = some (b, d, j, i) ∧ getJob s j = some job ∧ let r := (getShare job i); r.codeLen ≠ 0
  ∧ x ≠ Answered.never ∧ codeRefusal s job r = none ∧ dramFails s (BitVec.toNat r.codeAddr) x = true := by
  refine ⟨t5, 1, Answered.uncorrectable, false, 2000000, 7, 0, jobS, ?_⟩
  decide +kernel

theorem stepCommits_met : ∃ (s : State) (n : Fin 6) (j : ℕ) (i : ℕ) (job : Job) (last : Bool), PacerAtRest s ∧ (getProc s
  ↑n).run = some (j, i) ∧ (getProc s ↑n).commitAsked = some last ∧ getJob s j = some job ∧ job.open_ = true ∧ job.abort = false
  ∧ i < job.nShares := by
  refine ⟨un jobR false, 1, 7, 0, jobR, false, ?_⟩
  repeat' first | decide +kernel | refine aborts_ok ?_ | constructor

theorem completions_met1 : ∃ (s : State) (id : ℕ) (j : Job) (d : JobEnd) (f : ℕ), getJob s id = some j ∧ j.ended = some d ∧ let
  q := (↑j.queue); let x := (getQueue s q); x.epoch = j.epoch ∧ queueReady s q = true ∧ queueFn q = some f := by
  refine ⟨v0, 8, jobB, wc7x2, 0, ?_⟩
  decide +kernel

theorem completions_met2 : ∃ (s : State) (id : ℕ) (j : Job) (d : JobEnd), getJob s id = some j ∧ j.ended = some d ∧ let q :=
  (↑j.queue); let x := (getQueue s q); let base := (BitVec.toNat (pair64 (getReg s pgHostq q 1040) (getReg s pgHostq q 1036)) +
  32 * x.cqTail.toNat); x.epoch = j.epoch ∧ queueFn q = none ∧ hostqRefusal s true (base % 2 ^ 40) 32 = none ∧ (place (base % 2
  ^ 40) = Place.sram ∨ place (base % 2 ^ 40) = Place.dram ∨ ∃ (i : ℕ), place (base % 2 ^ 40) = Place.shm i) ∧ lfiQuiet s lfiNoc
  255 0 = true := by
  refine ⟨v0, 3, jobQ, wc7x4, ?_⟩
  dsimp only; repeat' first | decide +kernel | constructor

theorem completions_met3 : ∃ (s : State) (id : ℕ) (j : Job) (d : JobEnd), getJob s id = some j ∧ j.ended = some d ∧ let q :=
  (↑j.queue); let x := (getQueue s q); x.epoch ≠ j.epoch ∨ queueReady s q = false := by
  refine ⟨v0, 1, jobN, wc7x2, ?_⟩
  decide +kernel

theorem carryCopies_met1 : ∃ (s : State) (j : ℕ) (i : Fin 6) (c : CarryCopy) (job : Job), List.find? (fun (c : CarryCopy) =>
  c.job == j && c.share == ↑i) s.pacer.carries = some c ∧ getJob s j = some job ∧ firstDamaged s (winBase ↑c.src + 128 *
  (getShare job ↑i).carryBase) (128 * (getShare job ↑i).carryRows) = none := by
  refine ⟨w1, 7, 0, { job := 7, share := 0, src := 1, dst := 2 }, jobK, ?_⟩
  decide +kernel

theorem carryCopies_met2 : ∃ (s : State) (n : Fin 6), (getHealth s ↑n).hold = true ∧ ∀ c ∈ s.pacer.carries, c.src ≠ n := by
  refine ⟨w1, 3, ?_⟩
  decide +kernel

theorem railTimeout_met : ∃ (s : State), s.pacer.settled = false ∧ s.pacer.railFrom + 200000 ≤ now s ∧ s.pacer.railUse =
  RailUse.admitPlan ∧ s.pacer.running.isSome = true := by
  refine ⟨r1, ?_⟩
  decide +kernel

theorem railAndHeat_met1 : ∃ (s : State) (n : Fin 6), corePresent s ↑n = true ∧ fenced s ↑n = false ∧ (getHealth s
  ↑n).paceLow.toNat < 9 := by
  refine ⟨b0, 0, ?_⟩
  decide +kernel

theorem railAndHeat_met2 : ∃ (s : State) (n : Fin 6) (steps : ℕ), corePresent s ↑n = true ∧ fenced s ↑n = false ∧ 9 ≤ (getHealth
  s ↑n).paceLow.toNat ∧ steps < 97 * gsr s (↑n) s.pacer.floor ∧ s.pacer.thermal = ThermalPhase.none := by
  refine ⟨r5, 1, 0, ?_⟩
  decide +kernel

theorem railAndHeat_met3 : ∃ (s : State) (n : Fin 6), corePresent s ↑n = false ∨ fenced s ↑n = true := by
  refine ⟨r6, 1, ?_⟩
  decide +kernel

theorem railAndHeat_met4 : ∃ (s : State) (ts : Vector (BitVec 12) 7), PacerAtRest s ∧ s.pacer.thermal = ThermalPhase.none ∧
  inReset s = false ∧ (∃ (i : Fin 7), 440 ≤ ts[i].toInt) ∧ ∀ (i : Fin 7), ts[i].toInt < 480 := by
  refine ⟨b0, #v[0, 0, 440, 0, 0, 0, 0], ?_⟩
  repeat' first | decide +kernel | refine aborts_ok ?_ | constructor

theorem railAndHeat_met5 : ∃ (s : State) (ts : Vector (BitVec 12) 7), PacerAtRest s ∧ s.pacer.thermal = ThermalPhase.none ∧ ∀ (i
  : Fin 7), ts[i].toInt < 440 := by
  refine ⟨b0, #v[0, 0, 0, 0, 0, 0, 0], ?_⟩
  repeat' first | decide +kernel | refine aborts_ok ?_ | constructor

theorem railAndHeat_met6 : ∃ (s : State), s.pacer.thermal = ThermalPhase.drain ∧ thermalIsDrained s = true := by
  refine ⟨r2, ?_⟩
  decide +kernel

theorem railAndHeat_met7 : ∃ (s : State), s.pacer.thermal = ThermalPhase.retry ∧ s.pacer.retryFrom + 1000000 ≤ now s ∧
  sensorsCool s = true ∧ s.pacer.settled = true := by
  refine ⟨r3, ?_⟩
  decide +kernel

theorem watchdogs_met1 : ∃ (s : State) (n : Fin 6), (getProc s ↑n).runState ≠ RunState.idle ∧ max 100 (BitVec.toNat (getReg s
  (pgCore ↑n) 0 108) % 65536) * 1000 ≤ wdtBusyNs s (getProc s ↑n) := by
  refine ⟨w3, 1, ?_⟩
  decide +kernel

theorem watchdogs_met2 : ∃ (s : State), s.time.wdtOn = true ∧ BitVec.toNat (getReg s pgMgmt 0 80) % 65536 * 25000 ≤
  s.time.wdtTicks := by
  refine ⟨w3, ?_⟩
  decide +kernel

theorem watchdogs_met3 : ∃ (s : State) (r : Requester), Taken s r pgMgmt 84 := by
  refine ⟨b0, Requester.mgmt, ?_⟩
  repeat' first | decide +kernel | constructor

theorem watchdogs_met4 : ∃ (s : State) (r : Requester) (v : Word), Taken s r pgMgmt 84 ∧ v ≠ 165 := by
  refine ⟨b0, Requester.mgmt, 0, ?_⟩
  repeat' first | decide +kernel | constructor

theorem parityReports_met1 : ∃ (s : State) (n : Fin 6), stepping s ↑n = true := by
  refine ⟨p3, 2, ?_⟩
  decide +kernel

theorem parityReports_met2 : ∃ (n : Fin 6) (r : Requester), r = Requester.mgmt ∨ (∃ (f : Fin 16), r = Requester.fn f) ∨ ∃ (k :
  Fin 6), r = Requester.core k ∧ k ≠ n := by
  refine ⟨0, Requester.mgmt, ?_⟩
  decide +kernel

end W7

/-! ## integerResults, controlTransfers, transferFaults, systemOperations -/

namespace W8

def b0 : State := modPacer (fun p => { p with jobs := [job0] }) (enAll up)
def m0 (s : State) : State := modProc 6 (fun p =>
  { p with runState := .issue, pc := 0x1000010, g := [(1, 3), (3, 0x80000000)], epc := 0x44 }) s
def s1 : State := m0 (cor id b0)
def s2 : State := m0 (cor (fun p => { p with delay := some { left := 2, target := some 40, ret := .none }, epc := 0x30,
                                             vfaultOp := some { form := { d := 0, p := 0, idx := 0, esize := 0, scale := 0, masked := false, m := 0 },
                                                                slotL1 := false, scatter := false }, vfaultInfo := 0x80000003 }) b0)
def s3 : State := m0 (cor (fun p => { p with epc := 0x30, vfaultOp := some { form := { d := 0, p := 0, idx := 0, esize := 0, scale := 0, masked := false, m := 0 },
                                                                             slotL1 := false, scatter := false },
                                             vfaultInfo := 0x80000003 }) b0)

theorem integerResults_met1 : ∃ (s : State) (a : At), Issues s a 0 false := by
  refine ⟨s1, { p := Proc.core 0, fin := false }, ?_⟩
  repeat' first | decide +kernel | constructor

theorem integerResults_met2 : ∃ (s : State) (a : At) (y : Fin 32) (sub : BitVec 7) (k : ℕ), let p := (getProc s a.p.num); Issues
  s a 0 false ∧ k = if y = 0 then sub.toNat % 32 else BitVec.toNat (p.rg y) % 32 := by
  refine ⟨s1, { p := Proc.core 0, fin := false }, 0, 0, 0, ?_⟩
  dsimp only; repeat' first | decide +kernel | constructor

theorem integerResults_met3 : ∃ (s : State) (a : At), Issues s a 0 true := by
  refine ⟨s1, { p := Proc.core 0, fin := false }, ?_⟩
  repeat' first | decide +kernel | constructor

theorem controlTransfers_met1 : ∃ (s : State) (a : At), Issues s a 0 false ∧ straight s a := by
  refine ⟨s1, { p := Proc.core 0, fin := false }, ?_⟩
  dsimp only [straight]; repeat' first | decide +kernel | constructor

theorem controlTransfers_met2 : ∃ (s : State) (a : At), Issues s a 0 false ∧ straight s a ∧ let p := (getProc s a.p.num);
  Option.any (fun (op : VecOp) => decide (BitVec.getLsbD (getProc s a.p.num).vfaultInfo 31 = true)) p.vfaultOp = true := by
  refine ⟨s3, { p := Proc.core 0, fin := false }, ?_⟩
  dsimp only [straight]; repeat' first | decide +kernel | constructor

theorem controlTransfers_met3 : ∃ (s : State) (a : At) (cnt : Fin 1024) (rot : Bool) (reg : Bool) (g : Fin 32) (count : ℕ),
  Issues s a 0 false ∧ straight s a ∧ let p := (getProc s a.p.num); (a.p.num = mgmtNo → rot = false) ∧ (count = if reg = true
  then BitVec.toNat (p.rg g) else ↑cnt + 1) ∧ count ≤ 1024 := by
  refine ⟨s1, { p := Proc.core 0, fin := false }, 0, false, false, 0, 1, ?_⟩
  dsimp only [straight]; repeat' first | decide +kernel | constructor

theorem transferFaults_met1 : ∃ (s : State) (a : At) (cause : Byte), Issues s a 0 false ∧ let p := (getProc s a.p.num);
  p.delay.isSome = true ∧ cause = 20 ∨ p.delay = none ∧ p.loop.isSome = true ∧ cause = 19 := by
  refine ⟨s2, { p := Proc.core 0, fin := false }, 20, ?_⟩
  dsimp only; repeat' first | decide +kernel | constructor

theorem transferFaults_met2 : ∃ (s : State) (a : At) (cause : Byte), Issues s a 0 false ∧ let p := (getProc s a.p.num);
  (p.delay.isSome = true ∧ cause = 20 ∨ p.delay = none ∧ p.loop.isSome = true ∧ cause = 19) ∧ a.p ≠ Proc.mgmt := by
  refine ⟨s2, { p := Proc.core 0, fin := false }, 20, ?_⟩
  dsimp only; repeat' first | decide +kernel | constructor

theorem transferFaults_met3 : ∃ (s : State) (a : At), Issues s a 0 false ∧ let p := (getProc s a.p.num); straight s a ∧
  (p.vfaultOp = none ∨ BitVec.getLsbD p.vfaultInfo 31 = false) := by
  refine ⟨s1, { p := Proc.core 0, fin := false }, ?_⟩
  dsimp only [straight]; repeat' first | decide +kernel | constructor

theorem transferFaults_met4 : ∃ (s : State) (a : At), Issues s a 0 false ∧ straight s a ∧ a.p = Proc.mgmt := by
  refine ⟨s1, { p := Proc.mgmt, fin := false }, ?_⟩
  dsimp only [straight]; repeat' first | decide +kernel | constructor

theorem transferFaults_met5 : ∃ (s : State) (a : At) (g : Fin 32), Issues s a 0 false ∧ let p := (getProc s a.p.num); straight s
  a ∧ 1024 < BitVec.toNat (p.rg g) := by
  refine ⟨s1, { p := Proc.core 0, fin := false }, 2, ?_⟩
  dsimp only [straight]; repeat' first | decide +kernel | constructor

theorem transferFaults_met6 : ∃ (s : State) (a : At), Issues s a 0 false ∧ a.p = Proc.mgmt := by
  refine ⟨s1, { p := Proc.mgmt, fin := false }, ?_⟩
  repeat' first | decide +kernel | constructor

theorem systemOperations_met1 : ∃ (s : State) (a : At) (slot : Slot), Issues s a (slotNum slot) false := by
  refine ⟨s1, { p := Proc.core 0, fin := false }, Slot.s, ?_⟩
  repeat' first | decide +kernel | constructor

theorem systemOperations_met2 : ∃ (s : State) (a : At) (sub : BitVec 7), Issues s a 0 false ∧ (getCr s a.p.num (sub.toNat %
  32)).isSome = true := by
  refine ⟨s1, { p := Proc.core 0, fin := false }, 0, ?_⟩
  repeat' first | decide +kernel | constructor

theorem systemOperations_met3 : ∃ (s : State) (a : At), Issues s a 0 false := by
  refine ⟨s1, { p := Proc.core 0, fin := false }, ?_⟩
  repeat' first | decide +kernel | constructor

theorem systemOperations_met4 : ∃ (s : State) (a : At), Issues s a 0 false ∧ a.p ≠ Proc.mgmt ∧ straight s a := by
  refine ⟨s1, { p := Proc.core 0, fin := false }, ?_⟩
  dsimp only [straight]; repeat' first | decide +kernel | constructor

theorem systemOperations_met5 : ∃ (s : State) (a : At), Issues s a 0 false ∧ a.p ≠ Proc.mgmt := by
  refine ⟨s1, { p := Proc.core 0, fin := false }, ?_⟩
  repeat' first | decide +kernel | constructor

theorem systemOperations_met6 : ∃ (s : State) (a : At), Issues s a 0 true := by
  refine ⟨s1, { p := Proc.core 0, fin := false }, ?_⟩
  repeat' first | decide +kernel | constructor

end W8

/-! ## bundleSequence, resultsLand, collidingResults, localAccesses -/

namespace W9

def b0 : State := modPacer (fun p => { p with jobs := [job0] }) (enAll up)
def m0 (s : State) : State := modProc 6 (fun p =>
  { p with runState := .issue, pc := 0x1000010, g := [(1, 3), (3, 0x80000000)], epc := 0x44 }) s
def c0 (f : ProcState → ProcState) : State := m0 (cor f b0)
def infl (l : List Inflight) : State := c0 fun p => { p with inflight := l }
def wc9x2 : State := infl [{ due := 1, slot := 1, issued := 0, land := .g 1 9 }]
def ea : Inflight := ⟨6, 1, 0, .g 1 9, 0, false⟩
def eb : Inflight := ⟨6, 2, 0, .g 1 4, 0, false⟩
def wr (s : State) : State := memPut (winBase 0 + 0x1000) [0x81, 0x92, 0xA3, 0xB4, 0xC5, 0xD6, 0xE7, 0xF8] s
def mm (l : List MemOp) : State := wr (c0 fun p => { p with buf := { p.buf with mems := l } })
def aa : Addr := BitVec.ofNat _ (winBase 0 + 0x1000)

theorem bundleSequence_met : ∃ (s : State) (a : At) (slot : Slot), a.fin = true ∧ Issues s a (slotNum slot) false ∧ let p :=
  (getProc s a.p.num); PlainBundle p.buf ∧ p.commitAsked = none ∧ p.inflight = [] := by
  refine ⟨c0 id, { p := Proc.core 0, fin := true }, Slot.s, ?_⟩
  dsimp only; repeat' first | decide +kernel | constructor

theorem resultsLand_met : ∃ (s : State) (a : At) (slot : Slot) (due : ℕ) (sl : ℕ) (issued : ℕ) (d : Fin 32) (w : Word), a.fin =
  true ∧ Issues s a (slotNum slot) false ∧ let p := (getProc s a.p.num); PlainBundle p.buf ∧ p.commitAsked = none ∧ p.delay =
  none ∧ p.loop = none ∧ p.inflight = [{ due := due, slot := sl, issued := issued, land := Landing.g d w }] := by
  refine ⟨wc9x2, { p := Proc.core 0, fin := true }, Slot.s, 1, 1, 0, 1, 9, ?_⟩
  dsimp only; repeat' first | decide +kernel | constructor

theorem collidingResults_met : ∃ (s : State) (a : At) (slot : Slot) (due : ℕ) (e : Inflight) (f : Inflight) (d : Fin 32) (u :
  Word) (w : Word), a.fin = true ∧ Issues s a (slotNum slot) false ∧ let p := (getProc s a.p.num); PlainBundle p.buf ∧
  p.commitAsked = none ∧ p.delay = none ∧ p.loop = none ∧ due ≤ p.bundle + 1 ∧ d ≠ 0 ∧ e.due = due ∧ f.due = due ∧ e.land =
  Landing.g d u ∧ f.land = Landing.g d w ∧ (e.slot < f.slot ∨ e.slot = f.slot ∧ e.issued < f.issued) ∧ (p.inflight = [e, f] ∨
  p.inflight = [f, e]) := by
  refine ⟨infl [ea, eb], { p := Proc.core 0, fin := true }, Slot.s, 6, ea, eb, 1, 9, 4, ?_⟩
  dsimp only; repeat' first | decide +kernel | constructor

theorem localAccesses_met1 : ∃ (s : State) (c : Fin 6) (slot : Slot) (sl : ℕ) (size : ℕ) (ad : Addr) (dest : Fin 32) (signed :
  Bool), let a := { p := Proc.core c, fin := true }; Issues s a (slotNum slot) false ∧ let p := (getProc s ↑c); PlainBundle
  { p.buf with mems := [] } ∧ p.commitAsked = none ∧ p.delay = none ∧ p.loop = none ∧ p.inflight = [] ∧ size ≤ 8 ∧ place
  (BitVec.toNat ad) = Place.cmem ↑c ∧ p.buf.mems = [MemOp.load sl (LoadDest.g dest) size signed ad] ∧ (∀ i < size, viewBad s
  (some ↑c) (BitVec.toNat ad + i) = false) ∧ 0 < size := by
  refine ⟨mm [MemOp.load 2 (LoadDest.g 1) 1 true aa], 0, Slot.s, 2, 1, 536875008, 1, true, ?_⟩
  dsimp only; repeat' first | decide +kernel | constructor

theorem localAccesses_met2 : ∃ (s : State) (c : Fin 6) (slot : Slot) (sl : ℕ) (size : ℕ) (ad : Addr) (v : DWord), let a :=
  { p := Proc.core c, fin := true }; Issues s a (slotNum slot) false ∧ let p := (getProc s ↑c); PlainBundle
  { p.buf with mems := [] } ∧ p.commitAsked = none ∧ p.delay = none ∧ p.loop = none ∧ p.inflight = [] ∧ size ≤ 8 ∧ place
  (BitVec.toNat ad) = Place.cmem ↑c ∧ p.buf.mems = [MemOp.store sl size v ad] := by
  refine ⟨mm [MemOp.store 2 8 1234605616436508552 aa], 0, Slot.s, 2, 8, 536875008, 1234605616436508552, ?_⟩
  dsimp only; repeat' first | decide +kernel | constructor

end W9

/-! ## pointerResults, scalarAccesses, scalarFloats, shortVectors -/

namespace W10

def b0 : State := modPacer (fun p => { p with jobs := [job0] }) (enAll up)
def aa : Addr := BitVec.ofNat _ (winBase 0 + 0x1000)
def fillp (p : ProcState) : ProcState := { p with
    g := [(1, 5), (2, 0xFFFFFFF0), (3, 0x80000000), (4, 12)], p := [(1, aa), (2, aa + 2), (3, aa + 4), (0, 0xFFFFFFFFF8)]
    o := [(0, 4), (1, 0xFFFFFFF8), (2, 3), (15, 0x80000000)]
    cb0Base := aa, cb0Len := 10, cb1Base := aa - 0x20, cb1Len := 0x21
    f := [(0, 0x3F80000040490FDB), (1, 0x40091EB851EB851F), (2, 0x7F8000017FC00000), (3, 0x8000000000000001), (5, 0x3C00BC0000017BFF)] }
def c0 (f : ProcState → ProcState) : State := modProc 6 (fun p => fillp { p with runState := .issue, pc := 0x1000010 }) (cor (f ∘
  fillp) b0)

theorem pointerResults_met1 : ∃ (s : State) (a : At), Issues s a 1 false := by
  refine ⟨c0 id, { p := Proc.core 0, fin := false }, ?_⟩
  repeat' first | decide +kernel | constructor

theorem pointerResults_met2 : ∃ (s : State) (a : At), Issues s a 1 false ∧ a.p ≠ Proc.mgmt := by
  refine ⟨c0 id, { p := Proc.core 0, fin := false }, ?_⟩
  repeat' first | decide +kernel | constructor

theorem pointerResults_met3 : ∃ (s : State) (a : At), Issues s a 1 false ∧ a.p = Proc.mgmt := by
  refine ⟨c0 id, { p := Proc.mgmt, fin := false }, ?_⟩
  repeat' first | decide +kernel | constructor

theorem pointerResults_met4 : ∃ (s : State) (a : At), Issues s a 1 true := by
  refine ⟨c0 id, { p := Proc.core 0, fin := false }, ?_⟩
  repeat' first | decide +kernel | constructor

theorem scalarAccesses_met1 : ∃ (s : State) (a : At) (f : MemForm) (sl : WordSlot), let p := (getProc s a.p.num); Issues s a
  (wordSlot sl) false ∧ f.mode.toNat < 6 ∧ BitVec.toNat (memAddress p f 4).1 % 4 = 0 := by
  refine ⟨c0 id, { p := Proc.core 0, fin := false }, { r := 2, p := 1, mode := 0, low := 0 }, WordSlot.a, ?_⟩
  dsimp only; repeat' first | decide +kernel | constructor

theorem scalarAccesses_met2 : ∃ (s : State) (a : At) (f : MemForm) (sl : WordSlot), let p := (getProc s a.p.num); Issues s a
  (wordSlot sl) false ∧ f.mode.toNat < 6 ∧ BitVec.toNat (memAddress p f 4).1 % 4 ≠ 0 := by
  refine ⟨c0 id, { p := Proc.core 0, fin := false }, { r := 2, p := 2, mode := 0, low := 0 }, WordSlot.a, ?_⟩
  dsimp only; repeat' first | decide +kernel | constructor

theorem scalarAccesses_met3 : ∃ (s : State) (a : At) (f : MemForm) (sl : WordSlot), Issues s a (wordSlot sl) false ∧ 6 ≤
  f.mode.toNat := by
  refine ⟨c0 id, { p := Proc.core 0, fin := false }, { r := 2, p := 1, mode := 6, low := 0 }, WordSlot.a, ?_⟩
  repeat' first | decide +kernel | constructor

theorem scalarAccesses_met4 : ∃ (s : State) (a : At) (f : MemForm), let p := (getProc s a.p.num); Issues s a 1 false ∧
  f.mode.toNat < 6 ∧ BitVec.toNat (memAddress p f 2).1 % 2 = 0 := by
  refine ⟨c0 id, { p := Proc.core 0, fin := false }, { r := 2, p := 1, mode := 0, low := 0 }, ?_⟩
  dsimp only; repeat' first | decide +kernel | constructor

theorem scalarAccesses_met5 : ∃ (s : State) (a : At) (f : MemForm), let p := (getProc s a.p.num); Issues s a 1 false ∧
  f.mode.toNat < 6 ∧ BitVec.toNat (memAddress p f 2).1 % 2 ≠ 0 := by
  refine ⟨c0 id, { p := Proc.core 0, fin := false }, { r := 2, p := 1, mode := 3, low := 128 }, ?_⟩
  dsimp only; repeat' first | decide +kernel | constructor

theorem scalarAccesses_met6 : ∃ (s : State) (a : At) (f : MemForm), Issues s a 1 false ∧ 6 ≤ f.mode.toNat := by
  refine ⟨c0 id, { p := Proc.core 0, fin := false }, { r := 2, p := 1, mode := 6, low := 0 }, ?_⟩
  repeat' first | decide +kernel | constructor

theorem scalarAccesses_met7 : ∃ (s : State) (a : At) (f : MemForm), let p := (getProc s a.p.num); Issues s a 1 false ∧
  f.mode.toNat < 6 ∧ BitVec.toNat (memAddress p f 1).1 % 1 = 0 := by
  refine ⟨c0 id, { p := Proc.core 0, fin := false }, { r := 2, p := 1, mode := 0, low := 0 }, ?_⟩
  dsimp only; repeat' first | decide +kernel | constructor

theorem scalarAccesses_met8 : ∃ (s : State) (a : At) (f : MemForm), let p := (getProc s a.p.num); Issues s a 1 false ∧
  f.mode.toNat < 6 ∧ BitVec.toNat (memAddress p f 8).1 % 8 = 0 := by
  refine ⟨c0 id, { p := Proc.core 0, fin := false }, { r := 2, p := 1, mode := 0, low := 0 }, ?_⟩
  dsimp only; repeat' first | decide +kernel | constructor

theorem scalarAccesses_met9 : ∃ (s : State) (a : At) (f : MemForm), let p := (getProc s a.p.num); Issues s a 1 false ∧
  f.mode.toNat < 6 ∧ BitVec.toNat (memAddress p f 8).1 % 8 ≠ 0 := by
  refine ⟨c0 id, { p := Proc.core 0, fin := false }, { r := 2, p := 2, mode := 0, low := 0 }, ?_⟩
  dsimp only; repeat' first | decide +kernel | constructor

theorem scalarFloats_met : ∃ (s : State) (a : At), Issues s a 1 false := by
  refine ⟨c0 id, { p := Proc.core 0, fin := false }, ?_⟩
  repeat' first | decide +kernel | constructor

theorem shortVectors_met1 : ∃ (s : State) (a : At) (sub : BitVec 7), Issues s a 1 false ∧ a.p ≠ Proc.mgmt ∧ sub.toNat % 4 < 3 :=
  by
  refine ⟨c0 id, { p := Proc.core 0, fin := false }, 0, ?_⟩
  repeat' first | decide +kernel | constructor

theorem shortVectors_met2 : ∃ (s : State) (a : At), Issues s a 1 false ∧ a.p ≠ Proc.mgmt := by
  refine ⟨c0 id, { p := Proc.core 0, fin := false }, ?_⟩
  repeat' first | decide +kernel | constructor

theorem shortVectors_met3 : ∃ (s : State) (a : At), Issues s a 1 false ∧ a.p = Proc.mgmt := by
  refine ⟨c0 id, { p := Proc.mgmt, fin := false }, ?_⟩
  repeat' first | decide +kernel | constructor

end W10

/-! ## vectorAccesses, vectorAccessFaults, columnStrips, gatherIssue, gatherElements -/

namespace W11

def b0 : State := modPacer (fun p => { p with jobs := [job0] }) (enAll up)
def aa : Addr := BitVec.ofNat _ (winBase 0 + 0x1000)
def idxv (l : List Int) : BitVec 1024 := BitVec.ofNat 1024 ((List.range 16).foldl (fun acc k => acc + ((l.getD k 0) %
  4294967296).toNat * 2 ^ (32 * k)) 0)
def rnd (seed : Nat) : BitVec 1024 := BitVec.ofNat 1024 ((List.range 128).foldl (fun acc k => acc * 256 + ((seed + k) * (seed + 7 *
  k + 3) * 2654435761 / 65536) % 256) 0)
def fillp (p : ProcState) : ProcState := { p with
    p := [(1, aa), (2, aa + 2), (3, aa + 4), (4, aa + 8), (0, 0xFFFFFFFFF8), (5, BitVec.ofNat _ (winBase 0 + 0x3FFF80)), (6, BitVec.ofNat _ (winBase 0 + 0x400000)), (7, BitVec.ofNat _ sramBase), (8, BitVec.ofNat _ 0x80)]
    o := [(0, 4), (1, 0xFFFFFFF8), (2, 2), (15, 0x80000000)]
    v := [(0, rnd 3), (1, rnd 4), (2, idxv [0, 8, 16, 24, 32, 40, 128, 8, 0, 3, 5, 400, 480, -8, -16, 64]),
      (3, idxv [0, 8, 16, 24, 32, 40, 128, 128, 256, 384, 512, 400, 480, -8, -16, 64]), (4, idxv [0, 8, 16, 24, 0x7FFFFFF8, 40, 128, 8]) ]
    m := [(0, 0xA5F3), (1, 0xFFFFFFFFFFFFFFFFFFFFFFFFFFFFFFFF)]
    rrb := 1 }
def wr (s : State) : State := memPut (winBase 0 + 0xFF0) ((List.range 4).map fun k => BitVec.ofNat 8 (k * 37 + 11)) s
def c0 (f : ProcState → ProcState) : State := wr (modProc 6 (fun p => fillp { p with runState := .issue, pc := 0x1000010 }) (cor (f
  ∘ fillp) b0))
def wc11x2 : State := c0 fun p => { p with buf := { p.buf with l0 := true, next := 3 } }
def wc11x3 : State := c0 fun p =>
  { p with buf := { p.buf with next := 3 }, delay := some { left := 2, target := none, ret := .none } }

theorem vectorAccesses_met1 : ∃ (s : State) (c : Fin 6) (fin : Bool) (l1 : Bool) (f : MemForm), let a :=
  { p := Proc.core c, fin := fin }; Issues s a (lSlot l1) false ∧ let t := (touched a (lSlot l1) [f.r] s); let p := (getProc t
  ↑c); let strip := (memStrip f); let ad := (unalias (some ↑c) (BitVec.toNat (memAddress p f 128).1)); vecCheck (↑c) ad
  (memStrip f) (if strip = true then 8 else 128) = none := by
  refine ⟨c0 id, 0, false, false, { r := 2, p := 1, mode := 0, low := 0 }, ?_⟩
  dsimp only; repeat' first | decide +kernel | constructor

theorem vectorAccesses_met2 : ∃ (s : State) (c : Fin 6) (fin : Bool) (l1 : Bool) (f : MemForm), let a :=
  { p := Proc.core c, fin := fin }; Issues s a (lSlot l1) false ∧ let t := (touched a (lSlot l1) [f.r] s); let p := (getProc t
  ↑c); let strip := (memStrip f); strip = false ∧ let ad := (unalias (some ↑c) (BitVec.toNat (memAddress p f 4).1)); vecCheck
  (↑c) ad (memStrip f) 4 = none := by
  refine ⟨c0 id, 0, false, false, { r := 2, p := 1, mode := 0, low := 0 }, ?_⟩
  dsimp only; repeat' first | decide +kernel | constructor

theorem vectorAccessFaults_met1 : ∃ (s : State) (c : Fin 6) (fin : Bool) (l1 : Bool) (f : MemForm), let a :=
  { p := Proc.core c, fin := fin }; Issues s a (lSlot l1) false ∧ let p := (getProc (touched a (lSlot l1) [f.r] s) ↑c); let ad
  := (fun (unit : ℕ) => unalias (some ↑c) (BitVec.toNat (memAddress p f unit).1)); memStrip f = false ∧ ad 128 % 128 ≠ 0 := by
  refine ⟨c0 id, 0, false, false, { r := 2, p := 0, mode := 0, low := 0 }, ?_⟩
  dsimp only; repeat' first | decide +kernel | constructor

theorem vectorAccessFaults_met2 : ∃ (s : State) (c : Fin 6) (fin : Bool) (l1 : Bool) (f : MemForm), let a :=
  { p := Proc.core c, fin := fin }; Issues s a (lSlot l1) false ∧ let p := (getProc (touched a (lSlot l1) [f.r] s) ↑c); let ad
  := (fun (unit : ℕ) => unalias (some ↑c) (BitVec.toNat (memAddress p f unit).1)); memStrip f = true ∧ ad 128 % 8 ≠ 0 := by
  refine ⟨c0 id, 0, false, false, { r := 2, p := 2, mode := 6, low := 0 }, ?_⟩
  dsimp only; repeat' first | decide +kernel | constructor

theorem vectorAccessFaults_met3 : ∃ (s : State) (c : Fin 6) (fin : Bool) (l1 : Bool) (f : MemForm), let a :=
  { p := Proc.core c, fin := fin }; Issues s a (lSlot l1) false ∧ let p := (getProc (touched a (lSlot l1) [f.r] s) ↑c); let ad
  := (fun (unit : ℕ) => unalias (some ↑c) (BitVec.toNat (memAddress p f unit).1)); memStrip f = false ∧ ad 128 % 128 = 0 ∧ place
  (ad 128) ≠ Place.cmem ↑c := by
  refine ⟨c0 id, 0, false, false, { r := 2, p := 6, mode := 0, low := 0 }, ?_⟩
  dsimp only; repeat' first | decide +kernel | constructor

theorem vectorAccessFaults_met4 : ∃ (s : State) (c : Fin 6) (fin : Bool) (l1 : Bool) (f : MemForm), let a :=
  { p := Proc.core c, fin := fin }; Issues s a (lSlot l1) false ∧ let p := (getProc (touched a (lSlot l1) [f.r] s) ↑c); let ad
  := (fun (unit : ℕ) => unalias (some ↑c) (BitVec.toNat (memAddress p f unit).1)); memStrip f = true ∧ ad 128 % 8 = 0 ∧ place
  (ad 128) = Place.cmem ↑c ∧ 32767 < (ad 128 - winBase ↑c) / 128 + 15 := by
  refine ⟨c0 id, 0, false, false, { r := 2, p := 5, mode := 6, low := 0 }, ?_⟩
  dsimp only; repeat' first | decide +kernel | constructor

theorem vectorAccessFaults_met5 : ∃ (s : State) (c : Fin 6) (fin : Bool) (l1 : Bool) (f : MemForm), let a :=
  { p := Proc.core c, fin := fin }; Issues s a (lSlot l1) false ∧ memStrip f = true := by
  refine ⟨c0 id, 0, false, false, { r := 2, p := 0, mode := 6, low := 0 }, ?_⟩
  dsimp only; repeat' first | decide +kernel | constructor

theorem vectorAccessFaults_met6 : ∃ (s : State) (c : Fin 6) (fin : Bool) (l1 : Bool) (f : MemForm), let a :=
  { p := Proc.core c, fin := fin }; Issues s a (lSlot l1) false ∧ let p := (getProc (touched a (lSlot l1) [f.r] s) ↑c); let ad
  := (fun (unit : ℕ) => unalias (some ↑c) (BitVec.toNat (memAddress p f unit).1)); memStrip f = false ∧ ad 4 % 4 ≠ 0 := by
  refine ⟨c0 id, 0, false, false, { r := 2, p := 2, mode := 0, low := 0 }, ?_⟩
  dsimp only; repeat' first | decide +kernel | constructor

theorem columnStrips_met : ∃ (s : State) (c : Fin 6), stepping s ↑c = true := by
  refine ⟨c0 id, 0, ?_⟩
  decide +kernel

theorem gatherIssue_met1 : ∃ (s : State) (c : Fin 6) (fin : Bool) (l1 : Bool) (f : GsForm), let a :=
  { p := Proc.core c, fin := fin }; Issues s a (lSlot l1) false ∧ let t := (touched a (lSlot l1) [f.d, f.idx] s); let p :=
  (getProc t ↑c); (l1 && p.buf.l0) = false ∧ p.delay = none := by
  refine ⟨c0 id, 0, false, false,
    { d := 5, p := if 2 = 3 then 4 else 1, idx := 2, esize := 0, scale := 0, masked := false, m := 0 }, ?_⟩
  dsimp only; repeat' first | decide +kernel | constructor

theorem gatherIssue_met2 : ∃ (s : State) (c : Fin 6) (fin : Bool) (l1 : Bool) (f : GsForm), let a :=
  { p := Proc.core c, fin := fin }; Issues s a (lSlot l1) false ∧ let t := (touched a (lSlot l1) [f.d, f.idx] s); let p :=
  (getProc t ↑c); (l1 && p.buf.l0) = true := by
  refine ⟨wc11x2, 0, false, true,
    { d := 5, p := if 2 = 3 then 4 else 1, idx := 2, esize := 0, scale := 0, masked := false, m := 0 }, ?_⟩
  dsimp only; repeat' first | decide +kernel | constructor

theorem gatherIssue_met3 : ∃ (s : State) (c : Fin 6) (fin : Bool) (l1 : Bool) (f : GsForm), let a :=
  { p := Proc.core c, fin := fin }; Issues s a (lSlot l1) false ∧ let t := (touched a (lSlot l1) [f.d, f.idx] s); let p :=
  (getProc t ↑c); (l1 && p.buf.l0) = false ∧ p.delay.isSome = true := by
  refine ⟨wc11x3, 0, false, true,
    { d := 5, p := if 2 = 3 then 4 else 1, idx := 2, esize := 0, scale := 0, masked := false, m := 0 }, ?_⟩
  dsimp only; repeat' first | decide +kernel | constructor

theorem gatherElements_met : ∃ (s : State) (c : Fin 6), stepping s ↑c = true := by
  refine ⟨c0 id, 0, ?_⟩
  decide +kernel

end W11

/-! ## movedLanes, comparedLanes, laneComparisons, integerLanes -/

namespace W12

def b0 : State := modPacer (fun p => { p with jobs := [job0] }) (enAll up)
def aa : Addr := BitVec.ofNat _ (winBase 0 + 0x1000)
def rnd (seed : Nat) : BitVec 1024 := BitVec.ofNat 1024 ((List.range 128).foldl (fun acc k => acc * 256 + ((seed + k) * (seed + 7 *
  k + 3) * 2654435761 / 65536) % 256) 0)
def vecOf (w : Nat) (l : List Nat) : BitVec 1024 := BitVec.ofNat 1024 ((List.range (1024 / w)).foldl (fun acc k => acc + (l.getD (k
  % l.length) 0) % 2 ^ w * 2 ^ (w * k)) 0)
def fillp (p : ProcState) : ProcState := { p with
    g := [(1, 5), (2, 0xFFFFFFF0), (3, 0x80000000), (4, 12)]
    p := [(1, aa), (2, aa + 2), (3, aa + 4)]
    v := [(0, rnd 3), (1, rnd 4), (2, vecOf 8 [0, 1, 0x7F, 0x80, 0xFF, 3, 7, 8, 9]), (3, vecOf 8 [0x80, 0x80, 1, 0xFF, 5]),
      (4, vecOf 16 [0, 1, 0x3C00, 0x8000, 0x7C00, 0xFC00, 0x7E00, 0x7BFF, 0x0001, 0x3800]), (5, vecOf 16 [0x3C00, 0x8000, 0, 5, 0x7C00, 0xBC00, 0x4248]),
      (6, vecOf 32 [0, 1, 31, 32, 0x3F800000, 0x80000000, 0x7F800000, 0x7FC00000, 0x40490FDB, 0xFF7FFFFF, 0x00000001]), (7, vecOf 32 [0x3F000000, 0, 0x80000000, 0x7F800000, 0xC2C80000, 17, 0xFFFFFFFF])]
    m := [(0, 0xA5F3A5F3A5F3A5F3A5F3A5F3A5F3A5F3), (1, 0xFFFFFFFFFFFFFFFFFFFFFFFFFFFFFFFF)]
    rrb := 1 }
def c0 (f : ProcState → ProcState) : State := modProc 6 (fun p => fillp { p with runState := .issue, pc := 0x1000010 }) (cor (f ∘
  fillp) b0)

theorem movedLanes_met : ∃ (s : State) (a : At) (v1 : Bool), Issues s a (vSlot v1) false := by
  refine ⟨c0 id, { p := Proc.core 0, fin := false }, false, ?_⟩
  repeat' first | decide +kernel | constructor

theorem comparedLanes_met1 : ∃ (s : State) (a : At) (v1 : Bool) (f : VForm), Issues s a (vSlot v1) false ∧ let t := (LaneType.of
  f.type); t.isInt = true := by
  refine ⟨c0 id, { p := Proc.core 0, fin := false }, false, { d := 3, a := 0, b := 1, masked := false, m := 0, type := 0 }, ?_⟩
  dsimp only; repeat' first | decide +kernel | constructor

theorem comparedLanes_met2 : ∃ (s : State) (a : At) (v1 : Bool) (f : VForm), Issues s a (vSlot v1) false ∧ let t := (LaneType.of
  f.type); t.isInt = false := by
  refine ⟨c0 id, { p := Proc.core 0, fin := false }, false, { d := 3, a := 0, b := 1, masked := false, m := 0, type := 5 }, ?_⟩
  dsimp only; repeat' first | decide +kernel | constructor

theorem laneComparisons_met1 : ∃ (s : State) (a : At) (v1 : Bool) (f : VForm), Issues s a (vSlot v1) false ∧ let t :=
  (LaneType.of f.type); t.isInt = true := by
  refine ⟨c0 id, { p := Proc.core 0, fin := false }, false, { d := 3, a := 0, b := 1, masked := false, m := 0, type := 0 }, ?_⟩
  dsimp only; repeat' first | decide +kernel | constructor

theorem laneComparisons_met2 : ∃ (s : State) (a : At) (v1 : Bool) (f : VForm), Issues s a (vSlot v1) false ∧ let t :=
  (LaneType.of f.type); t.isInt = false := by
  refine ⟨c0 id, { p := Proc.core 0, fin := false }, false, { d := 3, a := 0, b := 1, masked := false, m := 0, type := 5 }, ?_⟩
  dsimp only; repeat' first | decide +kernel | constructor

theorem integerLanes_met1 : ∃ (s : State) (a : At) (v1 : Bool) (f : VForm), Issues s a (vSlot v1) false ∧ let t := (LaneType.of
  f.type); t.isInt = true := by
  refine ⟨c0 id, { p := Proc.core 0, fin := false }, false, { d := 3, a := 0, b := 1, masked := false, m := 0, type := 0 }, ?_⟩
  dsimp only; repeat' first | decide +kernel | constructor

theorem integerLanes_met2 : ∃ (s : State) (a : At) (v1 : Bool) (f : VForm), Issues s a (vSlot v1) false ∧ let t := (LaneType.of
  f.type); t.isInt = false := by
  refine ⟨c0 id, { p := Proc.core 0, fin := false }, false, { d := 3, a := 0, b := 1, masked := false, m := 0, type := 5 }, ?_⟩
  dsimp only; repeat' first | decide +kernel | constructor

end W12

/-! ## accumulators, narrowedLanes, floatLanes -/

namespace W13

def b0 : State := modPacer (fun p => { p with jobs := [job0] }) (enAll up)
def aa : Addr := BitVec.ofNat _ (winBase 0 + 0x1000)
def rnd (seed : Nat) : BitVec 1024 := BitVec.ofNat 1024 ((List.range 128).foldl (fun acc k => acc * 256 + ((seed + k) * (seed + 7 *
  k + 3) * 2654435761 / 65536) % 256) 0)
def vecOf (w : Nat) (l : List Nat) : BitVec 1024 := BitVec.ofNat 1024 ((List.range (1024 / w)).foldl (fun acc k => acc + (l.getD (k
  % l.length) 0) % 2 ^ w * 2 ^ (w * k)) 0)
def fillp (p : ProcState) : ProcState := { p with
    g := [(1, 5), (2, 0xFFFFFFF0), (3, 0x80000000), (4, 12)]
    p := [(1, aa), (2, aa + 2), (3, aa + 4)]
    v := [(0, rnd 3), (1, rnd 4), (2, vecOf 8 [0, 1, 0x7F, 0x80, 0xFF, 3, 7, 8, 9]), (3, vecOf 8 [0x80, 0x80, 1, 0xFF, 5]),
      (4, vecOf 16 [0, 1, 0x3C00, 0x8000, 0x7C00, 0xFC00, 0x7E00, 0x7BFF, 0x0001, 0x3800]), (5, vecOf 16 [0x3C00, 0x8000, 0, 5, 0x7C00, 0xBC00, 0x4248]),
      (6, vecOf 32 [0, 1, 31, 32, 0x3F800000, 0x80000000, 0x7F800000, 0x7FC00000, 0x40490FDB, 0xFF7FFFFF, 0x00000001]), (7, vecOf 32 [0x3F000000, 0, 0x80000000, 0x7F800000, 0xC2C80000, 17, 0xFFFFFFFF])]
    m := [(0, 0xA5F3A5F3A5F3A5F3A5F3A5F3A5F3A5F3), (1, 0xFFFFFFFFFFFFFFFFFFFFFFFFFFFFFFFF)]
    rrb := 1 }
def c0 (f : ProcState → ProcState) : State := modProc 6 (fun p => fillp { p with runState := .issue, pc := 0x1000010 }) (cor (f ∘
  fillp) b0)

theorem accumulators_met1 : ∃ (s : State) (a : At) (v1 : Bool) (f : VForm), Issues s a (vSlot v1) false ∧ let t := (LaneType.of
  f.type); t ∈ [LaneType.i8, LaneType.u8, LaneType.i16] := by
  refine ⟨c0 id, { p := Proc.core 0, fin := false }, false, { d := 3, a := 0, b := 1, masked := false, m := 0, type := 0 }, ?_⟩
  dsimp only; repeat' first | decide +kernel | constructor

theorem accumulators_met2 : ∃ (s : State) (a : At) (v1 : Bool) (f : VForm), Issues s a (vSlot v1) false ∧ let t := (LaneType.of
  f.type); t ∉ [LaneType.i8, LaneType.u8, LaneType.i16] := by
  refine ⟨c0 id, { p := Proc.core 0, fin := false }, false, { d := 3, a := 0, b := 1, masked := false, m := 0, type := 3 }, ?_⟩
  dsimp only; repeat' first | decide +kernel | constructor

theorem accumulators_met3 : ∃ (s : State) (a : At) (v1 : Bool), Issues s a (vSlot v1) false := by
  refine ⟨c0 id, { p := Proc.core 0, fin := false }, false, ?_⟩
  repeat' first | decide +kernel | constructor

theorem narrowedLanes_met1 : ∃ (s : State) (a : At) (v1 : Bool) (f : VForm), Issues s a (vSlot v1) false ∧ let t := (LaneType.of
  f.type); t.isInt = true := by
  refine ⟨c0 id, { p := Proc.core 0, fin := false }, false, { d := 3, a := 0, b := 1, masked := false, m := 0, type := 0 }, ?_⟩
  dsimp only; repeat' first | decide +kernel | constructor

theorem narrowedLanes_met2 : ∃ (s : State) (a : At) (v1 : Bool) (f : VForm), Issues s a (vSlot v1) false ∧ let t := (LaneType.of
  f.type); t ∈ [LaneType.i16, LaneType.u16, LaneType.i32] := by
  refine ⟨c0 id, { p := Proc.core 0, fin := false }, false, { d := 3, a := 0, b := 1, masked := false, m := 0, type := 2 }, ?_⟩
  dsimp only; repeat' first | decide +kernel | constructor

theorem narrowedLanes_met3 : ∃ (s : State) (a : At) (v1 : Bool) (f : VForm), Issues s a (vSlot v1) false ∧ let t := (LaneType.of
  f.type); t = LaneType.i32 := by
  refine ⟨c0 id, { p := Proc.core 0, fin := false }, false, { d := 3, a := 0, b := 1, masked := false, m := 0, type := 4 }, ?_⟩
  dsimp only; repeat' first | decide +kernel | constructor

theorem narrowedLanes_met4 : ∃ (s : State) (a : At) (v1 : Bool) (f : VForm), Issues s a (vSlot v1) false ∧ let t := (LaneType.of
  f.type); t ≠ LaneType.i32 := by
  refine ⟨c0 id, { p := Proc.core 0, fin := false }, false, { d := 3, a := 0, b := 1, masked := false, m := 0, type := 0 }, ?_⟩
  dsimp only; repeat' first | decide +kernel | constructor

theorem narrowedLanes_met5 : ∃ (s : State) (a : At) (v1 : Bool) (f : VForm), Issues s a (vSlot v1) false ∧ let t := (LaneType.of
  f.type); t.isInt = false := by
  refine ⟨c0 id, { p := Proc.core 0, fin := false }, false, { d := 3, a := 0, b := 1, masked := false, m := 0, type := 5 }, ?_⟩
  dsimp only; repeat' first | decide +kernel | constructor

theorem narrowedLanes_met6 : ∃ (s : State) (a : At) (v1 : Bool) (f : VForm), Issues s a (vSlot v1) false ∧ let t := (LaneType.of
  f.type); t ∉ [LaneType.i16, LaneType.u16, LaneType.i32] := by
  refine ⟨c0 id, { p := Proc.core 0, fin := false }, false, { d := 3, a := 0, b := 1, masked := false, m := 0, type := 0 }, ?_⟩
  dsimp only; repeat' first | decide +kernel | constructor

theorem floatLanes_met1 : ∃ (s : State) (a : At) (v1 : Bool) (f : VForm), Issues s a (vSlot v1) false ∧ let t := (LaneType.of
  f.type); t.isInt = false := by
  refine ⟨c0 id, { p := Proc.core 0, fin := false }, false, { d := 3, a := 0, b := 0, masked := false, m := 0, type := 5 }, ?_⟩
  dsimp only; repeat' first | decide +kernel | constructor

theorem floatLanes_met2 : ∃ (s : State) (a : At) (v1 : Bool) (f : VForm), Issues s a (vSlot v1) false ∧ let t := (LaneType.of
  f.type); t.isInt = true := by
  refine ⟨c0 id, { p := Proc.core 0, fin := false }, false, { d := 3, a := 0, b := 0, masked := false, m := 0, type := 0 }, ?_⟩
  dsimp only; repeat' first | decide +kernel | constructor

theorem floatLanes_met3 : ∃ (s : State) (a : At) (v1 : Bool), Issues s a (vSlot v1) false := by
  refine ⟨c0 id, { p := Proc.core 0, fin := false }, false, ?_⟩
  repeat' first | decide +kernel | constructor

end W13

/-! ## rangeVectors -/

namespace W14_rq

def b0 : State := modPacer (fun p => { p with jobs := [job0] }) (enAll up)
def aa : Addr := BitVec.ofNat _ (winBase 0 + 0x1000)
def rnd (seed : Nat) : BitVec 1024 := BitVec.ofNat 1024 ((List.range 128).foldl (fun acc k => acc * 256 + ((seed + k) * (seed + 7 *
  k + 3) * 2654435761 / 65536) % 256) 0)
def vecOf (w : Nat) (l : List Nat) : BitVec 1024 := BitVec.ofNat 1024 ((List.range (1024 / w)).foldl (fun acc k => acc + (l.getD (k
  % l.length) 0) % 2 ^ w * 2 ^ (w * k)) 0)
def fillp (p : ProcState) : ProcState := { p with
    g := [(1, 5), (2, 0xFFFFFFF0), (3, 0x80000000), (4, 12)]
    p := [(1, aa), (2, aa + 2), (3, aa + 4)]
    v := [(0, rnd 3), (1, rnd 4), (2, vecOf 8 [0, 1, 0x7F, 0x80, 0xFF, 3, 7, 8, 9]), (3, vecOf 8 [0x80, 0x80, 1, 0xFF, 5]),
      (4, vecOf 16 [0, 1, 0x3C00, 0x8000, 0x7C00, 0xFC00, 0x7E00, 0x7BFF, 0x0001, 0x3800]), (5, vecOf 16 [0x3C00, 0x8000, 0, 5, 0x7C00, 0xBC00, 0x4248]),
      (6, vecOf 32 [0, 1, 31, 32, 0x3F800000, 0x80000000, 0x7F800000, 0x7FC00000, 0x40490FDB, 0xFF7FFFFF, 0x00000001]), (7, vecOf 32 [0x3F000000, 0, 0x80000000, 0x7F800000, 0xC2C80000, 17, 0xFFFFFFFF])]
    m := [(0, 0xA5F3A5F3A5F3A5F3A5F3A5F3A5F3A5F3), (1, 0xFFFFFFFFFFFFFFFFFFFFFFFFFFFFFFFF)]
    rrb := 1 }
def c0 (f : ProcState → ProcState) : State := modProc 6 (fun p => fillp { p with runState := .issue, pc := 0x1000010 }) (cor (f ∘
  fillp) b0)
def recVec (f : Nat → Nat) : BitVec 1024 := BitVec.ofNat 1024 ((List.range 32).foldl (fun x k => x + f k * 2 ^ (32 * k)) 0)
def recs1 : BitVec 1024 := recVec fun k => (match k % 8 with
  | 0 => 0x3F800000 | 1 => 0x3C010500 | 2 => 0x3D000008 | 3 => 0x3F800020 | 4 => 0x3E00F003 | 5 => 0x3F80000B | 6 => 0x40000007 | _ => 0x3F810000)
def cbv (k : Nat) : BitVec 1024 := BitVec.ofNat 1024 ((List.range 64).foldl (fun x j => x + ((0xC080 - (64 * k + j) * 0x9) %
  0x10000) * 2 ^ (16 * j)) 0)
def qp (recs : BitVec 1024) (c : Word) (p : ProcState) : ProcState := { p with
  g := [(1, c), (3, c), (5, c), (7, c), (2, c)], v := p.v ++ [(8, cbv 0), (9, cbv 1), (10, cbv 2), (11, cbv 3), (12, recs), (13, rnd 77)], rrb := 0 }

theorem rangeVectors_met1 : ∃ (s : State) (a : At) (v1 : Bool) (f : VForm) (i : _), Issues s a (vSlot v1) false ∧ let t :=
  (LaneType.of f.type); let u := (touched a (vSlot v1) [f.d, f.a] s); let p := (getProc u a.p.num); let c := (p.rg f.b); let on
  := (List.filter (laneOn f (p.rm f.m)) (List.range t.lanes)); i ∈ on ∧ 15 < laneSlot c i := by
  refine ⟨c0 (qp recs1 4194335), { p := Proc.core 0, fin := false }, true,
    { d := 3, a := 0, b := 1, masked := (0 + ↑0) % 3 == 0, m := 0, type := 0 }, ?_⟩
  dsimp only; repeat' first | decide +kernel | constructor

theorem rangeVectors_met2 : ∃ (s : State) (a : At) (v1 : Bool) (f : VForm), Issues s a (vSlot v1) false ∧ let t := (LaneType.of
  f.type); let u := (touched a (vSlot v1) [f.d, f.a] s); let p := (getProc u a.p.num); let c := (p.rg f.b); let on :=
  (List.filter (laneOn f (p.rm f.m)) (List.range t.lanes)); ∀ i ∈ on, laneSlot c i ≤ 15 := by
  refine ⟨c0 (qp recs1 272), { p := Proc.core 0, fin := false }, true,
    { d := 3, a := 0, b := 1, masked := (0 + ↑0) % 3 == 0, m := 0, type := 0 }, ?_⟩
  dsimp only; repeat' first | decide +kernel | constructor

theorem rangeVectors_met3 : ∃ (s : State) (a : At) (v1 : Bool) (start : ℕ × ℕ) (xs : List Machine.Num), Issues s a (vSlot v1)
  false ∧ let num := (fun (n : ℕ) => fp32.decode false n); start.1 < 2 ^ 32 ∧ start.2 < 2 ^ 32 ∧ (num start.1).isNan = false ∧
  (num start.2).isNan = false ∧ let los := (start.1 :: List.map (fun (x : ℕ × ℕ) => x.1) (List.filterMap rangeParts xs));
  (!los.isEmpty) = true := by
  refine ⟨c0 (qp recs1 4194335), { p := Proc.core 0, fin := false }, true, (2139095040, 4286578688), List.map (fp32.decode
    false) [0, 2147483648, 3231711232], ?_⟩
  dsimp only; repeat' first | decide +kernel | constructor

theorem rangeVectors_met4 : ∃ (s : State) (a : At) (v1 : Bool) (start : ℕ × ℕ), Issues s a (vSlot v1) false ∧ let num := (fun (n
  : ℕ) => fp32.decode false n); start.1 < 2 ^ 32 ∧ start.2 < 2 ^ 32 ∧ (num start.1).isNan = false ∧ (num start.2).isNan = false
  := by
  refine ⟨c0 (qp recs1 4194335), { p := Proc.core 0, fin := false }, true, (2139095040, 4286578688), ?_⟩
  dsimp only; repeat' first | decide +kernel | constructor

theorem rangeVectors_met5 : ∃ (s : State) (a : At) (v1 : Bool) (start : ℕ × ℕ) (xs : List Machine.Num), Issues s a (vSlot v1)
  false ∧ let num := (fun (n : ℕ) => fp32.decode false n); start.1 < 2 ^ 32 ∧ start.2 < 2 ^ 32 ∧ (num start.1).isNan = false ∧
  (num start.2).isNan = false ∧ let his := (start.2 :: List.map (fun (x : ℕ × ℕ) => x.2) (List.filterMap rangeParts xs));
  (!his.isEmpty) = true := by
  refine ⟨c0 (qp recs1 4194335), { p := Proc.core 0, fin := false }, true, (2139095040, 4286578688), List.map (fp32.decode
    false) [0, 2147483648, 3231711232], ?_⟩
  dsimp only; repeat' first | decide +kernel | constructor

end W14_rq

/-! ## quantisedLanes -/

namespace W14_qu

def b0 : State := modPacer (fun p => { p with jobs := [job0] }) (enAll up)
def aa : Addr := BitVec.ofNat _ (winBase 0 + 0x1000)
def rnd (seed : Nat) : BitVec 1024 := BitVec.ofNat 1024 ((List.range 128).foldl (fun acc k => acc * 256 + ((seed + k) * (seed + 7 *
  k + 3) * 2654435761 / 65536) % 256) 0)
def vecOf (w : Nat) (l : List Nat) : BitVec 1024 := BitVec.ofNat 1024 ((List.range (1024 / w)).foldl (fun acc k => acc + (l.getD (k
  % l.length) 0) % 2 ^ w * 2 ^ (w * k)) 0)
def fillp (p : ProcState) : ProcState := { p with
    g := [(1, 5), (2, 0xFFFFFFF0), (3, 0x80000000), (4, 12)]
    p := [(1, aa), (2, aa + 2), (3, aa + 4)]
    v := [(0, rnd 3), (1, rnd 4), (2, vecOf 8 [0, 1, 0x7F, 0x80, 0xFF, 3, 7, 8, 9]), (3, vecOf 8 [0x80, 0x80, 1, 0xFF, 5]),
      (4, vecOf 16 [0, 1, 0x3C00, 0x8000, 0x7C00, 0xFC00, 0x7E00, 0x7BFF, 0x0001, 0x3800]), (5, vecOf 16 [0x3C00, 0x8000, 0, 5, 0x7C00, 0xBC00, 0x4248]),
      (6, vecOf 32 [0, 1, 31, 32, 0x3F800000, 0x80000000, 0x7F800000, 0x7FC00000, 0x40490FDB, 0xFF7FFFFF, 0x00000001]), (7, vecOf 32 [0x3F000000, 0, 0x80000000, 0x7F800000, 0xC2C80000, 17, 0xFFFFFFFF])]
    m := [(0, 0xA5F3A5F3A5F3A5F3A5F3A5F3A5F3A5F3), (1, 0xFFFFFFFFFFFFFFFFFFFFFFFFFFFFFFFF)]
    rrb := 1 }
def c0 (f : ProcState → ProcState) : State := modProc 6 (fun p => fillp { p with runState := .issue, pc := 0x1000010 }) (cor (f ∘
  fillp) b0)
def recVec (f : Nat → Nat) : BitVec 1024 := BitVec.ofNat 1024 ((List.range 32).foldl (fun x k => x + f k * 2 ^ (32 * k)) 0)
def recs1 : BitVec 1024 := recVec fun k => (match k % 8 with
  | 0 => 0x3F800000 | 1 => 0x3C010500 | 2 => 0x3D000008 | 3 => 0x3F800020 | 4 => 0x3E00F003 | 5 => 0x3F80000B | 6 => 0x40000007 | _ => 0x3F810000)
def cbv (k : Nat) : BitVec 1024 := BitVec.ofNat 1024 ((List.range 64).foldl (fun x j => x + ((0xC080 - (64 * k + j) * 0x9) %
  0x10000) * 2 ^ (16 * j)) 0)
def qp (recs : BitVec 1024) (c : Word) (p : ProcState) : ProcState := { p with
  g := [(1, c), (3, c), (5, c), (7, c), (2, c)], v := p.v ++ [(8, cbv 0), (9, cbv 1), (10, cbv 2), (11, cbv 3), (12, recs), (13, rnd 77)], rrb := 0 }

theorem quantisedLanes_met1 : ∃ (s : State) (a : At) (v1 : Bool) (f : VForm), Issues s a (vSlot v1) false ∧ let t :=
  (LaneType.of f.type); t ∈ [LaneType.i8, LaneType.u8] := by
  refine ⟨c0 (qp recs1 4194335), { p := Proc.core 0, fin := false }, true,
    { d := 3, a := 0, b := 1, masked := (0 + ↑0) % 3 == 0, m := 0, type := 0 }, ?_⟩
  dsimp only; repeat' first | decide +kernel | constructor

theorem quantisedLanes_met2 : ∃ (s : State) (a : At) (v1 : Bool) (f : VForm), Issues s a (vSlot v1) false ∧ let t :=
  (LaneType.of f.type); let u := (touched a (vSlot v1) [f.d, f.a, 8, 9, 10, 11, 12, 13] s); let p := (getProc u a.p.num); let c
  := (p.rg f.b); let on := (List.filter (laneOn f (p.rm f.m)) (List.range t.lanes)); let fits := (shapeOk c (p.chainV 2 12) on
  t.lanes && !(BitVec.getLsbD c 10 && slotsClash (List.map (laneSlot c) on))); t ∉ [LaneType.i8, LaneType.u8] ∧ fits = false :=
  by
  refine ⟨c0 (qp recs1 4194335), { p := Proc.core 0, fin := false }, true,
    { d := 3, a := 0, b := 1, masked := (2 + ↑0) % 3 == 0, m := 0, type := 2 }, ?_⟩
  dsimp only; repeat' first | decide +kernel | constructor

theorem quantisedLanes_met3 : ∃ (s : State) (a : At) (v1 : Bool) (f : VForm), Issues s a (vSlot v1) false ∧ let t :=
  (LaneType.of f.type); let u := (touched a (vSlot v1) [f.d, f.a, 8, 9, 10, 11, 12, 13] s); let p := (getProc u a.p.num); let c
  := (p.rg f.b); let on := (List.filter (laneOn f (p.rm f.m)) (List.range t.lanes)); let fits := (shapeOk c (p.chainV 2 12) on
  t.lanes && !(BitVec.getLsbD c 10 && slotsClash (List.map (laneSlot c) on))); t ∉ [LaneType.i8, LaneType.u8] ∧ fits = true :=
  by
  refine ⟨c0 (qp recs1 272), { p := Proc.core 0, fin := false }, true,
    { d := 3, a := 0, b := 1, masked := (2 + ↑0) % 3 == 0, m := 0, type := 2 }, ?_⟩
  dsimp only; repeat' first | decide +kernel | constructor

end W14_qu

/-! ## uniformCodes -/

namespace W14_un

def rnd (seed : Nat) : BitVec 1024 := BitVec.ofNat 1024 ((List.range 128).foldl (fun acc k => acc * 256 + ((seed + k) * (seed + 7 *
  k + 3) * 2654435761 / 65536) % 256) 0)
def recVec (f : Nat → Nat) : BitVec 1024 := BitVec.ofNat 1024 ((List.range 32).foldl (fun x k => x + f k * 2 ^ (32 * k)) 0)
def recs1 : BitVec 1024 := recVec fun k => (match k % 8 with
  | 0 => 0x3F800000 | 1 => 0x3C010500 | 2 => 0x3D000008 | 3 => 0x3F800020 | 4 => 0x3E00F003 | 5 => 0x3F80000B | 6 => 0x40000007 | _ => 0x3F810000)

theorem uniformCodes_met1 : ∃ (c : Word) (q : QuantRun) (fmt : ℕ) (i : ℕ) (x : Machine.Num) (n : Bool) (v : Q), fmt < 2 ∧ let k
  := (laneSlot c i); k ≤ 15 ∧ let r := (vWord q.recs k); let m := (if fmt = 1 then 7 else 127); x = Num.fin n v ∧ BitVec.getLsbD
  r 5 = false ∧ let code := ((v.div (recScale r)).round + recZp r); -m ≤ code ∧ code ≤ m := by
  refine ⟨0, { recs := recs1, recMask := 0, crema := rnd 77, cremaMask := 0, out := rnd 1 &&& 4095, outMask := 4095,
               sat := 3 }, 0, 0, Num.fin true { num := -300, den := 7 }, true, { num := -300, den := 7 }, ?_⟩
  decide +kernel

theorem uniformCodes_met2 : ∃ (c : Word) (q : QuantRun) (fmt : ℕ) (i : ℕ) (x : Machine.Num) (n : Bool) (v : Q), fmt < 2 ∧ let k
  := (laneSlot c i); k ≤ 15 ∧ let r := (vWord q.recs k); let m := (if fmt = 1 then 7 else 127); x = Num.fin n v ∧ BitVec.getLsbD
  r 5 = false ∧ let code := ((v.div (recScale r)).round + recZp r); (code < -m ∨ m < code) ∧ BitVec.getLsbD c 10 = false := by
  refine ⟨0, { recs := recs1, recMask := 0, crema := rnd 77, cremaMask := 0, out := rnd 1 &&& 4095, outMask := 4095,
               sat := 3 }, 0, 0, Num.fin true { num := -1000, den := 1 }, true, { num := -1000, den := 1 }, ?_⟩
  decide +kernel

theorem uniformCodes_met3 : ∃ (c : Word) (q : QuantRun) (fmt : ℕ) (i : ℕ) (x : Machine.Num) (n : Bool) (v : Q), fmt < 2 ∧ let k
  := (laneSlot c i); k ≤ 15 ∧ let r := (vWord q.recs k); let m := (if fmt = 1 then 7 else 127); x = Num.fin n v ∧ BitVec.getLsbD
  r 5 = false ∧ let code := ((v.div (recScale r)).round + recZp r); (code < -m ∨ m < code) ∧ BitVec.getLsbD c 10 = true ∧ (8 ≤
  BitVec.toNat r % 16 ∨ 65536 ≤ laneOff c i) := by
  refine ⟨4294902784, { recs := recs1, recMask := 0, crema := rnd 77, cremaMask := 0, out := rnd 1 &&& 4095,
                        outMask := 4095, sat := 3 }, 0, 1, Num.fin true { num := -1000, den := 1 }, true,
    { num := -1000, den := 1 }, ?_⟩
  decide +kernel

theorem uniformCodes_met4 : ∃ (c : Word) (q : QuantRun) (fmt : ℕ) (i : ℕ) (x : Machine.Num) (n : Bool) (v : Q), fmt < 2 ∧ let k
  := (laneSlot c i); k ≤ 15 ∧ let r := (vWord q.recs k); let m := (if fmt = 1 then 7 else 127); x = Num.fin n v ∧ BitVec.getLsbD
  r 5 = false ∧ let code := ((v.div (recScale r)).round + recZp r); (code < -m ∨ m < code) ∧ BitVec.getLsbD c 10 = true ∧
  BitVec.toNat r % 16 < 8 ∧ laneOff c i < 65536 := by
  refine ⟨1040, { recs := recs1, recMask := 0, crema := rnd 77, cremaMask := 0, out := rnd 1 &&& 4095,
                  outMask := 4095, sat := 3 }, 0, 0, Num.fin true { num := -1000, den := 1 }, true, { num := -1000, den := 1 },
    ?_⟩
  decide +kernel

theorem uniformCodes_met5 : ∃ (c : Word) (q : QuantRun) (fmt : ℕ) (i : ℕ) (x : Machine.Num) (n : Bool) (v : Q) (j : ℕ), fmt < 2
  ∧ let k := (laneSlot c i); k ≤ 15 ∧ let r := (vWord q.recs k); let m := (if fmt = 1 then 7 else 127); x = Num.fin n v ∧
  BitVec.getLsbD r 5 = false ∧ let code := ((v.div (recScale r)).round + recZp r); (code < -m ∨ m < code) ∧ BitVec.getLsbD c 10
  = true ∧ BitVec.toNat r % 16 < 8 ∧ laneOff c i < 65536 ∧ j < 32 := by
  refine ⟨1040, { recs := recs1, recMask := 0, crema := rnd 77, cremaMask := 0, out := rnd 1 &&& 4095,
                  outMask := 4095, sat := 3 }, 0, 0, Num.fin true { num := -1000, den := 1 }, true, { num := -1000, den := 1 },
    0, ?_⟩
  decide +kernel

theorem uniformCodes_met6 : ∃ (c : Word) (q : QuantRun) (fmt : ℕ) (i : ℕ) (x : Machine.Num) (n : Bool) (v : Q), fmt < 2 ∧ let k
  := (laneSlot c i); k ≤ 15 ∧ let r := (vWord q.recs k); x = Num.fin n v ∧ BitVec.getLsbD r 5 = true := by
  refine ⟨656403, { recs := recs1, recMask := 0, crema := rnd 77, cremaMask := 0, out := rnd 1 &&& 4095,
                    outMask := 4095, sat := 3 }, 0, 0, Num.fin true { num := -300, den := 7 }, true, { num := -300, den := 7 },
    ?_⟩
  decide +kernel

theorem uniformCodes_met7 : ∃ (c : Word) (fmt : ℕ) (i : ℕ) (x : Machine.Num), fmt < 2 ∧ let k := (laneSlot c i); k ≤ 15 ∧ x =
  Num.nan := by
  refine ⟨0, 0, 0, Num.nan, ?_⟩
  decide +kernel

end W14_un

/-! ## dequantisedLanes -/

namespace W14_dq

def b0 : State := modPacer (fun p => { p with jobs := [job0] }) (enAll up)
def aa : Addr := BitVec.ofNat _ (winBase 0 + 0x1000)
def rnd (seed : Nat) : BitVec 1024 := BitVec.ofNat 1024 ((List.range 128).foldl (fun acc k => acc * 256 + ((seed + k) * (seed + 7 *
  k + 3) * 2654435761 / 65536) % 256) 0)
def vecOf (w : Nat) (l : List Nat) : BitVec 1024 := BitVec.ofNat 1024 ((List.range (1024 / w)).foldl (fun acc k => acc + (l.getD (k
  % l.length) 0) % 2 ^ w * 2 ^ (w * k)) 0)
def fillp (p : ProcState) : ProcState := { p with
    g := [(1, 5), (2, 0xFFFFFFF0), (3, 0x80000000), (4, 12)]
    p := [(1, aa), (2, aa + 2), (3, aa + 4)]
    v := [(0, rnd 3), (1, rnd 4), (2, vecOf 8 [0, 1, 0x7F, 0x80, 0xFF, 3, 7, 8, 9]), (3, vecOf 8 [0x80, 0x80, 1, 0xFF, 5]),
      (4, vecOf 16 [0, 1, 0x3C00, 0x8000, 0x7C00, 0xFC00, 0x7E00, 0x7BFF, 0x0001, 0x3800]), (5, vecOf 16 [0x3C00, 0x8000, 0, 5, 0x7C00, 0xBC00, 0x4248]),
      (6, vecOf 32 [0, 1, 31, 32, 0x3F800000, 0x80000000, 0x7F800000, 0x7FC00000, 0x40490FDB, 0xFF7FFFFF, 0x00000001]), (7, vecOf 32 [0x3F000000, 0, 0x80000000, 0x7F800000, 0xC2C80000, 17, 0xFFFFFFFF])]
    m := [(0, 0xA5F3A5F3A5F3A5F3A5F3A5F3A5F3A5F3), (1, 0xFFFFFFFFFFFFFFFFFFFFFFFFFFFFFFFF)]
    rrb := 1 }
def c0 (f : ProcState → ProcState) : State := modProc 6 (fun p => fillp { p with runState := .issue, pc := 0x1000010 }) (cor (f ∘
  fillp) b0)
def recVec (f : Nat → Nat) : BitVec 1024 := BitVec.ofNat 1024 ((List.range 32).foldl (fun x k => x + f k * 2 ^ (32 * k)) 0)
def recs1 : BitVec 1024 := recVec fun k => (match k % 8 with
  | 0 => 0x3F800000 | 1 => 0x3C010500 | 2 => 0x3D000008 | 3 => 0x3F800020 | 4 => 0x3E00F003 | 5 => 0x3F80000B | 6 => 0x40000007 | _ => 0x3F810000)
def cbv (k : Nat) : BitVec 1024 := BitVec.ofNat 1024 ((List.range 64).foldl (fun x j => x + ((0xC080 - (64 * k + j) * 0x9) %
  0x10000) * 2 ^ (16 * j)) 0)
def qp (recs : BitVec 1024) (c : Word) (p : ProcState) : ProcState := { p with
  g := [(1, c), (3, c), (5, c), (7, c), (2, c)], v := p.v ++ [(8, cbv 0), (9, cbv 1), (10, cbv 2), (11, cbv 3), (12, recs), (13, rnd 77)], rrb := 0 }

theorem dequantisedLanes_met1 : ∃ (s : State) (a : At) (v1 : Bool) (f : VForm), Issues s a (vSlot v1) false ∧ let t :=
  (LaneType.of f.type); t ∈ [LaneType.i8, LaneType.u8, LaneType.u16, LaneType.i32] := by
  refine ⟨c0 (qp recs1 4194335), { p := Proc.core 0, fin := false }, true,
    { d := 3, a := 0, b := 1, masked := (0 + ↑0) % 3 == 0, m := 0, type := 0 }, ?_⟩
  dsimp only; repeat' first | decide +kernel | constructor

theorem dequantisedLanes_met2 : ∃ (s : State) (a : At) (v1 : Bool) (f : VForm), Issues s a (vSlot v1) false ∧ let t :=
  (LaneType.of f.type); let u := (touched a (vSlot v1) [f.d, f.a, 8, 9, 10, 11, 12, 13] s); let p := (getProc u a.p.num); let c
  := (p.rg f.b); let on := (List.filter (laneOn f (p.rm f.m)) (List.range t.lanes)); t ∉ [LaneType.i8, LaneType.u8,
  LaneType.u16, LaneType.i32] ∧ shapeOk c (p.rv 12) on t.lanes = false := by
  refine ⟨c0 (qp recs1 4194335), { p := Proc.core 0, fin := false }, true,
    { d := 3, a := 0, b := 1, masked := (2 + ↑0) % 3 == 0, m := 0, type := 2 }, ?_⟩
  dsimp only; repeat' first | decide +kernel | constructor

theorem dequantisedLanes_met3 : ∃ (s : State) (a : At) (v1 : Bool) (f : VForm), Issues s a (vSlot v1) false ∧ let t :=
  (LaneType.of f.type); let u := (touched a (vSlot v1) [f.d, f.a, 8, 9, 10, 11, 12, 13] s); let p := (getProc u a.p.num); let c
  := (p.rg f.b); let on := (List.filter (laneOn f (p.rm f.m)) (List.range t.lanes)); t ∉ [LaneType.i8, LaneType.u8,
  LaneType.u16, LaneType.i32] ∧ shapeOk c (p.rv 12) on t.lanes = true := by
  refine ⟨c0 (qp recs1 272), { p := Proc.core 0, fin := false }, true,
    { d := 3, a := 0, b := 1, masked := (2 + ↑0) % 3 == 0, m := 0, type := 2 }, ?_⟩
  dsimp only; repeat' first | decide +kernel | constructor

theorem dequantisedLanes_met4 : ∃ (s : State) (a : At) (v1 : Bool), Issues s a (vSlot v1) false := by
  refine ⟨c0 (qp recs1 4194335), { p := Proc.core 0, fin := false }, true, ?_⟩
  repeat' first | decide +kernel | constructor

end W14_dq

/-! ## trainingOperations -/

namespace W14_tr

def b0 : State := modPacer (fun p => { p with jobs := [job0] }) (enAll up)
def aa : Addr := BitVec.ofNat _ (winBase 0 + 0x1000)
def rnd (seed : Nat) : BitVec 1024 := BitVec.ofNat 1024 ((List.range 128).foldl (fun acc k => acc * 256 + ((seed + k) * (seed + 7 *
  k + 3) * 2654435761 / 65536) % 256) 0)
def vecOf (w : Nat) (l : List Nat) : BitVec 1024 := BitVec.ofNat 1024 ((List.range (1024 / w)).foldl (fun acc k => acc + (l.getD (k
  % l.length) 0) % 2 ^ w * 2 ^ (w * k)) 0)
def fillp (p : ProcState) : ProcState := { p with
    g := [(1, 5), (2, 0xFFFFFFF0), (3, 0x80000000), (4, 12)]
    p := [(1, aa), (2, aa + 2), (3, aa + 4)]
    v := [(0, rnd 3), (1, rnd 4), (2, vecOf 8 [0, 1, 0x7F, 0x80, 0xFF, 3, 7, 8, 9]), (3, vecOf 8 [0x80, 0x80, 1, 0xFF, 5]),
      (4, vecOf 16 [0, 1, 0x3C00, 0x8000, 0x7C00, 0xFC00, 0x7E00, 0x7BFF, 0x0001, 0x3800]), (5, vecOf 16 [0x3C00, 0x8000, 0, 5, 0x7C00, 0xBC00, 0x4248]),
      (6, vecOf 32 [0, 1, 31, 32, 0x3F800000, 0x80000000, 0x7F800000, 0x7FC00000, 0x40490FDB, 0xFF7FFFFF, 0x00000001]), (7, vecOf 32 [0x3F000000, 0, 0x80000000, 0x7F800000, 0xC2C80000, 17, 0xFFFFFFFF])]
    m := [(0, 0xA5F3A5F3A5F3A5F3A5F3A5F3A5F3A5F3), (1, 0xFFFFFFFFFFFFFFFFFFFFFFFFFFFFFFFF)]
    rrb := 1 }
def c0 (f : ProcState → ProcState) : State := modProc 6 (fun p => fillp { p with runState := .issue, pc := 0x1000010 }) (cor (f ∘
  fillp) b0)
def recVec (f : Nat → Nat) : BitVec 1024 := BitVec.ofNat 1024 ((List.range 32).foldl (fun x k => x + f k * 2 ^ (32 * k)) 0)
def recs1 : BitVec 1024 := recVec fun k => (match k % 8 with
  | 0 => 0x3F800000 | 1 => 0x3C010500 | 2 => 0x3D000008 | 3 => 0x3F800020 | 4 => 0x3E00F003 | 5 => 0x3F80000B | 6 => 0x40000007 | _ => 0x3F810000)
def recs2 (fmt : Nat) : BitVec 1024 := recVec fun k => 0x3F80 * 65536 + (k % 4) * 0x10000 + fmt * 64 + (k % 9)
def cbv (k : Nat) : BitVec 1024 := BitVec.ofNat 1024 ((List.range 64).foldl (fun x j => x + ((0xC080 - (64 * k + j) * 0x9) %
  0x10000) * 2 ^ (16 * j)) 0)
def qp (recs : BitVec 1024) (c : Word) (p : ProcState) : ProcState := { p with
  g := [(1, c), (3, c), (5, c), (7, c), (2, c)], v := p.v ++ [(8, cbv 0), (9, cbv 1), (10, cbv 2), (11, cbv 3), (12, recs), (13, rnd 77)], rrb := 0 }
def wc14x1 : State := { c0 (qp recs1 0x00000110) with fuses := { up.fuses with variant := .rlv4440 } }

theorem trainingOperations_met1 : ∃ (s : State) (a : At) (v1 : Bool), Issues s a (vSlot v1) false ∧ trainPresent s = false := by
  refine ⟨wc14x1, { p := Proc.core 0, fin := false }, true, ?_⟩
  repeat' first | decide +kernel | constructor

theorem trainingOperations_met2 : ∃ (s : State) (a : At) (v1 : Bool) (f : VForm), Issues s a (vSlot v1) false ∧ let t :=
  (LaneType.of f.type); trainPresent s = true ∧ let u := (touched a (vSlot v1) [f.d, f.a, 12] s); let p := (getProc u a.p.num);
  t ∈ [LaneType.i32, LaneType.bf16, LaneType.f32] ∧ windowFits 8 (cwPos (p.rg f.b)) t.lanes = true := by
  refine ⟨c0 (qp recs1 272), { p := Proc.core 0, fin := false }, true,
    { d := 3, a := 0, b := 1, masked := (4 + ↑0) % 3 == 0, m := 0, type := 4 }, ?_⟩
  dsimp only; repeat' first | decide +kernel | constructor

theorem trainingOperations_met3 : ∃ (s : State) (a : At) (v1 : Bool) (f : VForm), Issues s a (vSlot v1) false ∧ let t :=
  (LaneType.of f.type); let all8 := ([f.d, f.a, 8, 9, 10, 11, 12, 13]); let rec_ := (fun (p : ProcState) => vWord (p.rv 12)
  (cwSb (p.rg f.b))); trainPresent s = true ∧ let u := (touched a (vSlot v1) all8 s); let p := (getProc u a.p.num); t ∈
  [LaneType.bf16, LaneType.f32] ∧ recFmt (rec_ p) = 3 ∧ windowFits 8 (cwPos (p.rg f.b)) t.lanes = true := by
  refine ⟨c0 (qp (recs2 3) 272), { p := Proc.core 0, fin := false }, true,
    { d := 3, a := 0, b := 1, masked := (6 + ↑0) % 3 == 0, m := 0, type := 6 }, ?_⟩
  dsimp only; repeat' first | decide +kernel | constructor

theorem trainingOperations_met4 : ∃ (s : State) (a : At) (v1 : Bool) (f : VForm), Issues s a (vSlot v1) false ∧ let t :=
  (LaneType.of f.type); trainPresent s = true ∧ t ∈ [LaneType.bf16, LaneType.f32] := by
  refine ⟨c0 (qp recs1 272), { p := Proc.core 0, fin := false }, true,
    { d := 3, a := 0, b := 1, masked := (6 + ↑0) % 3 == 0, m := 0, type := 6 }, ?_⟩
  dsimp only; repeat' first | decide +kernel | constructor

theorem trainingOperations_met5 : ∃ (s : State) (a : At) (v1 : Bool) (f : VForm), Issues s a (vSlot v1) false ∧ let t :=
  (LaneType.of f.type); trainPresent s = true ∧ t = LaneType.bf16 := by
  refine ⟨c0 (qp recs1 272), { p := Proc.core 0, fin := false }, true,
    { d := 3, a := 0, b := 1, masked := (6 + ↑0) % 3 == 0, m := 0, type := 6 }, ?_⟩
  dsimp only; repeat' first | decide +kernel | constructor

theorem trainingOperations_met6 : ∃ (s : State) (a : At) (v1 : Bool), Issues s a (vSlot v1) false := by
  refine ⟨wc14x1, { p := Proc.core 0, fin := false }, true, ?_⟩
  repeat' first | decide +kernel | constructor

end W14_tr

/-! ## slotX -/

namespace W15_slotX

def b0 : State := modPacer (fun p => { p with jobs := [job0] }) (enAll up)
def m0 (s : State) : State := modProc 6 (fun p =>
  { p with runState := .issue, pc := 0x1000010, g := [(1, 3), (3, 0x80000000)], epc := 0x44 }) s
def vec4 (a b c d : List Nat) : BitVec 1024 := BitVec.ofNat 1024 (([a, b, c, d].zipIdx.map fun (l, q) => (l.zipIdx.map fun (x, i) =>
  x * 2 ^ (256 * q + 32 * i)).sum).sum)
def c0 (f : ProcState → ProcState) : State := m0 (cor (fun p => f
  { p with g := [(1, 0), (2, 1), (3, 5), (4, 33)], v := [(2, vec4 [7, 0, 0, 0] [] [2, 0] [0x87])] }) b0)
def ownAll (s : State) : State := setOwner 0 0x20 (setOwner 1 0x20 (setOwner 2 0x20 (setOwner 5 0x21 s)))
def chs (a b : ChanSt) (s : State) : State := modChan 0 (fun c => { c with st := a }) (modChan 1 (fun c => { c with st := b })
  (ownAll s))

theorem slotX_met1 : ∃ (s : State) (c : Fin 6) (fin : Bool) (v : Fin 32) (q : Fin 4), let a := { p := Proc.core c, fin := fin };
  Issues s a 6 false ∧ let u := (touched a 6 [v] s); let command := (List.map (fun (i : ℕ) => BitVec.extractLsb' (256 * ↑q + 32
  * i) 32 ((getProc u ↑c).rv v)) (List.range 8)); naqCheck u (↑c) command = none := by
  refine ⟨chs ChanSt.idle ChanSt.idle (c0 id), 0, false, 2, 0, ?_⟩
  dsimp only; repeat' first | decide +kernel | constructor

theorem slotX_met2 : ∃ (s : State) (c : Fin 6) (fin : Bool) (v : Fin 32) (q : Fin 4), let a := { p := Proc.core c, fin := fin };
  Issues s a 6 false ∧ let u := (touched a 6 [v] s); let command := (List.map (fun (i : ℕ) => BitVec.extractLsb' (256 * ↑q + 32
  * i) 32 ((getProc u ↑c).rv v)) (List.range 8)); (naqCheck u (↑c) command).isSome = true := by
  refine ⟨chs ChanSt.idle ChanSt.idle (c0 id), 0, false, 1, 0, ?_⟩
  dsimp only; repeat' first | decide +kernel | constructor

theorem slotX_met3 : ∃ (s : State) (c : Fin 6) (fin : Bool), let a := { p := Proc.core c, fin := fin }; Issues s a 6 false := by
  refine ⟨chs ChanSt.idle ChanSt.idle (c0 id), 0, false, ?_⟩
  dsimp only; repeat' first | decide +kernel | constructor

theorem slotX_met4 : ∃ (s : State) (c : Fin 6) (fin : Bool) (g : Fin 32) (ch : Fin 32), let a :=
  { p := Proc.core c, fin := fin }; Issues s a 6 false ∧ ↑ch = BitVec.toNat ((getProc s ↑c).rg g) % 32 ∧ chanCore s ↑ch = some
  ↑c := by
  refine ⟨chs ChanSt.idle ChanSt.idle (c0 id), 0, false, 1, 0, ?_⟩
  dsimp only; repeat' first | decide +kernel | constructor

theorem slotX_met5 : ∃ (s : State) (c : Fin 6) (fin : Bool) (g : Fin 32) (ch : Fin 32), let a :=
  { p := Proc.core c, fin := fin }; Issues s a 6 false ∧ ↑ch = BitVec.toNat ((getProc s ↑c).rg g) % 32 ∧ chanCore s ↑ch ≠ some
  ↑c := by
  refine ⟨chs ChanSt.idle ChanSt.idle (c0 id), 0, false, 3, 5, ?_⟩
  dsimp only; repeat' first | decide +kernel | constructor

end W15_slotX

/-! ## coreKicks -/

namespace W15_kicks

def b0 : State := modPacer (fun p => { p with jobs := [job0] }) (enAll up)
def m0 (s : State) : State := modProc 6 (fun p =>
  { p with runState := .issue, pc := 0x1000010, g := [(1, 3), (3, 0x80000000)], epc := 0x44 }) s
def vec4 (a b c d : List Nat) : BitVec 1024 := BitVec.ofNat 1024 (([a, b, c, d].zipIdx.map fun (l, q) => (l.zipIdx.map fun (x, i) =>
  x * 2 ^ (256 * q + 32 * i)).sum).sum)
def c0 (f : ProcState → ProcState) : State := m0 (cor (fun p => f
  { p with g := [(1, 0), (2, 1), (3, 5), (4, 33)], v := [(2, vec4 [7, 0, 0, 0] [] [2, 0] [0x87])] }) b0)
def ownAll (s : State) : State := setOwner 0 0x20 (setOwner 1 0x20 (setOwner 2 0x20 (setOwner 5 0x21 s)))
def chs (a b : ChanSt) (s : State) : State := modChan 0 (fun c => { c with st := a }) (modChan 1 (fun c => { c with st := b })
  (ownAll s))
def good (s : State) : State := modChan 0 (fun c =>
  { c with en := true, armed := true, shadow := (List.range 16).map fun i => (i, 0xFFFFFFFF) }) s
def good2 (s : State) : State := modChan 0 (fun c => { c with en := true, armed := true, shadow := [(1, 12), (2, 0x100), (4, 0x100), (3, 0), (5, 0), (6, 1), (0, 0)].map fun e => (e.1, if e.1 = 2 then 0x103 else if e.1 = 3 then 1 else if e.1 = 5 then 1 else if e.1 = 4 then 0x205 else e.2) })
  s
def heldB (s : State) : State := { s with lfi := [(0, { held := some (.write none 0x20 0 []) })] }
def kwt (s : State) : State := modProc 0 (fun p =>
  { p with runState := .wait, buf := { p.buf with syls := 2, waits := [.kick 0] } }) s

theorem coreKicks_met1 : ∃ (s : State) (c : Fin 6) (fin : Bool) (g : Fin 32) (ch : Fin 32), let a :=
  { p := Proc.core c, fin := fin }; Issues s a 6 false ∧ ↑ch = BitVec.toNat ((getProc s ↑c).rg g) % 32 ∧ chanCore s ↑ch = some
  ↑c ∧ writesHeld s (32 + BitVec.ofNat 8 ↑c) = true := by
  refine ⟨heldB (good (chs ChanSt.idle ChanSt.idle (c0 id))), 0, false, 1, 0, ?_⟩
  dsimp only; repeat' first | decide +kernel | constructor

theorem coreKicks_met2 : ∃ (s : State) (c : Fin 6) (fin : Bool) (g : Fin 32) (ch : Fin 32), let a :=
  { p := Proc.core c, fin := fin }; Issues s a 6 false ∧ ↑ch = BitVec.toNat ((getProc s ↑c).rg g) % 32 ∧ chanCore s ↑ch = some
  ↑c ∧ let u := (placed a 6 false s); let v := (modProc (↑c) (fun (p : ProcState) => { runState := p.runState,
                                                                                       pmemAct := p.pmemAct,
                                                                                       run := p.run, g := p.g,
                                                                                       p := p.p, o := p.o, f := p.f,
                                                                                       v := p.v, acc := p.acc,
                                                                                       m := p.m, ie := p.ie,
                                                                                       inIrq := p.inIrq,
                                                                                       inFault := p.inFault,
                                                                                       pie := p.pie, epc := p.epc,
                                                                                       ivec := p.ivec, fvec := p.fvec,
                                                                                       intStat := p.intStat,
                                                                                       intEn := p.intEn,
                                                                                       accsh := p.accsh,
                                                                                       accSat := p.accSat,
                                                                                       mvsh := p.mvsh, rrb := p.rrb,
                                                                                       accOvf := p.accOvf,
                                                                                       movSat := p.movSat,
                                                                                       cb0Base := p.cb0Base,
                                                                                       cb0Len := p.cb0Len,
                                                                                       cb1Base := p.cb1Base,
                                                                                       cb1Len := p.cb1Len,
                                                                                       vfaultPc := p.vfaultPc,
                                                                                       vfaultInfo := p.vfaultInfo,
                                                                                       stepPc := p.stepPc,
                                                                                       pc := p.pc, lastPc := p.lastPc,
                                                                                       bundle := p.bundle,
                                                                                       buf := p.buf,
                                                                                       inflight := p.inflight,
                                                                                       delay := p.delay,
                                                                                       loop := p.loop,
                                                                                       savedLoop := p.savedLoop,
                                                                                       savedDelay := p.savedDelay,
                                                                                       vfaultOp := p.vfaultOp,
                                                                                       stage := p.stage,
                                                                                       stageBad := p.stageBad,
                                                                                       stagedEvents := p.stagedEvents,
                                                                                       stagedPosts := p.stagedPosts,
                                                                                       stepChans := if p.stepChans.contains ch = true then p.stepChans else p.stepChans ++ [ch],
                                                                                       commitAsked := p.commitAsked,
                                                                                       faultValid := p.faultValid,
                                                                                       faultSlot := p.faultSlot,
                                                                                       faultCause := p.faultCause,
                                                                                       faultPc := p.faultPc,
                                                                                       satCnt := p.satCnt,
                                                                                       stepCnt := p.stepCnt,
                                                                                       stallCnt := p.stallCnt,
                                                                                       wdtBusy := p.wdtBusy,
                                                                                       wdtFrom := p.wdtFrom,
                                                                                       waitFrom := p.waitFrom,
                                                                                       halted := p.halted }) u); writesHeld s
  (32 + BitVec.ofNat 8 ↑c) = false ∧ (getChan s ↑ch).st ∉ [ChanSt.disabled, ChanSt.halted] ∧ (getChan (kick (↑ch) v) ↑ch).st ≠
  ChanSt.halted := by
  refine ⟨chs ChanSt.idle ChanSt.disabled (c0 id), 0, false, 1, 0, ?_⟩
  dsimp only; repeat' first | decide +kernel | constructor

theorem coreKicks_met3 : ∃ (s : State) (c : Fin 6) (fin : Bool) (g : Fin 32) (ch : Fin 32), let a :=
  { p := Proc.core c, fin := fin }; Issues s a 6 false ∧ ↑ch = BitVec.toNat ((getProc s ↑c).rg g) % 32 ∧ chanCore s ↑ch = some
  ↑c ∧ let u := (placed a 6 false s); let v := (modProc (↑c) (fun (p : ProcState) => { runState := p.runState,
                                                                                       pmemAct := p.pmemAct,
                                                                                       run := p.run, g := p.g,
                                                                                       p := p.p, o := p.o, f := p.f,
                                                                                       v := p.v, acc := p.acc,
                                                                                       m := p.m, ie := p.ie,
                                                                                       inIrq := p.inIrq,
                                                                                       inFault := p.inFault,
                                                                                       pie := p.pie, epc := p.epc,
                                                                                       ivec := p.ivec, fvec := p.fvec,
                                                                                       intStat := p.intStat,
                                                                                       intEn := p.intEn,
                                                                                       accsh := p.accsh,
                                                                                       accSat := p.accSat,
                                                                                       mvsh := p.mvsh, rrb := p.rrb,
                                                                                       accOvf := p.accOvf,
                                                                                       movSat := p.movSat,
                                                                                       cb0Base := p.cb0Base,
                                                                                       cb0Len := p.cb0Len,
                                                                                       cb1Base := p.cb1Base,
                                                                                       cb1Len := p.cb1Len,
                                                                                       vfaultPc := p.vfaultPc,
                                                                                       vfaultInfo := p.vfaultInfo,
                                                                                       stepPc := p.stepPc,
                                                                                       pc := p.pc, lastPc := p.lastPc,
                                                                                       bundle := p.bundle,
                                                                                       buf := p.buf,
                                                                                       inflight := p.inflight,
                                                                                       delay := p.delay,
                                                                                       loop := p.loop,
                                                                                       savedLoop := p.savedLoop,
                                                                                       savedDelay := p.savedDelay,
                                                                                       vfaultOp := p.vfaultOp,
                                                                                       stage := p.stage,
                                                                                       stageBad := p.stageBad,
                                                                                       stagedEvents := p.stagedEvents,
                                                                                       stagedPosts := p.stagedPosts,
                                                                                       stepChans := if p.stepChans.contains ch = true then p.stepChans else p.stepChans ++ [ch],
                                                                                       commitAsked := p.commitAsked,
                                                                                       faultValid := p.faultValid,
                                                                                       faultSlot := p.faultSlot,
                                                                                       faultCause := p.faultCause,
                                                                                       faultPc := p.faultPc,
                                                                                       satCnt := p.satCnt,
                                                                                       stepCnt := p.stepCnt,
                                                                                       stallCnt := p.stallCnt,
                                                                                       wdtBusy := p.wdtBusy,
                                                                                       wdtFrom := p.wdtFrom,
                                                                                       waitFrom := p.waitFrom,
                                                                                       halted := p.halted }) u); writesHeld s
  (32 + BitVec.ofNat 8 ↑c) = false ∧ (getChan s ↑ch).st ∉ [ChanSt.disabled, ChanSt.halted] ∧ (getChan (kick (↑ch) v) ↑ch).st =
  ChanSt.halted := by
  refine ⟨good (chs ChanSt.idle ChanSt.idle (c0 id)), 0, false, 1, 0, ?_⟩
  dsimp only; repeat' first | decide +kernel | constructor

theorem coreKicks_met4 : ∃ (s : State) (c : Fin 6) (fin : Bool) (g : Fin 32) (ch : Fin 32), let a :=
  { p := Proc.core c, fin := fin }; Issues s a 6 false ∧ ↑ch = BitVec.toNat ((getProc s ↑c).rg g) % 32 ∧ chanCore s ↑ch = some
  ↑c ∧ writesHeld s (32 + BitVec.ofNat 8 ↑c) = false ∧ (getChan s ↑ch).st ∈ [ChanSt.disabled, ChanSt.halted] := by
  refine ⟨chs ChanSt.idle ChanSt.disabled (c0 id), 0, false, 2, 1, ?_⟩
  dsimp only; repeat' first | decide +kernel | constructor

theorem coreKicks_met5 : ∃ (s : State) (c : Fin 6) (ch : Fin 32), WaitsFor s (↑c) (WaitFor.kick ch) ∧ writesHeld s (32 +
  BitVec.ofNat 8 ↑c) = true := by
  refine ⟨heldB (kwt (good (chs ChanSt.idle ChanSt.idle (c0 id)))), 0, 0, ?_⟩
  repeat' first | decide +kernel | constructor

theorem coreKicks_met6 : ∃ (s : State) (c : Fin 6) (ch : Fin 32) (k : ℕ), WaitsFor s (↑c) (WaitFor.kick ch) ∧ let v := (modProc
  (↑c) (fun (p : ProcState) => { runState := p.runState, pmemAct := p.pmemAct, run := p.run, g := p.g, p := p.p,
                                 o := p.o, f := p.f, v := p.v, acc := p.acc, m := p.m, ie := p.ie, inIrq := p.inIrq,
                                 inFault := p.inFault, pie := p.pie, epc := p.epc, ivec := p.ivec, fvec := p.fvec,
                                 intStat := p.intStat, intEn := p.intEn, accsh := p.accsh, accSat := p.accSat,
                                 mvsh := p.mvsh, rrb := p.rrb, accOvf := p.accOvf, movSat := p.movSat,
                                 cb0Base := p.cb0Base, cb0Len := p.cb0Len, cb1Base := p.cb1Base, cb1Len := p.cb1Len,
                                 vfaultPc := p.vfaultPc, vfaultInfo := p.vfaultInfo, stepPc := p.stepPc, pc := p.pc,
                                 lastPc := p.lastPc, bundle := p.bundle, buf := p.buf, inflight := p.inflight,
                                 delay := p.delay, loop := p.loop, savedLoop := p.savedLoop, savedDelay := p.savedDelay,
                                 vfaultOp := p.vfaultOp, stage := p.stage, stageBad := p.stageBad,
                                 stagedEvents := p.stagedEvents, stagedPosts := p.stagedPosts, stepChans := if p.stepChans.contains ch = true then p.stepChans else p.stepChans ++ [ch],
                                 commitAsked := p.commitAsked, faultValid := p.faultValid, faultSlot := p.faultSlot,
                                 faultCause := p.faultCause, faultPc := p.faultPc, satCnt := p.satCnt,
                                 stepCnt := p.stepCnt, stallCnt := p.stallCnt, wdtBusy := p.wdtBusy, wdtFrom := p.wdtFrom,
                                 waitFrom := p.waitFrom, halted := p.halted }) (countWaits (↑c) k s)); writesHeld s (32 +
  BitVec.ofNat 8 ↑c) = false ∧ (getChan s ↑ch).st ∉ [ChanSt.disabled, ChanSt.halted] ∧ (getChan (kick (↑ch) v) ↑ch).st ≠
  ChanSt.halted ∧ (getProc (kick (↑ch) v) ↑c).run = (getProc s ↑c).run ∧ (getProc s ↑c).inflight = [] := by
  refine ⟨kwt (good2 (chs ChanSt.idle ChanSt.idle (c0 id))), 0, 0, 0, ?_⟩
  dsimp only; repeat' first | decide +kernel | constructor

end W15_kicks

/-! ## waits, stepDrains -/

namespace W15_waits

def b0 : State := modPacer (fun p => { p with jobs := [job0] }) (enAll up)
def m0 (s : State) : State := modProc 6 (fun p =>
  { p with runState := .issue, pc := 0x1000010, g := [(1, 3), (3, 0x80000000)], epc := 0x44 }) s
def vec4 (a b c d : List Nat) : BitVec 1024 := BitVec.ofNat 1024 (([a, b, c, d].zipIdx.map fun (l, q) => (l.zipIdx.map fun (x, i) =>
  x * 2 ^ (256 * q + 32 * i)).sum).sum)
def c0 (f : ProcState → ProcState) : State := m0 (cor (fun p => f
  { p with g := [(1, 0), (2, 1), (3, 5), (4, 33)], v := [(2, vec4 [7, 0, 0, 0] [] [2, 0] [0x87])] }) b0)
def ownAll (s : State) : State := setOwner 0 0x20 (setOwner 1 0x20 (setOwner 2 0x20 (setOwner 5 0x21 s)))
def chs (a b : ChanSt) (s : State) : State := modChan 0 (fun c => { c with st := a }) (modChan 1 (fun c => { c with st := b })
  (ownAll s))
def wst (w : WaitFor) (n : Nat) : State := chs .active .preempted (modArray 0 (fun a => { a with queue := List.replicate n { words := [7, 0, 0, 0, 0, 0, 0, 0], pc := 0, started := false, empty := false } })
   (c0 fun p => { p with runState := .wait, buf := { p.buf with syls := 2, waits := [w] } }))

theorem waits_met1 : ∃ (s : State) (c : Fin 6) (w : WaitFor), WaitsFor s (↑c) w ∧ (∀ last : Bool, w ≠ .stepDrained last)
  ∧ (getProc s ↑c).inflight = [] ∧ (match w with
    | .queueRoom _ => decide ((getArray s ↑c).queue.length < 16)
    | .arrayAtMost n => decide ((getArray s ↑c).queue.length ≤ n)
    | .channelIdle ch => decide ((getChan s ↑ch).st ≠ .active ∧ (getChan s ↑ch).st ≠ .preempted)
    | .storesAcked => !writesHeld s (32 + BitVec.ofNat 8 ↑c)
    | _ => false) = false := by
  refine ⟨wst (.queueRoom [7, 0, 0, 0, 0, 0, 0, 0]) 16, 0, .queueRoom [7, 0, 0, 0, 0, 0, 0, 0], ?_⟩
  repeat' first | decide +kernel | constructor


theorem waits_met2 : ∃ (s : State) (c : Fin 6) (w : WaitFor), WaitsFor s (↑c) w ∧ (∀ last : Bool, w ≠ .stepDrained last)
  ∧ (getProc s ↑c).inflight = [] ∧ (match w with
    | .queueRoom _ => decide ((getArray s ↑c).queue.length < 16)
    | .arrayAtMost n => decide ((getArray s ↑c).queue.length ≤ n)
    | .channelIdle ch => decide ((getChan s ↑ch).st ≠ .active ∧ (getChan s ↑ch).st ≠ .preempted)
    | .storesAcked => !writesHeld s (32 + BitVec.ofNat 8 ↑c)
    | _ => false) = true := by
  refine ⟨wst (.queueRoom [7, 0, 0, 0, 0, 0, 0, 0]) 0, 0, .queueRoom [7, 0, 0, 0, 0, 0, 0, 0], ?_⟩
  repeat' first | decide +kernel | constructor


theorem stepDrains_met : ∃ (s : State) (c : Fin 6) (last : Bool), WaitsFor s (↑c) (WaitFor.stepDrained last) ∧ let p := (getProc
  s ↑c); (getArray s ↑c).queue = [] ∧ stepChansIdle s ↑c = true ∧ writesHeld s (32 + BitVec.ofNat 8 ↑c) = false ∧ p.inflight =
  [] := by
  refine ⟨wst (WaitFor.stepDrained true) 0, 0, true, ?_⟩
  dsimp only; repeat' first | decide +kernel | constructor

end W15_waits

/-! ## remoteAccesses -/

namespace W15_rem

def b0 : State := modPacer (fun p => { p with jobs := [job0] }) (enAll up)
def m0 (s : State) : State := modProc 6 (fun p =>
  { p with runState := .issue, pc := 0x1000010, g := [(1, 3), (3, 0x80000000)], epc := 0x44 }) s
def vec4 (a b c d : List Nat) : BitVec 1024 := BitVec.ofNat 1024 (([a, b, c, d].zipIdx.map fun (l, q) => (l.zipIdx.map fun (x, i) =>
  x * 2 ^ (256 * q + 32 * i)).sum).sum)
def c0 (f : ProcState → ProcState) : State := m0 (cor (fun p => f
  { p with g := [(1, 0), (2, 1), (3, 5), (4, 33)], v := [(2, vec4 [7, 0, 0, 0] [] [2, 0] [0x87])] }) b0)
def ownAll (s : State) : State := setOwner 0 0x20 (setOwner 1 0x20 (setOwner 2 0x20 (setOwner 5 0x21 s)))
def chs (a b : ChanSt) (s : State) : State := modChan 0 (fun c => { c with st := a }) (modChan 1 (fun c => { c with st := b })
  (ownAll s))
def aa : Addr := 0x10000100
def wq (n : Nat) (w : WaitFor) (s : State) : State := modProc n (fun p =>
  { p with runState := .wait, buf := { p.buf with syls := 2, waits := [w] } }) s
def prs (s : State) : State := setReg pgHerd 1 0x400 0x00050001 { s with herd := { s.herd with st := .member } }
def wst (w : MemOp) : State := memPut 0x10000100 [0x81, 0x92, 0xA3, 0xB4, 0xC5] (chs .active .preempted (wq 0 (.remote w) (c0 id)))
def wsm (w : MemOp) : State := memPut 0x10000100 [0x81, 0x92, 0xA3, 0xB4, 0xC5] (wq 6 (.remote w) (c0 id))
def ecc (s : State) : State := modMem (fun m => { m with eccOn := true }) s
def wc15x8 : State := prs (wsm (.store 2 8 0x1122334455667788 0x8000000010))

theorem remoteAccesses_met1 : ∃ (s : State) (q : Proc) (size : ℕ) (ad : Addr) (op : MemOp), injectorOff s ∧ let n := q.num; let
  p := (getProc s n); (n ≠ mgmtNo → stepping s n = true) ∧ p.inflight = [] ∧ regsOf (BitVec.toNat ad) = none ∧ 0 < size ∧ size ≤
  8 ∧ WaitsFor s n (WaitFor.remote op) := by
  refine ⟨wst (MemOp.load 2 (LoadDest.g 1) 2 true 268435712), Proc.core 0, 2, 268435712, MemOp.load 2 (LoadDest.g 1) 2 true aa,
    ?_⟩
  dsimp only [injectorOff]; repeat' first | decide +kernel | constructor

theorem remoteAccesses_met2 : ∃ (s : State) (q : Proc) (sl : ℕ) (size : ℕ) (ad : Addr) (d : Fin 32) (signed : Bool) (x :
  Answered), injectorOff s ∧ let n := q.num; let p := (getProc s n); (n ≠ mgmtNo → stepping s n = true) ∧ p.inflight = [] ∧
  regsOf (BitVec.toNat ad) = none ∧ 0 < size ∧ size ≤ 8 ∧ WaitsFor s n (WaitFor.remote (MemOp.load sl (LoadDest.g d) size signed
  ad)) ∧ x ≠ Answered.never ∧ (remoteRefusal s n (BitVec.toNat ad) false).isSome = true := by
  refine ⟨wst (MemOp.load 2 (LoadDest.g 1) 2 true 553648144), Proc.core 0, 2, 2, 553648144, 1, true, Answered.good, ?_⟩
  dsimp only [injectorOff]; repeat' first | decide +kernel | constructor

theorem remoteAccesses_met3 : ∃ (s : State) (q : Proc) (sl : ℕ) (size : ℕ) (ad : Addr) (d : Fin 32) (signed : Bool) (x :
  Answered), injectorOff s ∧ let n := q.num; let p := (getProc s n); (n ≠ mgmtNo → stepping s n = true) ∧ p.inflight = [] ∧
  regsOf (BitVec.toNat ad) = none ∧ 0 < size ∧ size ≤ 8 ∧ WaitsFor s n (WaitFor.remote (MemOp.load sl (LoadDest.g d) size signed
  ad)) ∧ x ≠ Answered.never ∧ remoteRefusal s n (BitVec.toNat ad) false = none ∧ dramFails s (BitVec.toNat ad) x = true := by
  refine ⟨ecc (wst (MemOp.load 2 (LoadDest.g 1) 2 true 4294967360)), Proc.core 0, 2, 2, 4294967360, 1, true,
    Answered.uncorrectable, ?_⟩
  dsimp only [injectorOff]; repeat' first | decide +kernel | constructor

theorem remoteAccesses_met4 : ∃ (s : State) (q : Proc) (sl : ℕ) (size : ℕ) (ad : Addr) (d : Fin 32) (signed : Bool) (x :
  Answered), injectorOff s ∧ let n := q.num; let p := (getProc s n); (n ≠ mgmtNo → stepping s n = true) ∧ p.inflight = [] ∧
  regsOf (BitVec.toNat ad) = none ∧ 0 < size ∧ size ≤ 8 ∧ WaitsFor s n (WaitFor.remote (MemOp.load sl (LoadDest.g d) size signed
  ad)) ∧ x ≠ Answered.never ∧ remoteRefusal s n (BitVec.toNat ad) false = none ∧ dramFails s (BitVec.toNat ad) x = false ∧
  firstBad s n (List.map (fun (x : ℕ) => BitVec.toNat ad + x) (List.range size)) = none ∧ place (BitVec.toNat ad) ≠ Place.host ∧
  ∀ (m : ℕ), place (BitVec.toNat ad) ≠ Place.peer m := by
  refine ⟨wst (MemOp.load 2 (LoadDest.g 1) 2 true 268435712), Proc.core 0, 2, 2, 268435712, 1, true, Answered.good, ?_⟩
  dsimp only [injectorOff]; repeat' first | decide +kernel | refine not_peer ?_ | constructor

theorem remoteAccesses_met5 : ∃ (s : State) (q : Proc) (sl : ℕ) (size : ℕ) (ad : Addr) (d : Fin 32) (signed : Bool) (x :
  Answered), injectorOff s ∧ let n := q.num; let p := (getProc s n); (n ≠ mgmtNo → stepping s n = true) ∧ p.inflight = [] ∧
  regsOf (BitVec.toNat ad) = none ∧ 0 < size ∧ size ≤ 8 ∧ WaitsFor s n (WaitFor.remote (MemOp.load sl (LoadDest.g d) size signed
  ad)) ∧ x ≠ Answered.never ∧ remoteRefusal s n (BitVec.toNat ad) false = none ∧ dramFails s (BitVec.toNat ad) x = false ∧
  firstBad s n (List.map (fun (x : ℕ) => BitVec.toNat ad + x) (List.range size)) = none ∧ place (BitVec.toNat ad) = Place.host
  := by
  refine ⟨wsm (MemOp.load 2 (LoadDest.g 1) 2 true 824633720848), Proc.mgmt, 2, 2, 824633720848, 1, true, Answered.good, ?_⟩
  dsimp only [injectorOff]; repeat' first | decide +kernel | constructor

theorem remoteAccesses_met6 : ∃ (s : State) (q : Proc) (sl : ℕ) (size : ℕ) (ad : Addr) (d : Fin 32) (signed : Bool) (x :
  Answered) (m : ℕ), injectorOff s ∧ let n := q.num; let p := (getProc s n); (n ≠ mgmtNo → stepping s n = true) ∧ p.inflight =
  [] ∧ regsOf (BitVec.toNat ad) = none ∧ 0 < size ∧ size ≤ 8 ∧ WaitsFor s n (WaitFor.remote (MemOp.load sl (LoadDest.g d) size
  signed ad)) ∧ x ≠ Answered.never ∧ remoteRefusal s n (BitVec.toNat ad) false = none ∧ dramFails s (BitVec.toNat ad) x = false
  ∧ firstBad s n (List.map (fun (x : ℕ) => BitVec.toNat ad + x) (List.range size)) = none ∧ place (BitVec.toNat ad) = Place.peer
  m := by
  refine ⟨prs (wsm (MemOp.load 2 (LoadDest.g 1) 2 true 549755813904)), Proc.mgmt, 2, 2, 549755813904, 1, true, Answered.good, 0,
    ?_⟩
  dsimp only [injectorOff]; repeat' first | decide +kernel | constructor

theorem remoteAccesses_met7 : ∃ (s : State) (q : Proc) (sl : ℕ) (size : ℕ) (ad : Addr) (v : DWord) (x : Answered), injectorOff s
  ∧ let n := q.num; let p := (getProc s n); (n ≠ mgmtNo → stepping s n = true) ∧ p.inflight = [] ∧ regsOf (BitVec.toNat ad) =
  none ∧ 0 < size ∧ size ≤ 8 ∧ WaitsFor s n (WaitFor.remote (MemOp.store sl size v ad)) ∧ x ≠ Answered.never ∧ (remoteRefusal s
  n (BitVec.toNat ad) true).isSome = true := by
  refine ⟨wst (MemOp.store 2 8 1234605616436508552 553648144), Proc.core 0, 2, 8, 553648144, 1234605616436508552, Answered.good,
    ?_⟩
  dsimp only [injectorOff]; repeat' first | decide +kernel | constructor

theorem remoteAccesses_met8 : ∃ (s : State) (q : Proc) (sl : ℕ) (size : ℕ) (ad : Addr) (v : DWord) (x : Answered), injectorOff s
  ∧ let n := q.num; let p := (getProc s n); (n ≠ mgmtNo → stepping s n = true) ∧ p.inflight = [] ∧ regsOf (BitVec.toNat ad) =
  none ∧ 0 < size ∧ size ≤ 8 ∧ WaitsFor s n (WaitFor.remote (MemOp.store sl size v ad)) ∧ x ≠ Answered.never ∧ remoteRefusal s n
  (BitVec.toNat ad) true = none ∧ ((∃ (m : ℕ), place (BitVec.toNat ad) = Place.shm m) ∨ place (BitVec.toNat ad) = Place.dram ∨ ∃
  (m : ℕ), place (BitVec.toNat ad) = Place.cmem m) := by
  refine ⟨wst (MemOp.store 2 8 1234605616436508552 268435712), Proc.core 0, 2, 8, 268435712, 1234605616436508552, Answered.good,
    ?_⟩
  dsimp only [injectorOff]; repeat' first | decide +kernel | constructor

theorem remoteAccesses_met9 : ∃ (s : State) (q : Proc) (sl : ℕ) (size : ℕ) (ad : Addr) (v : DWord) (x : Answered) (m : ℕ),
  injectorOff s ∧ let n := q.num; let p := (getProc s n); (n ≠ mgmtNo → stepping s n = true) ∧ p.inflight = [] ∧ regsOf
  (BitVec.toNat ad) = none ∧ 0 < size ∧ size ≤ 8 ∧ WaitsFor s n (WaitFor.remote (MemOp.store sl size v ad)) ∧ x ≠ Answered.never
  ∧ remoteRefusal s n (BitVec.toNat ad) true = none ∧ place (BitVec.toNat ad) = Place.peer m := by
  refine ⟨wc15x8, Proc.mgmt, 2, 8, 549755813904, 1234605616436508552, Answered.good, 0, ?_⟩
  dsimp only [injectorOff]; repeat' first | decide +kernel | constructor

end W15_rem

/-! ## interrupts -/

namespace W15_irq

def b0 : State := modPacer (fun p => { p with jobs := [job0] }) (enAll up)
def m0 (s : State) : State := modProc 6 (fun p =>
  { p with runState := .issue, pc := 0x1000010, g := [(1, 3), (3, 0x80000000)], epc := 0x44 }) s
def vec4 (a b c d : List Nat) : BitVec 1024 := BitVec.ofNat 1024 (([a, b, c, d].zipIdx.map fun (l, q) => (l.zipIdx.map fun (x, i) =>
  x * 2 ^ (256 * q + 32 * i)).sum).sum)
def c0 (f : ProcState → ProcState) : State := m0 (cor (fun p => f
  { p with g := [(1, 0), (2, 1), (3, 5), (4, 33)], v := [(2, vec4 [7, 0, 0, 0] [] [2, 0] [0x87])] }) b0)
def wc15x9 : State := c0 fun p => { p with intStat := 1, intEn := 1, ie := true, ivec := 0x100 }

theorem interrupts_met1 : ∃ (s : State) (q : Proc), let n := q.num; let p := (getProc s n); let taken := (canIssue s n = true ∧
  intStatOf s n &&& p.intEn ≠ 0 ∧ p.ie = true ∧ p.buf.syls = 0 ∧ p.loop = none ∧ p.delay = none); ¬taken := by
  refine ⟨c0 id, Proc.core 0, ?_⟩
  decide +kernel

theorem interrupts_met2 : ∃ (s : State) (q : Proc), let n := q.num; let p := (getProc s n); let taken := (canIssue s n = true ∧
  intStatOf s n &&& p.intEn ≠ 0 ∧ p.ie = true ∧ p.buf.syls = 0 ∧ p.loop = none ∧ p.delay = none); taken := by
  refine ⟨wc15x9, Proc.core 0, ?_⟩
  decide +kernel

end W15_irq

/-! ## faults -/

namespace W15_faults

def b0 : State := modPacer (fun p => { p with jobs := [job0] }) (enAll up)
def m0 (s : State) : State := modProc 6 (fun p =>
  { p with runState := .issue, pc := 0x1000010, g := [(1, 3), (3, 0x80000000)], epc := 0x44 }) s
def vec4 (a b c d : List Nat) : BitVec 1024 := BitVec.ofNat 1024 (([a, b, c, d].zipIdx.map fun (l, q) => (l.zipIdx.map fun (x, i) =>
  x * 2 ^ (256 * q + 32 * i)).sum).sum)
def c0 (f : ProcState → ProcState) : State := m0 (cor (fun p => f
  { p with g := [(1, 0), (2, 1), (3, 5), (4, 33)], v := [(2, vec4 [7, 0, 0, 0] [] [2, 0] [0x87])] }) b0)

theorem faults_met1 : ∃ (s : State) (c : Fin 6) (slot : _), slot < 8 ∧ (getProc s ↑c).run = none := by
  refine ⟨c0 id, 1, 0, ?_⟩
  decide +kernel

theorem faults_met2 : ∃ (s : State) (c : Fin 6) (j : ℕ) (i : ℕ), (getProc s ↑c).run = some (j, i) := by
  refine ⟨c0 id, 0, 7, 0, ?_⟩
  decide +kernel

end W15_faults

/-! ## channelCommands -/

namespace W17_cmd

def w0 (own : Bool) (mode : Nat) (irq last : Bool) : Nat := (if own then 2 ^ 31 else 0) + mode * 2 ^ 24 + (if irq then 2 ^ 29 else
  0) + (if last then 2 ^ 28 else 0)
def dset (w : Nat) (len src dst : Nat) : Store Word := ([w, len, src % 2 ^ 32, src / 2 ^ 32, dst % 2 ^ 32, dst / 2 ^ 32,
  1].zipIdx.filter (·.1 ≠ 0)).map fun (x, i) => (i, BitVec.ofNat 32 x)
def good : Store Word := dset (w0 false 0 false false) 12 0x100000103 0x100000205
def ch0 (f : Chan → Chan) : State := memPut 0x100000103 [1, 2, 3, 4, 5, 6, 7, 8, 9, 10, 11, 12, 13] (modChan 0 f (setOwner 0 0
  (setOwner 1 0 (enAll up))))
def cst (st : ChanSt) (dm ar en : Bool) (sh : Store Word) : State :=
  ch0 fun c => { c with st := st, descMode := dm, armed := ar, en := en, shadow := sh, act := good, pos := 4, descRun := dm, descPtr := 0x100004000, shDesc := 0x100004040, fetching := false, mover := if st = .active then some 1 else none, wb := [] }

theorem channelCommands_met1 : ∃ (s : State) (r : Requester), Option.any (fun (c : ℕ) => decide ((reqLive s r = true ∧ isParked
  s r = false ∧ lfiQuiet s lfiNoc (BitVec.toNat r.code) 0 = true ∧ writeCheck s r pgDma 1028 = none ∧ ¬(pgDma = pgCtlio ∧
  s.trust.bootWait = true ∧ (1028 = 8 ∨ 64 ≤ 1028))) ∧ (getChan s c).st = ChanSt.idle ∧ (getChan s c).armed = true ∧
  transferCheck s c (getChan s c).shadow = none)) (selChan s r pgDma) = true := by
  refine ⟨cst ChanSt.idle false true false good, Requester.mgmt, ?_⟩
  decide +kernel

theorem channelCommands_met2 : ∃ (s : State) (r : Requester), Option.any (fun (c : ℕ) => decide ((reqLive s r = true ∧ isParked
  s r = false ∧ lfiQuiet s lfiNoc (BitVec.toNat r.code) 0 = true ∧ writeCheck s r pgDma 1028 = none ∧ ¬(pgDma = pgCtlio ∧
  s.trust.bootWait = true ∧ (1028 = 8 ∨ 64 ≤ 1028))) ∧ (getChan s c).st = ChanSt.idle ∧ (getChan s c).descMode = false ∧
  (getChan s c).armed = false)) (selChan s r pgDma) = true := by
  refine ⟨cst ChanSt.idle false false false good, Requester.mgmt, ?_⟩
  decide +kernel

theorem channelCommands_met3 : ∃ (s : State) (r : Requester), Option.any (fun (c : ℕ) => decide ((reqLive s r = true ∧ isParked
  s r = false ∧ lfiQuiet s lfiNoc (BitVec.toNat r.code) 0 = true ∧ writeCheck s r pgDma 1028 = none ∧ ¬(pgDma = pgCtlio ∧
  s.trust.bootWait = true ∧ (1028 = 8 ∨ 64 ≤ 1028))) ∧ (getChan s c).st = ChanSt.idle ∧ (getChan s c).descMode = true ∧ (getChan
  s c).armed = false)) (selChan s r pgDma) = true := by
  refine ⟨cst ChanSt.idle true false false good, Requester.mgmt, ?_⟩
  decide +kernel

theorem channelCommands_met4 : ∃ (s : State) (r : Requester), Option.any (fun (c : ℕ) => decide ((reqLive s r = true ∧ isParked
  s r = false ∧ lfiQuiet s lfiNoc (BitVec.toNat r.code) 0 = true ∧ writeCheck s r pgDma 1028 = none ∧ ¬(pgDma = pgCtlio ∧
  s.trust.bootWait = true ∧ (1028 = 8 ∨ 64 ≤ 1028))) ∧ (getChan s c).st = ChanSt.waitOwn)) (selChan s r pgDma) = true := by
  refine ⟨cst ChanSt.waitOwn false false false good, Requester.mgmt, ?_⟩
  decide +kernel

theorem channelCommands_met5 : ∃ (s : State) (r : Requester), Option.any (fun (c : ℕ) => decide ((reqLive s r = true ∧ isParked
  s r = false ∧ lfiQuiet s lfiNoc (BitVec.toNat r.code) 0 = true ∧ writeCheck s r pgDma 1028 = none ∧ ¬(pgDma = pgCtlio ∧
  s.trust.bootWait = true ∧ (1028 = 8 ∨ 64 ≤ 1028))) ∧ ((getChan s c).st = ChanSt.active ∨ (getChan s c).st = ChanSt.preempted)
  ∧ (getChan s c).descRun = true ∧ (getChan s c).armed = false ∧ (getChan s c).fetching = false)) (selChan s r pgDma) = true :=
  by
  refine ⟨cst ChanSt.active true false false good, Requester.mgmt, ?_⟩
  decide +kernel

theorem channelCommands_met6 : ∃ (s : State) (r : Requester), Option.any (fun (c : ℕ) => decide ((reqLive s r = true ∧ isParked
  s r = false ∧ lfiQuiet s lfiNoc (BitVec.toNat r.code) 0 = true ∧ writeCheck s r pgDma 1028 = none ∧ ¬(pgDma = pgCtlio ∧
  s.trust.bootWait = true ∧ (1028 = 8 ∨ 64 ≤ 1028))) ∧ ((getChan s c).st = ChanSt.active ∨ (getChan s c).st = ChanSt.preempted)
  ∧ ((getChan s c).descRun = false ∨ (getChan s c).armed = true ∨ (getChan s c).fetching = true))) (selChan s r pgDma) = true :=
  by
  refine ⟨cst ChanSt.active false false false good, Requester.mgmt, ?_⟩
  decide +kernel

theorem channelCommands_met7 : ∃ (s : State) (r : Requester), Option.any (fun (c : ℕ) => decide ((reqLive s r = true ∧ isParked
  s r = false ∧ lfiQuiet s lfiNoc (BitVec.toNat r.code) 0 = true ∧ writeCheck s r pgDma 1028 = none ∧ ¬(pgDma = pgCtlio ∧
  s.trust.bootWait = true ∧ (1028 = 8 ∨ 64 ≤ 1028))) ∧ ((getChan s c).st = ChanSt.disabled ∨ (getChan s c).st = ChanSt.halted)))
  (selChan s r pgDma) = true := by
  refine ⟨cst ChanSt.disabled false false false good, Requester.mgmt, ?_⟩
  decide +kernel

theorem channelCommands_met8 : ∃ (s : State) (r : Requester), Option.any (fun (c : ℕ) => decide ((reqLive s r = true ∧ isParked
  s r = false ∧ lfiQuiet s lfiNoc (BitVec.toNat r.code) 0 = true ∧ writeCheck s r pgDma 1028 = none ∧ ¬(pgDma = pgCtlio ∧
  s.trust.bootWait = true ∧ (1028 = 8 ∨ 64 ≤ 1028))) ∧ (getChan s c).armed = true)) (selChan s r pgDma) = true := by
  refine ⟨cst ChanSt.disabled false true false good, Requester.mgmt, ?_⟩
  decide +kernel

theorem channelCommands_met9 : ∃ (s : State) (r : Requester), Option.any (fun (c : ℕ) => decide ((reqLive s r = true ∧ isParked
  s r = false ∧ lfiQuiet s lfiNoc (BitVec.toNat r.code) 0 = true ∧ writeCheck s r pgDma 1028 = none ∧ ¬(pgDma = pgCtlio ∧
  s.trust.bootWait = true ∧ (1028 = 8 ∨ 64 ≤ 1028))) ∧ (getChan s c).armed = false)) (selChan s r pgDma) = true := by
  refine ⟨cst ChanSt.disabled false false false good, Requester.mgmt, ?_⟩
  decide +kernel

theorem channelCommands_met10 : ∃ (s : State) (r : Requester), Option.any (fun (c : ℕ) => decide (reqLive s r = true ∧ isParked
  s r = false ∧ lfiQuiet s lfiNoc (BitVec.toNat r.code) 0 = true ∧ writeCheck s r pgDma 1028 = none ∧ ¬(pgDma = pgCtlio ∧
  s.trust.bootWait = true ∧ (1028 = 8 ∨ 64 ≤ 1028)))) (selChan s r pgDma) = true := by
  refine ⟨cst ChanSt.disabled false false false good, Requester.mgmt, ?_⟩
  decide +kernel

theorem channelCommands_met11 : ∃ (s : State) (r : Requester), Option.any (fun (c : ℕ) => decide ((reqLive s r = true ∧ isParked
  s r = false ∧ lfiQuiet s lfiNoc (BitVec.toNat r.code) 0 = true ∧ writeCheck s r pgDma 1036 = none ∧ ¬(pgDma = pgCtlio ∧
  s.trust.bootWait = true ∧ (1036 = 8 ∨ 64 ≤ 1036))) ∧ (getChan s c).descMode = false)) (selChan s r pgDma) = true := by
  refine ⟨cst ChanSt.disabled false false false good, Requester.mgmt, ?_⟩
  decide +kernel

theorem channelCommands_met12 : ∃ (s : State) (r : Requester), Option.any (fun (c : ℕ) => decide ((reqLive s r = true ∧ isParked
  s r = false ∧ lfiQuiet s lfiNoc (BitVec.toNat r.code) 0 = true ∧ writeCheck s r pgDma 1036 = none ∧ ¬(pgDma = pgCtlio ∧
  s.trust.bootWait = true ∧ (1036 = 8 ∨ 64 ≤ 1036))) ∧ (getChan s c).descMode = true)) (selChan s r pgDma) = true := by
  refine ⟨cst ChanSt.disabled true false false good, Requester.mgmt, ?_⟩
  decide +kernel

theorem channelCommands_met13 : ∃ (s : State) (r : Requester), Option.any (fun (c : ℕ) => decide ((reqLive s r = true ∧ isParked
  s r = false ∧ lfiQuiet s lfiNoc (BitVec.toNat r.code) 0 = true ∧ writeCheck s r pgDma 1024 = none ∧ ¬(pgDma = pgCtlio ∧
  s.trust.bootWait = true ∧ (1024 = 8 ∨ 64 ≤ 1024))) ∧ (getChan s c).en = false)) (selChan s r pgDma) = true := by
  refine ⟨cst ChanSt.disabled false false false good, Requester.mgmt, ?_⟩
  decide +kernel

theorem channelCommands_met14 : ∃ (s : State) (r : Requester), Option.any (fun (c : ℕ) => decide ((reqLive s r = true ∧ isParked
  s r = false ∧ lfiQuiet s lfiNoc (BitVec.toNat r.code) 0 = true ∧ writeCheck s r pgDma 1024 = none ∧ ¬(pgDma = pgCtlio ∧
  s.trust.bootWait = true ∧ (1024 = 8 ∨ 64 ≤ 1024))) ∧ (getChan s c).en = true ∧ (getChan s c).st ≠ ChanSt.active ∧ (getChan s
  c).st ≠ ChanSt.preempted)) (selChan s r pgDma) = true := by
  refine ⟨cst ChanSt.disabled false false true good, Requester.mgmt, ?_⟩
  decide +kernel

theorem channelCommands_met15 : ∃ (s : State) (r : Requester), Option.any (fun (c : ℕ) => decide ((reqLive s r = true ∧ isParked
  s r = false ∧ lfiQuiet s lfiNoc (BitVec.toNat r.code) 0 = true ∧ writeCheck s r pgDma 1024 = none ∧ ¬(pgDma = pgCtlio ∧
  s.trust.bootWait = true ∧ (1024 = 8 ∨ 64 ≤ 1024))) ∧ (getChan s c).en = true ∧ ((getChan s c).st = ChanSt.active ∨ (getChan s
  c).st = ChanSt.preempted))) (selChan s r pgDma) = true := by
  refine ⟨cst ChanSt.active false false true good, Requester.mgmt, ?_⟩
  decide +kernel

end W17_cmd

/-! ## channelEvents -/

namespace W17_ev

def w0 (own : Bool) (mode : Nat) (irq last : Bool) : Nat := (if own then 2 ^ 31 else 0) + mode * 2 ^ 24 + (if irq then 2 ^ 29 else
  0) + (if last then 2 ^ 28 else 0)
def dset (w : Nat) (len src dst : Nat) : Store Word := ([w, len, src % 2 ^ 32, src / 2 ^ 32, dst % 2 ^ 32, dst / 2 ^ 32,
  1].zipIdx.filter (·.1 ≠ 0)).map fun (x, i) => (i, BitVec.ofNat 32 x)
def good : Store Word := dset (w0 false 0 false false) 12 0x100000103 0x100000205
def ch0 (f : Chan → Chan) : State := memPut 0x100000103 [1, 2, 3, 4, 5, 6, 7, 8, 9, 10, 11, 12, 13] (modChan 0 f (setOwner 0 0
  (setOwner 1 0 (enAll up))))
def putDesc (a : Nat) (w : Nat) (s : State) : State := memPut a (((dset w 12 0x100000103 0x100000205 ++ [(11, 1)] : List (Nat ×
  Word))).flatMap (fun (e : Nat × Word) => bytesOf 4 e.2.toNat)) s
def wc17x1 : State := ch0 fun c => { c with st := .active, descMode := false, descRun := false, act := good, pos := 12 }
def wc17x3 : State := ch0 fun c => { c with st := .idle, wb := [⟨0x100004000, 0xA0000001, 0x13000005, 0x123456789AB, true, 0⟩] }
def wc17x5 : State := putDesc 0x100004000 (w0 true 0 true true) (ch0 fun c =>
  { c with st := .idle, descMode := true, descRun := false, fetching := true, descPtr := 0x100004000 })
def wc17x7 : State := putDesc 0x100004000 (w0 true 0 true false) (ch0 fun c => { c with st := .active, act := good,
                                                                                        pos := 3, descMode := true,
                                                                                        descRun := true,
                                                                                        fetching := true,
                                                                                        descPtr := 0x100004000 })
def wc17x8 : State := putDesc 0x100004000 (w0 false 0 true false) (ch0 fun c => { c with st := .active, act := good,
                                                                                         pos := 3, descMode := true,
                                                                                         descRun := true,
                                                                                         fetching := true,
                                                                                         descPtr := 0x100004000 })
def wc17x9 : State := ch0 fun c => { c with st := .idle, descMode := true, descRun := true, fetching := true, descPtr := 0x0F000000 }
def wc17x10 : State := ch0 fun c => { c with st := .active, act := dset (w0 false 0 true false + 2 ^ 30) 12 0x100000103 0xC000000205,
                                             pos := 12, lastDst := 0xC000000210 }
def wc17x11 : State := { ch0 (fun c => { c with st := .active, act := dset (w0 false 0 true false + 2 ^ 30) 12 0x100000103 0x100000205,
                                                pos := 12 }) with lfi := [(0, { held := some (.write none 0x30 0 [{ addr := 0x100000205, byte := 5 }]) })] }
def wc17x12 : State := setOwner 0 0x11 (ch0 fun c =>
  { c with st := .idle, descMode := true, descRun := true, fetching := true, descPtr := 0x100004000 })
def wc17x13 : State := modPcie (fun p => { p with linkUp := false }) (ch0 fun c => { c with st := .active, act := dset (w0 false 0 true false + 2 ^ 30) 12 0x100000103 0xC000000205,
                                                                                            pos := 12, lastDst := 0xC000000210 })
def wc17x15 : State := modMem (fun m => { m with trained := false }) (ch0 fun c =>
  { c with st := .idle, wb := [⟨0x100004000, 0xA0000001, 0x13000005, 0x123456789AB, false, 0⟩] })
def wc17x16 : State := putDesc 0x100004000 (w0 false 0 true false) (ch0 fun c => { c with st := .waitOwn,
                                                                                          descMode := true,
                                                                                          descRun := true,
                                                                                          fetching := true,
                                                                                          descPtr := 0x100004000 })

theorem channelEvents_met1 : ∃ (s : State) (c : Fin 32), transferDone (getChan s ↑c) = true ∧ (getHdr s pgDma).enable = true ∧
  dBarrier (getChan s ↑c).act = true ∧ writesHeld s (48 + BitVec.ofNat 8 ↑c) = true := by
  refine ⟨wc17x11, 0, ?_⟩
  decide +kernel

theorem channelEvents_met2 : ∃ (s : State) (c : Fin 32) (x : Answered), injectorOff s ∧ (∀ (n : ℕ), chanCore s ↑c = some n →
  (getProc s n).stepChans.contains c = false) ∧ let ch := (getChan s ↑c); let a := (BitVec.toNat ch.descPtr); let desc :=
  (List.foldl (fun (m : Store Word) (i : ℕ) => storeSet (fun (x : ℕ) => 0) m i (memWord s (a + 4 * i))) [] (List.range 16));
  ch.fetching = true ∧ (getHdr s pgDma).enable = true ∧ chanCore s ↑c = none ∧ a % 64 = 0 ∧ place a = Place.dram ∧ missingAt s a
  (a + 63) = none ∧ ownerBlocked s (chanOwner s ↑c) false a (a + 63) = none ∧ x ≠ Answered.never ∧ dramFails s a x = false ∧ let
  u := (dramCorrects a x s); beatRefusal u (↑c) false a = none ∧ (∀ i < 64, viewBad u none (a + i) = false) ∧ dOwn desc = false
  ∧ (ch.st = ChanSt.idle ∨ ch.st = ChanSt.waitOwn) := by
  refine ⟨wc17x16, 0, Answered.good, ?_⟩
  dsimp only [injectorOff]; decide +kernel

theorem channelEvents_met3 : ∃ (s : State) (c : Fin 32) (x : Answered), injectorOff s ∧ (∀ (n : ℕ), chanCore s ↑c = some n →
  (getProc s n).stepChans.contains c = false) ∧ let ch := (getChan s ↑c); let a := (BitVec.toNat ch.descPtr); let desc :=
  (List.foldl (fun (m : Store Word) (i : ℕ) => storeSet (fun (x : ℕ) => 0) m i (memWord s (a + 4 * i))) [] (List.range 16));
  ch.fetching = true ∧ (getHdr s pgDma).enable = true ∧ chanCore s ↑c = none ∧ a % 64 = 0 ∧ place a = Place.dram ∧ missingAt s a
  (a + 63) = none ∧ ownerBlocked s (chanOwner s ↑c) false a (a + 63) = none ∧ x ≠ Answered.never ∧ dramFails s a x = false ∧ let
  u := (dramCorrects a x s); beatRefusal u (↑c) false a = none ∧ (∀ i < 64, viewBad u none (a + i) = false) ∧ dOwn desc = false
  ∧ (ch.st = ChanSt.active ∨ ch.st = ChanSt.preempted) := by
  refine ⟨wc17x8, 0, Answered.good, ?_⟩
  dsimp only [injectorOff]; decide +kernel

theorem channelEvents_met4 : ∃ (s : State) (c : Fin 32) (x : Answered), injectorOff s ∧ (∀ (n : ℕ), chanCore s ↑c = some n →
  (getProc s n).stepChans.contains c = false) ∧ let ch := (getChan s ↑c); let a := (BitVec.toNat ch.descPtr); let desc :=
  (List.foldl (fun (m : Store Word) (i : ℕ) => storeSet (fun (x : ℕ) => 0) m i (memWord s (a + 4 * i))) [] (List.range 16));
  ch.fetching = true ∧ (getHdr s pgDma).enable = true ∧ chanCore s ↑c = none ∧ a % 64 = 0 ∧ place a = Place.dram ∧ missingAt s a
  (a + 63) = none ∧ ownerBlocked s (chanOwner s ↑c) false a (a + 63) = none ∧ x ≠ Answered.never ∧ dramFails s a x = false ∧ let
  u := (dramCorrects a x s); beatRefusal u (↑c) false a = none ∧ (∀ i < 64, viewBad u none (a + i) = false) ∧ dOwn desc = true ∧
  (ch.st = ChanSt.active ∨ ch.st = ChanSt.preempted) := by
  refine ⟨wc17x7, 0, Answered.good, ?_⟩
  dsimp only [injectorOff]; decide +kernel

theorem channelEvents_met5 : ∃ (s : State) (c : Fin 32) (x : Answered), injectorOff s ∧ (∀ (n : ℕ), chanCore s ↑c = some n →
  (getProc s n).stepChans.contains c = false) ∧ let ch := (getChan s ↑c); let a := (BitVec.toNat ch.descPtr); let desc :=
  (List.foldl (fun (m : Store Word) (i : ℕ) => storeSet (fun (x : ℕ) => 0) m i (memWord s (a + 4 * i))) [] (List.range 16));
  ch.fetching = true ∧ (getHdr s pgDma).enable = true ∧ chanCore s ↑c = none ∧ a % 64 = 0 ∧ place a = Place.dram ∧ missingAt s a
  (a + 63) = none ∧ ownerBlocked s (chanOwner s ↑c) false a (a + 63) = none ∧ x ≠ Answered.never ∧ dramFails s a x = false ∧ let
  u := (dramCorrects a x s); beatRefusal u (↑c) false a = none ∧ (∀ i < 64, viewBad u none (a + i) = false) ∧ dOwn desc = true ∧
  ch.st = ChanSt.idle ∧ transferCheck u (↑c) desc = none := by
  refine ⟨wc17x5, 0, Answered.good, ?_⟩
  dsimp only [injectorOff]; decide +kernel

theorem channelEvents_met6 : ∃ (s : State) (c : Fin 32), injectorOff s ∧ (∀ (n : ℕ), chanCore s ↑c = some n → (getProc s
  n).stepChans.contains c = false) ∧ let ch := (getChan s ↑c); ch.fetching = true ∧ (getHdr s pgDma).enable = true := by
  refine ⟨wc17x5, 0, ?_⟩
  dsimp only [injectorOff]; decide +kernel

theorem channelEvents_met7 : ∃ (s : State) (c : Fin 32) (x : Answered), injectorOff s ∧ (∀ (n : ℕ), chanCore s ↑c = some n →
  (getProc s n).stepChans.contains c = false) ∧ let ch := (getChan s ↑c); let a := (BitVec.toNat ch.descPtr); ch.fetching = true
  ∧ (getHdr s pgDma).enable = true ∧ chanCore s ↑c = none ∧ a % 64 = 0 ∧ isRegs (place a) = false ∧ x ≠ Answered.never ∧
  (missingAt s a (a + 63)).isSome = true := by
  refine ⟨wc17x9, 0, Answered.good, ?_⟩
  dsimp only [injectorOff]; decide +kernel

theorem channelEvents_met8 : ∃ (s : State) (c : Fin 32) (x : Answered) (b : ℕ), injectorOff s ∧ (∀ (n : ℕ), chanCore s ↑c = some
  n → (getProc s n).stepChans.contains c = false) ∧ let ch := (getChan s ↑c); let a := (BitVec.toNat ch.descPtr); ch.fetching =
  true ∧ (getHdr s pgDma).enable = true ∧ chanCore s ↑c = none ∧ a % 64 = 0 ∧ isRegs (place a) = false ∧ x ≠ Answered.never ∧
  missingAt s a (a + 63) = none ∧ ownerBlocked s (chanOwner s ↑c) false a (a + 63) = some b := by
  refine ⟨wc17x12, 0, Answered.good, 4294983680, ?_⟩
  dsimp only [injectorOff]; decide +kernel

theorem channelEvents_met9 : ∃ (s : State) (c : Fin 32), injectorOff s ∧ (∀ (n : ℕ), chanCore s ↑c = some n → (getProc s
  n).stepChans.contains c = false) ∧ let ch := (getChan s ↑c); let toHost := (place (dDst (chanCore s ↑c) ch.act) = Place.host);
  let ready := (hostReady s (hostFn s (chanOwner s ↑c)) = true); let held := (writesHeld s (48 + BitVec.ofNat 8 ↑c) = true); let
  confirmed := (dBarrier ch.act = false ∨ ¬held ∧ (toHost → ch.flush = true ∧ ready)); transferDone ch = true ∧ (getHdr s
  pgDma).enable = true ∧ confirmed ∧ ch.malformed = none ∧ ch.descRun = false ∧ ch.armed = false := by
  refine ⟨wc17x1, 0, ?_⟩
  dsimp only [injectorOff]; decide +kernel

theorem channelEvents_met10 : ∃ (s : State) (c : Fin 32), injectorOff s ∧ (∀ (n : ℕ), chanCore s ↑c = some n → (getProc s
  n).stepChans.contains c = false) ∧ let ch := (getChan s ↑c); let toHost := (place (dDst (chanCore s ↑c) ch.act) = Place.host);
  let ready := (hostReady s (hostFn s (chanOwner s ↑c)) = true); let held := (writesHeld s (48 + BitVec.ofNat 8 ↑c) = true);
  transferDone ch = true ∧ (getHdr s pgDma).enable = true ∧ dBarrier ch.act = true ∧ toHost ∧ ch.flush = false ∧ ¬held ∧ ready
  := by
  refine ⟨wc17x10, 0, ?_⟩
  dsimp only [injectorOff]; decide +kernel

theorem channelEvents_met11 : ∃ (s : State) (c : Fin 32), injectorOff s ∧ (∀ (n : ℕ), chanCore s ↑c = some n → (getProc s
  n).stepChans.contains c = false) ∧ let ch := (getChan s ↑c); let toHost := (place (dDst (chanCore s ↑c) ch.act) = Place.host);
  let ready := (hostReady s (hostFn s (chanOwner s ↑c)) = true); let held := (writesHeld s (48 + BitVec.ofNat 8 ↑c) = true);
  transferDone ch = true ∧ (getHdr s pgDma).enable = true ∧ dBarrier ch.act = true ∧ toHost ∧ ¬held ∧ ¬ready ∧ ch.descRun =
  false := by
  refine ⟨wc17x13, 0, ?_⟩
  dsimp only [injectorOff]; decide +kernel

theorem channelEvents_met12 : ∃ (s : State) (c : Fin 32), injectorOff s ∧ (∀ (n : ℕ), chanCore s ↑c = some n → (getProc s
  n).stepChans.contains c = false) ∧ let ch := (getChan s ↑c); ((List.take 1 ch.wb).any fun (w : WriteBack) => decide
  (BitVec.toNat w.desc % 64 = 0 ∧ place (BitVec.toNat w.desc) = Place.dram ∧ w.issued = 0 ∧ chanCore s ↑c = none ∧ ¬writesHeld s
  (48 + BitVec.ofNat 8 ↑c) = true ∧ beatRefusal s (↑c) true (BitVec.toNat w.desc) = none ∧ beatRefusal s (↑c) true (BitVec.toNat
  w.desc + 52) = none ∧ beatRefusal s (↑c) true (BitVec.toNat w.desc + 56) = none)) = true := by
  refine ⟨wc17x3, 0, ?_⟩
  dsimp only [injectorOff]; decide +kernel

theorem channelEvents_met13 : ∃ (s : State) (c : Fin 32), injectorOff s ∧ (∀ (n : ℕ), chanCore s ↑c = some n → (getProc s
  n).stepChans.contains c = false) ∧ let ch := (getChan s ↑c); ((List.take 1 ch.wb).any fun (w : WriteBack) => decide
  (BitVec.toNat w.desc % 64 = 0 ∧ place (BitVec.toNat w.desc) = Place.dram ∧ w.issued = 0 ∧ chanCore s ↑c = none ∧ ¬writesHeld s
  (48 + BitVec.ofNat 8 ↑c) = true ∧ Option.any (fun (code : Byte) => decide (w.halted = false)) (beatRefusal s (↑c) true
  (BitVec.toNat w.desc + 52)) = true)) = true := by
  refine ⟨wc17x15, 0, ?_⟩
  dsimp only [injectorOff]; decide +kernel

theorem channelEvents_met14 : ∃ (s : State) (c : Fin 32) (code : Byte), injectorOff s ∧ (∀ (n : ℕ), chanCore s ↑c = some n →
  (getProc s n).stepChans.contains c = false) ∧ let ch := (getChan s ↑c); (getHdr s pgDma).enable = true ∧ (ch.st =
  ChanSt.active ∨ ch.st = ChanSt.preempted) ∧ ch.descRun = false ∧ code ∉ [eParity, eTimeout, 16] := by
  refine ⟨wc17x1, 0, 19, ?_⟩
  dsimp only [injectorOff]; decide +kernel

end W17_ev

/-! ## moverGrants -/

namespace W17_mv

def w0 (own : Bool) (mode : Nat) (irq last : Bool) : Nat := (if own then 2 ^ 31 else 0) + mode * 2 ^ 24 + (if irq then 2 ^ 29 else
  0) + (if last then 2 ^ 28 else 0)
def dset (w : Nat) (len src dst : Nat) : Store Word := ([w, len, src % 2 ^ 32, src / 2 ^ 32, dst % 2 ^ 32, dst / 2 ^ 32,
  1].zipIdx.filter (·.1 ≠ 0)).map fun (x, i) => (i, BitVec.ofNat 32 x)
def good : Store Word := dset (w0 false 0 false false) 12 0x100000103 0x100000205
def ch0 (f : Chan → Chan) : State := memPut 0x100000103 [1, 2, 3, 4, 5, 6, 7, 8, 9, 10, 11, 12, 13] (modChan 0 f (setOwner 0 0
  (setOwner 1 0 (enAll up))))
def wc17x33 : State := ch0 fun c => { c with st := .preempted, act := good, turn := 3 }

theorem moverGrants_met1 : ∃ (s : State) (c : Fin 32) (m : Fin 4), injectorOff s ∧ pageUp s pgDma = true ∧ (getHdr s
  pgDma).enable = true ∧ let ch := (getChan s ↑c); bestWaiter s ≠ some ↑c ∧ ¬(ch.st = ChanSt.active ∧ ch.mover = some m) := by
  refine ⟨wc17x33, 1, 0, ?_⟩
  dsimp only [injectorOff]; decide +kernel

theorem moverGrants_met2 : ∃ (s : State) (c : Fin 32) (m : Fin 4) (n : ℕ), injectorOff s ∧ pageUp s pgDma = true ∧ (getHdr s
  pgDma).enable = true ∧ let ch := (getChan s ↑c); let src := (dSrc none ch.act); let dst := (dDst none ch.act); let len :=
  (dLen ch.act); bestWaiter s = some ↑c ∧ moverChan s m = none ∧ chanCore s ↑c = none ∧ dMode ch.act = 0 ∧ ch.pos = 0 ∧ ch.hold
  = [] ∧ dSrcW ch.act ≤ 6 ∧ dDstW ch.act ≤ 6 ∧ src % srcBeat ch.act = 0 ∧ len % srcBeat ch.act = 0 ∧ dst % 2 ^ dDstW ch.act = 0
  ∧ len % 2 ^ dDstW ch.act = 0 ∧ 0 < len ∧ len ≤ n * 2 ^ dDstW ch.act ∧ (∀ i < len, place (src + i) = Place.dram ∧ place (dst +
  i) = Place.dram) ∧ (src + len ≤ dst ∨ dst + len ≤ src) ∧ dramReady s = true ∧ src + len ≤ dramBase + usableDram s ∧ dst + len
  ≤ dramBase + usableDram s ∧ ∀ i < len, viewBad s none (src + i) = false := by
  refine ⟨wc17x33, 0, 0, 12, ?_⟩
  dsimp only [injectorOff]; decide +kernel

end W17_mv

/-! ## ethernetPorts -/

namespace W18_eth

def D : Nat := 0x100000000
def regsP (p : Nat) (l : List (Nat × Nat)) (s : State) : State := l.foldl (fun s e => setReg pgEth p e.1 (BitVec.ofNat 32 e.2) s) s
def ring (prod cons ctl : Nat) (s : State) : State := regsP 0 [(0x400, ctl), (0x408, 0x1000), (0x40C, 1), (0x410, 4), (0x414, prod),
  (0x418, cons), (0x41C, 0x8000), (0x420, 1), (0x424, 4), (0x428, 1), (0x42C, 0)] s
def txd (s : State) : State := memPut (D + 0x8000) (bytesOf 4 0x00002000 ++ bytesOf 4 (1 + 64 * 256)) (memPut (D + 0x2000)
  ((List.range 64).map fun i => BitVec.ofNat 8 i) s)
def by1 : List Byte := (List.range 70).map fun i => BitVec.ofNat 8 i
def txT (s : State) : State := memPut (D + 0x8000) (bytesOf 4 0x00002000 ++ bytesOf 4 (0x40000000 + 1 + 64 * 256)) s
def wc18x1 : State := txT (txd { ring 1 0 7 (enAll up) with media := { up.media with link := 1 } })

theorem ethernetPorts_met1 : ∃ (s : State) (p : Fin 2) (f : RxFrame), BitVec.getLsbD (cap0 s.fuses.variant) (13 + ↑p) = true ∧
  (getHdr s pgEth).enable = true ∧ let reg := (fun (o : ℕ) => getReg s pgEth (↑p) o); injectorOff s ∧ BitVec.getLsbD (reg 1024)
  2 = true ∧ (f.fcsOk = false ∨ f.bytes.length < 60 ∨ 9212 < f.bytes.length ∨ untag f.bytes = none) := by
  refine ⟨wc18x1, 0, { fcsOk := false, bytes := by1 }, ?_⟩
  dsimp only [injectorOff]; decide +kernel

theorem ethernetPorts_met2 : ∃ (s : State) (p : Fin 2) (f : RxFrame) (vid : ℕ) (bytes : List Byte), BitVec.getLsbD (cap0
  s.fuses.variant) (13 + ↑p) = true ∧ (getHdr s pgEth).enable = true ∧ let reg := (fun (o : ℕ) => getReg s pgEth (↑p) o);
  injectorOff s ∧ BitVec.getLsbD (reg 1024) 2 = true ∧ f.fcsOk = true ∧ 60 ≤ f.bytes.length ∧ f.bytes.length ≤ 9212 ∧ untag
  f.bytes = some (vid, bytes) ∧ bytes.length ≤ 2032 ∧ udpOf bytes = none ∧ 0 < BitVec.toNat (reg 1040) ∧ let slot :=
  (BitVec.toNat (getAddr s pgEth (↑p) 1032) + 2048 * BitVec.toNat (reg 1044)); (BitVec.toNat (reg 1044) + 1) % BitVec.toNat (reg
  1040) ≠ BitVec.toNat (reg 1048) % BitVec.toNat (reg 1040) ∧ place slot = Place.dram ∧ dramReady s = true ∧ slot + 2048 ≤
  dramBase + usableDram s := by
  refine ⟨wc18x1, 0, { fcsOk := true, bytes := by1 }, 0, by1, ?_⟩
  dsimp only [injectorOff]; decide +kernel

theorem ethernetPorts_met3 : ∃ (s : State) (p : Fin 2) (f : RxFrame) (vid : ℕ) (bytes : List Byte), BitVec.getLsbD (cap0
  s.fuses.variant) (13 + ↑p) = true ∧ (getHdr s pgEth).enable = true ∧ let reg := (fun (o : ℕ) => getReg s pgEth (↑p) o);
  injectorOff s ∧ BitVec.getLsbD (reg 1024) 2 = true ∧ f.fcsOk = true ∧ 60 ≤ f.bytes.length ∧ f.bytes.length ≤ 9212 ∧ untag
  f.bytes = some (vid, bytes) ∧ bytes.length ≤ 2032 ∧ udpOf bytes = none ∧ 0 < BitVec.toNat (reg 1040) ∧ (BitVec.toNat (reg
  1044) + 1) % BitVec.toNat (reg 1040) = BitVec.toNat (reg 1048) % BitVec.toNat (reg 1040) := by
  refine ⟨ring 3 0 7 (enAll up), 0, { fcsOk := true, bytes := by1 }, 0, by1, ?_⟩
  dsimp only [injectorOff]; decide +kernel

theorem ethernetPorts_met4 : ∃ (s : State) (p : Fin 2) (x : Answered), BitVec.getLsbD (cap0 s.fuses.variant) (13 + ↑p) = true ∧
  (getHdr s pgEth).enable = true ∧ let reg := (fun (o : ℕ) => getReg s pgEth (↑p) o); let d := (BitVec.toNat (getAddr s pgEth
  (↑p) 1052) + 16 * BitVec.toNat (reg 1068)); let w1 := (memWord s (d + 4)); let frame := (BitVec.toNat (addrOf w1 (memWord s
  d))); let n := (BitVec.toNat w1 / 256 % 65536); s.media.link.getLsbD ↑p = true ∧ BitVec.getLsbD (reg 1024) 1 = true ∧ 0 <
  BitVec.toNat (reg 1060) ∧ reg 1068 ≠ reg 1064 ∧ storeGet (fun (x : ℕ) => []) s.ctlio.tplQueue ↑p = [] ∧ injectorOff s ∧
  devRefusal s false d 8 = none ∧ x ≠ Answered.never ∧ place d = Place.dram ∧ d % 16 = 0 ∧ dramFails s d x = false ∧
  firstDamaged s d 8 = none ∧ let u := (dramCorrects d x s); devRefusal u false frame n = none ∧ dramFails u frame x = false ∧
  firstDamaged s frame n = none ∧ let v := (dramCorrects frame x u); devRefusal v true (d + 4) 4 = none ∧ devRefusal v true (d +
  8) 8 = none := by
  refine ⟨wc18x1, 0, Answered.good, ?_⟩
  dsimp only [injectorOff]; decide +kernel

theorem ethernetPorts_met5 : ∃ (s : State) (p : Fin 2), BitVec.getLsbD (cap0 s.fuses.variant) (13 + ↑p) = true ∧ (getHdr s
  pgEth).enable = true ∧ let reg := (fun (o : ℕ) => getReg s pgEth (↑p) o); let d := (BitVec.toNat (getAddr s pgEth (↑p) 1052) +
  16 * BitVec.toNat (reg 1068)); s.media.link.getLsbD ↑p = true ∧ BitVec.getLsbD (reg 1024) 1 = true ∧ 0 < BitVec.toNat (reg
  1060) ∧ reg 1068 ≠ reg 1064 ∧ storeGet (fun (x : ℕ) => []) s.ctlio.tplQueue ↑p = [] ∧ injectorOff s ∧ devRefusal s false d 8 =
  none := by
  refine ⟨wc18x1, 0, ?_⟩
  dsimp only [injectorOff]; decide +kernel

theorem ethernetPorts_met6 : ∃ (s : State) (p : Fin 2) (up : Bool), BitVec.getLsbD (cap0 s.fuses.variant) (13 + ↑p) = true ∧
  (getHdr s pgEth).enable = true ∧ s.media.link.getLsbD ↑p ≠ up := by
  refine ⟨wc18x1, 0, false, ?_⟩
  decide +kernel

end W18_eth

/-! ## streamEntries -/

namespace W18_str

def pk (seq : Nat) (m : Bool) : RtpPacket := { src := 5, v6 := false, dport := 7000, ssrc := 0xABCD, pt := 96,
                                               marker := m, seq := BitVec.ofNat 16 seq, stamp := 0x1000, payload := [0x41, 2, 3],
                                               rxTime := 900 }
def wc18x3 : RtpPacket := { pk 12 false with entAt := 500 }
def wc18x4 : RtpPacket := { pk 12 false with entAt := 900000 }
def fr1 : FrameAsm := { stamp := 3, firstAt := 100, lastAt := 200, bytes := [1], lost := 0, key := true, gap := false }
def er (e : Nat) (l : List (Nat × Nat)) (s : State) : State := l.foldl (fun s x => setEntReg e x.1 (BitVec.ofNat 32 x.2) s) s
def base : State := enAll up
def ent (x : StreamEnt) (s : State) : State := modEnt 0 (fun _ => x) (er 0 [(0, 1), (0x3C, 0)] s)
def med (f : Media → Media) (s : State) : State := { s with media := f s.media }
def lk (p : RtpPacket) (s : State) : State := med (fun m => { m with keyValid := true, newKeys := [p, { p with ssrc := 9 }],
                                                                     quarantine := [p, { p with ssrc := 9 }] }) (setReg pgStrx 0
  0x05C p.ssrc (setReg pgStrx 0 0x058 (p.dport.setWidth 32) (setReg pgStrx 0 0x048 5 s)))
def wc18x6 : State := ent { exp := some 10 } base
def wc18x7 : State := ent { exp := some 10, window := [{ pk 12 false with entAt := 500 }] } base
def wc18x8 : State := er 0 [(0x3C, 0x00010200)] (ent { exp := some 10, window := [{ pk 12 false with entAt := 900000 }] } base)
def wc18x9 : State := er 0 [(0x3C, 0x00010200)] (ent { asm := [fr1] } base)
def wc18x10 : State := ent { asm := [fr1] } base

theorem streamEntries_met1 : ∃ (s : State) (e : Fin 512) (p : RtpPacket), Option.any (fun (x : BitVec 16) => decide ((getEnt s
  ↑e).window = [] ∧ p.seq = x ∧ p.marker = false ∧ (getEnt s ↑e).asm = [] ∧ (getEnt s ↑e).missing = 0 ∧ p.stamp ∉ (getEnt s
  ↑e).late ∧ (esOf s.free (fld (entReg s (↑e) 0) 5 3) p.payload).isSome = true)) (getEnt s ↑e).exp = true := by
  refine ⟨wc18x6, 0, pk 10 false, ?_⟩
  decide +kernel

theorem streamEntries_met2 : ∃ (s : State) (e : Fin 512) (p : RtpPacket), Option.any (fun (x : BitVec 16) => decide ((getEnt s
  ↑e).window = [] ∧ 2 ^ 15 ≤ (p.seq - x).toNat)) (getEnt s ↑e).exp = true := by
  refine ⟨wc18x6, 0, pk 9 false, ?_⟩
  decide +kernel

theorem streamEntries_met3 : ∃ (s : State) (p : RtpPacket), (∀ e < 512, entMatches s e p = false) ∧ keyOfPacket p ∉
  s.media.ageing ∧ freeEntries s ≠ 0 ∧ s.media.quarantine = [] := by
  refine ⟨base, wc18x3, ?_⟩
  decide +kernel

theorem streamEntries_met4 : ∃ (s : State) (r : Requester), Taken s r pgStrx 96 := by
  refine ⟨base, Requester.mgmt, ?_⟩
  repeat' first | decide +kernel | constructor

theorem streamEntries_met5 : ∃ (s : State) (r : Requester), Taken s r pgStrx 96 ∧ ∀ p ∈ s.media.newKeys, inLoadedKey s p = true
  := by
  refine ⟨base, Requester.mgmt, ?_⟩
  repeat' first | decide +kernel | constructor

theorem streamEntries_met6 : ∃ (s : State) (r : Requester), Taken s r pgStrx 96 ∧ ((List.take 1 (List.filter (fun (p :
  RtpPacket) => !inLoadedKey s p) s.media.newKeys)).any fun (p : RtpPacket) => decide True) = true := by
  refine ⟨lk (pk 10 false) base, Requester.mgmt, ?_⟩
  repeat' first | decide +kernel | constructor

theorem streamEntries_met7 : ∃ (s : State) (r : Requester) (k : Fin 8) (c : ℕ), selChan s r pgStrx = some c ∧ c < 64 ∧ Taken s r
  pgStrx (1104 + 128 * ↑k) := by
  refine ⟨base, Requester.mgmt, 0, 0, ?_⟩
  repeat' first | decide +kernel | constructor

theorem streamEntries_met8 : ∃ (s : State) (r : Requester) (k : Fin 8) (c : ℕ) (v : Word), selChan s r pgStrx = some c ∧ c < 64
  ∧ let e := (8 * c + ↑k); Taken s r pgStrx (1024 + 128 * ↑k) ∧ BitVec.getLsbD (entReg s e 0) 0 = false ∧ BitVec.getLsbD v 0 =
  true ∧ BitVec.getLsbD v 1 = false ∧ s.media.quarantine = [] := by
  refine ⟨base, Requester.mgmt, 0, 0, 1, ?_⟩
  dsimp only; repeat' first | decide +kernel | constructor

theorem streamEntries_met9 : ∃ (s : State) (r : Requester) (k : Fin 8) (c : ℕ) (v : Word), selChan s r pgStrx = some c ∧ c < 64
  ∧ let e := (8 * c + ↑k); Taken s r pgStrx (1024 + 128 * ↑k) ∧ BitVec.getLsbD (entReg s e 0) 0 = true ∧ v &&& 66060351 = entReg
  s e 0 &&& 66060350 := by
  refine ⟨wc18x6, Requester.mgmt, 0, 0, 0, ?_⟩
  dsimp only; repeat' first | decide +kernel | constructor

theorem streamEntries_met10 : ∃ (s : State) (e : Fin 512) (x : BitVec 16) (p : RtpPacket), (getEnt s ↑e).exp = some x ∧ (getEnt
  s ↑e).window = [p] ∧ 0 < (p.seq - x).toNat ∧ (p.seq - x).toNat < 64 ∧ p.marker = false ∧ (getEnt s ↑e).asm = [] ∧ (getEnt s
  ↑e).missing = 0 ∧ p.stamp ∉ (getEnt s ↑e).late ∧ now s < p.entAt + fld (entReg s (↑e) 60) 15 0 * 1000 := by
  refine ⟨wc18x8, 0, 10, wc18x4, ?_⟩
  decide +kernel

theorem streamEntries_met11 : ∃ (s : State) (e : Fin 512) (x : BitVec 16) (p : RtpPacket), (getEnt s ↑e).exp = some x ∧ (getEnt
  s ↑e).window = [p] ∧ 0 < (p.seq - x).toNat ∧ (p.seq - x).toNat < 64 ∧ p.marker = false ∧ (getEnt s ↑e).asm = [] ∧ (getEnt s
  ↑e).missing = 0 ∧ p.stamp ∉ (getEnt s ↑e).late ∧ domOn s 16 = true ∧ p.entAt + fld (entReg s (↑e) 60) 15 0 * 1000 ≤ now s ∧
  (esOf s.free (fld (entReg s (↑e) 0) 5 3) p.payload).isSome = true := by
  refine ⟨wc18x7, 0, 10, wc18x3, ?_⟩
  decide +kernel

theorem streamEntries_met12 : ∃ (s : State) (e : Fin 512), ((getEnt s ↑e).asm.any fun (a : FrameAsm) => decide ((getEnt s
  ↑e).window = [] ∧ now s < a.firstAt + fld (entReg s (↑e) 60) 31 16 * 1000000)) = true ∧ (getEnt s ↑e).asm.length = 1 := by
  refine ⟨wc18x9, 0, ?_⟩
  decide +kernel

theorem streamEntries_met13 : ∃ (s : State) (e : Fin 512), ((getEnt s ↑e).asm.any fun (a : FrameAsm) => decide ((getEnt s
  ↑e).window = [] ∧ domOn s 16 = true ∧ a.firstAt + fld (entReg s (↑e) 60) 31 16 * 1000000 ≤ now s)) = true ∧ (getEnt s
  ↑e).asm.length = 1 := by
  refine ⟨wc18x10, 0, ?_⟩
  decide +kernel

end W18_str

/-! ## sensorFrames -/

namespace W19

def regsP (pg p : Nat) (l : List (Nat × Nat)) (s : State) : State := l.foldl (fun s e => setReg pg p e.1 (BitVec.ofNat 32 e.2) s) s
def base : State := regsP pgCodec 0 [(0x040, 0)] { enAll up with pacer := { up.pacer with jobs := [] } }
def ln (k : Nat) : List (BitVec 14) := (List.range 8).map fun i => BitVec.ofNat 14 (i * 13 + k * 300)
def csi (x : CsiInput) (o : Nat) : State := let s := regsP pgPfe 0 [(0x400, 1), (0x480, 1 + 0x30), (0x484, 0), (0x488, 8 + 4 * 65536), (0x48C, 8 + 4 * 65536), (0x490, 0x8000), (0x494, 1), (0x498, 16), (0x49C, 0x1000), (0x4A0, o), (0x4A8, 0xFFFF0000)] (regsP pgCsi 0 [(0x400, 1 + 16 + 0x2A * 256), (0x404, 8 + 4 * 65536)] base)
  { s with media := { s.media with csi := [(0, x)] } }
def ls : List (List (BitVec 14)) := [ln 0, ln 1, ln 2, ln 3]
def wc19x1 : State := csi {} 3
def wc19x4 : State := csi { lines := ls, damaged := true } 0
def wc19x5 : State := csi { ready := some (ls, false) } 6
def wc19x6 : State := csi { ready := some (ls, true) } 0

theorem sensorFrames_met1 : ∃ (s : State) (i : Fin 4) (p : CsiPacket), csiOn s ↑i = true ∧ p.eccFixed = false ∧ p.eccBad = true
  := by
  refine ⟨wc19x1, 0, { vc := 1, dt := 42, eccFixed := false, eccBad := true, crcBad := false, line := ln 1 }, ?_⟩
  decide +kernel

theorem sensorFrames_met2 : ∃ (s : State) (i : Fin 4) (p : CsiPacket), let ctrl := (getReg s pgCsi (↑i) 1024); csiOn s ↑i = true
  ∧ p.eccFixed = false ∧ p.eccBad = false ∧ (p.vc.toNat ≠ fld ctrl 7 4 ∨ p.dt.toNat ≠ fld ctrl 13 8 ∨ p.dt ∉ [42, 43, 44, 45,
  30]) := by
  refine ⟨wc19x1, 0, { vc := 2, dt := 42, eccFixed := false, eccBad := false, crcBad := false, line := ln 1 }, ?_⟩
  decide +kernel

theorem sensorFrames_met3 : ∃ (s : State) (i : Fin 4) (p : CsiPacket), let ctrl := (getReg s pgCsi (↑i) 1024); csiOn s ↑i = true
  ∧ p.eccFixed = false ∧ p.eccBad = false ∧ p.vc.toNat = fld ctrl 7 4 ∧ p.dt.toNat = fld ctrl 13 8 ∧ p.dt ∈ [42, 43, 44, 45, 30]
  ∧ p.crcBad = false := by
  refine ⟨wc19x1, 0, { vc := 1, dt := 42, eccFixed := false, eccBad := false, crcBad := false, line := ln 1 }, ?_⟩
  decide +kernel

theorem sensorFrames_met4 : ∃ (s : State) (i : Fin 4) (p : CsiPacket), let ctrl := (getReg s pgCsi (↑i) 1024); csiOn s ↑i = true
  ∧ p.eccFixed = false ∧ p.eccBad = false ∧ p.vc.toNat = fld ctrl 7 4 ∧ p.dt.toNat = fld ctrl 13 8 ∧ p.dt ∈ [42, 43, 44, 45, 30]
  ∧ p.crcBad = true := by
  refine ⟨wc19x1, 0, { vc := 1, dt := 42, eccFixed := false, eccBad := false, crcBad := true, line := ln 1 }, ?_⟩
  decide +kernel

theorem sensorFrames_met5 : ∃ (s : State) (i : Fin 4) (p : CsiPacket), csiOn s ↑i = true ∧ p.eccFixed = true ∧ p.eccBad = true
  := by
  refine ⟨wc19x1, 0, { vc := 1, dt := 42, eccFixed := true, eccBad := true, crcBad := false, line := ln 1 }, ?_⟩
  decide +kernel

theorem sensorFrames_met6 : ∃ (s : State) (i : Fin 4) (p : CsiPacket), let ctrl := (getReg s pgCsi (↑i) 1024); csiOn s ↑i = true
  ∧ p.eccFixed = true ∧ p.eccBad = false ∧ p.vc.toNat = fld ctrl 7 4 ∧ p.dt.toNat = fld ctrl 13 8 ∧ p.dt ∈ [42, 43, 44, 45, 30]
  ∧ p.crcBad = false := by
  refine ⟨wc19x1, 0, { vc := 1, dt := 42, eccFixed := true, eccBad := false, crcBad := false, line := ln 1 }, ?_⟩
  decide +kernel

theorem sensorFrames_met7 : ∃ (s : State) (i : Fin 4), let x := (getCsi s ↑i); let ctrl := (getReg s pgCsi (↑i) 1024); let size
  := (getReg s pgCsi (↑i) 1028); csiOn s ↑i = true ∧ let good := (x.lines.length = fld size 28 16 ∧ ∀ l ∈ x.lines, l.length =
  fld size 12 0 * if fld ctrl 13 8 = 30 then 2 else 1); good := by
  refine ⟨wc19x4, 0, ?_⟩
  decide +kernel

theorem sensorFrames_met8 : ∃ (s : State) (i : Fin 4), let x := (getCsi s ↑i); let ctrl := (getReg s pgCsi (↑i) 1024); let size
  := (getReg s pgCsi (↑i) 1028); csiOn s ↑i = true ∧ let good := (x.lines.length = fld size 28 16 ∧ ∀ l ∈ x.lines, l.length =
  fld size 12 0 * if fld ctrl 13 8 = 30 then 2 else 1); ¬good := by
  refine ⟨wc19x1, 0, ?_⟩
  decide +kernel

theorem sensorFrames_met9 : ∃ (s : State) (i : Fin 4) (o : Fin 4) (lines : List (List (BitVec 14))) (damaged : Bool), let x :=
  (getCsi s ↑i); let reg := (fun (k : ℕ) => getReg s pgPfe (↑i) (1152 + 64 * ↑o + k)); x.ready = some (lines, damaged) ∧
  pagePresent s pgPfe = true ∧ domOn s 18 = true ∧ (getHdr s pgPfe).enable = true ∧ BitVec.getLsbD (getReg s pgPfe (↑i) 1024) 0
  = true ∧ BitVec.getLsbD (reg 0) 0 = true ∧ x.taken.getLsbD ↑o = false ∧ csiEntries s ↑i ↑o = [] ∧ frameWritten.freeBuf (reg
  32) (fld (reg 0) 7 4) = none := by
  refine ⟨wc19x6, 0, 0, ls, true, ?_⟩
  decide +kernel

theorem sensorFrames_met10 : ∃ (s : State) (i : Fin 4) (o : Fin 4) (lines : List (List (BitVec 14))) (damaged : Bool), let x :=
  (getCsi s ↑i); let reg := (fun (k : ℕ) => getReg s pgPfe (↑i) (1152 + 64 * ↑o + k)); x.ready = some (lines, damaged) ∧
  pagePresent s pgPfe = true ∧ domOn s 18 = true ∧ (getHdr s pgPfe).enable = true ∧ BitVec.getLsbD (getReg s pgPfe (↑i) 1024) 0
  = true ∧ BitVec.getLsbD (reg 0) 0 = true ∧ x.taken.getLsbD ↑o = false ∧ csiEntries s ↑i ↑o = [] ∧ injectorOff s ∧
  (frameWritten.freeBuf (reg 32) (fld (reg 0) 7 4)).isSome = true := by
  refine ⟨wc19x5, 0, 0, ls, false, ?_⟩
  dsimp only [injectorOff]; decide +kernel

theorem sensorFrames_met11 : ∃ (s : State) (i : Fin 4) (r : Requester) (o : Fin 4), Taken s r pgPfe (1188 + 64 * ↑o) ∧ selChan s
  r pgPfe = some ↑i := by
  refine ⟨wc19x1, 0, Requester.mgmt, 0, ?_⟩
  repeat' first | decide +kernel | constructor

end W19

/-! ## controlPins -/

namespace W20_pins

def regsP (pg p : Nat) (l : List (Nat × Nat)) (s : State) : State := l.foldl (fun s e => setReg pg p e.1 (BitVec.ofNat 32 e.2) s) s
def base : State := regsP pgCtlio 0 [(0x048, 0), (0x04C, 0), (0x050, 0), (0x054, 0)] (enAll up)
def ct (f : Ctlio → Ctlio) (s : State) : State := { s with ctlio := f s.ctlio }
def wc20x1 : State := ct (fun c => { c with inPin := 0x8008, inLevel := 0x8000, changeAt := [(3, some 0), (0, some 1000000)],
                                            outActive := 0x83, pulses := [(0, some 500), (7, some 5000000)] }) base
def wc20x2 : State := ct (fun c => { c with inPin := 0x0001, inLevel := 0x0009, changeAt := [(3, some 0)], uart := [(0, { tx := [0xC1, 2], rx := [0xC1, 7], deUntil := some 1500000 }), (1, { tx := [9], rx := List.replicate 64 1 })] })
  (regsP pgCtlio 0 [(0x0C0, 0x03100000), (0x0D0, 0x01000000), (0x080, 0x00018000), (0x090, 0x7777), (0x08C, 0x7FFF)] base)

theorem controlPins_met1 : ∃ (s : State) (i : Fin 16) (level : Bool), s.ctlio.inPin.getLsbD ↑i = !level := by
  refine ⟨base, 0, true, ?_⟩
  decide +kernel

theorem controlPins_met2 : ∃ (s : State) (i : Fin 16), Option.any (fun (at' : ℕ) => decide (at' + debounceNs s ↑i ≤ now s))
  (storeGet (fun (x : ℕ) => none) s.ctlio.changeAt ↑i) = true := by
  refine ⟨wc20x1, 3, ?_⟩
  decide +kernel

theorem controlPins_met3 : ∃ (s : State) (r : Requester), Taken s r pgCtlio 92 := by
  refine ⟨base, Requester.mgmt, ?_⟩
  repeat' first | decide +kernel | constructor

theorem controlPins_met4 : ∃ (s : State) (r : Requester), Taken s r pgCtlio 96 := by
  refine ⟨base, Requester.mgmt, ?_⟩
  repeat' first | decide +kernel | constructor

theorem controlPins_met5 : ∃ (s : State) (o : Fin 8), Option.any (fun (due : ℕ) => decide (due ≤ now s)) (storeGet (fun (x : ℕ)
  => none) s.ctlio.pulses ↑o) = true := by
  refine ⟨wc20x1, 0, ?_⟩
  decide +kernel

theorem controlPins_met6 : ∃ (s : State) (r : Requester) (u : Fin 2), let x := (getUart s ↑u); Taken s r pgCtlio (196 + 16 * ↑u)
  ∧ x.tx.length < 64 := by
  refine ⟨base, Requester.mgmt, 0, ?_⟩
  dsimp only; repeat' first | decide +kernel | constructor

theorem controlPins_met7 : ∃ (s : State) (r : Requester) (u : Fin 2), Readable s r pgCtlio (196 + 16 * ↑u) := by
  refine ⟨base, Requester.mgmt, 0, ?_⟩
  repeat' first | decide +kernel | constructor

theorem controlPins_met8 : ∃ (s : State) (u : Fin 2), let x := (getUart s ↑u); let cfg := (uartCfg s ↑u); let bits := (fun (n :
  ℕ) => n * fld cfg 19 0 * 5 / 2); let frame := (((1 + if BitVec.getLsbD cfg 20 = true then 7 else 8) + if fld cfg 22 21 = 0
  then 0 else 1) + if BitVec.getLsbD cfg 23 = true then 2 else 1); x.tx = [] ∨ now s < x.lineAt + bits frame := by
  refine ⟨base, 0, ?_⟩
  decide +kernel

theorem controlPins_met9 : ∃ (s : State) (u : Fin 2), let x := (getUart s ↑u); ((List.take 1 x.tx).any fun (b : Byte) => decide
  ((getUart s ↑u).lineAt + (((1 + if BitVec.getLsbD (uartCfg s ↑u) 20 = true then 7 else 8) + if fld (uartCfg s ↑u) 22 21 = 0
  then 0 else 1) + if BitVec.getLsbD (uartCfg s ↑u) 23 = true then 2 else 1) * fld (uartCfg s ↑u) 19 0 * 5 / 2 ≤ now s)) = true
  := by
  refine ⟨wc20x2, 0, ?_⟩
  decide +kernel

theorem controlPins_met10 : ∃ (s : State) (u : Fin 2), let x := (getUart s ↑u); let cfg := (uartCfg s ↑u); ¬(BitVec.getLsbD cfg
  25 = true ∧ uartDrives s ↑u = true) ∧ x.rx.length < 64 := by
  refine ⟨base, 0, ?_⟩
  decide +kernel

end W20_pins

/-! ## eventsAndRules -/

namespace W20_rules

def regsP (pg p : Nat) (l : List (Nat × Nat)) (s : State) : State := l.foldl (fun s e => setReg pg p e.1 (BitVec.ofNat 32 e.2) s) s
def base : State := regsP pgCtlio 0 [(0x048, 0), (0x04C, 0), (0x050, 0), (0x054, 0)] (enAll up)
def ct (f : Ctlio → Ctlio) (s : State) : State := { s with ctlio := f s.ctlio }
def rule (n : Nat) (ctrl a b act : Nat) (s : State) : State := regsP pgCtlio n [(0x400, ctrl), (0x404, a), (0x408, b), (0x414, act)] s
def due (f : Ctlio → Ctlio) (s : State) : State := ct (fun c => f { c with passDue := true }) s
def wc20x6 : State := due (fun c => { c with rises := 2, events := [⟨5, 0⟩] }) (rule 5 1 (3 + 16) 0 0x2C1 base)
def wc20x7 : State := due (fun c => { c with inLevel := 2, outActive := 0xFF, events := [⟨5, 0⟩] }) (rule 5 1 (1 + 16) 0 0x3C1 base)
def wc20x9 : State := ct (fun c => { c with hold := [(5, { aAt := some 500, bAt := some 500, prev := true }), (0, { aAt := some 999999 })],
                                            timers := [(0, { due := some 1000 }), (7, { due := some 999 })],
                                            inLevel := 3 }) (regsP pgCtlio 0 [(0x0A0, 0x81000005), (0x0BC, 0x80000003), (0x400,
  0x51), (0x404, 0x11)] (rule 5 1 1 0 0 base))
def wc20x10 : State := ct (fun c => { c with tplQueue := [(0, [[1, 2], [3]]), (1, [[5]])] })
  { base with media := { base.media with link := 3 } }

theorem eventsAndRules_met1 : ∃ (s : State) (r : Requester), Taken s r pgCtlio 104 := by
  refine ⟨base, Requester.mgmt, ?_⟩
  repeat' first | decide +kernel | constructor

theorem eventsAndRules_met2 : ∃ (s : State), (getHdr s pgCtlio).enable = true ∧ s.ctlio.passDue = true ∧ getReg s pgCtlio 0 232
  = 0 ∧ let ev := (s.ctlio.events.head?); ∀ n < 64, (ruleEval s ev n).1 = false := by
  refine ⟨due id base, ?_⟩
  decide +kernel

theorem eventsAndRules_met3 : ∃ (s : State) (n : _), (getHdr s pgCtlio).enable = true ∧ s.ctlio.passDue = true ∧ getReg s
  pgCtlio 0 232 = 0 ∧ let ev := (s.ctlio.events.head?); n < 64 ∧ (∀ m < 64, (ruleEval s ev m).1 = true ↔ m = n) ∧ let a :=
  (getReg s pgCtlio n 1044); fld a 9 8 ∈ [2, 3] ∧ BitVec.getLsbD a 12 = false ∧ BitVec.getLsbD a 16 = false ∧ ∀ k < 8,
  ¬(BitVec.getLsbD (timerReg s k) 31 = true ∧ BitVec.getLsbD (timerReg s k) 24 = true ∧ fld (timerReg s k) 30 25 = n) := by
  refine ⟨wc20x6, 5, ?_⟩
  decide +kernel

theorem eventsAndRules_met4 : ∃ (s : State) (n : ℕ), let ctrl := (getReg s pgCtlio n 1024); let a := (getReg s pgCtlio n 1028);
  BitVec.getLsbD ctrl 0 = true ∧ fld ctrl 3 1 = 0 ∧ fld a 9 4 < 16 ∧ fld a 3 0 = 1 := by
  refine ⟨wc20x7, 5, ?_⟩
  decide +kernel

theorem eventsAndRules_met5 : ∃ (s : State) (n : ℕ), let ctrl := (getReg s pgCtlio n 1024); let a := (getReg s pgCtlio n 1028);
  BitVec.getLsbD ctrl 0 = true ∧ fld ctrl 3 1 = 0 ∧ fld a 9 4 < 16 ∧ fld a 3 0 = 3 := by
  refine ⟨wc20x6, 5, ?_⟩
  decide +kernel

theorem eventsAndRules_met6 : ∃ (s : State) (k : Fin 8), Option.any (fun (due : ℕ) => decide (due ≤ now s)) (timerDue s ↑k) =
  true := by
  refine ⟨wc20x9, 0, ?_⟩
  decide +kernel

theorem eventsAndRules_met7 : ∃ (s : State) (n : Fin 64) (condB : Bool), Option.any (fun (since : ℕ) => decide (since + fld
  (getReg s pgCtlio (↑n) 1024) 19 4 * 1000000 ≤ now s)) (if condB = true then (storeGet (fun (x : ℕ) => { }) s.ctlio.hold
  ↑n).bAt else (storeGet (fun (x : ℕ) => { }) s.ctlio.hold ↑n).aAt) = true := by
  refine ⟨wc20x9, 5, false, ?_⟩
  decide +kernel

theorem eventsAndRules_met8 : ∃ (s : State) (p : Fin 2), ((List.take 1 (storeGet (fun (x : ℕ) => []) s.ctlio.tplQueue ↑p)).any
  fun (f : List Byte) => decide (portUp s ↑p = true)) = true := by
  refine ⟨wc20x10, 0, ?_⟩
  decide +kernel

end W20_rules

/-! ## functionsAndLink -/

namespace W21_fl

def base : State := { enAll up with pacer := { up.pacer with jobs := [] } }
def qs (k : Nat) (f : Queue → Queue) (s : State) : State := modQueue k f s
def pc (f : Pcie → Pcie) (s : State) : State := { s with pcie := f s.pcie }
def act (s : State) : State := modClass 2 (fun c => { c with st := .accepted, owner := 0x10 }) (modClass 3 (fun c =>
  { c with st := .defined, owner := 0x11 }) (setOwner 0 0x10 (setOwner 1 0x11 (modChan 0 (fun c =>
  { c with en := true, st := .idle }) (qs 1 (fun x => { x with en := true, sqTail := 4 })
  { s with pacer := { s.pacer with jobs := [job0] } })))))
def wc21x2 : State := pc (fun p => { p with linkUp := false }) base
def wc21x3 : State := pc (fun p => { p with linkUp := false, training := true }) base

theorem functionsAndLink_met1 : ∃ (s : State) (f : Fin 16), PacerAtRest s ∧ s.pacer.plan = none ∧ fnExists s ↑f = true ∧
  s.pcie.linkUp = true ∧ pulseBusy s = false := by
  refine ⟨base, 0, ?_⟩
  repeat' first | decide +kernel | refine aborts_ok ?_ | constructor

theorem functionsAndLink_met2 : ∃ (s : State) (r : Requester), PacerAtRest s ∧ s.pacer.plan = none ∧ Taken s r pgPcie 72 ∧
  r.isOwner = true := by
  refine ⟨base, Requester.mgmt, ?_⟩
  repeat' first | decide +kernel | refine aborts_ok ?_ | constructor

theorem functionsAndLink_met3 : ∃ (s : State), s.pcie.linkUp = true := by
  refine ⟨base, ?_⟩
  decide +kernel

theorem functionsAndLink_met4 : ∃ (s : State), s.pcie.perst = false ∧ s.pcie.linkUp = false ∧ domOn s 15 = true ∧
  s.reset_.romStarted = true := by
  refine ⟨wc21x2, ?_⟩
  decide +kernel

theorem functionsAndLink_met5 : ∃ (s : State), s.pcie.training = true ∧ domOn s 15 = true := by
  refine ⟨wc21x3, ?_⟩
  decide +kernel

theorem functionsAndLink_met6 : ∃ (s : State), s.pcie.linkUp = true ∨ s.pcie.training = true := by
  refine ⟨base, ?_⟩
  decide +kernel

theorem functionsAndLink_met7 : ∃ (s : State) (f : Fin 16), (s.pcie.linkUp = true ∨ s.pcie.training = true) ∧ fnExists s ↑f =
  true := by
  refine ⟨base, 0, ?_⟩
  decide +kernel

theorem functionsAndLink_met8 : ∃ (s : State) (r : Requester) (k : Fin 64) (owner : Byte), Taken s r pgPcie 112 ∧ r =
  Requester.mgmt ∧ (16 ≤ BitVec.toNat owner ∧ BitVec.toNat owner ≤ 31) ∧ (getClass s ↑k).st ≠ ClassSt.free := by
  refine ⟨act base, Requester.mgmt, 2, 16, ?_⟩
  repeat' first | decide +kernel | constructor

theorem functionsAndLink_met9 : ∃ (s : State) (r : Requester) (owner : Byte), Taken s r pgPcie 112 ∧ r = Requester.mgmt ∧ ¬(16 ≤
  BitVec.toNat owner ∧ BitVec.toNat owner ≤ 31) := by
  refine ⟨base, Requester.mgmt, 0, ?_⟩
  repeat' first | decide +kernel | constructor

end W21_fl

/-! ## hostRequests -/

namespace W21_hr

def regsP (pg p : Nat) (l : List (Nat × Nat)) (s : State) : State := l.foldl (fun s e => setReg pg p e.1 (BitVec.ofNat 32 e.2) s) s
def base : State := { enAll up with pacer := { up.pacer with jobs := [] } }
def pc (f : Pcie → Pcie) (s : State) : State := { s with pcie := f s.pcie }
def wc21x4 : State := { base with mem := { base.mem with eccOn := true } }
def wc21x5 : State := pc (fun p => { p with ptmEnabled := true }) (regsP pgPcie 0 [(0x050, 1)] (regsP pgTime 0 [(0x048, 0x00640001)]
  base))

theorem hostRequests_met1 : ∃ (s : State) (f : Fin 16) (off : BitVec 36) (len : ℕ), injectorOff s ∧ inReset s = false ∧
  s.pcie.linkUp = true ∧ domOn s 15 = true ∧ fnExists s ↑f = true ∧ let a := (if off.toNat < 67108864 then 268435456 + off.toNat
  else 4294967296 + off.toNat); 0 < len ∧ grantCovers s (↑f) false off.toNat (off.toNat + len - 1) = true ∧ rangeMissing s a (a
  + len - 1) = false ∧ rangeRefused (placeRefusal s none false false 0) a len = none ∧ (∀ k < len, viewBad s none (a + k) =
  false) ∧ (place a = Place.dram ∨ ∃ (n : ℕ), place a = Place.shm n) := by
  refine ⟨wc21x4, 0, 0x4000000, 1, ?_⟩
  dsimp only [injectorOff]; repeat' first | decide +kernel | constructor

theorem hostRequests_met2 : ∃ (s : State) (f : Fin 16) (off : BitVec 36) (len : ℕ), injectorOff s ∧ inReset s = false ∧
  s.pcie.linkUp = true ∧ domOn s 15 = true ∧ fnExists s ↑f = true ∧ let a := (if off.toNat < 67108864 then 268435456 + off.toNat
  else 4294967296 + off.toNat); 0 < len ∧ grantCovers s (↑f) false off.toNat (off.toNat + len - 1) = true ∧ rangeMissing s a (a
  + len - 1) = false ∧ rangeRefused (placeRefusal s none false false 0) a len = none ∧ (∀ k < len, viewBad s none (a + k) =
  false) ∧ (place a = Place.dram ∨ ∃ (n : ℕ), place a = Place.shm n) ∧ place a = Place.dram ∧ s.mem.eccOn = true := by
  refine ⟨wc21x4, 0, 67108864, 1, ?_⟩
  dsimp only [injectorOff]; repeat' first | decide +kernel | constructor

theorem hostRequests_met3 : ∃ (s : State) (f : Fin 16) (off : BitVec 36) (bs : List Byte), injectorOff s ∧ inReset s = false ∧
  s.pcie.linkUp = true ∧ domOn s 15 = true ∧ fnExists s ↑f = true ∧ let a := (if off.toNat < 67108864 then 268435456 + off.toNat
  else 4294967296 + off.toNat); bs ≠ [] ∧ grantCovers s (↑f) true off.toNat (off.toNat + bs.length - 1) = true ∧ rangeMissing s
  a (a + bs.length - 1) = false ∧ rangeRefused (placeRefusal s none false true 0) a bs.length = none ∧ (place a = Place.dram ∨ ∃
  (n : ℕ), place a = Place.shm n) := by
  refine ⟨wc21x4, 0, 0x4000000, [1, 2, 3], ?_⟩
  dsimp only [injectorOff]; repeat' first | decide +kernel | constructor

theorem hostRequests_met4 : ∃ (s : State) (f : Fin 16) (off : BitVec 36) (len : ℕ), injectorOff s ∧ inReset s = false ∧
  s.pcie.linkUp = true ∧ domOn s 15 = true ∧ fnExists s ↑f = true ∧ 0 < len ∧ grantCovers s (↑f) false off.toNat (off.toNat +
  len - 1) = false := by
  refine ⟨wc21x4, 1, 0, 1, ?_⟩
  dsimp only [injectorOff]; decide +kernel

theorem hostRequests_met5 : ∃ (s : State), BitVec.getLsbD (getReg s pgPcie 0 80) 0 = true ∧ s.pcie.ptmEnabled = true ∧
  s.pcie.linkUp = true ∧ ∀ (t : ℕ), s.pcie.ptmAt = some t → t + max 1 (fld (getReg s pgPcie 0 80) 15 8) * 1000000 ≤ now s := by
  refine ⟨wc21x5, ?_⟩
  decide +kernel

end W21_hr

/-! ## herdMessages -/

namespace W22_herd

def regsP (pg p : Nat) (l : List (Nat × Nat)) (s : State) : State := l.foldl (fun s e => setReg pg p e.1 (BitVec.ofNat 32 e.2) s) s
def base : State := { enAll up with pacer := { up.pacer with jobs := [] } }
def mkv (ws : List Word) : Vector Word 16 := let b := sealMessage ws; Vector.ofFn fun i => BitVec.ofNat 32 (ofBytes ((b.drop (4 *
  i.val)).take 4))
def rec (src st bid members : Nat) (up : List Nat) : Vector Word 16 := mkv ([BitVec.ofNat 32 (src + 0x80 * 256), BitVec.ofNat 32 (st
  + bid * 256 + members * 65536)] ++ up.map (BitVec.ofNat 32))
def msg (src seq ty : Nat) : Vector Word 16 := mkv [BitVec.ofNat 32 (src + ty * 256 + seq * 65536), 7, 8]
def hd (f : Herd → Herd) (s : State) : State := { s with herd := f s.herd }
def pr (p : Nat) (f : Peer → Peer) (s : State) : State := hd (fun h => { h with peers := storeMod (fun _ => {}) h.peers p f }) s
def hbase (st : HerdSt) (bid : Nat) : State := hd (fun h => { h with st := st, bellId := BitVec.ofNat 4 bid }) (regsP pgHerd 0 [(0x040, 1 + 16), (0x050, 0x00010301), (0x054, 0x4010000), (0x058, 1), (0x05C, 0), (0x060, 0x4010), (0x064, 0xC0000100)] (regsP pgHerd 0 [(0x400, 0x00050001), (0x404, 0x1000), (0x408, 9), (0x40C, 3)]
  (regsP pgHerd 3 [(0x400, 0x00070001), (0x404, 0x2000), (0x408, 9), (0x40C, 5)] base)))
def recBad : Vector Word 16 := (rec 3 2 0 0 [1]).set 3 99
def noAp (s : State) : State := setReg pgHerd 0 0x064 0xC0000000 s

theorem herdMessages_met1 : ∃ (s : State), injectorOff s ∧ herdAlone s = false ∧ fnCanSend s 0 = true ∧ (getHdr s
  pgHerd).commitPending = false ∧ (∀ (at_ : ℕ), s.herd.sentAt = some at_ → at_ + max 1 (fld (herdHb s) 7 0) * 1000000 ≤ now s) ∧
  s.herd.st ≠ HerdSt.joining := by
  refine ⟨noAp (hbase HerdSt.member 0), ?_⟩
  dsimp only [injectorOff]; decide +kernel

theorem herdMessages_met2 : ∃ (s : State), injectorOff s ∧ herdAlone s = false ∧ fnCanSend s 0 = true ∧ (getHdr s
  pgHerd).commitPending = false ∧ (∀ (at_ : ℕ), s.herd.sentAt = some at_ → at_ + max 1 (fld (herdHb s) 7 0) * 1000000 ≤ now s) ∧
  s.herd.st = HerdSt.joining := by
  refine ⟨hbase HerdSt.joining 0, ?_⟩
  dsimp only [injectorOff]; decide +kernel

theorem herdMessages_met3 : ∃ (s : State) (at_ : ℕ), s.herd.sentAt = some at_ ∧ now s < at_ + max 1 (fld (herdHb s) 7 0) *
  1000000 := by
  refine ⟨hd (fun (h : Herd) => { st := h.st, bellId := h.bellId, code := h.code, members := h.members,
                                  hoffset := h.hoffset, errNs := h.errNs, src := h.src, locked := h.locked,
                                  sentAt := some 999999, peers := h.peers, tx := h.tx, result := h.result }) (hbase
    HerdSt.member 0), 999999, ?_⟩
  decide +kernel

theorem herdMessages_met4 : ∃ (s : State) (rid : BitVec 16) (r : Vector Word 16), let p := (msgSrc r); let a := (mbxBase s + 64
  * p); let arrives := (inReset s = false ∧ s.pcie.linkUp = true ∧ domOn s 15 = true ∧ (ridPeer s rid).isSome = true ∧ ∃ (off :
  ℕ), bar2Offset a = some off ∧ inAperture s true off 64 = true); let sound := (crcGood r = true ∧ msgType r = 128 ∧
  BitVec.getLsbD r[15] 31 = true); injectorOff s ∧ herdAlone s = false ∧ arrives ∧ sound ∧ peerValid s p = true ∧ peerRid s p =
  rid ∧ devRefusal s true a 64 = none ∧ 2 ^ (fld r[1] 14 12 + 4) = peerDepth s p ∧ fld r[1] 2 0 ≠ 3 := by
  refine ⟨hbase HerdSt.bellwether 0, 7, rec 3 2 0 0 [100], ?_⟩
  dsimp only [injectorOff]; repeat' first | decide +kernel | refine aperture_of ?_ | constructor

theorem herdMessages_met5 : ∃ (s : State) (rid : BitVec 16) (r : Vector Word 16), let p := (msgSrc r); let a := (mbxBase s + 64
  * p); let arrives := (inReset s = false ∧ s.pcie.linkUp = true ∧ domOn s 15 = true ∧ (ridPeer s rid).isSome = true ∧ ∃ (off :
  ℕ), bar2Offset a = some off ∧ inAperture s true off 64 = true); let sound := (crcGood r = true ∧ msgType r = 128 ∧
  BitVec.getLsbD r[15] 31 = true); injectorOff s ∧ herdAlone s = false ∧ arrives ∧ sound ∧ peerValid s p = true ∧ peerRid s p =
  rid ∧ devRefusal s true a 64 = none ∧ 2 ^ (fld r[1] 14 12 + 4) = peerDepth s p ∧ fld r[1] 2 0 = 3 ∧ s.herd.st = HerdSt.member
  ∧ s.herd.bellId.toNat = p ∧ BitVec.getLsbD r[1] 15 = false := by
  refine ⟨hd (fun (h : Herd) => { st := h.st, bellId := h.bellId, code := h.code, members := h.members,
                                  hoffset := h.hoffset, errNs := h.errNs, src := h.src, locked := h.locked,
                                  sentAt := some 999999, peers := h.peers, tx := h.tx, result := h.result }) (hbase
    HerdSt.member 0), 5, rec 0 3 0 5 [100, 0, 990000, 0, 1000500, 0, 0, 0], ?_⟩
  dsimp only [injectorOff]; repeat' first | decide +kernel | refine aperture_of ?_ | constructor

theorem herdMessages_met6 : ∃ (s : State) (rid : BitVec 16) (r : Vector Word 16), let p := (msgSrc r); let a := (mbxBase s + 64
  * p); let arrives := (inReset s = false ∧ s.pcie.linkUp = true ∧ domOn s 15 = true ∧ (ridPeer s rid).isSome = true ∧ ∃ (off :
  ℕ), bar2Offset a = some off ∧ inAperture s true off 64 = true); let sound := (crcGood r = true ∧ msgType r = 128 ∧
  BitVec.getLsbD r[15] 31 = true); injectorOff s ∧ herdAlone s = false ∧ arrives ∧ sound ∧ peerValid s p = true ∧ peerRid s p =
  rid ∧ devRefusal s true a 64 = none ∧ 2 ^ (fld r[1] 14 12 + 4) = peerDepth s p ∧ fld r[1] 2 0 = 3 ∧ s.herd.st =
  HerdSt.bellwether ∧ herdId s ≤ p := by
  refine ⟨hbase HerdSt.bellwether 0, 7, rec 3 3 0 0 [1], ?_⟩
  dsimp only [injectorOff]; repeat' first | decide +kernel | refine aperture_of ?_ | constructor

theorem herdMessages_met7 : ∃ (s : State) (rid : BitVec 16) (r : Vector Word 16), let p := (msgSrc r); let a := (mbxBase s + 64
  * p); let arrives := (inReset s = false ∧ s.pcie.linkUp = true ∧ domOn s 15 = true ∧ (ridPeer s rid).isSome = true ∧ ∃ (off :
  ℕ), bar2Offset a = some off ∧ inAperture s true off 64 = true); let sound := (crcGood r = true ∧ msgType r = 128 ∧
  BitVec.getLsbD r[15] 31 = true); injectorOff s ∧ herdAlone s = false ∧ arrives ∧ sound ∧ peerValid s p = true ∧ peerRid s p =
  rid ∧ devRefusal s true a 64 = none ∧ 2 ^ (fld r[1] 14 12 + 4) ≠ peerDepth s p ∧ fld r[1] 2 0 ≠ 3 := by
  refine ⟨hbase HerdSt.bellwether 0, 7, mkv [BitVec.ofNat 32 (3 + 128 * 256), BitVec.ofNat 32 (2 + 4096 * 1)], ?_⟩
  dsimp only [injectorOff]; repeat' first | decide +kernel | refine aperture_of ?_ | constructor

theorem herdMessages_met8 : ∃ (s : State) (rid : BitVec 16) (r : Vector Word 16) (q : ℕ), let p := (msgSrc r); let a := (mbxBase
  s + 64 * p); let arrives := (inReset s = false ∧ s.pcie.linkUp = true ∧ domOn s 15 = true ∧ (ridPeer s rid).isSome = true ∧ ∃
  (off : ℕ), bar2Offset a = some off ∧ inAperture s true off 64 = true); let sound := (crcGood r = true ∧ msgType r = 128 ∧
  BitVec.getLsbD r[15] 31 = true); injectorOff s ∧ herdAlone s = false ∧ arrives ∧ ¬sound ∧ ridPeer s rid = some q := by
  refine ⟨hbase HerdSt.bellwether 0, 5, recBad, 0, ?_⟩
  dsimp only [injectorOff]; repeat' first | decide +kernel | refine aperture_of ?_ | constructor

theorem herdMessages_met9 : ∃ (s : State) (rid : BitVec 16) (r : Vector Word 16) (q : ℕ) (off : ℕ), let p := (msgSrc r); let a
  := (mbxBase s + 64 * p); injectorOff s ∧ herdAlone s = false ∧ inReset s = false ∧ s.pcie.linkUp = true ∧ domOn s 15 = true ∧
  fnExists s 0 = true ∧ ridPeer s rid = some q ∧ bar2Offset a = some off ∧ inAperture s true off 64 = false := by
  refine ⟨noAp (hbase HerdSt.member 0), 5, rec 0 3 0 5 [100, 0, 990000, 0, 1000500, 0, 0, 0], 0, 67174400, ?_⟩
  dsimp only [injectorOff]; decide +kernel

theorem herdMessages_met10 : ∃ (s : State) (p : Fin 16), herdAlone s = false ∧ peerValid s ↑p = true ∧ peerMissed s ↑p < fld
  (herdHb s) 11 8 := by
  refine ⟨noAp (hbase HerdSt.member 0), 0, ?_⟩
  decide +kernel

theorem herdMessages_met11 : ∃ (s : State) (p : Fin 16), herdAlone s = false ∧ peerValid s ↑p = true ∧ fld (herdHb s) 11 8 ≤
  peerMissed s ↑p := by
  refine ⟨{ (pr 0 (fun (y : Peer) => { up := (0, true, false).2.1, state := y.state, role := y.role, seenAt := y.seenAt,
                                       recSeq := y.recSeq, txSeq := y.txSeq, rxSeq := y.rxSeq, rxDone := y.rxDone,
                                       gapCnt := y.gapCnt, badCnt := y.badCnt, got := y.got, t1 := y.t1,
                                       t1At := y.t1At, actTime := y.actTime }) (pr 3 (fun (y : Peer) => { state := y.state,
                                                                                                          role := y.role,
                                                                                                          seenAt := y.seenAt,
                                                                                                          recSeq := y.recSeq,
                                                                                                          txSeq := y.txSeq,
                                                                                                          rxSeq := y.rxSeq,
                                                                                                          rxDone := y.rxDone,
                                                                                                          gapCnt := y.gapCnt,
                                                                                                          badCnt := y.badCnt,
                                                                                                          got := y.got,
                                                                                                          t1 := y.t1,
                                                                                                          t1At := y.t1At,
                                                                                                          actTime := y.actTime }) (hbase HerdSt.member (0, true, false).1))) with time := { base.time with now := 10000000 } },
    0, ?_⟩
  decide +kernel

theorem herdMessages_met12 : ∃ (s : State) (r : Requester) (v : Word) (c : ℕ), Taken s r pgHerd 184 ∧ selCopy r = some c ∧
  injectorOff s ∧ let p := (fld v 3 0); let x := (getPeer s p); fld v 15 8 < 128 ∧ p ≠ herdId s ∧ (herdAlone s = true ∨
  peerValid s p = false ∨ x.up = false) := by
  refine ⟨base, Requester.mgmt, 3, 0, ?_⟩
  dsimp only [injectorOff]; repeat' first | decide +kernel | constructor

theorem herdMessages_met13 : ∃ (s : State) (r : Requester) (v : Word) (c : ℕ), Taken s r pgHerd 184 ∧ selCopy r = some c ∧
  injectorOff s ∧ let p := (fld v 3 0); let x := (getPeer s p); let d := (peerDepth s p); fld v 15 8 < 128 ∧ p ≠ herdId s ∧
  herdAlone s = false ∧ peerValid s p = true ∧ x.up = true ∧ fnCanSend s 0 = true ∧ d ≤ (x.txSeq - peerCredit s p).toNat := by
  refine ⟨pr 0 (fun (x : Peer) => { up := true, state := x.state, role := x.role, seenAt := x.seenAt, recSeq := x.recSeq,
                                    txSeq := 16, rxSeq := x.rxSeq, rxDone := x.rxDone, gapCnt := x.gapCnt,
                                    badCnt := x.badCnt, got := x.got, t1 := x.t1, t1At := x.t1At, actTime := x.actTime }) (pr 3
    (fun (x : Peer) => { up := true, state := x.state, role := x.role, seenAt := x.seenAt, recSeq := x.recSeq,
                         txSeq := 16, rxSeq := x.rxSeq, rxDone := x.rxDone, gapCnt := x.gapCnt, badCnt := x.badCnt,
                         got := x.got, t1 := x.t1, t1At := x.t1At, actTime := x.actTime }) (hbase HerdSt.bellwether 1)),
    Requester.mgmt, 3, 0, ?_⟩
  dsimp only [injectorOff]; repeat' first | decide +kernel | constructor

theorem herdMessages_met14 : ∃ (s : State) (r : Requester) (v : Word) (c : ℕ), Taken s r pgHerd 184 ∧ selCopy r = some c ∧
  injectorOff s ∧ let p := (fld v 3 0); let x := (getPeer s p); let d := (peerDepth s p); fld v 15 8 < 128 ∧ p ≠ herdId s ∧
  herdAlone s = false ∧ peerValid s p = true ∧ x.up = true ∧ fnCanSend s 0 = true ∧ (x.txSeq - peerCredit s p).toNat < d := by
  refine ⟨pr 3 (fun (x : Peer) => { up := true, state := x.state, role := x.role, seenAt := x.seenAt, recSeq := x.recSeq,
                                    txSeq := 4, rxSeq := 5, rxDone := x.rxDone, gapCnt := x.gapCnt, badCnt := x.badCnt,
                                    got := x.got, t1 := x.t1, t1At := x.t1At, actTime := x.actTime }) (pr 0 (fun (x : Peer) => { up := x.up,
                                                                                                                                 state := x.state,
                                                                                                                                 role := x.role,
                                                                                                                                 seenAt := x.seenAt,
                                                                                                                                 recSeq := x.recSeq,
                                                                                                                                 txSeq := 16,
                                                                                                                                 rxSeq := x.rxSeq,
                                                                                                                                 rxDone := x.rxDone,
                                                                                                                                 gapCnt := x.gapCnt,
                                                                                                                                 badCnt := x.badCnt,
                                                                                                                                 got := x.got,
                                                                                                                                 t1 := x.t1,
                                                                                                                                 t1At := x.t1At,
                                                                                                                                 actTime := x.actTime })
    (hbase HerdSt.member 0)), Requester.mgmt, 3, 0, ?_⟩
  dsimp only [injectorOff]; repeat' first | decide +kernel | constructor

theorem herdMessages_met15 : ∃ (s : State) (rid : BitVec 16) (p : Fin 16) (slot : ℕ) (m : Vector Word 16), injectorOff s ∧
  herdAlone s = false ∧ let x := (getPeer s ↑p); let d := (mbxDepth s); let a := (mbxBase s + 1024 + 64 * (↑p * d + slot)); let
  arrives := (inReset s = false ∧ s.pcie.linkUp = true ∧ domOn s 15 = true ∧ (ridPeer s rid).isSome = true ∧ ∃ (off : ℕ),
  bar2Offset a = some off ∧ inAperture s true off 64 = true); arrives ∧ slot < d ∧ peerValid s ↑p = true ∧ peerRid s ↑p = rid ∧
  crcGood m = true ∧ msgType m < 128 ∧ msgSeq m = x.rxSeq ∧ x.got = [] ∧ devRefusal s true (mbxBase s + 1024 + 64 * (↑p * d +
  (msgSeq m).toNat % d)) 64 = none := by
  refine ⟨hbase HerdSt.bellwether 0, 5, 0, 0, msg 0 0 1, ?_⟩
  dsimp only [injectorOff]; repeat' first | decide +kernel | refine aperture_of ?_ | constructor

theorem herdMessages_met16 : ∃ (s : State) (rid : BitVec 16) (p : Fin 16) (slot : ℕ) (m : Vector Word 16) (aligned : Bool),
  injectorOff s ∧ herdAlone s = false ∧ let x := (getPeer s ↑p); let d := (mbxDepth s); let a := (mbxBase s + 1024 + 64 * (↑p *
  d + slot)); let arrives := (inReset s = false ∧ s.pcie.linkUp = true ∧ domOn s 15 = true ∧ (ridPeer s rid).isSome = true ∧ ∃
  (off : ℕ), bar2Offset a = some off ∧ inAperture s true off 64 = true); arrives ∧ aligned = false ∨ d ≤ slot ∨ peerRid s ↑p ≠
  rid ∨ crcGood m = false ∨ 128 ≤ msgType m ∨ d ≤ (msgSeq m - x.rxSeq).toNat := by
  refine ⟨hbase HerdSt.bellwether 0, 5, 0, 0, rec 0 3 0 5 [100, 0, 990000, 0, 1000500, 0, 0, 0], false, ?_⟩
  dsimp only [injectorOff]; repeat' first | decide +kernel | refine aperture_of ?_ | constructor

theorem herdMessages_met17 : ∃ (s : State) (p : Fin 16) (since : ℕ) (q : BitVec 16), (getPeer s ↑p).got = [(q, since)] ∧ (q -
  (getPeer s ↑p).rxSeq).toNat < 65535 ∧ since + fld (herdHb s) 23 16 * 1000000 ≤ now s := by
  refine ⟨pr 3 (fun (x : Peer) => { up := x.up, state := x.state, role := x.role, seenAt := x.seenAt, recSeq := x.recSeq,
                                    txSeq := x.txSeq, rxSeq := 3, rxDone := x.rxDone, gapCnt := x.gapCnt,
                                    badCnt := x.badCnt, got := [(7, 0)], t1 := x.t1, t1At := x.t1At, actTime := x.actTime })
    (hbase HerdSt.member 3), 3, 0, 7, ?_⟩
  decide +kernel

theorem herdMessages_met18 : ∃ (s : State) (r : Requester) (p : ℕ), Taken s r pgHerd 1052 ∧ selChan s r pgHerd = some p ∧
  peerValid s p = true ∧ herdAlone s = false ∧ fnCanSend s 0 = true := by
  refine ⟨noAp (hbase HerdSt.member 0), Requester.mgmt, 0, ?_⟩
  repeat' first | decide +kernel | constructor

end W22_herd

/-! ## faultInjector -/

namespace W22_lfi

def regsP (pg p : Nat) (l : List (Nat × Nat)) (s : State) : State := l.foldl (fun s e => setReg pg p e.1 (BitVec.ofNat 32 e.2) s) s
def base : State := { enAll up with pacer := { up.pacer with jobs := [] } }
def hd (f : Herd → Herd) (s : State) : State := { s with herd := f s.herd }
def hbase (st : HerdSt) (bid : Nat) : State := hd (fun h => { h with st := st, bellId := BitVec.ofNat 4 bid }) (regsP pgHerd 0 [(0x040, 1 + 16), (0x050, 0x00010301), (0x054, 0x4010000), (0x058, 1), (0x05C, 0), (0x060, 0x4010), (0x064, 0xC0000100)] (regsP pgHerd 0 [(0x400, 0x00050001), (0x404, 0x1000), (0x408, 9), (0x40C, 3)]
  (regsP pgHerd 3 [(0x400, 0x00070001), (0x404, 0x2000), (0x408, 9), (0x40C, 5)] base)))
def lf (c : Nat) (f : LfiChan → LfiChan) (s : State) : State := { s with lfi := storeMod (fun _ => {}) s.lfi c f }
def wc22x1 : State := { hbase .member 0 with fuses := { up.fuses with lifecycle := .deployed } }
def wc22x2 : State := lf 1 (fun c => { c with held := some (.sent 0x123456789 [1, 2]), heldAt := 5 }) (hbase .member 0)
def wc22x3 : State := regsP pgLfi 0 [(0x400, 1 + 2 + 0 * 256), (0x404, 1)] (hbase .member 0)

theorem faultInjector_met1 : ∃ (s : State) (r : Requester) (v : Word) (c : ℕ), Taken s r pgLfi 1024 ∧ selChan s r pgLfi = some c
  ∧ lfiEn s c = false ∧ fld v 2 1 ≠ 3 ∧ fld v 4 3 ≠ 3 ∧ BitVec.getLsbD v 0 = true ∧ lfiOpen s = true := by
  refine ⟨hbase HerdSt.member 0, Requester.mgmt, 1, 0, ?_⟩
  repeat' first | decide +kernel | constructor

theorem faultInjector_met2 : ∃ (s : State) (r : Requester) (v : Word) (c : ℕ), Taken s r pgLfi 1024 ∧ selChan s r pgLfi = some c
  ∧ lfiEn s c = false ∧ fld v 2 1 ≠ 3 ∧ fld v 4 3 ≠ 3 ∧ BitVec.getLsbD v 0 = true ∧ lfiOpen s = false := by
  refine ⟨wc22x1, Requester.mgmt, 1, 0, ?_⟩
  repeat' first | decide +kernel | constructor

theorem faultInjector_met3 : ∃ (s : State) (c : Fin 4) (bus : DWord) (bs : List Byte), (getLfi s ↑c).held = some (Held.sent bus
  bs) ∧ (getLfi s ↑c).heldAt + 1000 ≤ now s := by
  refine ⟨wc22x2, 1, 4886718345, [1, 2], ?_⟩
  decide +kernel

theorem faultInjector_met4 : ∃ (s : State) (rid : BitVec 16) (p : Fin 16) (slot : ℕ), lfiOn s 0 lfiMbx (↑p) 0 = true ∧ (∀ c < 4,
  c ≠ 0 → lfiStream s c lfiMbx (↑p) 0 = false) ∧ inReset s = false ∧ s.pcie.linkUp = true ∧ domOn s 15 = true ∧ herdAlone s =
  false ∧ (ridPeer s rid).isSome = true ∧ (∃ (off : ℕ), bar2Offset (mbxBase s + 1024 + 64 * (↑p * mbxDepth s + slot)) = some off
  ∧ inAperture s true off 64 = true) ∧ (getLfi s 0).held = none ∧ fld (lfiReg s 0 1024) 5 3 = 0 ∧ fld (lfiReg s 0 1028) 15 0 = 1
  := by
  refine ⟨wc22x3, 5, 0, 0, ?_⟩
  repeat' first | decide +kernel | refine aperture_of ?_ | constructor

end W22_lfi

/-! ## powerDomains -/

namespace W23_pow

def regsP (pg p : Nat) (l : List (Nat × Nat)) (s : State) : State := l.foldl (fun s e => setReg pg p e.1 (BitVec.ofNat 32 e.2) s) s
def base : State := { enAll up with pacer := { up.pacer with jobs := [] } }
def pw (f : Power → Power) (s : State) : State := { s with power := f s.power }
def tr (f : Trust → Trust) (s : State) : State := { s with trust := f s.trust }
def dm (n st tg : Nat) (mv : Bool) (s : State) : State := modDom n (fun _ =>
  { target := BitVec.ofNat 2 tg, state := BitVec.ofNat 2 st, moving := mv }) s
def wc23x1 : State := tr (fun t => { t with debugOpen := true }) base
def wc23x2 : State := { base with mem := { base.mem with trained := false } }
def wc23x3 : State := pw (fun p => { p with polling := true, railTarget := 745 }) base
def wc23x5 : State := pw (fun p => { p with i2cBusy := 2 }) (regsP pgPower 0 [(0x0E0, 1), (0x0F0, 1), (0x0F4, 0x3A3)] base)

theorem powerDomains_met1 : ∃ (s : State) (r : Requester) (n : Fin 20) (v : Word), Taken s r pgPower (128 + 4 * ↑n) ∧ r =
  Requester.mgmt ∧ domPresent s.fuses.variant ↑n = true ∧ (domFixed ↑n = true ∨ fld v 1 0 = 3 ∨ fld v 1 0 = 1 ∧ domRetains ↑n =
  false) := by
  refine ⟨base, Requester.mgmt, 0, 0, ?_⟩
  repeat' first | decide +kernel | constructor

theorem powerDomains_met2 : ∃ (s : State) (r : Requester) (n : Fin 20) (v : Word), Taken s r pgPower (128 + 4 * ↑n) ∧ r =
  Requester.mgmt ∧ domPresent s.fuses.variant ↑n = true ∧ let d := (dom s ↑n); domFixed ↑n = false ∧ d.moving = false ∧ fld v 1
  0 = 0 ∧ d.state = 2 ∧ 3 ≤ ↑n ∧ ↑n ≤ 8 ∧ coreHeld s (↑n - 3) = false := by
  refine ⟨base, Requester.mgmt, 3, 0, ?_⟩
  dsimp only; repeat' first | decide +kernel | constructor

theorem powerDomains_met3 : ∃ (s : State) (r : Requester) (n : Fin 20) (v : Word), Taken s r pgPower (128 + 4 * ↑n) ∧ r =
  Requester.mgmt ∧ domPresent s.fuses.variant ↑n = true ∧ let d := (dom s ↑n); domFixed ↑n = false ∧ d.moving = false ∧ fld v 1
  0 = 0 ∧ d.state = 2 ∧ 9 ≤ ↑n ∧ ↑n ≤ 12 ∧ sliceGolden s (↑n - 9) = false := by
  refine ⟨base, Requester.mgmt, 9, 0, ?_⟩
  dsimp only; repeat' first | decide +kernel | constructor

theorem powerDomains_met4 : ∃ (s : State) (r : Requester) (n : Fin 20) (v : Word), Taken s r pgPower (128 + 4 * ↑n) ∧ r =
  Requester.mgmt ∧ domPresent s.fuses.variant ↑n = true ∧ let d := (dom s ↑n); domFixed ↑n = false ∧ d.moving = false ∧ fld v 1
  0 = 0 ∧ d.state = 2 ∧ 13 < ↑n ∧ ((domPages ↑n).any fun (p : ℕ) => (getHdr s p).enable || blockBusy s p) = true := by
  refine ⟨base, Requester.mgmt, 14, 0, ?_⟩
  dsimp only; repeat' first | decide +kernel | constructor

theorem powerDomains_met5 : ∃ (s : State) (r : Requester) (n : Fin 20), Taken s r pgPower (128 + 4 * ↑n) ∧ r.isOwner = false :=
  by
  refine ⟨wc23x1, Requester.jtag, 0, ?_⟩
  repeat' first | decide +kernel | constructor

theorem powerDomains_met6 : ∃ (s : State) (n : Fin 20), domFixed ↑n = false ∧ (dom s ↑n).moving = true ∧ (dom s ↑n).fenceWaits =
  0 ∧ ¬(9 ≤ ↑n ∧ ↑n ≤ 12 ∧ (getSlice s (↑n - 9)).refusing = true) := by
  refine ⟨dm 3 2 0 true (dm 17 0 2 true base), 3, ?_⟩
  decide +kernel

theorem powerDomains_met7 : ∃ (s : State), domOn s 14 = true ∧ s.mem.trained = false ∧ s.reset_.romStarted = true ∧
  s.reset_.recovery = false := by
  refine ⟨wc23x2, ?_⟩
  decide +kernel

theorem powerDomains_met8 : ∃ (s : State) (a : AvsReply), s.power.polling = true ∧ s.time.running = true ∧ a.done = true ∧
  a.mv.toNat ≤ s.power.railTarget.toNat + 10 ∧ s.power.railTarget.toNat ≤ a.mv.toNat + 10 ∧ s.pacer.railUse = RailUse.none ∧
  PacerAtRest s := by
  refine ⟨wc23x3, { done := true, mv := 740 }, ?_⟩
  repeat' first | decide +kernel | refine aborts_ok ?_ | constructor

theorem powerDomains_met9 : ∃ (s : State), s.power.polling = true ∧ s.time.running = true := by
  refine ⟨wc23x3, ?_⟩
  decide +kernel

theorem powerDomains_met10 : ∃ (s : State) (r : Requester) (v : Word), Taken s r pgPower 64 ∧ (BitVec.getLsbD v 0 = false ∨
  dripReady s = true) := by
  refine ⟨base, Requester.mgmt, 0, ?_⟩
  repeat' first | decide +kernel | constructor

theorem powerDomains_met11 : ∃ (s : State) (r : Requester) (v : Word), Taken s r pgPower 64 ∧ BitVec.getLsbD v 0 = true ∧
  dripReady s = false := by
  refine ⟨base, Requester.mgmt, 1, ?_⟩
  repeat' first | decide +kernel | constructor

theorem powerDomains_met12 : ∃ (s : State) (r : Requester) (m : Fin 2) (v : Word), Taken s r pgPower (228 + 16 * ↑m) ∧
  s.power.i2cBusy.getLsbD ↑m = false ∧ BitVec.getLsbD v 31 = true ∧ BitVec.getLsbD (getReg s pgPower 0 (224 + 16 * ↑m)) 0 = true
  := by
  refine ⟨wc23x5, Requester.mgmt, 0, 2147483939, ?_⟩
  repeat' first | decide +kernel | constructor

theorem powerDomains_met13 : ∃ (s : State) (m : Fin 2), s.power.i2cBusy.getLsbD ↑m = true := by
  refine ⟨wc23x5, 1, ?_⟩
  decide +kernel

end W23_pow

/-! ## resetEpisodes, idleTick -/

namespace W23_res

def base : State := { enAll up with pacer := { up.pacer with jobs := [] } }
def rs (f : ResetCtl → ResetCtl) (s : State) : State := { s with reset_ := f s.reset_ }
def tr (f : Trust → Trust) (s : State) : State := { s with trust := f s.trust }
def ep (c l : Nat) (s : State) : State := rs (fun r => { r with stretch := oneBit 14 c, asserted := oneBit 14 c,
                                                                episode := some (BitVec.ofNat 2 l, oneBit 14 c) })
  { s with time := { s.time with running := false } }
def filled : State := memPut 0x100000000 [1, 2, 3] (memPut 0x10000000 [4] (modClass 2 (fun c => { c with st := .accepted })
  { base with pacer := { base.pacer with jobs := [job0] } }))
def wc23x10 : Fuses := { svn := svnCode 1, ownerValid := 1 }
def cutS : State := tr (fun t => { t with fuseUntil := 2000000 }) { filled with fuseOld := some { svn := svnCode 1, ownerValid := 1 },
                                                                                fuses := { svn := svnCode 3, ownerValid := 3, ownerHash := [(1, 77)], lifecycle := .returned } }
def wc23x12 : State := rs (fun r => { r with deferred := oneBit 14 8 }) base
def wc23x14 : State := rs (fun r => { r with asserted := 0x2008, stretch := 0x2008 }) base
def wc23x15 : State := rs (fun r => { r with asserted := 0x0008, fusesRead := false, recovery := true }) base

theorem resetEpisodes_met1 : ∃ (s : State) (c : Fin 14), srcLevel s ↑c ≠ 3 ∧ s.reset_.episode = none ∧ s.reset_.exit = none ∧
  (pulseBusy s = false ∨ ↑c < 2) ∧ ∀ k < 4, (getLfi s k).held = none := by
  refine ⟨cutS, 0, ?_⟩
  decide +kernel

theorem resetEpisodes_met2 : ∃ (s : State) (c : Fin 14) (old : Fuses), ↑c < 2 ∧ s.fuseOld = some old ∧ now s < s.trust.fuseUntil
  ∧ ∀ k < 4, (getLfi s k).held = none := by
  refine ⟨cutS, 0, wc23x10, ?_⟩
  decide +kernel

theorem resetEpisodes_met3 : ∃ (s : State) (c : Fin 14), ↑c < 2 ∧ s.reset_.episode ≠ none := by
  refine ⟨ep 8 1 base, 0, ?_⟩
  decide +kernel

theorem resetEpisodes_met4 : ∃ (s : State) (c : Fin 14), 2 ≤ ↑c ∧ pulseBusy s = true := by
  refine ⟨cutS, 2, ?_⟩
  decide +kernel

theorem resetEpisodes_met5 : ∃ (s : State) (c : Fin 14), s.reset_.deferred = oneBit 14 ↑c ∧ s.reset_.flrDeferred = 0 ∧
  s.trust.sstoreBusy = false := by
  refine ⟨wc23x12, 8, ?_⟩
  decide +kernel

theorem resetEpisodes_met6 : ∃ (s : State) (c : Fin 14) (l : BitVec 2), srcPulse ↑c = true ∧ s.reset_.stretch = oneBit 14 ↑c ∧
  s.reset_.asserted = oneBit 14 ↑c ∧ s.reset_.episode = some (l, oneBit 14 ↑c) ∧ s.trust.upd = UpdateSt.idle ∧ debugOpens s
  l.toNat = false ∧ s.time.running = false := by
  refine ⟨ep 8 1 base, 8, 1, ?_⟩
  decide +kernel

theorem resetEpisodes_met7 : ∃ (s : State) (c : Fin 14), ↑c ∈ [3, 13] ∧ s.reset_.asserted.getLsbD ↑c = true ∧
  s.reset_.stretch.getLsbD ↑c = true := by
  refine ⟨wc23x14, 3, ?_⟩
  decide +kernel

theorem resetEpisodes_met8 : ∃ (s : State), s.reset_.stretch.getLsbD 3 = false ∧ s.reset_.episode = none ∧ s.reset_.exit = none
  := by
  refine ⟨cutS, ?_⟩
  decide +kernel

theorem resetEpisodes_met9 : ∃ (s : State) (r : Requester) (v : Word), Taken s r pgReset 84 ∧ r.isOwner = true ∧ fld v 31 16 =
  24158 ∧ fld v 1 0 ∈ [0, 2] := by
  refine ⟨cutS, Requester.mgmt, 1583218688, ?_⟩
  repeat' first | decide +kernel | constructor

theorem resetEpisodes_met10 : ∃ (s : State) (r : Requester) (v : Word), Taken s r pgReset 84 ∧ r.isOwner = true ∧ fld v 31 16 ≠
  24158 := by
  refine ⟨cutS, Requester.mgmt, 0, ?_⟩
  repeat' first | decide +kernel | constructor

theorem resetEpisodes_met11 : ∃ (s : State) (r : Requester) (v : Word), Taken s r pgReset 92 ∧ r.isOwner = true ∧ fld v 31 16 =
  49642 := by
  refine ⟨cutS, Requester.mgmt, 3253338112, ?_⟩
  repeat' first | decide +kernel | constructor

theorem resetEpisodes_met12 : ∃ (s : State) (r : Requester) (v : Word), Taken s r pgReset 164 ∧ r = Requester.mgmt ∧ fld v 1 0 =
  2 := by
  refine ⟨cutS, Requester.mgmt, 2, ?_⟩
  repeat' first | decide +kernel | constructor

theorem resetEpisodes_met13 : ∃ (s : State) (r : Requester), Taken s r pgReset 164 ∧ r ≠ Requester.mgmt := by
  refine ⟨cutS, Requester.fn 0, ?_⟩
  repeat' first | decide +kernel | constructor

theorem resetEpisodes_met14 : ∃ (s : State), s.reset_.fusesRead = false := by
  refine ⟨wc23x15, ?_⟩
  decide +kernel

theorem resetEpisodes_met15 : ∃ (s : State) (n : Fin 32), ¬(↑n = pgPacer ∧ s.pacer.resetWait = true) := by
  refine ⟨cutS, 0, ?_⟩
  decide +kernel

theorem idleTick_met_stopped : ∃ s : State, s.pending = [] ∧ s.time.running = false := ⟨State.reset, rfl, rfl⟩

theorem idleTick_met_running : ∃ s : State, s.pending = [] ∧ s.time.running = true ∧ fld (getReg s pgTime 0 0x048) 1 0 = 0
    ∧ (∀ k, k < 64 → (getClass s k).st ≠ .revoking ∧ (getClass s k).shrinks = []) ∧ s.mem.scrubBusy = false
    ∧ s.trust.upd ≠ .checking ∧ s.trust.upd ≠ .writing
    ∧ (∀ u, u < 2 → (getUart s u).deUntil = none) := by
  refine ⟨base, ?_⟩
  decide +kernel

end W23_res

/-! ## timeBase -/

namespace W23_time

def regsP (pg p : Nat) (l : List (Nat × Nat)) (s : State) : State := l.foldl (fun s e => setReg pg p e.1 (BitVec.ofNat 32 e.2) s) s
def base : State := { enAll up with pacer := { up.pacer with jobs := [] } }
def tm (f : Time → Time) (s : State) : State := { s with time := f s.time }
def hi (r : Requester) : State := match exec (.registerWrite r (BitVec.ofNat 18 (pgTime * 4096 + 0x054)) 4 5) base with | .next t => t | _ => base
def wc23x17 : State := tm (fun t => { t with running := false }) base
def wc23x19 : State := tm (fun t => { t with now := 2000000020 }) (regsP pgTime 0 [(0x060, 1)] base)
def wc23x20 : State := tm (fun t => { t with ppsHigh := true, ppsFrom := 0 }) (regsP pgTime 0 [(0x060, 1 + 256)] base)

theorem timeBase_met1 : ∃ (s : State), s.time.running = false := by
  refine ⟨wc23x17, ?_⟩
  decide +kernel

theorem timeBase_met2 : ∃ (s : State) (r : Requester) (hi : Word), Taken s r pgTime 80 ∧ hiHeld s r pgTime 0 80 = some hi ∧ r =
  Requester.mgmt ∧ ∀ k < 64, (getClass s k).st = ClassSt.free ∨ (getClass s k).st = ClassSt.defined := by
  refine ⟨hi Requester.mgmt, Requester.mgmt, 5, ?_⟩
  repeat' first | decide +kernel | constructor

theorem timeBase_met3 : ∃ (s : State) (r : Requester) (hi : Word), Taken s r pgTime 80 ∧ hiHeld s r pgTime 0 80 = some hi ∧ (r ≠
  Requester.mgmt ∨ ∃ k < 64, (getClass s k).st ∈ [ClassSt.accepted, ClassSt.revoking, ClassSt.shed]) := by
  refine ⟨hi (Requester.fn 0), Requester.fn 0, 5, ?_⟩
  repeat' first | decide +kernel | constructor

theorem timeBase_met4 : ∃ (s : State), BitVec.getLsbD (getReg s pgTime 0 96) 0 = true ∧ s.time.running = true ∧ now s %
  1000000000 ≤ 40 := by
  refine ⟨wc23x19, ?_⟩
  decide +kernel

theorem timeBase_met5 : ∃ (s : State), s.time.ppsHigh = true ∧ s.time.ppsFrom + fld (getReg s pgTime 0 96) 15 8 * 1000000 ≤ now
  s := by
  refine ⟨wc23x20, ?_⟩
  decide +kernel

end W23_time

/-! ## lifecycle -/

namespace W24_life

def base : State := { enAll up with pacer := { up.pacer with jobs := [] } }
def tr (f : Trust → Trust) (s : State) : State := { s with trust := f s.trust }
def fu (f : Fuses → Fuses) (s : State) : State := { s with fuses := f s.fuses }
def lc (l : Lifecycle) (v r : Nat) : State := fu (fun f =>
  { f with lifecycle := l, ownerValid := BitVec.ofNat 4 v, ownerRevoked := BitVec.ofNat 4 r }) base
def wc24x1 : State := tr (fun t => { t with debug := .closed, debugResult := 0x11 }) base
def wc24x2 : State := tr (fun t => { t with sstoreBusy := true, sstoreAddr := 0x100, sstoreData := 0x12345678, debugOpen := true })
  (memPut carafeBase [1, 2] (memPut bkpBase [3] base))
def wc24x3 : State := tr (fun t => { t with debug := .challenged, chalFrom := 5 }) base
def wc24x4 : State := tr (fun t => { t with debug := .challenged, chalFrom := 5 })
  { base with time := { base.time with now := 70000000000 } }

theorem lifecycle_met1 : ∃ (s : State) (r : Requester) (key : BitVec 16), Taken s r pgSec 72 ∧ (r ≠ Requester.mgmt ∨ key ≠
  31292) := by
  refine ⟨wc24x1, Requester.mgmt, 1, ?_⟩
  repeat' first | decide +kernel | constructor

theorem lifecycle_met2 : ∃ (s : State) (r : Requester) (arg : Fin 4), Taken s r pgSec 72 ∧ r = Requester.mgmt ∧
  s.fuses.ownerValid.getLsbD ↑arg = false := by
  refine ⟨wc24x1, Requester.mgmt, 0, ?_⟩
  repeat' first | decide +kernel | constructor

theorem lifecycle_met3 : ∃ (s : State) (r : Requester), Taken s r pgSec 72 ∧ r = Requester.mgmt ∧ s.fuses.lifecycle =
  Lifecycle.provisioned ∧ (∃ k < 4, ownerGood s.fuses k = true) ∧ injectorOff s ∧ ∀ c < 4, (getLfi s c).held = none := by
  refine ⟨lc Lifecycle.provisioned 1 0, Requester.mgmt, ?_⟩
  dsimp only [injectorOff]; repeat' first | decide +kernel | constructor

theorem lifecycle_met4 : ∃ (s : State) (r : Requester), Taken s r pgSec 72 ∧ r = Requester.mgmt ∧ s.fuses.lifecycle ≠
  Lifecycle.provisioned := by
  refine ⟨wc24x1, Requester.mgmt, ?_⟩
  repeat' first | decide +kernel | constructor

theorem lifecycle_met5 : ∃ (s : State) (r : Requester), Taken s r pgSec 72 ∧ r = Requester.mgmt ∧ s.fuses.lifecycle ≠
  Lifecycle.returned := by
  refine ⟨wc24x1, Requester.mgmt, ?_⟩
  repeat' first | decide +kernel | constructor

theorem lifecycle_met6 : ∃ (s : State) (r : Requester) (arg : Fin 4), Taken s r pgSec 72 ∧ r = Requester.mgmt ∧
  (s.fuses.lifecycle ≠ Lifecycle.deployed ∨ ∃ k < 4, k ≠ ↑arg ∧ ownerGood s.fuses k = true) := by
  refine ⟨wc24x1, Requester.mgmt, 0, ?_⟩
  repeat' first | decide +kernel | constructor

theorem lifecycle_met7 : ∃ (s : State) (r : Requester) (arg : Fin 4), Taken s r pgSec 72 ∧ r = Requester.mgmt ∧
  s.fuses.lifecycle = Lifecycle.deployed ∧ ∀ k < 4, k ≠ ↑arg → ownerGood s.fuses k = false := by
  refine ⟨lc Lifecycle.deployed 3 2, Requester.mgmt, 0, ?_⟩
  repeat' first | decide +kernel | constructor

theorem lifecycle_met8 : ∃ (s : State), pulseBusy s = true := by
  refine ⟨wc24x2, ?_⟩
  decide +kernel

theorem lifecycle_met9 : ∃ (s : State), pulseBusy s = false := by
  refine ⟨wc24x1, ?_⟩
  decide +kernel

theorem lifecycle_met10 : ∃ (s : State) (r : Requester) (v : Word), Taken s r pgSec 80 ∧ BitVec.getLsbD v 0 = true ∧
  s.trust.debug ≠ DebugSt.opened ∧ s.fuses.lifecycle = Lifecycle.returned := by
  refine ⟨lc Lifecycle.returned 1 0, Requester.mgmt, 1, ?_⟩
  repeat' first | decide +kernel | constructor

theorem lifecycle_met11 : ∃ (s : State) (r : Requester) (v : Word), Taken s r pgSec 80 ∧ BitVec.getLsbD v 0 = true ∧
  s.trust.debug ≠ DebugSt.opened ∧ s.fuses.lifecycle = Lifecycle.blank := by
  refine ⟨wc24x1, Requester.mgmt, 1, ?_⟩
  repeat' first | decide +kernel | constructor

theorem lifecycle_met12 : ∃ (s : State) (r : Requester) (v : Word), Taken s r pgSec 80 ∧ BitVec.getLsbD v 0 = true ∧
  s.trust.debug ≠ DebugSt.opened ∧ s.fuses.lifecycle ≠ Lifecycle.blank ∧ s.fuses.lifecycle ≠ Lifecycle.returned := by
  refine ⟨lc Lifecycle.provisioned 1 0, Requester.mgmt, 1, ?_⟩
  repeat' first | decide +kernel | constructor

theorem lifecycle_met13 : ∃ (s : State) (r : Requester), Taken s r pgSec 88 ∧ s.trust.debug = DebugSt.challenged ∧
  s.fuses.lifecycle ≠ Lifecycle.returned := by
  refine ⟨wc24x3, Requester.mgmt, ?_⟩
  repeat' first | decide +kernel | constructor

theorem lifecycle_met14 : ∃ (s : State) (r : Requester), Taken s r pgSec 88 ∧ s.trust.debug = DebugSt.closed ∧
  s.trust.debugResult = 17 := by
  refine ⟨wc24x1, Requester.mgmt, ?_⟩
  repeat' first | decide +kernel | constructor

theorem lifecycle_met15 : ∃ (s : State), s.trust.debug = DebugSt.challenged ∧ s.trust.chalFrom + 60000000000 ≤ now s := by
  refine ⟨wc24x4, ?_⟩
  decide +kernel

theorem lifecycle_met16 : ∃ (s : State) (r : Requester) (v : Word), Taken s r pgSstore 72 ∧ s.trust.sstoreBusy = false ∧
  BitVec.getLsbD v 0 = true := by
  refine ⟨wc24x1, Requester.mgmt, 1, ?_⟩
  repeat' first | decide +kernel | constructor

theorem lifecycle_met17 : ∃ (s : State) (r : Requester), Taken s r pgSstore 72 ∧ s.trust.sstoreBusy = true := by
  refine ⟨wc24x2, Requester.mgmt, ?_⟩
  repeat' first | decide +kernel | constructor

theorem lifecycle_met18 : ∃ (s : State), s.trust.sstoreBusy = true := by
  refine ⟨wc24x2, ?_⟩
  decide +kernel

end W24_life

/-! ## fenceEffects -/

namespace W6y

def cv : ClassVals := { cost := 100, stepMax := 10, period := 1000, deadline := 1000, dram := 1000, spread := 1 }
def cls (st : ClassSt) (o : Byte) (x : ClassEntry := {}) : ClassEntry := { x with st := st, owner := o, vals := cv, notice := 50 }
def jb (id cl core : Nat) (st : ShareSt) (com rows : Nat) : Job := { job0 with id := id, cls := Fin.ofNat 64 cl,
                                                                               shares := shr { core := Fin.ofNat 6 core,
                                                                                               codeLen := 64, st := st,
                                                                                               committed := com,
                                                                                               carryBase := 1,
                                                                                               carryRows := rows } }
def f1 : State := setReg pgPacer 0 0x044 0 (modPacer (fun p => { p with classes := [(0, cls .defined 0x10), (1, cls .accepted 0x10 { cores := [(0, some 0)] }), (2, cls .shed 0x10), (5, cls .accepted 0 { cores := [(0, some 1)] })] , jobs := [jb 7 1 0 .running 3 2, jb 8 5 1 .waiting 0 0] })
  (modProc 0 (fun p => { p with run := some (7, 0), runState := .issue, pc := 64 }) (enAll up)))
def rs (n : Fin 6) (s : State) : State := modPacer (fun p => { p with reserve := some n }) (setReg pgPacer 0 0x040 1 s)
def alone (s : State) : State := modPacer (fun p => { p with health := [(1, { fenced := true }), (2, { fenced := true }), (3, { fenced := true }), (4, { fenced := true }), (5, { fenced := true })] })
  s
def mov (s : State) : State := modDom 3 (fun d => { d with moving := true, target := 0 }) s
def rev (s : State) : State := modClass 9 (fun c => { c with st := .revoking }) s

theorem fenceEffects_met1 : ∃ (s : State) (n : Fin 6), corePresent s ↑n = false ∨ fenced s ↑n = true := by
  refine ⟨alone f1, 1, ?_⟩
  decide +kernel

theorem fenceEffects_met2 : ∃ (s : State) (n : Fin 6), corePresent s ↑n = true ∧ fenced s ↑n = false ∧ (dom s (3 + ↑n)).moving =
  true := by
  refine ⟨mov f1, 0, ?_⟩
  decide +kernel

theorem fenceEffects_met3 : ∃ (s : State) (n : Fin 6), Fencing s n := by
  refine ⟨f1, 0, ?_⟩
  repeat' first | decide +kernel | refine aborts_ok ?_ | constructor

theorem fenceEffects_met4 : ∃ (s : State) (n : Fin 6) (m : ℕ), Fencing s n ∧ m ≠ ↑n := by
  refine ⟨f1, 0, 1, ?_⟩
  repeat' first | decide +kernel | refine aborts_ok ?_ | constructor

theorem fenceEffects_met5 : ∃ (s : State) (n : Fin 6) (c : _), Fencing s n ∧ c < 32 ∧ chanCore s c = some ↑n := by
  refine ⟨f1, 0, 0, ?_⟩
  repeat' first | decide +kernel | refine aborts_ok ?_ | constructor

theorem fenceEffects_met6 : ∃ (s : State) (n : Fin 6) (cause : BitVec 4), Fencing s n ∧ let t := (fenceCore (↑n) cause s);
  (getHealth t ↑n).hold = false := by
  refine ⟨f1, 1, 4, ?_⟩
  dsimp only; repeat' first | decide +kernel | refine aborts_ok ?_ | constructor

theorem fenceEffects_met7 : ∃ (s : State) (n : Fin 6) (r : Fin 6), Fencing s n ∧ Survives s n ∧ s.pacer.reserve = some r := by
  refine ⟨rs 2 f1, 0, 2, ?_⟩
  dsimp only [Survives]; repeat' first | decide +kernel | refine aborts_ok ?_ | constructor

theorem fenceEffects_met8 : ∃ (s : State) (n : Fin 6) (r : Fin 6) (k : _) (i : ℕ), Fencing s n ∧ Survives s n ∧ s.pacer.reserve
  = some r ∧ k < 64 ∧ (getClass s k).standing = true ∧ i < 6 := by
  refine ⟨rs 2 f1, 0, 2, 1, 0, ?_⟩
  dsimp only [Survives]; repeat' first | decide +kernel | refine aborts_ok ?_ | constructor

theorem fenceEffects_met9 : ∃ (s : State) (n : Fin 6) (k : ℕ), Fencing s n ∧ Survives s n ∧ s.pacer.reserve = none ∧ k < 64 :=
  by
  refine ⟨f1, 0, 0, ?_⟩
  dsimp only [Survives]; repeat' first | decide +kernel | refine aborts_ok ?_ | constructor

theorem fenceEffects_met10 : ∃ (s : State) (n : Fin 6) (cause : BitVec 4) (k : _), Fencing s n ∧ Survives s n ∧ s.pacer.reserve
  = none ∧ let t := (fenceCore (↑n) cause s); k < 64 ∧ (getClass t k).standing = true := by
  refine ⟨f1, 0, 4, 1, ?_⟩
  dsimp only [Survives]; repeat' first | decide +kernel | refine aborts_ok ?_ | constructor

theorem fenceEffects_met11 : ∃ (s : State) (n : Fin 6) (id : ℕ), Fencing s n ∧ Survives s n ∧ s.pacer.reserve = none ∧
  Option.any (fun (j : Job) => decide (j.open_ = true)) (getJob s id) = true := by
  refine ⟨f1, 0, 7, ?_⟩
  dsimp only [Survives]; repeat' first | decide +kernel | refine aborts_ok ?_ | constructor

theorem fenceEffects_met12 : ∃ (s : State) (n : Fin 6) (cause : BitVec 4) (id : ℕ) (i : ℕ) (j : Job), Fencing s n ∧ Survives s n
  ∧ getJob s id = some j ∧ j.open_ = true ∧ i < j.nShares ∧ (getShare j i).core = n ∧ (getShare j i).st ≠ ShareSt.done ∧
  (getShare j i).st ≠ ShareSt.stopped ∧ (∀ c ∈ s.pacer.carries, ¬(c.job = id ∧ c.share = i)) ∧ let t := (fenceCore (↑n) cause
  s); ∀ (k m : ℕ), storeGet (fun (x : ℕ) => none) (getClass t k).cores m ≠ some n := by
  refine ⟨f1, 0, 4, 7, 0, jb 7 1 0 ShareSt.running 3 2, ?_⟩
  dsimp only; repeat' first | decide +kernel | refine aborts_ok ?_ | refine cores_of ?_ | constructor

theorem fenceEffects_met13 : ∃ (s : State) (n : Fin 6) (id : ℕ), corePresent s ↑n = true ∧ fenced s ↑n = false ∧ (dom s (3 +
  ↑n)).moving = false ∧ ¬Survives s n ∧ s.pacer.plan = none ∧ s.pacer.resetWait = false ∧ (∀ k < 64, (getClass s k).shrinks =
  []) ∧ Option.any (fun (j : Job) => decide (j.open_ = true)) (getJob s id) = true := by
  refine ⟨alone f1, 0, 7, ?_⟩
  dsimp only [Survives]; decide +kernel

theorem fenceEffects_met14 : ∃ (s : State) (n : Fin 6) (k : _), corePresent s ↑n = true ∧ fenced s ↑n = false ∧ (dom s (3 +
  ↑n)).moving = false ∧ ¬Survives s n ∧ s.pacer.plan = none ∧ s.pacer.resetWait = false ∧ (∀ k < 64, (getClass s k).shrinks =
  []) ∧ k < 64 ∧ (getClass s k).st = ClassSt.accepted := by
  refine ⟨alone f1, 0, 1, ?_⟩
  dsimp only [Survives]; decide +kernel

theorem fenceEffects_met15 : ∃ (s : State) (n : Fin 6) (k : _), corePresent s ↑n = true ∧ fenced s ↑n = false ∧ (dom s (3 +
  ↑n)).moving = false ∧ ¬Survives s n ∧ s.pacer.plan = none ∧ s.pacer.resetWait = false ∧ (∀ k < 64, (getClass s k).shrinks =
  []) ∧ k < 64 ∧ (getClass s k).st = ClassSt.revoking := by
  refine ⟨rev (alone f1), 0, 9, ?_⟩
  dsimp only [Survives]; decide +kernel

theorem fenceEffects_met16 : ∃ (s : State) (n : Fin 6), corePresent s ↑n = true ∧ fenced s ↑n = false ∧ (dom s (3 + ↑n)).moving
  = false ∧ ¬Survives s n ∧ s.pacer.plan = none ∧ s.pacer.resetWait = false ∧ ∀ k < 64, (getClass s k).shrinks = [] := by
  refine ⟨alone f1, 0, ?_⟩
  dsimp only [Survives]; decide +kernel

end W6y

/-! ## jobEnds, stepDetections, otherDetections, sourceAssertions -/

namespace W7y

def cv : ClassVals := { cost := 100, stepMax := 10, period := 1000, deadline := 1000, dram := 1000, spread := 1 }
def cls (st : ClassSt) (o : Byte) (x : ClassEntry := {}) : ClassEntry := { x with st := st, owner := o, vals := cv, notice := 50 }
def jb (id cl core : Nat) (st : ShareSt) (com rows : Nat) : Job := { job0 with id := id, cls := Fin.ofNat 64 cl,
                                                                               shares := shr { core := Fin.ofNat 6 core,
                                                                                               codeLen := 64, st := st,
                                                                                               committed := com,
                                                                                               carryBase := 1,
                                                                                               carryRows := rows } }
def f1 : State := modPacer (fun p => { p with classes := [(0, cls .defined 0x10), (1, cls .accepted 0x10 { cores := [(0, some 0)] }), (2, cls .shed 0x10), (5, cls .accepted 0 { cores := [(0, some 1)] })] , jobs := [jb 7 1 0 .running 3 2, jb 8 5 1 .waiting 0 0] })
  (modProc 0 (fun p => { p with run := some (7, 0), runState := .issue, pc := 64 }) (enAll up))
def w7 (r : ShareRun) (k : Nat) : Job := { jb 7 1 0 .running 3 2 with shares := shr r, detBy := if k = 0 then [] else [(0, k)] }
def sr : ShareRun := { core := 0, codeLen := 64, st := .running, committed := 3, carryBase := 1, carryRows := 2 }
def w72 : Job := w7 sr 2
def w70 : Job := w7 sr 0
def j7s (j : Job) (s : State) : State := modPacer (fun p => { p with jobs := [j, jb 8 5 1 .waiting 0 0] }) s
def wc7yx1 : State := modPacer (fun p => { p with carries := [{ job := 7, share := 0, src := 1, dst := 0 }] }) (j7s w70 f1)
def m1 (f : ProcState → ProcState) : State := modProc 6 f (enAll up)
def cha (s : State) : State := setReg pgDma 3 0x400 1 (modProc 0 (fun p => { p with stepChans := [3] }) (modChan 3 (fun c =>
  { c with en := true, st := .active }) s))
def wc7yx2 : State := m1 (fun p => { p with halted := true })
def wc7yx3 : State := m1 (fun p => { p with fvec := 0x81000100 })

theorem jobEnds_met1 : ∃ (s : State) (id : ℕ), Option.any (fun (j : Job) => decide (j.open_ = true)) (getJob s id) = true := by
  refine ⟨j7s w70 f1, 7, ?_⟩
  decide +kernel

theorem jobEnds_met2 : ∃ (s : State) (id : ℕ) (st : JobStatus) (cause : Byte) (detail : Byte), Option.any (fun (j : Job) =>
  decide (j.open_ = true ∧ (!(jobStop id st cause detail s).pacer.carries.isEmpty) = true)) (getJob s id) = true := by
  refine ⟨wc7yx1, 8, JobStatus.ok, 32, 32, ?_⟩
  decide +kernel

theorem stepDetections_met1 : ∃ (s : State) (n : Fin 6) (j : ℕ) (i : ℕ) (job : Job), Fencing s n ∧ (getProc s ↑n).run = some (j,
  i) ∧ getJob s j = some job ∧ job.open_ = true ∧ let before := (storeGet (fun (x : ℕ) => 0) job.detBy ↑n); before < 2 := by
  refine ⟨j7s w70 f1, 0, 7, 0, w70, ?_⟩
  dsimp only; repeat' first | decide +kernel | refine aborts_ok ?_ | constructor

theorem stepDetections_met2 : ∃ (s : State) (n : Fin 6) (j : ℕ) (i : ℕ) (job : Job), Fencing s n ∧ (getProc s ↑n).run = some (j,
  i) ∧ getJob s j = some job ∧ job.open_ = true ∧ let before := (storeGet (fun (x : ℕ) => 0) job.detBy ↑n); 2 ≤ before := by
  refine ⟨j7s w72 f1, 0, 7, 0, w72, ?_⟩
  dsimp only; repeat' first | decide +kernel | refine aborts_ok ?_ | constructor

theorem otherDetections_met1 : ∃ (s : State), let p := (getProc s 6); p.halted = true ∨ s.reset_.romStarted = false := by
  refine ⟨wc7yx2, ?_⟩
  decide +kernel

theorem otherDetections_met2 : ∃ (s : State), let p := (getProc s 6); p.halted = false ∧ s.reset_.romStarted = true := by
  refine ⟨m1 id, ?_⟩
  decide +kernel

theorem otherDetections_met3 : ∃ (s : State), let p := (getProc s 6); p.halted = false ∧ s.reset_.romStarted = true ∧
  BitVec.getLsbD p.fvec 31 = true ∧ p.inFault = false := by
  refine ⟨wc7yx3, ?_⟩
  decide +kernel

theorem otherDetections_met4 : ∃ (s : State), let p := (getProc s 6); p.halted = false ∧ s.reset_.romStarted = true ∧
  BitVec.getLsbD p.fvec 31 = true ∧ p.inFault = false ∧ p.buf.syls = 0 ∧ p.inflight = [] := by
  refine ⟨wc7yx3, ?_⟩
  decide +kernel

theorem otherDetections_met5 : ∃ (s : State), let p := (getProc s 6); p.halted = false ∧ s.reset_.romStarted = true ∧
  (BitVec.getLsbD p.fvec 31 = false ∨ p.inFault = true) := by
  refine ⟨m1 id, ?_⟩
  decide +kernel

theorem otherDetections_met6 : ∃ (s : State) (c : Fin 32), ∀ (n : ℕ), chanCore s ↑c = some n → c ∉ (getProc s n).stepChans := by
  refine ⟨m1 id, 3, ?_⟩
  decide +kernel

theorem otherDetections_met7 : ∃ (s : State) (c : Fin 32), (∀ (n : ℕ), chanCore s ↑c = some n → c ∉ (getProc s n).stepChans) ∧
  (getHdr s pgDma).errValid = false := by
  refine ⟨m1 id, 3, ?_⟩
  decide +kernel

theorem otherDetections_met8 : ∃ (s : State) (c : Fin 32) (a : ℕ) (k : _), (∀ (n : ℕ), chanCore s ↑c = some n → c ∉ (getProc s
  n).stepChans) ∧ k < 6 ∧ place a = Place.cmem k ∨ place a = Place.buffers k ∨ place a = Place.pmem k := by
  refine ⟨m1 id, 3, 553648133, 1, ?_⟩
  decide +kernel

theorem otherDetections_met9 : ∃ (s : State) (c : Fin 32) (a : ℕ), (∀ (n : ℕ), chanCore s ↑c = some n → c ∉ (getProc s
  n).stepChans) ∧ place a = Place.sram := by
  refine ⟨m1 id, 3, 16777472, ?_⟩
  decide +kernel

theorem otherDetections_met10 : ∃ (s : State) (c : Fin 32) (k : ℕ), (∀ (n : ℕ), chanCore s ↑c = some n → c ∉ (getProc s
  n).stepChans) ∧ k ≠ ↑c := by
  refine ⟨m1 id, 3, 0, ?_⟩
  decide +kernel

theorem otherDetections_met11 : ∃ (s : State) (c : Fin 32) (a : ℕ) (n : ℕ) (i : ℕ), chanCore s ↑c = some n ∧ c ∈ (getProc s
  n).stepChans ∧ (getChan s ↑c).st ≠ ChanSt.halted ∧ n < 6 ∧ place a ≠ Place.sram ∧ place a = Place.shm i := by
  refine ⟨cha f1, 3, 268435712, 0, ?_⟩
  repeat' first | decide +kernel | refine shm_of ?_ | constructor

theorem otherDetections_met12 : ∃ (s : State) (c : Fin 32) (a : ℕ) (n : ℕ), chanCore s ↑c = some n ∧ c ∈ (getProc s n).stepChans
  ∧ (getChan s ↑c).st ≠ ChanSt.halted ∧ n < 6 ∧ place a ≠ Place.sram ∧ ∀ (i : ℕ), place a ≠ Place.shm i := by
  refine ⟨cha f1, 3, 0, 0, ?_⟩
  repeat' first | decide +kernel | refine not_shm ?_ | constructor

theorem sourceAssertions_met1 : ∃ (s : State) (c : Fin 14), pulseBusy s = false ∧ 2 ≤ ↑c := by
  refine ⟨up, 2, ?_⟩
  decide +kernel

theorem sourceAssertions_met2 : ∃ (s : State) (c : Fin 14), pulseBusy s = false ∧ 2 ≤ ↑c ∧ srcLevel s ↑c ≠ 0 ∧ s.reset_.exit ≠
  some 0 := by
  refine ⟨up, 3, ?_⟩
  decide +kernel

theorem sourceAssertions_met3 : ∃ (s : State) (c : Fin 14), pulseBusy s = false ∧ 2 ≤ ↑c ∧ srcLevel s ↑c ≠ 3 := by
  refine ⟨up, 2, ?_⟩
  decide +kernel

theorem sourceAssertions_met4 : ∃ (s : State) (c : Fin 14), pulseBusy s = false ∧ 2 ≤ ↑c ∧ srcLevel s ↑c = 3 ∧ s.reset_.episode
  = none := by
  refine ⟨up, 3, ?_⟩
  decide +kernel

theorem sourceAssertions_met5 : ∃ (s : State) (c : Fin 14), pulseBusy s = false ∧ 2 ≤ ↑c ∧ ↑c = 12 := by
  refine ⟨up, 12, ?_⟩
  decide +kernel

theorem jobEnds_others_met : ∃ (s : State) (id n m : Nat) (j : Job), getJob s id = some j ∧ j.open_ = true ∧ m ≠ id ∧ n < 6 :=
  ⟨f1, 7, 0, 8, jb 7 1 0 .running 3 2, by decide +kernel⟩

end W7y

/-! ## controlBundles -/

namespace W9y

def b0 : State := modPacer (fun p => { p with jobs := [job0] }) (enAll up)
def m0 (s : State) : State := modProc 6 (fun p =>
  { p with runState := .issue, pc := 0x1000010, g := [(1, 3), (3, 0x80000000)], epc := 0x44 }) s
def c0 (f : ProcState → ProcState) : State := m0 (cor f b0)
def pm (s : State) : State := memPut (winBase 0 + 0xE00000) ((List.range 16).flatMap fun _ => [0, 0, 0, 0x80]) s
def cb (f : BundleBuf → BundleBuf) (s : State) : State := modProc 0 (fun p => { p with buf := f p.buf }) s
def dw : DelayWindow := { left := 3, target := some 0x80, ret := .none }
def wc9yx1 : State := cb (fun b => { b with delay := some dw }) (pm (c0 id))
def wc9yx2 : State := cb (fun b => { b with delay := some dw, call := true }) (pm (c0 id))
def wc9yx3 : State := cb (fun b => { b with rep := some (2, 5, true) }) (pm (c0 id))
def wc9yx5 : State := cb (fun b => { b with rep := some (2, 5, true) }) (c0 id)
def wc9yx6 : State := cb (fun b => { b with rrot := true }) (pm (c0 id))

theorem controlBundles_met1 : ∃ (s : State) (a : At) (slot : Slot), a.fin = true ∧ Issues s a (slotNum slot) false ∧ straight s
  a ∧ let p := (getProc s a.p.num); p.buf.mems = [] ∧ p.buf.waits = [] ∧ p.commitAsked = none ∧ p.inflight = [] ∧ Option.any
  (fun (d : DelayWindow) => decide ((getProc s a.p.num).buf.call = false ∧ (getProc s a.p.num).buf.rep = none ∧ (getProc s
  a.p.num).buf.rrot = false)) p.buf.delay = true := by
  refine ⟨wc9yx1, { p := Proc.core 0, fin := true }, Slot.s, ?_⟩
  dsimp only [straight]; repeat' first | decide +kernel | constructor

theorem controlBundles_met2 : ∃ (s : State) (a : At) (slot : Slot) (d : DelayWindow) (r : ℕ), a.fin = true ∧ Issues s a (slotNum
  slot) false ∧ straight s a ∧ let p := (getProc s a.p.num); let next := (p.pc + 4 * (p.buf.syls + 1)); p.buf.mems = [] ∧
  p.buf.waits = [] ∧ p.commitAsked = none ∧ p.inflight = [] ∧ p.buf.delay = some d ∧ p.buf.call = true ∧ p.buf.rep = none ∧
  p.buf.rrot = false ∧ bundlesNext s a.p.num 3 next = some r := by
  refine ⟨wc9yx2, { p := Proc.core 0, fin := true }, Slot.s, dw, 32, ?_⟩
  dsimp only [straight]; repeat' first | decide +kernel | constructor

theorem controlBundles_met3 : ∃ (s : State) (a : At) (slot : Slot) (len : ℕ) (cnt : ℕ) (rot : Bool) (e : ℕ), a.fin = true ∧
  Issues s a (slotNum slot) false ∧ straight s a ∧ let p := (getProc s a.p.num); let next := (p.pc + 4 * (p.buf.syls + 1));
  p.buf.mems = [] ∧ p.buf.waits = [] ∧ p.commitAsked = none ∧ p.inflight = [] ∧ p.buf.rep = some (len, cnt, rot) ∧ p.buf.delay =
  none ∧ p.buf.call = false ∧ p.buf.rrot = false ∧ bundlesNext s a.p.num len next = some e := by
  refine ⟨wc9yx3, { p := Proc.core 0, fin := true }, Slot.s, 2, 5, true, 28, ?_⟩
  dsimp only [straight]; repeat' first | decide +kernel | constructor

theorem controlBundles_met4 : ∃ (s : State) (a : At) (slot : Slot) (len : ℕ) (cnt : ℕ) (rot : Bool), a.fin = true ∧ Issues s a
  (slotNum slot) false ∧ straight s a ∧ let p := (getProc s a.p.num); let next := (p.pc + 4 * (p.buf.syls + 1)); p.buf.mems = []
  ∧ p.buf.waits = [] ∧ p.commitAsked = none ∧ p.inflight = [] ∧ p.buf.rep = some (len, cnt, rot) ∧ bundlesNext s a.p.num len
  next = none := by
  refine ⟨wc9yx5, { p := Proc.core 0, fin := true }, Slot.s, 2, 5, true, ?_⟩
  dsimp only [straight]; repeat' first | decide +kernel | constructor

theorem controlBundles_met5 : ∃ (s : State) (a : At) (slot : Slot), a.fin = true ∧ Issues s a (slotNum slot) false ∧ straight s
  a ∧ let p := (getProc s a.p.num); p.buf.mems = [] ∧ p.buf.waits = [] ∧ p.commitAsked = none ∧ p.inflight = [] ∧ p.buf.rrot =
  true ∧ p.buf.delay = none ∧ p.buf.call = false ∧ p.buf.rep = none := by
  refine ⟨wc9yx6, { p := Proc.core 0, fin := true }, Slot.s, ?_⟩
  dsimp only [straight]; repeat' first | decide +kernel | constructor

end W9y

/-! ## gatherFaults -/

namespace W11y

def b0 : State := modPacer (fun p => { p with jobs := [job0] }) (enAll up)
def aa : Addr := BitVec.ofNat _ (winBase 0 + 0x1000)
def idxv (l : List Int) : BitVec 1024 := BitVec.ofNat 1024 ((List.range 16).foldl (fun acc k => acc + ((l.getD k 0) %
  4294967296).toNat * 2 ^ (32 * k)) 0)
def rnd (seed : Nat) : BitVec 1024 := BitVec.ofNat 1024 ((List.range 128).foldl (fun acc k => acc * 256 + ((seed + k) * (seed + 7 *
  k + 3) * 2654435761 / 65536) % 256) 0)
def fillp (p : ProcState) : ProcState := { p with
    p := [(1, aa), (2, aa + 2), (3, aa + 4), (4, aa + 8), (0, 0xFFFFFFFFF8), (5, BitVec.ofNat _ (winBase 0 + 0x3FFF80)), (6, BitVec.ofNat _ (winBase 0 + 0x400000)), (7, BitVec.ofNat _ sramBase), (8, BitVec.ofNat _ 0x80)]
    o := [(0, 4), (1, 0xFFFFFFF8), (2, 2), (15, 0x80000000)]
    v := [(0, rnd 3), (1, rnd 4), (2, idxv [0, 8, 16, 24, 32, 40, 128, 8, 0, 3, 5, 400, 480, -8, -16, 64]),
      (3, idxv [0, 8, 16, 24, 32, 40, 128, 128, 256, 384, 512, 400, 480, -8, -16, 64]), (4, idxv [0, 8, 16, 24, 0x7FFFFFF8, 40, 128, 8]) ]
    m := [(0, 0xA5F3), (1, 0xFFFFFFFFFFFFFFFFFFFFFFFFFFFFFFFF)]
    rrb := 1 }
def wr (s : State) : State := memPut (winBase 0 + 0xFF0) ((List.range 4).map fun k => BitVec.ofNat 8 (k * 37 + 11)) s
def c0 (f : ProcState → ProcState) : State := wr (modProc 6 (fun p => fillp { p with runState := .issue, pc := 0x1000010 }) (cor (f
  ∘ fillp) b0))
def vop (d p idx : Nat) (es : Nat) (sc l1 : Bool) : VecOp := ⟨⟨Fin.ofNat 32 d, Fin.ofNat 16 p, Fin.ofNat 32 idx, BitVec.ofNat 2 es,
  0, false, 0⟩, l1, sc⟩
def o1 : VecOp := vop 5 1 2 1 false false
def gst (op : VecOp) (first : Nat) (resumed : Bool) (f : ProcState → ProcState) : State := c0 fun p => f
  { p with buf := { p.buf with mems := [.gs op first resumed] } }
def wc11yx2 : State := gst o1 0 false fun p => { p with fvec := 0x80000100, ie := true }
def wc11yx5 : State := gst o1 0 true fun p => { p with fvec := 0x80000100, inFault := true, vfaultPc := 8 }

theorem gatherFaults_met1 : ∃ (s : State) (c : Fin 6) (slot : Slot) (op : VecOp) (first : ℕ) (k : ℕ) (resumed : Bool) (cause :
  Byte), let a := { p := Proc.core c, fin := true }; Issues s a (slotNum slot) false ∧ let p := (getProc s ↑c); p.buf.mems =
  [MemOp.gs op first resumed] ∧ p.buf.waits = [] ∧ p.buf.rep = none ∧ p.buf.call = false ∧ p.commitAsked = none ∧ p.inflight =
  [] ∧ first ≤ k ∧ k < 16 ∧ gsCheck p (↑c) op.form k = some cause ∧ (∀ (j : ℕ), first ≤ j → j < k → gsCheck p (↑c) op.form j =
  none) ∧ (op.scatter = false → ∀ (j : ℕ), first ≤ j → j < k → gsOn p op.form j = true → ∀ i < 2 ^ op.form.esize.toNat, viewBad
  s (some ↑c) (gsAddr p (↑c) op.form j + i) = false) ∧ resumed = false ∧ p.delay = none ∧ p.buf.delay = none ∧ BitVec.getLsbD
  p.fvec 31 = true ∧ p.inFault = false := by
  refine ⟨wc11yx2, 0, Slot.s, o1, 0, 9, false, 13, ?_⟩
  dsimp only; repeat' first | decide +kernel | constructor

theorem gatherFaults_met2 : ∃ (s : State) (c : Fin 6) (slot : Slot) (op : VecOp) (first : ℕ) (k : ℕ) (resumed : Bool) (cause :
  Byte), let a := { p := Proc.core c, fin := true }; Issues s a (slotNum slot) false ∧ let p := (getProc s ↑c); p.buf.mems =
  [MemOp.gs op first resumed] ∧ p.buf.waits = [] ∧ p.buf.rep = none ∧ p.buf.call = false ∧ p.commitAsked = none ∧ p.inflight =
  [] ∧ first ≤ k ∧ k < 16 ∧ gsCheck p (↑c) op.form k = some cause ∧ (∀ (j : ℕ), first ≤ j → j < k → gsCheck p (↑c) op.form j =
  none) ∧ (op.scatter = false → ∀ (j : ℕ), first ≤ j → j < k → gsOn p op.form j = true → ∀ i < 2 ^ op.form.esize.toNat, viewBad
  s (some ↑c) (gsAddr p (↑c) op.form j + i) = false) ∧ resumed = true ∧ BitVec.getLsbD p.fvec 31 = true ∧ p.inFault = true ∧ ∀
  (d : DelayWindow), p.delay = some d → 1 < d.left := by
  refine ⟨wc11yx5, 0, Slot.s, o1, 0, 9, true, 13, ?_⟩
  dsimp only; repeat' first | decide +kernel | constructor

theorem gatherFaults_met3 : ∃ (s : State) (c : Fin 6) (slot : Slot) (op : VecOp) (first : ℕ) (k : ℕ) (resumed : Bool) (cause :
  Byte) (j : ℕ) (i : ℕ) (job : Job), let a := { p := Proc.core c, fin := true }; Issues s a (slotNum slot) false ∧ let p :=
  (getProc s ↑c); p.buf.mems = [MemOp.gs op first resumed] ∧ p.buf.waits = [] ∧ p.buf.rep = none ∧ p.buf.call = false ∧
  p.commitAsked = none ∧ p.inflight = [] ∧ first ≤ k ∧ k < 16 ∧ gsCheck p (↑c) op.form k = some cause ∧ (∀ (j : ℕ), first ≤ j →
  j < k → gsCheck p (↑c) op.form j = none) ∧ (op.scatter = false → ∀ (j : ℕ), first ≤ j → j < k → gsOn p op.form j = true → ∀ i
  < 2 ^ op.form.esize.toNat, viewBad s (some ↑c) (gsAddr p (↑c) op.form j + i) = false) ∧ (BitVec.getLsbD p.fvec 31 = false ∨
  resumed = false ∧ p.inFault = true ∧ ∀ (d : DelayWindow), p.delay = some d → 1 < d.left) ∧ p.run = some (j, i) ∧ getJob s j =
  some job ∧ job.open_ = true := by
  refine ⟨gst o1 0 false id, 0, Slot.s, o1, 0, 9, false, 13, 7, 0, job0, ?_⟩
  dsimp only; repeat' first | decide +kernel | constructor

end W11y

/-! ## codecFrames -/

namespace W19q_a

def regsP (pg p : Nat) (l : List (Nat × Nat)) (s : State) : State := l.foldl (fun s e => setReg pg p e.1 (BitVec.ofNat 32 e.2) s) s
def base : State := regsP pgCodec 0 [(0x040, 0)] { enAll up with pacer := { up.pacer with jobs := [] } }
def med (f : Media → Media) (s : State) : State := { s with media := f s.media }
abbrev DI := Bool × Nat × Nat × DecodeItem
def di (l : Bool) (t i : Nat) (x : DecodeItem) : DI := (l, t, i, x)
def rec0 (s : State) : State := memPut 0x10000A000 ((List.replicate 12 0) ++ bytesOf 4 1 ++ bytesOf 8 777 ++ bytesOf 8 0) s
def wc19qx6 : List DI := [di false 5 3 (.stream 3 5), di true 9 4 (.stream 4 0)]
def s17 : State := rec0 (med (fun m => { m with decoding := none }) (regsP pgCodec 17 [(0x400, 1), (0x404, 64 + 64 * 65536), (0x40C,
  0xA000), (0x410, 1), (0x414, 1)] base))

theorem units_ok {s : State} (h : ((List.range 32).all fun n => match sesRecord s n with
    | some a => !sesDecodes s n || decide (devRefusal s false a 32 = none ∧ firstDamaged s a 32 = none)
    | none => true) = true) (n a : Nat) (hn : n < 32) (hd : sesDecodes s n = true) (hr : sesRecord s n = some a)
    (_ : storeGet (fun _ => none) s.media.unitAt n = none) : devRefusal s false a 32 = none ∧ firstDamaged s a 32 = none := by
  have h := List.all_eq_true.1 h n (List.mem_range.2 hn)
  simp only [hr, hd, Bool.not_true, Bool.false_or] at h
  exact of_decide_eq_true h

theorem codecFrames_met1 : ∃ (l : List (Bool × ℕ × ℕ × DecodeItem)), (decodeFirst l).isSome = true := by
  refine ⟨wc19qx6, ?_⟩
  decide +kernel

theorem codecFrames_met2 : ∃ (l : List (Bool × ℕ × ℕ × DecodeItem)), Option.any (fun (x : Bool × ℕ × ℕ × DecodeItem) => decide
  ((!l.isEmpty) = true)) (decodeFirst l) = true := by
  refine ⟨wc19qx6, ?_⟩
  decide +kernel

theorem codecFrames_met3 : ∃ (s : State), injectorOff s ∧ ∀ (n a : ℕ), n < 32 → sesDecodes s n = true → sesRecord s n = some a →
  storeGet (fun (x : ℕ) => none) s.media.unitAt n = none → devRefusal s false a 32 = none ∧ firstDamaged s a 32 = none := by
  refine ⟨s17, ?_⟩
  dsimp only [injectorOff]; exact ⟨by decide +kernel, units_ok (by decide +kernel)⟩

end W19q_a

/-! ## codecFrames -/

namespace W19q_b

def er (e : Nat) (l : List (Nat × Nat)) (s : State) : State := l.foldl (fun s x => setEntReg e x.1 (BitVec.ofNat 32 x.2) s) s
def regsP (pg p : Nat) (l : List (Nat × Nat)) (s : State) : State := l.foldl (fun s e => setReg pg p e.1 (BitVec.ofNat 32 e.2) s) s
def base : State := regsP pgCodec 0 [(0x040, 0)] { enAll up with pacer := { up.pacer with jobs := [] } }
def cf (n : Nat) (c k : Bool) : ClosedFrame := { number := n, esOff := 0, len := 10, arrive := 900, complete := c,
                                                 key := k, analysed := true, bound := false, decoded := false,
                                                 dropped := false }
def entE (e ctl free : Nat) (x : StreamEnt) (s : State) : State := modEnt e (fun _ => x) (er e [(0, ctl), (0x48, 3), (0x4C, free),
  (0x40, 0x8000), (0x44, 1), (0x30, 0x4000), (0x34, 1), (0x5C, 4096)] s)
def med (f : Media → Media) (s : State) : State := { s with media := f s.media }
def linkc (e : Nat) (s : State) : State := { s with pacer := { s.pacer with classes := [(2, { st := .accepted, vals := { link := true, stream := BitVec.ofNat 9 e, decUs := 10 } })] } }
def q3a : State := med (fun m => { m with decoding := none }) (entE 3 5 6 { frames := [cf 5 true true] } base)
def q3b : State := med (fun m => { m with decoding := some (.session 17) }) (linkc 3 (entE 3 5 6 { frames := [cf 5 true true] } base))
def wc19qx9 : State := { q3b with pacer := up.pacer}

theorem codecFrames_met1 : ∃ (s : State) (ans : Answered), (getHdr s pgCodec).enable = true ∧ domOn s 17 = true ∧
  s.media.decoding = none ∧ let us := ((unitsReady ans s).1); let u := ((unitsReady ans s).2); (decodeFirst (decodeQueue u
  us)).isSome = true := by
  refine ⟨q3a, Answered.good, ?_⟩
  decide +kernel

theorem codecFrames_met2 : ∃ (s : State) (ans : Answered), (getHdr s pgCodec).enable = true ∧ domOn s 17 = true ∧
  s.media.decoding = none ∧ let us := ((unitsReady ans s).1); let u := ((unitsReady ans s).2); decodeFirst (decodeQueue u us) =
  none := by
  refine ⟨base, Answered.good, ?_⟩
  decide +kernel

theorem codecFrames_met3 : ∃ (s : State), (getHdr s pgCodec).enable = true ∧ domOn s 17 = true ∧ Option.any (fun (old :
  DecodeItem) => decide ((∀ (x : Bool × ℕ × ℕ × DecodeItem), decodeFirst (decodeQueue s []) = some x → x.1 = false) ∨ givesWay s
  old = false)) s.media.decoding = true := by
  refine ⟨wc19qx9, ?_⟩
  decide +kernel

theorem codecFrames_waits_met : ∃ (s : State) (old : DecodeItem), (getHdr s pgCodec).enable = true ∧ domOn s 17 = true
    ∧ s.media.decoding = some old
    ∧ ((∀ x, decodeFirst (decodeQueue s []) = some x → x.1 = false) ∨ givesWay s old = false) := by
  refine ⟨med (fun m => { m with decoding := some (.stream 3 5) }) q3b, .stream 3 5, ?_⟩
  exact ⟨by decide +kernel, by decide +kernel, by decide +kernel, Or.inr (by decide +kernel)⟩

end W19q_b

/-! ## codecFrames -/

namespace W19q_c

def er (e : Nat) (l : List (Nat × Nat)) (s : State) : State := l.foldl (fun s x => setEntReg e x.1 (BitVec.ofNat 32 x.2) s) s
def regsP (pg p : Nat) (l : List (Nat × Nat)) (s : State) : State := l.foldl (fun s e => setReg pg p e.1 (BitVec.ofNat 32 e.2) s) s
def base : State := regsP pgCodec 0 [(0x040, 0)] { enAll up with pacer := { up.pacer with jobs := [] } }
def cf (n : Nat) (c k : Bool) : ClosedFrame := { number := n, esOff := 0, len := 10, arrive := 900, complete := c,
                                                 key := k, analysed := true, bound := false, decoded := false,
                                                 dropped := false }
def entE (e ctl free : Nat) (x : StreamEnt) (s : State) : State := modEnt e (fun _ => x) (er e [(0, ctl), (0x48, 3), (0x4C, free),
  (0x40, 0x8000), (0x44, 1), (0x30, 0x4000), (0x34, 1), (0x5C, 4096)] s)
def jf (id : Nat) (fr : Option (Fin 512 × Option Nat)) (ready : Option Nat) : Job :=
  { job0 with id := id, frame := fr, ready := ready, inputs := [.frame] }
def jfs (s : State) : State := { s with pacer := { s.pacer with jobs := [jf 1 (some (3, some 5)) none, jf 2 (some (3, some 5)) (some 8), jf 3 none none, jf 4 (some (3, some 1)) none, { jf 6 (some (3, some 5)) none with ended := some { status := .ok, cause := 0, detail := 0, time := 3 } }] } }
def q4s : State := jfs (entE 3 5 6 { frames := [{ cf 5 true true with decoded := true }] } base)

theorem codecFrames_met1 : ∃ (s : State), PacerAtRest s := by
  refine ⟨q4s, ?_⟩
  repeat' first | decide +kernel | refine aborts_ok ?_ | constructor

theorem codecFrames_met2 : ∃ (s : State), (List.map (fun (x : Job) => x.id) s.pacer.jobs).Nodup := by
  refine ⟨q4s, ?_⟩
  decide +kernel

theorem codecFrames_dropped_met : ∃ (s : State) (e : Fin 512) (k : Nat) (j : Job), (s.pacer.jobs.map (·.id)).Nodup
    ∧ getJob s j.id = some j ∧ j.open_ = true ∧ j.frame = some (e, some k) :=
  ⟨q4s, 3, 5, jf 1 (some (3, some 5)) none, by decide +kernel⟩

theorem codecFrames_kept_met : ∃ (s : State) (e : Fin 512) (k : Nat) (j : Job), (s.pacer.jobs.map (·.id)).Nodup
    ∧ getJob s j.id = some j ∧ (j.open_ = false ∨ j.frame ≠ some (e, some k)) :=
  ⟨q4s, 3, 5, jf 3 none none, by decide +kernel⟩

end W19q_c

/-! ## codecFrames -/

namespace W19q_d

def dres (d k : Bool) (w h n : Nat) : DecodeResult := ⟨d, k, w, h, .c420, false, (List.range h).map fun i => (List.range w).map fun
  j => BitVec.ofNat 10 (i * 16 + j), (List.range (h/2)).map fun i => (List.range w).map fun j => BitVec.ofNat 10 (i + j), n⟩
def er (e : Nat) (l : List (Nat × Nat)) (s : State) : State := l.foldl (fun s x => setEntReg e x.1 (BitVec.ofNat 32 x.2) s) s
def regsP (pg p : Nat) (l : List (Nat × Nat)) (s : State) : State := l.foldl (fun s e => setReg pg p e.1 (BitVec.ofNat 32 e.2) s) s
def base : State := regsP pgCodec 0 [(0x040, 0)] { enAll up with pacer := { up.pacer with jobs := [] } }
def cf (n : Nat) (c k : Bool) : ClosedFrame := { number := n, esOff := 0, len := 10, arrive := 900, complete := c,
                                                 key := k, analysed := true, bound := false, decoded := false,
                                                 dropped := false }
def entE (e ctl free : Nat) (x : StreamEnt) (s : State) : State := modEnt e (fun _ => x) (er e [(0, ctl), (0x48, 3), (0x4C, free),
  (0x40, 0x8000), (0x44, 1), (0x30, 0x4000), (0x34, 1), (0x5C, 4096)] s)
def med (f : Media → Media) (s : State) : State := { s with media := f s.media }
def wc19qx2 : ClosedFrame := { cf 5 true true with arrive := 0 }
def wc19qx4 : ClosedFrame := { cf 5 true true with arrive := 0, dropped := true}
def fb2 (c d k : Bool) (wk : Bool) (ctl free : Nat) (ref : Nat) : State := med (fun m => { m with decoding := some (.stream 3 5) })
  (er 3 [(0x5C, ref)] (entE 3 ctl free { frames := [{ cf 5 true k with arrive := 0, complete := c, dropped := d }], waitKey := wk }
  base))

theorem codecFrames_met1 : ∃ (s : State) (e : Fin 512) (k : ℕ) (f : ClosedFrame) (res : DecodeResult), s.media.decoding = some
  (DecodeItem.stream e k) ∧ domOn s 17 = true ∧ injectorOff s ∧ List.find? (fun (x : ClosedFrame) => x.number == k) (getEnt s
  ↑e).frames = some f ∧ let ent := (getEnt s ↑e); let listed := (decodes (fld (entReg s (↑e) 0) 5 3) res); let bad :=
  (res.damaged || !f.complete || !listed); let conceal := (BitVec.getLsbD (entReg s (↑e) 0) 24 && listed); let fits :=
  ((ent.frames.any fun (x : ClosedFrame) => x.decoded) = true ∨ res.refBytes ≤ BitVec.toNat (entReg s (↑e) 92)); let free :=
  (freeBuf (entReg s (↑e) 76) (fld (entReg s (↑e) 72) 3 0)); fits ∧ f.dropped = false ∧ (conceal = true ∨ bad = false ∧
  (ent.waitKey = false ∨ f.key = true)) ∧ free.isSome = true := by
  refine ⟨fb2 true false true false 5 6 4096, 3, 5, wc19qx2, dres false true 8 4 100, ?_⟩
  dsimp only [injectorOff]; decide +kernel

theorem codecFrames_met2 : ∃ (s : State) (e : Fin 512) (k : ℕ) (f : ClosedFrame) (res : DecodeResult), s.media.decoding = some
  (DecodeItem.stream e k) ∧ domOn s 17 = true ∧ injectorOff s ∧ List.find? (fun (x : ClosedFrame) => x.number == k) (getEnt s
  ↑e).frames = some f ∧ let ent := (getEnt s ↑e); let listed := (decodes (fld (entReg s (↑e) 0) 5 3) res); let bad :=
  (res.damaged || !f.complete || !listed); let conceal := (BitVec.getLsbD (entReg s (↑e) 0) 24 && listed); let fits :=
  ((ent.frames.any fun (x : ClosedFrame) => x.decoded) = true ∨ res.refBytes ≤ BitVec.toNat (entReg s (↑e) 92)); let free :=
  (freeBuf (entReg s (↑e) 76) (fld (entReg s (↑e) 72) 3 0)); fits ∧ f.dropped = false ∧ (conceal = true ∨ bad = false ∧
  (ent.waitKey = false ∨ f.key = true)) ∧ free = none := by
  refine ⟨fb2 true false true false 5 0 4096, 3, 5, wc19qx2, dres false true 8 4 100, ?_⟩
  dsimp only [injectorOff]; decide +kernel

theorem codecFrames_met3 : ∃ (s : State) (e : Fin 512) (k : ℕ) (f : ClosedFrame) (res : DecodeResult), s.media.decoding = some
  (DecodeItem.stream e k) ∧ domOn s 17 = true ∧ injectorOff s ∧ List.find? (fun (x : ClosedFrame) => x.number == k) (getEnt s
  ↑e).frames = some f ∧ let ent := (getEnt s ↑e); let listed := (decodes (fld (entReg s (↑e) 0) 5 3) res); let bad :=
  (res.damaged || !f.complete || !listed); let conceal := (BitVec.getLsbD (entReg s (↑e) 0) 24 && listed); let fits :=
  ((ent.frames.any fun (x : ClosedFrame) => x.decoded) = true ∨ res.refBytes ≤ BitVec.toNat (entReg s (↑e) 92)); fits ∧
  f.dropped = false ∧ conceal = false ∧ (bad = true ∨ ent.waitKey = true ∧ f.key = false) := by
  refine ⟨fb2 true false true false 5 6 4096, 3, 5, wc19qx2, dres true true 8 4 100, ?_⟩
  dsimp only [injectorOff]; decide +kernel

theorem codecFrames_met4 : ∃ (s : State) (e : Fin 512) (k : ℕ) (f : ClosedFrame) (res : DecodeResult), s.media.decoding = some
  (DecodeItem.stream e k) ∧ domOn s 17 = true ∧ injectorOff s ∧ List.find? (fun (x : ClosedFrame) => x.number == k) (getEnt s
  ↑e).frames = some f ∧ let ent := (getEnt s ↑e); let fits := ((ent.frames.any fun (x : ClosedFrame) => x.decoded) = true ∨
  res.refBytes ≤ BitVec.toNat (entReg s (↑e) 92)); fits ∧ f.dropped = true := by
  refine ⟨fb2 true true true false 5 6 4096, 3, 5, wc19qx4, dres false true 8 4 100, ?_⟩
  dsimp only [injectorOff]; decide +kernel

theorem codecFrames_met5 : ∃ (s : State) (e : Fin 512) (k : ℕ) (f : ClosedFrame) (res : DecodeResult), s.media.decoding = some
  (DecodeItem.stream e k) ∧ domOn s 17 = true ∧ injectorOff s ∧ List.find? (fun (x : ClosedFrame) => x.number == k) (getEnt s
  ↑e).frames = some f ∧ let ent := (getEnt s ↑e); let fits := ((ent.frames.any fun (x : ClosedFrame) => x.decoded) = true ∨
  res.refBytes ≤ BitVec.toNat (entReg s (↑e) 92)); ¬fits := by
  refine ⟨fb2 true false true false 5 6 4096, 3, 5, wc19qx2, dres false true 8 4 6000, ?_⟩
  dsimp only [injectorOff]; decide +kernel

theorem codecFrames_met6 : ∃ (s : State) (e : Fin 512) (k : ℕ) (f : ClosedFrame), s.media.decoding = some (DecodeItem.stream e
  k) ∧ domOn s 17 = true ∧ injectorOff s ∧ List.find? (fun (x : ClosedFrame) => x.number == k) (getEnt s ↑e).frames = some f ∧
  let free := (freeBuf (entReg s (↑e) 76) (fld (entReg s (↑e) 72) 3 0)); f.dropped = false ∧ f.arrive + (linkedDecNs s ↑e).getD
  (decDefNs s) ≤ now s ∧ free = none := by
  refine ⟨fb2 true false true false 5 0 4096, 3, 5, wc19qx2, ?_⟩
  dsimp only [injectorOff]; decide +kernel

theorem codecFrames_met7 : ∃ (s : State) (e : Fin 512) (k : ℕ) (f : ClosedFrame), s.media.decoding = some (DecodeItem.stream e
  k) ∧ domOn s 17 = true ∧ injectorOff s ∧ List.find? (fun (x : ClosedFrame) => x.number == k) (getEnt s ↑e).frames = some f ∧
  let free := (freeBuf (entReg s (↑e) 76) (fld (entReg s (↑e) 72) 3 0)); f.dropped = true ∨ now s < f.arrive + (linkedDecNs s
  ↑e).getD (decDefNs s) ∨ free ≠ none := by
  refine ⟨fb2 true false true false 5 6 4096, 3, 5, wc19qx2, ?_⟩
  dsimp only [injectorOff]; decide +kernel

end W19q_d

/-! ## codecFrames -/

namespace W19q_e

def dres (d k : Bool) (w h n : Nat) : DecodeResult := ⟨d, k, w, h, .c420, false, (List.range h).map fun i => (List.range w).map fun
  j => BitVec.ofNat 10 (i * 16 + j), (List.range (h/2)).map fun i => (List.range w).map fun j => BitVec.ofNat 10 (i + j), n⟩
def regsP (pg p : Nat) (l : List (Nat × Nat)) (s : State) : State := l.foldl (fun s e => setReg pg p e.1 (BitVec.ofNat 32 e.2) s) s
def base : State := regsP pgCodec 0 [(0x040, 0)] { enAll up with pacer := { up.pacer with jobs := [] } }
def med (f : Media → Media) (s : State) : State := { s with media := f s.media }
def rec0 (s : State) : State := memPut 0x10000A000 ((List.replicate 12 0) ++ bytesOf 4 1 ++ bytesOf 8 777 ++ bytesOf 8 0) s
def us (fl : Nat) (ws : Bool) (dr : Bool) (free : Nat) : State := rec0 (med (fun m => { m with decoding := some (.session 17),
                                                                                               unitAt := [(17, some (0, BitVec.ofNat 32 fl))],
                                                                                               sesWaitKey := if ws then 0x20000 else 0,
                                                                                               unitDrop := if dr then 0x20000 else 0 })
  (regsP pgCodec 17 [(0x400, 1), (0x404, 64 + 64 * 65536), (0x40C, 0xA000), (0x410, 1), (0x414, 1), (0x418, 0x9000), (0x41C, 1),
  (0x438, 3 + 64 * 65536), (0x43C, free)] base))

theorem codecFrames_met1 : ∃ (s : State) (n : Fin 32) (a : ℕ) (w : ℕ × Word) (res : DecodeResult), s.media.decoding = some
  (DecodeItem.session n) ∧ domOn s 17 = true ∧ injectorOff s ∧ sesRecord s ↑n = some a ∧ storeGet (fun (x : ℕ) => none)
  s.media.unitAt ↑n = some w ∧ let skip := ((BitVec.getLsbD w.2 0 || s.media.sesWaitKey.getLsbD ↑n) && !res.key); skip = true :=
  by
  refine ⟨us 1 true false 6, 17, 4295008256, (0, 1), dres false false 8 4 100, ?_⟩
  dsimp only [injectorOff]; decide +kernel

theorem codecFrames_met2 : ∃ (s : State) (n : Fin 32) (a : ℕ) (w : ℕ × Word) (res : DecodeResult), s.media.decoding = some
  (DecodeItem.session n) ∧ domOn s 17 = true ∧ injectorOff s ∧ sesRecord s ↑n = some a ∧ storeGet (fun (x : ℕ) => none)
  s.media.unitAt ↑n = some w ∧ let skip := ((BitVec.getLsbD w.2 0 || s.media.sesWaitKey.getLsbD ↑n) && !res.key); let listed :=
  (decodes (fld (sesReg s (↑n) 1024) 4 2) res); skip = false ∧ (oversize s (↑n) res = true ∨ listed = false) := by
  refine ⟨us 0 false false 6, 17, 4295008256, (0, 0), dres false true 128 4 100, ?_⟩
  dsimp only [injectorOff]; decide +kernel

theorem codecFrames_met3 : ∃ (s : State) (n : Fin 32) (a : ℕ) (w : ℕ × Word) (res : DecodeResult), s.media.decoding = some
  (DecodeItem.session n) ∧ domOn s 17 = true ∧ injectorOff s ∧ sesRecord s ↑n = some a ∧ storeGet (fun (x : ℕ) => none)
  s.media.unitAt ↑n = some w ∧ let skip := ((BitVec.getLsbD w.2 0 || s.media.sesWaitKey.getLsbD ↑n) && !res.key); let listed :=
  (decodes (fld (sesReg s (↑n) 1024) 4 2) res); skip = false ∧ oversize s (↑n) res = false ∧ listed = true ∧
  s.media.unitDrop.getLsbD ↑n = true := by
  refine ⟨us 0 false true 6, 17, 4295008256, (0, 0), dres false true 8 4 100, ?_⟩
  dsimp only [injectorOff]; decide +kernel

theorem codecFrames_met4 : ∃ (s : State) (n : Fin 32) (a : ℕ) (w : ℕ × Word) (res : DecodeResult), s.media.decoding = some
  (DecodeItem.session n) ∧ domOn s 17 = true ∧ injectorOff s ∧ sesRecord s ↑n = some a ∧ storeGet (fun (x : ℕ) => none)
  s.media.unitAt ↑n = some w ∧ let skip := ((BitVec.getLsbD w.2 0 || s.media.sesWaitKey.getLsbD ↑n) && !res.key); let listed :=
  (decodes (fld (sesReg s (↑n) 1024) 4 2) res); let free := (freeBuf (sesReg s (↑n) 1084) (fld (sesReg s (↑n) 1080) 3 0)); skip
  = false ∧ oversize s (↑n) res = false ∧ listed = true ∧ s.media.unitDrop.getLsbD ↑n = false ∧ free.isSome = true := by
  refine ⟨us 0 false false 6, 17, 4295008256, (0, 0), dres false true 8 4 100, ?_⟩
  dsimp only [injectorOff]; decide +kernel

theorem codecFrames_met5 : ∃ (s : State) (n : Fin 32) (a : ℕ) (w : ℕ × Word) (res : DecodeResult), s.media.decoding = some
  (DecodeItem.session n) ∧ domOn s 17 = true ∧ injectorOff s ∧ sesRecord s ↑n = some a ∧ storeGet (fun (x : ℕ) => none)
  s.media.unitAt ↑n = some w ∧ let skip := ((BitVec.getLsbD w.2 0 || s.media.sesWaitKey.getLsbD ↑n) && !res.key); let listed :=
  (decodes (fld (sesReg s (↑n) 1024) 4 2) res); let free := (freeBuf (sesReg s (↑n) 1084) (fld (sesReg s (↑n) 1080) 3 0)); skip
  = false ∧ oversize s (↑n) res = false ∧ listed = true ∧ s.media.unitDrop.getLsbD ↑n = false ∧ free = none := by
  refine ⟨us 8 false false 0, 17, 4295008256, (0, 8), dres false true 8 4 100, ?_⟩
  dsimp only [injectorOff]; decide +kernel

theorem codecFrames_met6 : ∃ (s : State) (n : Fin 32) (a : ℕ) (w : ℕ × Word), s.media.decoding = some (DecodeItem.session n) ∧
  domOn s 17 = true ∧ injectorOff s ∧ sesRecord s ↑n = some a ∧ storeGet (fun (x : ℕ) => none) s.media.unitAt ↑n = some w ∧ let
  free := (freeBuf (sesReg s (↑n) 1084) (fld (sesReg s (↑n) 1080) 3 0)); w.1 + decDefNs s ≤ now s ∧ free = none := by
  refine ⟨us 8 false false 0, 17, 4295008256, (0, 8), ?_⟩
  dsimp only [injectorOff]; decide +kernel

end W19q_e

/-! ## codecFrames -/

namespace W19q_f

def er (e : Nat) (l : List (Nat × Nat)) (s : State) : State := l.foldl (fun s x => setEntReg e x.1 (BitVec.ofNat 32 x.2) s) s
def regsP (pg p : Nat) (l : List (Nat × Nat)) (s : State) : State := l.foldl (fun s e => setReg pg p e.1 (BitVec.ofNat 32 e.2) s) s
def base : State := regsP pgCodec 0 [(0x040, 0)] { enAll up with pacer := { up.pacer with jobs := [] } }
def cf (n : Nat) (c k : Bool) : ClosedFrame := { number := n, esOff := 0, len := 10, arrive := 900, complete := c,
                                                 key := k, analysed := true, bound := false, decoded := false,
                                                 dropped := false }
def entE (e ctl free : Nat) (x : StreamEnt) (s : State) : State := modEnt e (fun _ => x) (er e [(0, ctl), (0x48, 3), (0x4C, free),
  (0x40, 0x8000), (0x44, 1), (0x30, 0x4000), (0x34, 1), (0x5C, 4096)] s)
def med (f : Media → Media) (s : State) : State := { s with media := f s.media }
def rec0 (s : State) : State := memPut 0x10000A000 ((List.replicate 12 0) ++ bytesOf 4 1 ++ bytesOf 8 777 ++ bytesOf 8 0) s
def encS (ctl wr rd len : Nat) (i : EncodeItem) (s : State) : State := regsP pgCodec 0 [(0x400, ctl), (0x404, 64 + 64 * 65536),
  (0x408, 3 * 0x100000), (0x40C, 0xA000), (0x410, 1), (0x414, 1), (0x418, 0x9000), (0x41C, 1), (0x420, len), (0x424, wr), (0x428,
  rd)] (med (fun m => { m with encoding := some i }) s)
def itR : EncodeItem := { session := 0, fromStream := none, record := some (0x10000A000, List.replicate 32 1) }
def itS : EncodeItem := { session := 0, fromStream := some (3, 5), record := none }
def entH (s : State) : State := entE 3 5 6 { frames := [{ cf 5 true true with decoded := true, buf := 3, holders := 1 }] } s
def noEnc (s : State) : State := med (fun m => { m with encoding := none }) s
def es (ctl : Nat) : State := rec0 (encS ctl 0x100 0x80 0x1000 itR (entH base))
def stp (i : EncodeItem) (s : State) : State := med (fun m => { m with encoding := some i }) s
def wc19qx13 : ClosedFrame := { cf 5 true true with decoded := true, buf := 3, holders := 1 }
def wc19qx15 : State := stp itS (encS 0x01000003 0x7F 0x80 0x1000 itS (entH base))
def dst : State := regsP pgCodec 5 [(0x43C, 2)] base

theorem codecFrames_met1 : ∃ (s : State) (ans : Answered), s.media.encoding = none ∧ (getHdr s pgCodec).enable = true ∧ domOn s
  17 = true ∧ let turns := (List.map (fun (j : ℕ) => (s.media.lastEncoded + 1 + j) % 16) (List.range 16)); (encodeNext ans turns
  s).1.isSome = true := by
  refine ⟨noEnc (es 3), Answered.good, ?_⟩
  decide +kernel

theorem codecFrames_met2 : ∃ (s : State) (ans : Answered), s.media.encoding = none ∧ (getHdr s pgCodec).enable = true ∧ domOn s
  17 = true ∧ let turns := (List.map (fun (j : ℕ) => (s.media.lastEncoded + 1 + j) % 16) (List.range 16)); (encodeNext ans turns
  s).1 = none := by
  refine ⟨noEnc base, Answered.good, ?_⟩
  decide +kernel

theorem codecFrames_met3 : ∃ (s : State) (n : Fin 16), let c := (sesReg s (↑n) 1024); let serves := (BitVec.getLsbD c 0 = true ∧
  BitVec.getLsbD c 1 = true ∧ BitVec.getLsbD (features s.fuses.variant pgCodec) 1 = true ∧ encodes (fld c 4 2) = true ∧
  sesSizeFits s ↑n = true); ¬serves := by
  refine ⟨noEnc base, 0, ?_⟩
  decide +kernel

theorem codecFrames_met4 : ∃ (s : State) (n : Fin 16), let c := (sesReg s (↑n) 1024); let serves := (BitVec.getLsbD c 0 = true ∧
  BitVec.getLsbD c 1 = true ∧ BitVec.getLsbD (features s.fuses.variant pgCodec) 1 = true ∧ encodes (fld c 4 2) = true ∧
  sesSizeFits s ↑n = true); serves ∧ BitVec.getLsbD c 24 = true := by
  refine ⟨noEnc (es 16777219), 0, ?_⟩
  decide +kernel

theorem codecFrames_met5 : ∃ (s : State) (n : Fin 16), let c := (sesReg s (↑n) 1024); let serves := (BitVec.getLsbD c 0 = true ∧
  BitVec.getLsbD c 1 = true ∧ BitVec.getLsbD (features s.fuses.variant pgCodec) 1 = true ∧ encodes (fld c 4 2) = true ∧
  sesSizeFits s ↑n = true); serves ∧ BitVec.getLsbD c 24 = false ∧ injectorOff s ∧ Option.any (fun (a : ℕ) => decide (devRefusal
  s false a 32 = none ∧ firstDamaged s a 32 = none)) (sesRecord s ↑n) = true := by
  refine ⟨noEnc (es 3), 0, ?_⟩
  dsimp only [injectorOff]; decide +kernel

theorem codecFrames_met6 : ∃ (s : State) (i : EncodeItem) (bits : List Byte) (a : ℕ) (bs : List Byte), s.media.encoding = some i
  ∧ domOn s 17 = true ∧ injectorOff s ∧ let n := (↑i.session); let len := (BitVec.toNat (sesReg s n 1056)); let wr :=
  (BitVec.toNat (sesReg s n 1060)); let size := (16 + cdiv bits.length 16 * 16); let room := (0 < len ∧ (wr + len - BitVec.toNat
  (sesReg s n 1064) % len) % len + size < len); i.fromStream = none ∧ i.record = some (a, bs) ∧ room := by
  refine ⟨es 3, itR, List.replicate 32 1, 4295008256, List.replicate 32 1, ?_⟩
  dsimp only [injectorOff]; decide +kernel

theorem codecFrames_met7 : ∃ (s : State) (i : EncodeItem) (bits : List Byte) (a : ℕ) (bs : List Byte), s.media.encoding = some i
  ∧ domOn s 17 = true ∧ injectorOff s ∧ let n := (↑i.session); let len := (BitVec.toNat (sesReg s n 1056)); let wr :=
  (BitVec.toNat (sesReg s n 1060)); let size := (16 + cdiv bits.length 16 * 16); let room := (0 < len ∧ (wr + len - BitVec.toNat
  (sesReg s n 1064) % len) % len + size < len); i.fromStream = none ∧ i.record = some (a, bs) ∧ ¬room := by
  refine ⟨encS 3 127 128 4096 itR (entH base), itR, List.replicate 32 1, 4295008256, List.replicate 32 1, ?_⟩
  dsimp only [injectorOff]; decide +kernel

theorem codecFrames_met8 : ∃ (s : State) (i : EncodeItem) (bits : List Byte) (e : Fin 512) (k : ℕ) (f : ClosedFrame),
  s.media.encoding = some i ∧ domOn s 17 = true ∧ injectorOff s ∧ let n := (↑i.session); let len := (BitVec.toNat (sesReg s n
  1056)); let wr := (BitVec.toNat (sesReg s n 1060)); let size := (16 + cdiv bits.length 16 * 16); let room := (0 < len ∧ (wr +
  len - BitVec.toNat (sesReg s n 1064) % len) % len + size < len); i.fromStream = some (e, k) ∧ List.find? (fun (x :
  ClosedFrame) => x.number == k) (getEnt s ↑e).frames = some f ∧ f.holders.getLsbD n = true ∧ room := by
  refine ⟨stp itS (es 16777219), itS, List.replicate 32 1, 3, 5, wc19qx13, ?_⟩
  dsimp only [injectorOff]; decide +kernel

theorem codecFrames_met9 : ∃ (s : State) (i : EncodeItem) (bits : List Byte) (e : Fin 512) (k : ℕ) (f : ClosedFrame),
  s.media.encoding = some i ∧ domOn s 17 = true ∧ injectorOff s ∧ let n := (↑i.session); let len := (BitVec.toNat (sesReg s n
  1056)); let wr := (BitVec.toNat (sesReg s n 1060)); let size := (16 + cdiv bits.length 16 * 16); let room := (0 < len ∧ (wr +
  len - BitVec.toNat (sesReg s n 1064) % len) % len + size < len); i.fromStream = some (e, k) ∧ List.find? (fun (x :
  ClosedFrame) => x.number == k) (getEnt s ↑e).frames = some f ∧ f.holders.getLsbD n = true ∧ ¬room := by
  refine ⟨wc19qx15, itS, List.replicate 32 1, 3, 5, wc19qx13, ?_⟩
  dsimp only [injectorOff]; decide +kernel

theorem codecFrames_met10 : ∃ (s : State) (r : Requester) (n : ℕ), selChan s r pgCodec = some n ∧ n < 32 ∧ Taken s r pgCodec
  1088 := by
  refine ⟨dst, Requester.mgmt, 0, ?_⟩
  repeat' first | decide +kernel | constructor

end W19q_f

/-! ## hostQueues, jobEntry -/

namespace W21q_hq

def semN (r : Requester) (k q : Nat) : Bool := match r with | .fn f => k == 4 * f.val + q | _ => false
def lrP (s : State) (ans : Answered) (e : FetchedEntry) (es : List FetchedEntry) : Option Byte × State :=
  listsRead (queueOwner e.queue) (classValsAt (getClass s (sqFields e.words).cls) (releaseTime s (sqFields e.words).cls (max (sqFields e.words).release (now s)))) (sqFields e.words) ans { s with pcie := { s.pcie with fetched := es } }
def regsP (pg p : Nat) (l : List (Nat × Nat)) (s : State) : State := l.foldl (fun s e => setReg pg p e.1 (BitVec.ofNat 32 e.2) s) s
def base : State := { enAll up with pacer := { up.pacer with jobs := [] } }
def H : Nat := 0xC000000000
def qs (k : Nat) (f : Queue → Queue) (s : State) : State := modQueue k f s
def qon (k depth : Nat) (f : Queue → Queue) (s : State) : State := qs k (fun x => f { x with en := true }) (regsP pgHostq k [(0x400,
  (depth - 1) * 65536 + 0x210), (0x404, 0), (0x408, 0), (0x414, 5 * 65536)] s)
def ent (op : Nat) (inl prog out len : Nat) : List Word := [BitVec.ofNat 32 (2 + op * 64 + 0x55 * 65536), 0, BitVec.ofNat 32 (prog %
  2 ^ 32), BitVec.ofNat 32 (prog / 2 ^ 32), BitVec.ofNat 32 (inl % 2 ^ 32), BitVec.ofNat 32 (inl / 2 ^ 32), BitVec.ofNat 32 (out % 2
  ^ 32), BitVec.ofNat 32 (out / 2 ^ 32), 0, 0, BitVec.ofNat 32 len, 0, 0, 0, 0, 0]
def acls (own : Byte) (s : State) : State := modClass 2 (fun c => { c with st := .accepted, owner := own, vals := { cost := 77, deadline := 500, stepMax := 10 },
                                                                           cores := [(0, some 1)] }) s
def goodE := ent 0 H (H + 0x100) (H + 0x1000) 64
def badE := ent 0 (H + 8) (H + 0x100) (H + 0x1000) 64
def abE := ent 1 0 0 0 0
def fet (es : List (List Word)) (s : State) : State := hostPut 0x100 [1] { s with pcie := { s.pcie with fetched := es.map fun w => { queue := 0, epoch := 0, sqHead := 3, words := w } } }
def hot (s : State) : State := { s with pacer := { s.pacer with thermal := .hold } }
def jb (n : Nat) : Job := { job0 with id := n, queue := 0, epoch := 0, tag := 0x55, shares := [(0, { st := .waiting })] }
def mq (s : State) : State := memPut (0x100000000) (List.replicate 64 0) (regsP pgHostq 64 [(0x404, 0), (0x408, 1)] (qon 64 64 (fun
  x => { x with sqTail := 5, sqHead := 63 }) s))
def wE : List Word := ent 0 0x100004000 (0x100005000) (H + 0x1000) 64
def wc21qx5 : ClassVals := { cost := 77, deadline := 500, stepMax := 10 }
def agg (n : Nat) (s : State) : State := qon n 64 (fun x => { x with unsignalled := 3, oldest := 0 }) s
def wc21qx6 : State := qon 0 64 id (qon 1 64 (fun x => { x with sqTail := 5, sqHead := 3, outst := 62 }) (qon 5 64 (fun x =>
  { x with sqTail := 0, sqHead := 63, outst := 63 }) base))
def wc21qx7 : State := qon 0 64 (fun x => { x with sqTail := 5, sqHead := 63, unsignalled := 3, oldest := 0 }) (qon 64 64 (fun x =>
  { x with unsignalled := 3, oldest := 0 }) (hostPut (63 * 64) [0x40] base))
def wc21qx8 : State := fet [abE] { acls 0x10 base with pacer := { (acls 0x10 base).pacer with jobs := [jb 1, { jb 2 with tag := 3 }], nextJob := 9 } }

theorem hostQueues_met1 : ∃ (s : State) (r : Requester) (q : Fin 4) (v : Word) (k : ℕ), reqLive s r = true ∧ isParked s r =
  false ∧ lfiQuiet s lfiNoc (BitVec.toNat r.code) 0 = true ∧ (semN r k ↑q = true ∨ r = Requester.mgmt ∧ k = 64 + ↑q ∧ pageUp s
  pgHostq = true ∧ (getHdr s pgHostq).resetBusy = false) ∧ let x := (getQueue s k); x.en = true ∧ fld v 11 0 < qDepth s k := by
  refine ⟨wc21qx6, Requester.fn 0, 0, 0, 0, ?_⟩
  decide +kernel

theorem hostQueues_met2 : ∃ (s : State) (r : Requester) (q : Fin 4) (v : Word) (k : ℕ), reqLive s r = true ∧ isParked s r =
  false ∧ lfiQuiet s lfiNoc (BitVec.toNat r.code) 0 = true ∧ (semN r k ↑q = true ∨ r = Requester.mgmt ∧ k = 64 + ↑q ∧ pageUp s
  pgHostq = true ∧ (getHdr s pgHostq).resetBusy = false) ∧ let x := (getQueue s k); x.en = true ∧ qDepth s k ≤ fld v 11 0 := by
  refine ⟨wc21qx6, Requester.fn 0, 0, 64, 0, ?_⟩
  decide +kernel

theorem hostQueues_met3 : ∃ (s : State) (r : Requester) (q : Fin 4) (k : ℕ), reqLive s r = true ∧ isParked s r = false ∧
  lfiQuiet s lfiNoc (BitVec.toNat r.code) 0 = true ∧ (semN r k ↑q = true ∨ r = Requester.mgmt ∧ k = 64 + ↑q ∧ pageUp s pgHostq =
  true ∧ (getHdr s pgHostq).resetBusy = false) ∧ let x := (getQueue s k); x.en = false := by
  refine ⟨wc21qx6, Requester.mgmt, 0, 64, ?_⟩
  decide +kernel

theorem hostQueues_met4 : ∃ (s : State) (r : Requester) (v : Word) (q : ℕ), Taken s r pgHostq 1024 ∧ selChan s r pgHostq = some
  q ∧ (getQueue s q).en = false ∧ BitVec.getLsbD v 0 = true ∧ 63 ≤ fld v 27 16 := by
  refine ⟨base, Requester.mgmt, 4128769, 0, ?_⟩
  repeat' first | decide +kernel | constructor

theorem hostQueues_met5 : ∃ (s : State) (q : Fin 68) (ans : Answered), injectorOff s ∧ let x := (getQueue s ↑q); let a :=
  (sqAddr s ↑q); x.en = true ∧ domOn s 15 = true ∧ (getHdr s pgHostq).enable = true ∧ x.sqHead ≠ x.sqTail ∧ (↑q < 64 → fnExists
  s (↑q / 4) = true ∧ fnCanSend s (↑q / 4) = true) ∧ (64 ≤ ↑q → hostqRefusal s false a 64 = none) ∧ (64 ≤ ↑q → ans ≠
  Answered.never ∧ dramFails s a ans = false ∧ firstDamaged s a 64 = none) ∧ x.outst.toNat + 1 < qDepth s ↑q := by
  refine ⟨wc21qx7, 0, Answered.good, ?_⟩
  dsimp only [injectorOff]; decide +kernel

theorem hostQueues_met6 : ∃ (s : State) (q : Fin 68), injectorOff s ∧ let x := (getQueue s ↑q); let a := (sqAddr s ↑q); x.en =
  true ∧ domOn s 15 = true ∧ (getHdr s pgHostq).enable = true ∧ x.sqHead ≠ x.sqTail ∧ (↑q < 64 → fnExists s (↑q / 4) = true ∧
  fnCanSend s (↑q / 4) = true) ∧ (64 ≤ ↑q → hostqRefusal s false a 64 = none) ∧ 64 ≤ ↑q ∧ x.outst.toNat + 1 < qDepth s ↑q := by
  refine ⟨mq base, 64, ?_⟩
  dsimp only [injectorOff]; decide +kernel

theorem hostQueues_met7 : ∃ (s : State) (q : Fin 68), injectorOff s ∧ let x := (getQueue s ↑q); let a := (sqAddr s ↑q); x.en =
  true ∧ domOn s 15 = true ∧ (getHdr s pgHostq).enable = true ∧ x.sqHead ≠ x.sqTail ∧ (↑q < 64 → fnExists s (↑q / 4) = true ∧
  fnCanSend s (↑q / 4) = true) ∧ (64 ≤ ↑q → hostqRefusal s false a 64 = none) ∧ qDepth s ↑q ≤ x.outst.toNat + 1 := by
  refine ⟨wc21qx6, 5, ?_⟩
  dsimp only [injectorOff]; decide +kernel

theorem hostQueues_met8 : ∃ (s : State) (owner : Byte) (vals : ClassVals) (x : SqFields), injectorOff s ∧ let prog := (16 + 16 *
  vals.spread.toNat); listRefusal s owner (BitVec.toNat x.inlist) (16 * x.nin) = none ∧ listRefusal s owner (BitVec.toNat
  x.prog) prog = none ∧ firstDamaged s (BitVec.toNat x.inlist) (16 * x.nin) = none ∧ firstDamaged s (BitVec.toNat x.prog) prog =
  none := by
  refine ⟨wc21qx6, 16, wc21qx5, sqFields goodE, ?_⟩
  dsimp only [injectorOff]; decide +kernel

theorem hostQueues_met9 : ∃ (s : State) (ans : Answered), ((List.take 1 s.pcie.fetched).any fun (e : FetchedEntry) => decide
  (entryOp e.words ≠ 1 ∧ (∀ j ∈ (lrP s ans e s.pcie.fetched.tail).2.pacer.jobs, j.id ≠ (lrP s ans e
  s.pcie.fetched.tail).2.pacer.nextJob) ∧ (getClass s (sqFields e.words).cls).vals.link = false ∧ (lrP s ans e
  s.pcie.fetched.tail).1.isSome = true)) = true := by
  refine ⟨fet [wE] (acls 0 base), Answered.never, ?_⟩
  decide +kernel

theorem hostQueues_met10 : ∃ (s : State), ((List.take 1 s.pcie.fetched).any fun (e : FetchedEntry) => decide (entryOp e.words =
  1 ∧ List.filter (fun (j : Job) => j.open_ && j.queue == e.queue && j.tag == (sqFields e.words).tag) s.pacer.jobs = [])) = true
  := by
  refine ⟨fet [abE, goodE] (acls 16 base), ?_⟩
  decide +kernel

theorem hostQueues_met11 : ∃ (s : State) (e : FetchedEntry) (es : List FetchedEntry) (j : Job), s.pcie.fetched = e :: es
    ∧ entryOp e.words = 1 ∧ (s.pacer.jobs.filter fun j => j.open_ && j.queue == e.queue && j.tag == (sqFields e.words).tag) = [j]
    ∧ PacerAtRest s ∧ (∀ i ∈ s.pacer.jobs, i.id = j.id → i = j) ∧ (∀ i, i < j.nShares → (getShare j i).st ≠ .running)
    ∧ (∃ i, i < j.nShares ∧ (getShare j i).st ≠ .done) ∧ now s ≤ j.deadline := by
  refine ⟨wc21qx8, { queue := 0, epoch := 0, sqHead := 3, words := abE }, [], jb 1, ?_⟩
  refine ⟨by decide +kernel, by decide +kernel, by decide +kernel, ?_, by decide +kernel, by decide +kernel, ⟨0, by decide +kernel⟩,
    by decide +kernel⟩
  repeat' first | decide +kernel | refine aborts_ok ?_ | constructor


theorem hostQueues_met12 : ∃ (s : State) (q : Fin 68), let x := (getQueue s ↑q); let agg := (getReg s pgHostq (↑q) 1044);
  BitVec.getLsbD (qCtrl s ↑q) 9 = true ∧ x.unsignalled ≠ 0 ∧ fld agg 31 16 ≠ 0 ∧ x.oldest + fld agg 31 16 * 1000 ≤ now s ∧ ↑q <
  64 := by
  refine ⟨wc21qx7, 0, ?_⟩
  decide +kernel

theorem hostQueues_met13 : ∃ (s : State) (q : Fin 68), let x := (getQueue s ↑q); let agg := (getReg s pgHostq (↑q) 1044);
  BitVec.getLsbD (qCtrl s ↑q) 9 = true ∧ x.unsignalled ≠ 0 ∧ fld agg 31 16 ≠ 0 ∧ x.oldest + fld agg 31 16 * 1000 ≤ now s ∧ 64 ≤
  ↑q := by
  refine ⟨wc21qx7, 64, ?_⟩
  decide +kernel

theorem jobEntry_unread_met : ∃ (s : State) (e : FetchedEntry) (es : List FetchedEntry), s.pcie.fetched = e :: es
    ∧ entryOp e.words ≠ 1 ∧ (getClass s (sqFields e.words).cls).vals.link = false
    ∧ ∃ code u, listsRead (queueOwner e.queue) (classValsAt (getClass s (sqFields e.words).cls)
        (releaseTime s (sqFields e.words).cls (max (sqFields e.words).release (now s)))) (sqFields e.words) .never
        { s with pcie := { s.pcie with fetched := es } } = (some code, u) ∧ ∀ j ∈ u.pacer.jobs, j.id ≠ u.pacer.nextJob := by
  refine ⟨fet [wE] (acls 0x00 base), { queue := 0, epoch := 0, sqHead := 3, words := wE }, [], ?_⟩
  refine ⟨by decide +kernel, by decide +kernel, by decide +kernel, eTimeout, (lrP (fet [wE] (acls 0x00 base)) .never
    { queue := 0, epoch := 0, sqHead := 3, words := wE } []).2, Prod.ext (by decide +kernel) rfl, by decide +kernel⟩

/-- A JOB entry whose lists are read, in a state of the class, with its check's answer as given, meets a clause's own conditions. -/
def passes (s : State) (good : Bool) (clause : ClassEntry → Nat → Bool) : Bool :=
  match s.pcie.fetched with
  | e :: es =>
    let x := sqFields e.words
    let c := getClass s x.cls
    let tr := releaseTime s x.cls (max x.release (now s))
    let r := lrP s .good e es
    let u := r.2
    decide (entryOp e.words ≠ 1) && decide (r.1 = none) && decide (∀ j ∈ u.pacer.jobs, j.id ≠ u.pacer.nextJob) && !c.vals.link
      && (match entryCheck u (queueOwner e.queue) (classValsAt c tr) x with
        | .ok _ => good
        | .error _ => !good)
      && decide (getClass u x.cls = c) && decide (u.pacer.thermal = s.pacer.thermal)
      && decide ((getHdr u pgPacer).enable = (getHdr s pgPacer).enable) && decide (now u = now s) && clause c tr
  | [] => false

def jobIn (f : ClassEntry → ClassEntry) (s : State) : State := fet [goodE] (modClass 2 f (acls 0x10 s))

theorem jobEntry_met_failed : passes (fet [badE] (acls 0x10 base)) false (fun _ _ => true) = true := by decide +kernel
theorem jobEntry_met_disabled : passes (jobIn id (setHdr pgPacer {} base)) true (fun c _ => decide (c.st = .accepted)) = true := by
  decide +kernel
theorem jobEntry_met_owner : passes (jobIn (fun c => { c with owner := 0x11 }) base) true (fun c _ => c.owner != 0x10) = true := by
  decide +kernel
theorem jobEntry_met_free : passes (jobIn (fun c => { c with st := .free }) base) true (fun c _ => decide (c.st = .free)) = true := by
  decide +kernel
theorem jobEntry_met_defined :
    passes (jobIn (fun c => { c with st := .defined }) base) true (fun c _ => decide (c.st = .defined)) = true := by
  decide +kernel
theorem jobEntry_met_revoking : passes (jobIn (fun c => { c with st := .revoking, noticeEnd := 1000000 }) base) true
    (fun c tr => decide (c.owner = 0x10) && decide (c.st = .revoking) && decide (c.noticeEnd ≤ tr)) = true := by
  decide +kernel
theorem jobEntry_met_shed : passes (jobIn (fun c => { c with st := .shed }) base) true
    (fun c _ => decide (c.owner = 0x10) && decide (c.st = .shed)) = true := by
  decide +kernel
theorem jobEntry_met_thermal :
    passes (hot (jobIn id base)) true (fun c _ => decide (c.owner = 0x10) && decide (c.st = .accepted)) = true := by
  decide +kernel
theorem jobEntry_met_accepted :
    passes (jobIn id base) true (fun c _ => decide (c.owner = 0x10) && decide (c.st = .accepted)) = true := by decide +kernel
theorem jobEntry_met_noticed : passes (jobIn (fun c => { c with st := .revoking, noticeEnd := 9000000 }) base) true
    (fun c tr => decide (c.owner = 0x10) && decide (c.st = .revoking) && decide (tr < c.noticeEnd)
      && decide (storeGet (fun _ => none) c.cores 0 ≠ none)) = true := by
  decide +kernel

end W21q_hq

/-! ## updateEngine -/

namespace W24q_1

def base : State := { enAll up with pacer := { up.pacer with jobs := [] } }
def tr (f : Trust → Trust) (s : State) : State := { s with trust := f s.trust }
def fl (s : State) : State := { s with mem := { s.mem with flash := [(3, 7), (511, 8), (512, 9), (0x1800000, 5), (0x1800000 + 512, 4)] } }
def wc24qx1 : State := tr (fun t => { t with booted := false }) (fl base)

theorem updateEngine_met : ∃ (s : State), s.reset_.romStarted = true ∧ s.trust.booted = false ∧ s.trust.boot.trial = false := by
  refine ⟨wc24qx1, ?_⟩
  decide +kernel

end W24q_1

/-! ## updateEngine -/

namespace W24q_2

def base : State := { enAll up with pacer := { up.pacer with jobs := [] } }
def tr (f : Trust → Trust) (s : State) : State := { s with trust := f s.trust }
def us (st : UpdateSt) (f : Trust → Trust) (s : State) : State := tr (fun t => f { t with upd := st }) s
def fl (s : State) : State := { s with mem := { s.mem with flash := [(3, 7), (511, 8), (512, 9), (0x1800000, 5), (0x1800000 + 512, 4)] } }
def cls (s : State) : State := modClass 2 (fun c => { c with st := .accepted }) { s with pacer := { s.pacer with jobs := [job0] } }
def pln (s : State) : State := { s with pacer := { s.pacer with plan := some { floor := 0, reserve := none, places := [], classes := [3] },
                                                                running := some { req := 0, op := 4, arg := 3 },
                                                                classes := [(2, { st := .accepted, vals := { deadline := 10 } }), (3, { st := .defined, vals := { deadline := 500 } })] } }
def wc24qx10 : State := us .ready (fun t => { t with actTime := 900000 }) base
def wc24qx11 : State := us .ready (fun t => { t with actTime := 0x7000000000 }) base
def wc24qx12 : State := pln (us .ready (fun t => { t with actTime := 0x7000000000 }) base)
def wc24qx13 : State := us .armed (fun t => { t with actTime := 0x7000000000, stop := 5 }) (cls base)
def wc24qx14 : State := us .stopping (fun t => { t with actTime := 900000 }) (cls base)
def wc24qx16 : Plan := { floor := 0, reserve := none, places := [], classes := [3] }
def wc24qx17 : PacerCmd := { req := 0, op := 4, arg := 3 }

theorem updateEngine_met1 : ∃ (s : State) (r : Requester), Taken s r pgUpdate 64 ∧ s.trust.upd = UpdateSt.idle := by
  refine ⟨base, Requester.mgmt, ?_⟩
  repeat' first | decide +kernel | constructor

theorem updateEngine_met2 : ∃ (s : State) (r : Requester), Taken s r pgUpdate 64 ∧ s.trust.upd ≠ UpdateSt.idle := by
  refine ⟨us UpdateSt.ready id (fl base), Requester.mgmt, ?_⟩
  repeat' first | decide +kernel | constructor

theorem updateEngine_met3 : ∃ (s : State) (r : Requester), Taken s r pgUpdate 64 ∧ s.trust.upd = UpdateSt.ready ∧
  s.trust.actTime = 0 := by
  refine ⟨us UpdateSt.ready id (fl base), Requester.mgmt, ?_⟩
  repeat' first | decide +kernel | constructor

theorem updateEngine_met4 : ∃ (s : State) (r : Requester), Taken s r pgUpdate 64 ∧ s.trust.upd = UpdateSt.ready ∧
  s.trust.actTime ≠ 0 ∧ imgGroup (slotImg s !s.trust.boot.active) = 0 ∧ herdAlone s = true ∧ ↑(BitVec.toNat s.trust.actTime) -
  s.herd.hoffset - ↑(dMax s * 1000) < ↑(now s) := by
  refine ⟨wc24qx10, Requester.mgmt, ?_⟩
  repeat' first | decide +kernel | constructor

theorem updateEngine_met5 : ∃ (s : State) (r : Requester) (pl : Plan) (c : PacerCmd) (k : _), Taken s r pgUpdate 64 ∧
  s.trust.upd = UpdateSt.ready ∧ s.trust.actTime ≠ 0 ∧ imgGroup (slotImg s !s.trust.boot.active) = 0 ∧ herdAlone s = true ∧
  ↑(now s) ≤ ↑(BitVec.toNat s.trust.actTime) - s.herd.hoffset - ↑(dMax s * 1000) ∧ s.pacer.plan = some pl ∧ s.pacer.running =
  some c ∧ k ∈ pl.classes ∧ dMax s < (getClass s ↑k).vals.deadline.toNat := by
  refine ⟨wc24qx12, Requester.mgmt, wc24qx16, wc24qx17, ?_⟩
  repeat' first | decide +kernel | constructor

theorem updateEngine_met6 : ∃ (s : State) (r : Requester), Taken s r pgUpdate 64 ∧ s.trust.upd = UpdateSt.ready ∧
  s.trust.actTime ≠ 0 ∧ imgGroup (slotImg s !s.trust.boot.active) = 0 ∧ herdAlone s = true ∧ ↑(now s) ≤ ↑(BitVec.toNat
  s.trust.actTime) - s.herd.hoffset - ↑(dMax s * 1000) ∧ ∀ (pl : Plan), s.pacer.plan = some pl → ∀ k ∈ pl.classes, (getClass s
  ↑k).vals.deadline.toNat ≤ dMax s := by
  refine ⟨wc24qx11, Requester.mgmt, ?_⟩
  repeat' first | decide +kernel | constructor

theorem updateEngine_met7 : ∃ (s : State) (r : Requester), Taken s r pgUpdate 64 ∧ s.trust.upd = UpdateSt.armed ∧
  s.trust.actTime ≠ 0 := by
  refine ⟨wc24qx13, Requester.mgmt, ?_⟩
  repeat' first | decide +kernel | constructor

theorem updateEngine_met8 : ∃ (s : State) (r : Requester), Taken s r pgUpdate 64 ∧ s.trust.upd = UpdateSt.stopping := by
  refine ⟨wc24qx14, Requester.mgmt, ?_⟩
  repeat' first | decide +kernel | constructor

theorem updateEngine_met9 : ∃ (s : State) (r : Requester), Taken s r pgUpdate 64 ∧ Thermometer s.fuses.svn := by
  refine ⟨base, Requester.mgmt, ?_⟩
  exact ⟨by constructor <;> decide +kernel, 0, by decide, by decide +kernel⟩

theorem updateEngine_met10 : ∃ (s : State) (r : Requester), Taken s r pgUpdate 64 ∧ s.trust.upd = UpdateSt.ready := by
  refine ⟨us UpdateSt.ready id (fl base), Requester.mgmt, ?_⟩
  repeat' first | decide +kernel | constructor

end W24q_2

/-! ## updateEngine -/

namespace W24q_4

def regsP (pg p : Nat) (l : List (Nat × Nat)) (s : State) : State := l.foldl (fun s e => setReg pg p e.1 (BitVec.ofNat 32 e.2) s) s
def base : State := { enAll up with pacer := { up.pacer with jobs := [] } }
def tr (f : Trust → Trust) (s : State) : State := { s with trust := f s.trust }
def us (st : UpdateSt) (f : Trust → Trust) (s : State) : State := tr (fun t => f { t with upd := st }) s
def fl (s : State) : State := { s with mem := { s.mem with flash := [(3, 7), (511, 8), (512, 9), (0x1800000, 5), (0x1800000 + 512, 4)] } }
def ck (lo hi n : Nat) : State := us .checking id (fl (regsP pgUpdate 0 [(0x044, lo), (0x048, hi), (0x04C, n)] base))

theorem updateEngine_met1 : ∃ (s : State), (s.trust.upd = UpdateSt.checking ∨ s.trust.upd = UpdateSt.writing) ∧ inReset s =
  false ∧ injectorOff s ∧ let n := (BitVec.toNat (getReg s pgUpdate 0 76)); n < 512 := by
  refine ⟨ck 4096 1 256, ?_⟩
  dsimp only [injectorOff]; decide +kernel

theorem updateEngine_met2 : ∃ (s : State), (s.trust.upd = UpdateSt.checking ∨ s.trust.upd = UpdateSt.writing) ∧ inReset s =
  false ∧ injectorOff s ∧ let src := (BitVec.toNat (getAddr s pgUpdate 0 68)); let n := (BitVec.toNat (getReg s pgUpdate 0 76));
  512 ≤ n ∧ srcRefusal s src n = none ∧ place src ≠ Place.host := by
  refine ⟨ck 4096 1 4096, ?_⟩
  dsimp only [injectorOff]; decide +kernel

theorem updateEngine_met3 : ∃ (s : State) (ans : Answered), (s.trust.upd = UpdateSt.checking ∨ s.trust.upd = UpdateSt.writing) ∧
  inReset s = false ∧ injectorOff s ∧ let src := (BitVec.toNat (getAddr s pgUpdate 0 68)); let n := (BitVec.toNat (getReg s
  pgUpdate 0 76)); 512 ≤ n ∧ srcRefusal s src n = none ∧ (place src = Place.host ∨ ans ≠ Answered.never ∧ dramFails s src ans =
  false ∧ firstDamaged s src n = none) := by
  refine ⟨ck 4096 1 4096, Answered.good, ?_⟩
  dsimp only [injectorOff]; decide +kernel

end W24q_4

/-! ## updateEngine -/

namespace W24q_5

def base : State := { enAll up with pacer := { up.pacer with jobs := [] } }
def tr (f : Trust → Trust) (s : State) : State := { s with trust := f s.trust }
def us (st : UpdateSt) (f : Trust → Trust) (s : State) : State := tr (fun t => f { t with upd := st }) s
def cls (s : State) : State := modClass 2 (fun c => { c with st := .accepted }) { s with pacer := { s.pacer with jobs := [job0] } }
def wc24qx18 : State := us .armed (fun t => { t with actTime := 0x7000000000, stop := 5 }) (cls base)

theorem updateEngine_met : ∃ (s : State), s.trust.upd = UpdateSt.armed ∧ s.trust.actTime ≠ 0 ∧ s.trust.nextL2 = false ∧
  BitVec.toNat s.trust.stop ≤ now s ∧ PacerAtRest s ∧ s.pacer.plan = none := by
  refine ⟨wc24qx18, ?_⟩
  repeat' first | decide +kernel | refine aborts_ok ?_ | constructor

end W24q_5

/-! ## updateEngine -/

namespace W24q_6

def base : State := { enAll up with pacer := { up.pacer with jobs := [] } }
def tr (f : Trust → Trust) (s : State) : State := { s with trust := f s.trust }
def us (st : UpdateSt) (f : Trust → Trust) (s : State) : State := tr (fun t => f { t with upd := st }) s
def cls (s : State) : State := modClass 2 (fun c => { c with st := .accepted }) { s with pacer := { s.pacer with jobs := [job0] } }
def wc24qx5 : State := us .armed (fun t => { t with actTime := 0x7000000000, stop := 5 })
  { cls base with herd := { base.herd with st := .member, locked := true } }
def wc24qx6 : State := us .armed (fun t => { t with actTime := 0x7000000000, stop := 5, nextL2 := true }) (cls base)

theorem updateEngine_met1 : ∃ (s : State), s.trust.upd = UpdateSt.armed ∧ s.trust.actTime ≠ 0 ∧ s.trust.nextL2 = true := by
  refine ⟨wc24qx6, ?_⟩
  decide +kernel

theorem updateEngine_met2 : ∃ (s : State), s.trust.upd = UpdateSt.armed ∧ s.trust.actTime ≠ 0 ∧ s.trust.nextL2 = false ∧
  s.herd.locked = true := by
  refine ⟨wc24qx5, ?_⟩
  decide +kernel

end W24q_6

/-! ## updateEngine -/

namespace W24q_7

def base : State := { enAll up with pacer := { up.pacer with jobs := [] } }
def tr (f : Trust → Trust) (s : State) : State := { s with trust := f s.trust }
def us (st : UpdateSt) (f : Trust → Trust) (s : State) : State := tr (fun t => f { t with upd := st }) s
def cls (s : State) : State := modClass 2 (fun c => { c with st := .accepted }) { s with pacer := { s.pacer with jobs := [job0] } }
def wc24qx7 : State := us .stopping (fun t => { t with actTime := 900000 }) (cls base)

theorem updateEngine_met1 : ∃ (s : State), s.trust.upd = UpdateSt.stopping ∧ actInstant s ≤ ↑(now s) := by
  refine ⟨wc24qx7, ?_⟩
  decide +kernel

theorem updateEngine_met2 : ∃ (s : State), s.trust.upd = UpdateSt.stopping ∧ actInstant s ≤ ↑(now s) ∧ actInstant s + 10000 ≤
  ↑(now s) := by
  refine ⟨wc24qx7, ?_⟩
  decide +kernel

end W24q_7

/-! ## arrayStarts, weightSets, arrayCompletions, waveSums, winogradConvolution and the output stage -/

namespace W16
def b0 : State := cor id (modPacer (fun p => { p with jobs := [job0] }) (enAll up))
/-- The words of a command with some of them set. -/
def wds (l : List (Nat × Nat)) : List Word := l.foldl (fun ws e => ws.set e.1 (BitVec.ofNat 32 e.2)) (List.replicate 8 0)
/-- CONV with 2 and with 18 taps, WINO and MATMUL, with streamed weights; EPILOG and ARGMAX; LOADW of a tile and of SBUF words. -/
def conv : List Word := wds [(0, 2), (2, 1 + 2 ^ 24 + 2 ^ 27), (3, 3 * 2 ^ 15), (4, 3 + 2 ^ 16), (5, 2 ^ 9), (6, 2 ^ 13 + 2 ^ 22)]
def conv18 : List Word := conv.set 2 (BitVec.ofNat 32 (42 + 2 ^ 24 + 2 ^ 27))
def wino : List Word := wds [(0, 3), (2, 18), (3, 3 * 2 ^ 15), (4, 4 + 2 ^ 16), (5, 2 ^ 9), (6, 2 ^ 13 + 2 ^ 22)]
def mm : List Word := wds [(0, 4), (4, 1), (5, 2 ^ 10), (6, 2 ^ 13)]
def epi : List Word := wds [(0, 5), (3, 8 * 2 ^ 11), (4, 2 * 2 ^ 11), (6, 0x100 + 2 ^ 15), (7, 2 ^ 26)]
def arg : List Word := epi.set 0 6
def tile : List Word := wds [(0, 1)]
def sbuf : List Word := wds [(0, 1 + 2 ^ 16), (2, 4 + 5 * 2 ^ 11)]
def cmd (ws : List Word) : ArrayCmd := { words := ws, pc := 0x30, started := false, empty := false }
/-- The same command, started with nothing to compute, and one started whose work is not done. -/
def idle (ws : List Word) : ArrayCmd := { cmd ws with started := true, empty := true }
def busy (ws : List Word) : ArrayCmd := { cmd ws with started := true }
def q (l : List ArrayCmd) (s : State) : State := modArray 0 (fun a => { a with queue := l }) s
/-- A power domain of the core or of the first SHM slice is off. -/
def off (k : Nat) (s : State) : State := modDom k (fun d => { d with state := 0, target := 0 }) s
def refusal (s : State) (as : List Nat) : Option Byte := as.findSome? fun a => placeRefusal s (some 0) false false 0 a

/-! Nothing to start or compute; a command that starts, whose sources answer or are refused. -/
theorem arrayStarts_met_nothing : ∀ op, op ∈ [1, 2, 3, 4, 5, 6, 7, 8] → startable1 b0 0 op = none
    ∧ computing b0 0 = none ∧ outBusy b0 0 op = none := by decide +kernel
theorem arrayStarts_met_other : startable1 (q [idle conv] b0) 0 3 = none ∧ computing (q [idle conv] b0) 0 = some (0, idle conv)
    ∧ opOf conv ≠ 3 := by decide +kernel
theorem arrayStarts_met_start : ∀ ws, ws ∈ [conv, wino, mm] → startable1 (q [cmd ws] b0) 0 (opOf ws) = some (0, cmd ws)
    ∧ opOf ws ∈ [2, 3, 4] ∧ refusal (q [cmd ws] b0) (weightProbes 0 ws 0) = none := by decide +kernel
theorem arrayStarts_met_clean : ∀ ws, ws ∈ [conv, wino, mm] → ∀ a ∈ weightReads 0 ws 0, viewBad (q [cmd ws] b0) (some 0) a = false := by
  intro ws _ a _
  exact viewBad_core (show b0.mem.damaged = [] by decide +kernel) (show (getProc b0 0).stage = [] by decide +kernel) a
theorem arrayStarts_met_refused : ∀ ws, ws ∈ [conv, wino, mm] → startable1 (q [cmd ws] (off 9 b0)) 0 (opOf ws) = some (0, cmd ws)
    ∧ refusal (q [cmd ws] (off 9 b0)) (weightProbes 0 ws 0) = some ePoweredOff := by decide +kernel

/-! A set's waves: a map that is refused, the last set, and a set after which another one loads or is refused. -/
theorem arrayStarts_met_map : ∀ ws, ws ∈ [conv, wino, mm] → let s := q [busy ws] (off 3 b0)
    startable1 s 0 (opOf ws) = none ∧ computing s 0 = some (0, busy ws) ∧ stepping s 0 = true
    ∧ (arrayReads 0 (getArray s 0) (busy ws) 0).isEmpty = false ∧ refusal s [winBase 0] = some ePoweredOff := by decide +kernel
theorem arrayStarts_met_last : ∀ ws, ws ∈ [conv, wino, mm] → let s := q [busy ws] b0
    startable1 s 0 (opOf ws) = none ∧ computing s 0 = some (0, busy ws) ∧ stepping s 0 = true ∧ refusal s [winBase 0] = none
    ∧ setCount ws ≤ (busy ws).sets + 1 := by decide +kernel
theorem arrayStarts_met_last_clean : ∀ ws, ws ∈ [conv, wino, mm] → let s := q [busy ws] b0
    ∀ a ∈ arrayReads 0 (getArray s 0) (busy ws) 0, viewBad s (some 0) a = false := by
  intro ws _ s a _
  exact viewBad_core (show b0.mem.damaged = [] by decide +kernel) (show (getProc b0 0).stage = [] by decide +kernel) a
theorem arrayStarts_met_next : ∀ k, k ∈ [9, 10] → let x := idle conv18
    let s := q [x] (off k b0)
    let u := modCmd 0 0 (fun y => { y with sets := y.sets + 1 }) (arrayRun 0 x x.sets s)
    startable1 s 0 2 = none ∧ computing s 0 = some (0, x) ∧ stepping s 0 = true ∧ arrayReads 0 (getArray s 0) x x.sets = []
    ∧ x.sets + 1 < setCount conv18
    ∧ refusal u (weightProbes 0 conv18 (x.sets + 1)) = (if k = 9 then some ePoweredOff else none) := by decide +kernel
theorem arrayStarts_met_next_clean : let x := idle conv18
    let u := modCmd 0 0 (fun y => { y with sets := y.sets + 1 }) (arrayRun 0 x x.sets (q [x] (off 10 b0)))
    ∀ a ∈ weightReads 0 conv18 (x.sets + 1), viewBad u (some 0) a = false := by
  intro x u a _
  exact viewBad_core (by decide +kernel) (by decide +kernel) a

/-! The output stage and LOADW. -/
theorem arrayStarts_met_output : ∀ ws, ws ∈ [epi, arg] → startable1 (q [cmd ws] b0) 0 (opOf ws) = some (0, cmd ws)
    ∧ opOf ws ∈ [5, 6] := by decide +kernel
theorem arrayStarts_met_lands : ∀ ws, ws ∈ [epi, arg] → ∀ l, l ∈ [[], [[(0, 7)]]] → let s := q [{ busy ws with lands := l }] b0
    startable1 s 0 (opOf ws) = none ∧ outBusy s 0 (opOf ws) = some 0 ∧ stepping s 0 = true
    ∧ (getArray s 0).queue[0]? = some { busy ws with lands := l } := by decide +kernel
theorem arrayStarts_met_loadw : ∀ k, k ∈ [9, 10] → startable1 (q [cmd sbuf] (off k b0)) 0 1 = some (0, cmd sbuf)
    ∧ startable1 (q [cmd tile] (off k b0)) 0 1 = some (0, cmd tile) ∧ toSbuf sbuf = true ∧ 0 < sbLen sbuf ∧ toSbuf tile = false
    ∧ refusal (off k b0) [sbSource 0 sbuf, sbSource 0 sbuf + 4 * sbLen sbuf - 1] = (if k = 9 then some ePoweredOff else none)
    ∧ refusal (off k b0) [tileAddr 0 tile 0 0 0, tileAddr 0 tile 0 127 127] = (if k = 9 then some ePoweredOff else none) := by
  decide +kernel
theorem arrayStarts_met_loadw_clean : ∀ ws, ws ∈ [sbuf, tile] → ∀ a, viewBad (q [cmd ws] (off 10 b0)) (some 0) a = false := by
  intro ws _ a
  exact viewBad_core (show (off 10 b0).mem.damaged = [] by decide +kernel) (show (getProc (off 10 b0) 0).stage = [] by decide +kernel) a

/-! weightSets, arrayCompletions, waveSums. -/
theorem weightSets_met : ∃ (s : State) (c : Fin 6) (i : Nat) (x : ArrayCmd), (getArray s c.val).queue[i]? = some x ∧ wMode x.words ≠ 2 := by
  refine ⟨q [busy conv] b0, 0, 0, busy conv, ?_⟩
  decide +kernel
theorem weightSets_met_kept : ∃ (s : State) (c : Fin 6) (i : Nat) (x : ArrayCmd), (getArray s c.val).queue[i]? = some x ∧ wMode x.words = 2 := by
  refine ⟨q [busy (conv.set 0 (2 + 0x40000))] b0, 0, 0, busy (conv.set 0 (2 + 0x40000)), ?_⟩
  decide +kernel
theorem arrayCompletions_met_first : ∃ (s : State) (c : Fin 6) (i : Fin 16) (x : ArrayCmd), (getArray s c.val).queue[i.val]? = some x
    ∧ x.started = true ∧ (∀ y ∈ (getArray s c.val).queue.take i.val, sameUnit (opOf y.words) (opOf x.words) = false)
    ∧ isArrayOp (opOf x.words) = false ∧ (getArray (arrayFinish c.val i x s) c.val).queue[i.val]? = some x := by
  refine ⟨q [idle conv, busy epi] b0, 0, 1, busy epi, ?_⟩
  decide +kernel
theorem arrayCompletions_met_array : ∃ (s : State) (c : Fin 6) (i : Fin 16) (x : ArrayCmd), (getArray s c.val).queue[i.val]? = some x
    ∧ x.started = true ∧ (∀ y ∈ (getArray s c.val).queue.take i.val, sameUnit (opOf y.words) (opOf x.words) = false)
    ∧ isArrayOp (opOf x.words) = true ∧ setCount x.words ≤ x.sets := by
  refine ⟨q [{ busy conv with sets := 1 }] b0, 0, 0, { busy conv with sets := 1 }, ?_⟩
  decide +kernel
theorem arrayCompletions_met_waiting : ∃ (s : State) (c : Fin 6) (i : Fin 16) (x : ArrayCmd),
    (getArray s c.val).queue[i.val]? = some x ∧ x.started = false := by
  refine ⟨q [cmd conv] b0, 0, 0, cmd conv, ?_⟩
  decide +kernel
theorem arrayCompletions_met_modes : ∃ (s : State) (c : Fin 6) (i : Fin 16) (x : ArrayCmd), startable1 s c.val 8 = some (i.val, x) := by
  refine ⟨q [cmd (wds [(0, 8 + 5 * 2 ^ 16)])] b0, 0, 0, cmd (wds [(0, 8 + 5 * 2 ^ 16)]), ?_⟩
  decide +kernel
theorem arrayCompletions_met_sync : ∃ (s : State) (c : Fin 6) (i : Fin 16) (x : ArrayCmd), startable1 s c.val 7 = some (i.val, x) := by
  refine ⟨q [cmd (wds [(0, 7 + 64)])] b0, 0, 0, cmd (wds [(0, 7 + 64)]), ?_⟩
  decide +kernel
theorem waveSums_met : ∃ (x : ArrayCmd) (r c n : Nat), opOf x.words = 2 ∧ accBase x.words + passW x.words * passH x.words ≤ 512
    ∧ (r, c) ∈ inMap x.words ∧ n < 128 := by
  refine ⟨cmd conv, 0, 0, 127, ?_⟩
  decide +kernel
theorem waveSums_met_matmul : ∃ (x : ArrayCmd) (m n : Nat), opOf x.words = 4 ∧ accBase x.words + mmRows x.words ≤ 512
    ∧ m < mmRows x.words ∧ n < 128 := by
  refine ⟨cmd mm, 0, 127, ?_⟩
  decide +kernel

/-! winogradConvolution: the filter that is 1 at (0, 0), with its transform doubled at every exponent code 3. -/
theorem winogradConvolution_met : ∃ (g : Nat → Nat → Int) (w : Nat → Int) (e : Word),
    let twoG (u : Nat) (x : Nat → Int) : Int := match u with
      | 0 => 2 * x 0
      | 1 => x 0 + x 1 + x 2
      | 2 => x 0 - x 1 + x 2
      | _ => 2 * x 2
    ∀ u, u < 4 → ∀ v, v < 4 → w (4 * u + v) * (2 ^ (3 - fld e (2 * (4 * u + v) + 1) (2 * (4 * u + v))) : Int)
      = 2 * twoG u (fun i => twoG v (fun j => g i j)) := by
  refine ⟨fun i j => if i = 0 ∧ j = 0 then 1 else 0,
    fun k => 2 * ([2, 1, 1, 0].getD (k / 4) 0 : Int) * ([2, 1, 1, 0].getD (k % 4) 0 : Int), 0xFFFFFFFF, ?_⟩
  decide +kernel

/-! The output stage's values, planes and argmax state. -/
theorem outputValues_met : ∀ p, p ∈ [(0, 0), (1, 1)] → ∃ (s : State) (c : Fin 6) (ws : List Word) (ch : Nat) (n : Bool) (v : Q),
    oType ws = p.1 ∧ requantM (recScale (sbufWord s c.val (cf ws 3 21 11))) (recScale (sbufWord s c.val (cf ws 3 10 0 + 4 * ch + 2)))
      (recScale (sbufWord s c.val (cf ws 3 10 0 + 4 * ch + 3))) (cf ws 0 29 28) = .fin n v := by
  intro p hp
  refine ⟨memPut (winBase 0 + offSbuf + 8) [0, 0, 0x80, 0x3F, 0, 0, 0x80, 0x3F] (memPut (winBase 0 + offSbuf + 32) [0, 0, 0x80, 0x3F] b0), 0,
    epi.set 0 (BitVec.ofNat 32 (5 + p.2 * 2 ^ 19)), 0, false, ⟨8388608, 8388608⟩, ?_⟩
  simp only [List.mem_cons, List.not_mem_nil, or_false] at hp
  rcases hp with rfl | rfl <;> decide +kernel
theorem outputValues_met_int32 : ∃ ws : List Word, oType ws = 2 := ⟨epi.set 0 (BitVec.ofNat 32 (5 + 2 * 2 ^ 19)), by decide +kernel⟩
theorem outputPlanes_met : ∀ nowr, nowr ∈ [false, true] → ∃ (s : State) (c : Fin 6) (ws : List Word), stepping s c.val = true ∧ opOf ws = 5
    ∧ oX0 ws + oW ws ≤ 128 * oSegs ws ∧ (oCh0 ws + oChans ws) * oBytes ws ≤ 16 * cf ws 6 23 15
    ∧ (∀ r, r < oH ws → ∀ x, x < oW ws → ∀ ch, ch < oChans ws → ∀ b, b < oBytes ws → outRow ws r x ((oCh0 ws + ch) * oBytes ws + b) < 32768)
    ∧ (cw ws 0).getLsbD 18 = nowr := by
  intro nowr _
  refine ⟨b0, 0, epi.set 0 (if nowr then 5 + 0x40000 else 5), ?_⟩
  cases nowr <;> decide +kernel
theorem argmaxPlanes_met : ∀ maxw, maxw ∈ [false, true] → ∃ (s : State) (c : Fin 6) (ws : List Word), stepping s c.val = true ∧ opOf ws = 6
    ∧ oX0 ws + oW ws ≤ 128 * oSegs ws
    ∧ (∀ r, r < oH ws → ∀ x, x < oW ws → ∀ b, b < 4 → argRow ws (cf ws 5 14 0) r x b < 32768 ∧ argRow ws (cf ws 5 29 15) r x b < 32768)
    ∧ (cw ws 0).getLsbD 16 = maxw ∧ 0 < oH ws ∧ 0 < oW ws ∧ 0 < idxBytes ws
    ∧ storeGet (fun _ => none) (getArray s c.val).argmax (accBase ws) = some { valid := true, value := 5, index := 2, otype := 1 } := by
  intro maxw _
  refine ⟨modArray 0 (fun a => { a with argmax := [(0, some { valid := true, value := 5, index := 2, otype := 1 })] }) b0, 0,
    arg.set 0 (if maxw then 6 + 0x10000 else 6), ?_⟩
  cases maxw <;> decide +kernel
/-! argmaxOrder: a state that is not valid, one that a greater value or a lower channel replaces, and one that stays. -/
theorem argmaxOrder_met : ∃ a b : Argmax, a.valid = false ∧ b.valid = true ∧ (b.value < 6 ∨ (b.value = 6 ∧ 9 < b.index))
    ∧ ¬ (b.value < 5 ∨ (b.value = 5 ∧ 2 < b.index)) ∧ (b.value = 5 ∧ 1 < b.index) :=
  ⟨⟨false, 0, 0, 0⟩, ⟨true, 5, 2, 0⟩, by decide⟩
end W16

/-! ## Well-formedness: each check refuses a term, and takes one beside it -/

theorem test_wf_busSize : Instr.wf (.registerRead .mgmt 0 3) = false ∧ Instr.wf (.registerWrite .mgmt 0 16 0) = false
    ∧ Instr.wf (.registerWrite .mgmt 1 2 0) = true := by decide
theorem test_wf_wordOffset : Instr.wf (.pairLoRead .mgmt 0x42) = false ∧ Instr.wf (.pairLoWrite .mgmt 0x41 0) = false
    ∧ Instr.wf (.pairLoRead .mgmt 0x44) = true := by decide
theorem test_wf_classWindow : Instr.wf (.classEntryWrite .mgmt 0x3FC 0) = false ∧ Instr.wf (.classEntryWrite .mgmt 0x402 0) = false
    ∧ Instr.wf (.classEntryWrite .mgmt 0x400 0) = true := by decide
theorem test_wf_moverGrant : Instr.wf (.moverGrant 0 0 0 0) = false ∧ Instr.wf (.moverGrant 0 0 1 0) = true := by decide
theorem test_wf_transferHalt : Instr.wf (.transferHalt 0 0x05 0) = false ∧ Instr.wf (.transferHalt 0 0x10 0) = true := by decide
theorem test_wf_pictureFits : Instr.wf (.decodeDone ⟨false, true, 8, 4, .c420, false, [], [], 0⟩) = false
    ∧ Instr.wf (.decodeDone ⟨false, true, 64, 64, .grey, false, List.replicate 64 (List.replicate 64 0), [], 0⟩) = true := by
  decide +kernel
theorem test_wf_headerOutcome : Instr.wf (.csiPacket 0 ⟨0, 0x2A, true, true, false, []⟩) = false
    ∧ Instr.wf (.csiPacket 0 ⟨0, 0x2A, true, false, false, []⟩) = true := by decide
theorem test_wf_requestFits : Instr.wf (.bar2Access (.host 0) 0 none 4097 .good) = false
    ∧ Instr.wf (.bar2Access (.host 0) 0 (some [1]) 2 .good) = false ∧ Instr.wf (.bar2Access (.host 0) 0 (some [1]) 1 .good) = true := by decide
theorem test_wf_linkTrains : Instr.wf (.pcieLinkUp 6 8) = false ∧ Instr.wf (.pcieLinkUp 5 3) = false ∧ Instr.wf (.pcieLinkUp 5 8) = true := by
  decide
theorem test_wf_dramTrained : Instr.wf (.dramTrained 0 0) = false ∧ Instr.wf (.dramTrained 64 0) = true := by decide
theorem test_wf_pollFits : Instr.wf (.railPoll []) = false ∧ Instr.wf (.railPoll [none, none, none, none, none]) = false
    ∧ Instr.wf (.railPoll [none]) = true := by decide
theorem test_wf_statusRecordSend : Instr.wf (.statusRecordSend (some 0)) = false ∧ Instr.wf (.statusRecordSend none) = true := by decide
theorem test_wf_messageRx : Instr.wf (.messageRx 0 0 256 true (Vector.replicate 16 0)) = false
    ∧ Instr.wf (.messageRx 0 0 255 true (Vector.replicate 16 0)) = true := by decide

/-! ## Words written out from R83, R85, R86 and R92, one or more for each slot and format -/

def more : At := { p := .core 0, fin := false }
def last : At := { p := .core 0, fin := true }

theorem test_word_r3 : decodeTableWord 32 0b0_000_000011_00101_00110_00111_0000000 = some (.sub more 5 6 7) := by decide
theorem test_word_r3_sub : decodeTableWord 32 0b1_000_001000_00101_00110_00000_0010011 = some (.shr last 5 6 0 19) := by decide
theorem test_word_br : decodeTableWord 32 0b0_000_010001_11111_10000000000000001 = some (.bz more 31 0x10001) := by decide
theorem test_word_trap : decodeTableWord 32 0b1_000_011111_00000_00000000000101010 = some (.trap last 42 none) := by decide
theorem test_word_i17 : decodeTableWord 32 0b0_001_000011_00010_11111111111111111 = some (.pli more 2 0x1FFFF none) := by decide
theorem test_word_ext : decodeTableWord 64 (2 ^ 32 * 0b1_111_0000000000000000000000000101 + 0b0_001_000011_00010_00000000000000001)
    = some (.pli last 2 1 (some 5)) := by decide
theorem test_word_mem : decodeTableWord 32 0b0_001_001100_00110_0010_010_0101000000
    = some (.sth more { r := 6, p := 2, mode := 2, low := 0x140 }) := by decide
theorem test_word_float : decodeTableWord 32 0b0_001_010111_00001_00010_00011_0000001 = some (.fcmp more 1 2 3 1) := by decide
theorem test_word_l1 : decodeTableWord 32 0b1_011_000010_10001_1111_110_1111000000
    = some (.vst last true { r := 17, p := 15, mode := 6, low := 0x3C0 }) := by decide
theorem test_word_gs : decodeTableWord 32 0b0_010_001001_00111_0011_01001_10_01_1_101
    = some (.scatter more false { d := 7, p := 3, idx := 9, esize := 2, scale := 1, masked := true, m := 5 }) := by decide
theorem test_word_v0 : decodeTableWord 32 0b0_100_010110_00011_00001_00010_0_000_010
    = some (.vmac more false { d := 3, a := 1, b := 2, masked := false, m := 0, type := 2 }) := by decide
theorem test_word_v1 : decodeTableWord 32 0b1_101_101010_00011_00001_00010_1_110_111
    = some (.vquant last true { d := 3, a := 1, b := 2, masked := true, m := 6, type := 7 }) := by decide
theorem test_word_x : decodeTableWord 32 0b1_110_000010_00000_00_0000000000_00011 = some (.nawait last 3) := by decide
theorem test_word_kick : decodeTableWord 32 0b1_110_001000_00100_00_0000000000_00000 = some (.dmakick last 4) := by decide
theorem test_word_unlisted : decodeTableWord 32 0b1_000_010111_0000000000000000000000 = none
    ∧ decodeTableWord 32 0b1_111_0000000000000000000000000000 = none := by decide

/-! ## The other statements' hypotheses -/

theorem registersAreWords_met : ∀ d, d ∈ [0, 1] → ∃ (s : State) (r : Requester) (off : BitVec 18) (size : Nat), reqLive s r = true
    ∧ isParked s r = false ∧ off.toNat < 0x20000 ∧ (size ≠ 4 ∨ off.toNat % 4 ≠ 0) ∧ lfiQuiet s lfiNoc r.code.toNat d = true :=
  fun d h => ⟨up, .mgmt, 0x1FFFF, 1, by revert d; decide +kernel⟩
theorem memAddresses_met : ∃ (p : ProcState) (f : MemForm), f.mode = 4 ∧ p.cb0Len ≠ 0 ∧ p.cb0Base.toNat + p.cb0Len.toNat ≤ 2 ^ 40
    ∧ p.cb1Len ≠ 0 := by
  refine ⟨{ ({} : ProcState) with cb0Base := BitVec.ofNat 40 (2 ^ 40 - 16), cb0Len := 16, cb1Len := 1 }, { r := 0, p := 0, mode := 4, low := 0 }, ?_⟩
  decide
theorem memAddresses_met_modes : ∀ m, m < 8 → ∃ f : MemForm, f.mode.toNat = m := by
  intro m h
  exact ⟨{ r := 0, p := 0, mode := BitVec.ofNat 3 m, low := 0 }, Nat.mod_eq_of_lt h⟩
theorem representableNumbers_met : ∃ (f : Fmt) (z : Nat) (neg : Bool) (q r : Q), f ∈ [fp16, bf16, fp32, fp64] ∧ z < 2 ^ f.width
    ∧ f.decode false z = .fin neg q ∧ r.den ≠ 0 ∧ r.num * q.den = q.num * r.den :=
  ⟨fp16, 0xBC00, true, ⟨-1024, 1024⟩, ⟨-1, 1⟩, by decide +kernel⟩
theorem scaleRecords_met : ∀ ty : BitVec 3, ∃ (s : State) (a : At) (v1 : Bool) (f : VForm), Issues s a (vSlot v1) false ∧ f.type = ty := by
  intro ty
  refine ⟨cor id (modPacer (fun p => { p with jobs := [job0] }) (enAll up)), more, true,
    { d := 0, a := 0, b := 0, masked := false, m := 0, type := ty }, ⟨by decide +kernel, by decide +kernel, by decide +kernel⟩, rfl⟩
theorem scaleRecords_met_lanes : ∃ z : Nat, z < 2 ^ 32 ∧ (fp32.decode false z).isNan = false ∧ z ∉ [0, 0x80000000] :=
  ⟨0x7F800000, by decide +kernel⟩
theorem syllableWords_met : ∃ (i : Instr) (p : Proc) (w : Word) (x : Option Word), encode i = some (p, w, x)
    ∧ decodeSyllable p w x = some i := ⟨.trap last 42 none, .core 0, 0x87C0002A, none, by decide⟩
theorem memoryStaysCanonical_met : ∃ s t : State, s.mem.wf = true ∧ step s = .next t := ⟨State.reset, State.reset, by decide +kernel, rfl⟩
theorem fusesOneWay_met : ∃ (base : Fuses) (s t : State), FuseBound base s ∧ step s = .next t := by
  refine ⟨State.reset.fuses, State.reset, State.reset, ?_, rfl⟩
  repeat' first | decide +kernel | exact ⟨0, by decide, by decide +kernel⟩ | (intro old h; cases h) | constructor

end Sys2Proof.Tests
end

section
/-! SUPPORT. Accesses of the register pages: what an error record may change, accesses of another size or alignment (R29), and the
copies of CH_SEL with their windows (R26, R27). -/

namespace Sys2Proof.Machine

/-! ### What an error record changes (R34, R353) -/

/-- A message changes nothing of the PCIe block but the pending bits of its function. -/
theorem msixRaise_pcie (f v : Nat) (s : State) :
    (msixRaise f v s).pcie = { s.pcie with msixPending := (msixRaise f v s).pcie.msixPending } := by
  unfold msixRaise
  split
  · rfl
  · split <;> rfl

theorem modHdr_pcie (page : Nat) (f : Hdr → Hdr) (s : State) :
    (modHdr page f s).pcie = { s.pcie with msixPending := (modHdr page f s).pcie.msixPending } := by
  unfold modHdr
  dsimp only
  split
  · exact msixRaise_pcie _ _ _
  · rfl

theorem recordErr_pcie (page : Nat) (req code : Byte) (a : Addr) (s : State) :
    (recordErr page req code a s).pcie = { s.pcie with msixPending := (recordErr page req code a s).pcie.msixPending } := by
  unfold recordErr
  dsimp only
  split
  · rw [msixRaise_pcie, modHdr_pcie]
  · exact modHdr_pcie _ _ _

theorem recordErr_bus_hdrs (page : Nat) (req code : Byte) (a : Addr) (s : State) :
    (recordErr page req code a s).bus = { s.bus with hdrs := (recordErr page req code a s).bus.hdrs } := by
  rw [recordErr_bus, modHdr_bus]
  rfl

theorem recordErr_recordsOnly (page : Nat) (req code : Byte) (a : Addr) (s : State) :
    RecordsOnly s (recordErr page req code a s) page where
  bus := by rw [recordErr_bus_hdrs]
  headers _ hq := getHdr_recordErr_other req code a s hq
  pcie := recordErr_pcie page req code a s
  rest := recordErr_unchanged page req code a s

/-- The answer of a read is no part of what an error record may change. -/
theorem RecordsOnly.setAnswer {s t : State} {page : Nat} (h : RecordsOnly s t page) (r : Requester) (w : Word) :
    RecordsOnly s (setAnswer r w t) page where
  bus := congrArg (fun b : Bus => { b with answer := storeSet (fun _ => 0) t.bus.answer r.code.toNat w }) h.bus
  headers := h.headers
  pcie := h.pcie
  rest := h.rest.trans fun p hp => by cases p <;> simp_all [Part.same]

/-- No channel halts in an update that leaves the transfer engine alone. -/
theorem haltChecks_of_dma {s t : State} (h : t.dma = s.dma) : haltChecks s t = t :=
  haltChecks_same fun c => by simp only [getChan, h]

theorem haltChecks_recordErr (page : Nat) (req code : Byte) (a : Addr) (s : State) :
    haltChecks s (recordErr page req code a s) = recordErr page req code a s :=
  haltChecks_of_dma (recordErr_unchanged page req code a s .dma (by decide))

/-! ### The commands of a register access -/

theorem exec_registerWrite (r : Requester) (off : BitVec 18) (size : Nat) (v : Word) (s : State) :
    exec (.registerWrite r off size v) s = .next (haltChecks s (regWrite r off.toNat size v s)) := rfl

theorem exec_registerRead (r : Requester) (off : BitVec 18) (size : Nat) (s : State) :
    exec (.registerRead r off size) s = .next (regRead r off.toNat size s) := rfl

/-- The place of a page's register in the register region. -/
theorem toNat_pageOffset (page : Fin 32) (off : BitVec 12) :
    (BitVec.ofNat 18 (page.val * 0x1000 + off.toNat)).toNat = page.val * 0x1000 + off.toNat := by
  rw [BitVec.toNat_ofNat]
  omega

/-! ### Accesses of another size or alignment (R29) -/

theorem regWrite_unaligned {s : State} {r : Requester} {off size : Nat} (v : Word) (hl : reqLive s r = true)
    (hp : isParked s r = false) (hq : lfiQuiet s lfiNoc r.code.toNat 0 = true) (ho : off < 0x20000) (ha : size ≠ 4 ∨ off % 4 ≠ 0) :
    regWrite r off size v s = regErr (off / 0x1000) (off % 0x1000) r eAlignment s := by
  simp [regWrite, regPass, regEffect, hl, hp, hq, Nat.not_le.2 ho, if_pos ha]

theorem regRead_unaligned {s : State} {r : Requester} {off size : Nat} (hl : reqLive s r = true) (hp : isParked s r = false)
    (hq : lfiQuiet s lfiNoc r.code.toNat 1 = true) (ho : off < 0x20000) (ha : size ≠ 4 ∨ off % 4 ≠ 0) :
    regRead r off size s = setAnswer r 0 (regErr (off / 0x1000) (off % 0x1000) r eAlignment s) := by
  simp [regRead, readPass, regAnswer, hl, hp, hq, Nat.not_le.2 ho, if_pos ha]

/-- Settles O3: an access that is no aligned word ends in one error record, which a read follows with the answer 0. -/
theorem registersAreWords : Obligations.registersAreWords := by
  intro s r off size v hl hp ho ha
  have hrec := recordErr_recordsOnly (off.toNat / 0x1000) r.code eAlignment (regAddr (off.toNat / 0x1000) (off.toNat % 0x1000)) s
  rw [exec_registerRead, exec_registerWrite]
  refine ⟨fun hq => ?_, fun hq => ?_⟩
  · rw [regRead_unaligned hl hp hq ho ha]
    exact ⟨_, rfl, getAnswer_setAnswer _ r 0, getHdr_recordErr .., hrec.setAnswer r 0⟩
  · rw [regWrite_unaligned v hl hp hq ho ha, regErr, haltChecks_recordErr]
    refine ⟨_, rfl, ?_, getHdr_recordErr .., hrec⟩
    rw [recordErr_bus_hdrs]

/-! ### The copies of CH_SEL (R26, R27) -/

/-- CH_SEL.INDEX is the low byte. -/
theorem fld_low_byte (v : Word) : fld v 7 0 = v.toNat % 256 := by
  simp [fld]

/-- The bits that CH_SEL keeps hold its index. -/
theorem fld_selBits (v : Word) : fld (v &&& 0x800000FF) 7 0 = v.toNat % 256 := by
  have h : (v &&& 0x800000FF).extractLsb' 0 8 = v.extractLsb' 0 8 := by
    rw [BitVec.extractLsb'_and]
    exact BitVec.and_allOnes
  rw [← fld_low_byte, fld, h, fld]

theorem fuses_recordErr (page : Nat) (req code : Byte) (a : Addr) (s : State) : (recordErr page req code a s).fuses = s.fuses :=
  recordErr_unchanged page req code a s .fuses (by decide)

theorem chSel_recordErr (p : Nat) (req code : Byte) (a : Addr) (s : State) (r : Requester) (page : Nat) :
    chSel (recordErr p req code a s) r page = chSel s r page := by
  unfold chSel
  rw [recordErr_bus_hdrs]

/-- A copy of CH_SEL takes a word, without any check of its index. -/
def selStore (page c : Nat) (v : Word) (s : State) : State :=
  modBus (fun b => { b with chSel := storeSet (fun _ => 0) b.chSel (page * 64 + c) (v &&& 0x800000FF) }) s

theorem chSel_selStore {r : Requester} {c : Nat} (page : Nat) (v : Word) (s : State) (h : selCopy r = some c) :
    chSel (selStore page c v s) r page = v &&& 0x800000FF := by
  simp [chSel, selStore, h]

/-- A write of CH_SEL by a requester with a copy stores the word, and records an index beyond COUNT. -/
theorem chSelWrite_copy {r : Requester} {c : Nat} (page : Nat) (v : Word) (s : State) (h : selCopy r = some c) :
    chSelWrite r page v s = if v.toNat % 256 < pageCount s.fuses.variant page then selStore page c v s
      else regErr page 0x01C r eBadSelect (selStore page c v s) := by
  simp only [chSelWrite, h, fld_low_byte, modBus_frame, selStore]

theorem fuses_chSelWrite {r : Requester} {c : Nat} (page : Nat) (v : Word) (s : State) (h : selCopy r = some c) :
    (chSelWrite r page v s).fuses = s.fuses := by
  rw [chSelWrite_copy page v s h]
  split
  · rfl
  · exact fuses_recordErr ..

theorem chSel_chSelWrite {r : Requester} {c : Nat} (page : Nat) (v : Word) (s : State) (h : selCopy r = some c) :
    chSel (chSelWrite r page v s) r page = v &&& 0x800000FF := by
  rw [chSelWrite_copy page v s h, ← chSel_selStore page v s h]
  split
  · rfl
  · exact chSel_recordErr ..

theorem getHdr_chSelWrite {r : Requester} {c : Nat} (page : Nat) (v : Word) (s : State) (h : selCopy r = some c) :
    getHdr (chSelWrite r page v s) page = if v.toNat % 256 < pageCount s.fuses.variant page then getHdr s page
      else (getHdr s page).capture r.code eBadSelect (regAddr page 0x01C) := by
  rw [chSelWrite_copy page v s h]
  split
  · rfl
  · exact getHdr_recordErr ..

/-- The copy written names the channel of the written index, if that is below COUNT. -/
theorem selChan_chSelWrite {r : Requester} {c : Nat} (page : Nat) (v : Word) (s : State) (h : selCopy r = some c) :
    selChan (chSelWrite r page v s) r page
      = if v.toNat % 256 < pageCount s.fuses.variant page then some (v.toNat % 256) else none := by
  simp only [selChan, chSel_chSelWrite page v s h, fld_selBits, fuses_chSelWrite page v s h, h, Option.isSome_some, Bool.true_and,
    decide_eq_true_eq]

theorem exec_chSelWrite_taken {s : State} {r : Requester} {page : Fin 32} (v : Word) (h : Taken s r page 0x01C) :
    exec (.chSelWrite r page v) s = .next (chSelWrite r page v s) := by
  have hw : pageWrite r page 0x01C v s = chSelWrite r page v s := by simp [pageWrite, hdrWrite]
  exact congrArg Host.Outcome.next ((regWrite_taken v h page.isLt (by decide) (by decide)).trans hw)

/-! ### Windows of a copy that names no channel (R27) -/

theorem pageWrite_deadWindow {s : State} {r : Requester} {page off : Nat} (v : Word) (ho : 0x400 ≤ off) (hw : windowed page = true)
    (hc : selChan s r page = none) : pageWrite r page off v s = s := by
  have h1 : ¬ off < 0x040 := by omega
  have h2 : ¬ off < 0x400 := by omega
  simp [pageWrite, h1, h2, hw, hc]

/-- A read that its page answers in full reaches the page's bus. -/
theorem regRead_readable {s : State} {r : Requester} {page off : Nat} (h : Readable s r page off) (hp : page < 32) (ho : off < 0x1000)
    (ha : off % 4 = 0) : regRead r (page * 0x1000 + off) 4 s = busRead r page off s := by
  have h1 : (page * 0x1000 + off) / 0x1000 = page := by omega
  have h2 : (page * 0x1000 + off) % 0x1000 = off := by omega
  have h3 : ¬ (0x20000 ≤ page * 0x1000 + off) := by omega
  have h4 : (page * 0x1000 + off) % 4 = 0 := by omega
  simp [regRead, readPass, regAnswer, h.live, h.free, h.quiet, h1, h2, h3, h4]

theorem pagePresent_of_pageUp {s : State} {page : Nat} (h : pageUp s page = true) : pagePresent s page = true := by
  simp only [pageUp, Bool.and_eq_true] at h
  exact h.1.1

theorem busRead_deadWindow {s : State} {r : Requester} {page off : Nat} (h : Readable s r page off) (ho : 0x400 ≤ off)
    (hw : windowed page = true) (hc : selChan s r page = none) : busRead r page off s = setAnswer r 0 s := by
  have h1 : ¬ off < 0x040 := by omega
  have h2 : ¬ off < 0x400 := by omega
  simp [busRead, h.free, h.reach, pagePresent_of_pageUp h.up, h.up, h1, h2, hw, hc]

/-- Settles O2: the requester's copy takes every index, and one beyond COUNT is recorded and leaves the window without a channel. -/
theorem selectBeyondCount : Obligations.selectBeyondCount := by
  refine ⟨fun s r page v c ht hc => ?_, fun s r page off v ho ha hw hn => ⟨fun ht => ?_, fun hr => ?_⟩⟩
  · have hsel := selChan_chSelWrite page v s hc
    refine ⟨_, exec_chSelWrite_taken v ht, chSel_chSelWrite page v s hc, getHdr_chSelWrite page v s hc, fun hv => ?_, fun hv => ?_⟩
    · rw [hsel, if_pos hv]
    · rw [hsel, if_neg (Nat.not_lt.2 hv)]
  · have hwrite := (regWrite_taken v ht page.isLt off.isLt ha).trans (pageWrite_deadWindow v ho hw hn)
    rw [exec_registerWrite, toNat_pageOffset, hwrite, haltChecks_of_dma rfl]
  · have hread := (regRead_readable hr page.isLt off.isLt ha).trans (busRead_deadWindow hr ho hw hn)
    refine ⟨setAnswer r 0 s, ?_, getAnswer_setAnswer s r 0, fun _ => rfl, fun _ _ _ => rfl, fun p hp => ?_⟩
    · rw [exec_registerRead, toNat_pageOffset, hread]
    · cases p <;> simp_all [Part.same]

end Sys2Proof.Machine
end

section
/-! SUPPORT. The end of a pacer command (R76, R79), block events, and the rail as the pacer writes it, up to the rail that does not
settle (R57). -/

namespace Sys2Proof.Machine

/-! ### Results and the end of a command (R76, R79) -/

theorem getResult_of_results {s t : State} (h : t.pacer.results = s.pacer.results) (req : Byte) : getResult t req = getResult s req := by
  simp only [getResult, h]

theorem getResult_modResult {req : Byte} (f : AdmitResult → AdmitResult) (s : State) (h : resultCopy req ≠ none) :
    getResult (modResult req f s) req = f (getResult s req) := by
  obtain ⟨k, hk⟩ := Option.ne_none_iff_exists'.1 h
  simp [getResult, modResult, hk]

theorem modResult_pacer (req : Byte) (f : AdmitResult → AdmitResult) (s : State) :
    (modResult req f s).pacer = { s.pacer with results := (modResult req f s).pacer.results } := by
  unfold modResult
  split <;> rfl

theorem modResult_unchanged (req : Byte) (f : AdmitResult → AdmitResult) (s : State) : unchangedBut [.pacer] s (modResult req f s) := by
  unfold modResult
  split
  · intro p hp
    cases p <;> simp_all [Part.same]
  · exact unchangedBut.refl _ s

/-- The end of the running command is one update of its requester's result, with no command running. -/
theorem cmdFinish_running {s : State} {c : PacerCmd} (res : Byte) (which : Nat) (h : s.pacer.running = some c) :
    cmdFinish res which s = setResult c.req res which true (modPacer (fun p => { p with running := none, plan := none }) s) := by
  simp only [cmdFinish, h]

theorem cmdFinish_pacer {s : State} {c : PacerCmd} (res : Byte) (which : Nat) (h : s.pacer.running = some c) :
    (cmdFinish res which s).pacer
      = { s.pacer with running := none, plan := none, results := (cmdFinish res which s).pacer.results } := by
  rw [cmdFinish_running res which h, setResult, modResult_pacer]
  rfl

theorem cmdFinish_unchanged (res : Byte) (which : Nat) (s : State) : unchangedBut [.pacer] s (cmdFinish res which s) := by
  unfold cmdFinish
  split
  · exact unchangedBut.trans (fun p hp => by cases p <;> simp_all [Part.same]) (modResult_unchanged _ _ _)
  · exact unchangedBut.refl _ s

/-- The requester of the running command reads its result, DONE unless another of its commands waits. -/
theorem answered_cmdFinish {s : State} {c : PacerCmd} (res : Byte) (which : Nat) (h : s.pacer.running = some c) :
    answered s (cmdFinish res which s) c.req res (BitVec.ofNat 6 which) := by
  intro hc
  rw [cmdFinish_running res which h, setResult, getResult_modResult _ _ hc]
  rfl

theorem answered.of_results {s t u : State} {req res : Byte} {which : BitVec 6} (h : answered s t req res which)
    (hu : u.pacer.results = t.pacer.results) : answered s u req res which :=
  fun hc => (getResult_of_results hu req).trans (h hc)

/-! ### Block events (R18) -/

theorem raise_unchanged (page b : Nat) (s : State) : unchangedBut [.bus, .pcie, .sent] s (raise page b s) := by
  unfold raise raiseBits
  exact modHdr_unchanged page _ s

theorem raise_pacer (page b : Nat) (s : State) : (raise page b s).pacer = s.pacer := raise_unchanged page b s .pacer (by decide)

theorem getHdr_raise (page b : Nat) (s : State) :
    getHdr (raise page b s) page = { getHdr s page with irqStat := (getHdr s page).irqStat ||| oneBit 32 b } :=
  getHdr_modHdr _ _ _

/-! ### The rail as the pacer writes it (R57, R388, R390) -/

theorem railWrite_unchanged (mv : Nat) (use : RailUse) (s : State) : unchangedBut [.pacer, .power, .sent] s (railWrite mv use s) := by
  intro p hp
  cases p <;> simp_all [Part.same, railWrite]

theorem railWrite_pacer (mv : Nat) (use : RailUse) (s : State) :
    (railWrite mv use s).pacer = { s.pacer with railUse := use, settled := false, railFrom := now s } := rfl

theorem railWrite_target (mv : Nat) (use : RailUse) (s : State) : (railWrite mv use s).power.railTarget = BitVec.ofNat 10 mv := rfl

/-- The rail goes back to the floor, or before the first acceptance to the fused boot voltage. -/
theorem railUndo_target (s : State) : (railUndo s).power.railTarget
    = if s.pacer.accepted then BitVec.ofNat 10 s.pacer.floor else BitVec.ofNat 10 s.fuses.bootMv.toNat := by
  rw [railUndo, railWrite_target, railRest, apply_ite (BitVec.ofNat 10)]

/-! ### A rail that does not settle (R57) -/

theorem exec_railTimeout (s : State) : exec .railTimeout s = .next (railTimeout s) := rfl

/-- Past the limit the waiting admission ends, the event is raised and the rail is written back. -/
theorem railTimeout_of_admitPlan {s : State} (hw : s.pacer.settled = false) (hd : s.pacer.railFrom + 200000 ≤ now s)
    (hu : s.pacer.railUse = .admitPlan) : railTimeout s = railUndo (raise pgPacer 6 (cmdFinish rRailTimeout 0 s)) := by
  have hlate : ¬ now s < s.pacer.railFrom + 200 * Config.us := Nat.not_lt.2 hd
  simp [railTimeout, hw, hlate, hu]

theorem raise_cmdFinish_unchanged (page b : Nat) (res : Byte) (which : Nat) (s : State) :
    unchangedBut [.pacer, .bus, .pcie, .sent] s (raise page b (cmdFinish res which s)) :=
  ((cmdFinish_unchanged res which s).mono (by decide)).trans ((raise_unchanged page b _).mono (by decide))

/-- What a failed admission leaves of the pacer: the command is gone, and from now on the pacer waits for the rail to return. -/
theorem railUndo_raise_cmdFinish_pacer {s : State} {c : PacerCmd} (page b : Nat) (res : Byte) (which : Nat) (h : s.pacer.running = some c) :
    (railUndo (raise page b (cmdFinish res which s))).pacer
      = { s.pacer with
          running := none, plan := none, results := (cmdFinish res which s).pacer.results
          railUse := .undo, settled := false, railFrom := now s } := by
  have htime := raise_cmdFinish_unchanged page b res which s .time (by decide)
  rw [railUndo, railWrite_pacer, raise_pacer, cmdFinish_pacer res which h, now, htime, ← now]

/-- The end of the command and the return of the rail leave the page headers alone: only the event shows there. -/
theorem getHdr_railUndo_raise_cmdFinish (page b : Nat) (res : Byte) (which : Nat) (s : State) :
    getHdr (railUndo (raise page b (cmdFinish res which s))) page
      = { getHdr s page with irqStat := (getHdr s page).irqStat ||| oneBit 32 b } := by
  rw [railUndo, getHdr_bus (railWrite_unchanged _ _ _ .bus (by decide)), getHdr_raise,
    getHdr_bus (cmdFinish_unchanged res which s .bus (by decide))]

/-- Settles O15: past the limit the waiting command ends with RAIL_TIMEOUT, the event is raised and the rail is written back; of these
three only the first touches the result and only the last the rail. -/
theorem railTimeout_holds : Obligations.railTimeout := by
  intro s hw hd hu c hr
  have hexec := (exec_railTimeout s).trans (congrArg _ (railTimeout_of_admitPlan hw hd hu))
  have hpacer := railUndo_raise_cmdFinish_pacer pgPacer 6 rRailTimeout 0 hr
  have hkept := raise_cmdFinish_unchanged pgPacer 6 rRailTimeout 0 s
  refine ⟨_, hexec, (answered_cmdFinish rRailTimeout 0 hr).of_results ?_, ?_, ?_, ?target, ?_, ?_, ?_, ?irq, ?frame⟩
  case target => rw [railUndo_target, hkept .fuses (by decide), raise_pacer, cmdFinish_pacer rRailTimeout 0 hr]
  case irq => exact congrArg Hdr.irqStat (getHdr_railUndo_raise_cmdFinish pgPacer 6 rRailTimeout 0 s)
  case frame => exact (hkept.mono (by decide)).trans ((railWrite_unchanged _ .undo _).mono (by decide))
  all_goals rw [hpacer]

end Sys2Proof.Machine
end
